-- ==== Sys2Proof/Word.lean ====
section
/-! DEFINITION. The machine's word and byte, and their plainest arithmetic. -/

namespace Sys2Proof

/-- A scalar register's value, 64 bits (R320). -/
abbrev Word := BitVec 64

/-- One byte. -/
abbrev Byte := BitVec 8

end Sys2Proof
end

