-- ==== Sys2Proof/Syntax.lean ====
section
/-!
DEFINITION. The instruction syntax of the GL5-M768: one constructor of `Instr` per row of spec/opcode_table.json, the
words of the compute cores by their formats (spec 12, R276-R289), and the commands and events that have no word.
-/

namespace Sys2Proof

/-- The fields of a V-format word (R278); FN4 and the major are the constructor. -/
structure VOp where
  c : BitVec 1
  hint : BitVec 2
  vs2 : BitVec 5
  vs1 : BitVec 5
  msel : BitVec 3
  vd : BitVec 5
  deriving DecidableEq, Repr

/-- The fields of an L- or G-layout word (R281); `ls` is the live-set index, or AUX in a word that does not leave. -/
structure LOp where
  c : BitVec 1
  hint : BitVec 2
  ls : BitVec 4
  rs2 : BitVec 5
  rs1 : BitVec 5
  rd : BitVec 5
  deriving DecidableEq, Repr

/-- The fields of an A-layout word (R282); AOP is the constructor. -/
structure AOp where
  ord : BitVec 2
  rs2 : BitVec 5
  rs1 : BitVec 5
  scope : BitVec 3
  rd : BitVec 5
  deriving DecidableEq, Repr


/-- The table's steps: the 228 words of the compute cores and the 134 commands and events. -/
inductive Instr where
  /-- ADD (R322). -/
  | add (rd rs1 rs2 : BitVec 5)
  /-- SUB (R322). -/
  | sub (rd rs1 rs2 : BitVec 5)
  /-- SLL (R322). -/
  | sll (rd rs1 rs2 : BitVec 5)
  /-- SLT (R322). -/
  | slt (rd rs1 rs2 : BitVec 5)
  /-- SLTU (R322). -/
  | sltu (rd rs1 rs2 : BitVec 5)
  /-- XOR (R322). -/
  | xor (rd rs1 rs2 : BitVec 5)
  /-- SRL (R322). -/
  | srl (rd rs1 rs2 : BitVec 5)
  /-- SRA (R322). -/
  | sra (rd rs1 rs2 : BitVec 5)
  /-- OR (R322). -/
  | or (rd rs1 rs2 : BitVec 5)
  /-- AND (R322). -/
  | and (rd rs1 rs2 : BitVec 5)
  /-- MUL (R322). -/
  | mul (rd rs1 rs2 : BitVec 5)
  /-- MULH (R322). -/
  | mulh (rd rs1 rs2 : BitVec 5)
  /-- MULHU (R322). -/
  | mulhu (rd rs1 rs2 : BitVec 5)
  /-- DIV (R323). -/
  | div (rd rs1 rs2 : BitVec 5)
  /-- DIVU (R323). -/
  | divu (rd rs1 rs2 : BitVec 5)
  /-- REM (R323). -/
  | rem (rd rs1 rs2 : BitVec 5)
  /-- REMU (R323). -/
  | remu (rd rs1 rs2 : BitVec 5)
  /-- LEA (R322). -/
  | lea (rd rs1 rs2 : BitVec 5) (n : BitVec 2)
  /-- MIN (R322). -/
  | min (rd rs1 rs2 : BitVec 5)
  /-- MAX (R322). -/
  | max (rd rs1 rs2 : BitVec 5)
  /-- MINU (R322). -/
  | minu (rd rs1 rs2 : BitVec 5)
  /-- MAXU (R322). -/
  | maxu (rd rs1 rs2 : BitVec 5)
  /-- CLZ (R322). -/
  | clz (rd rs1 : BitVec 5)
  /-- CTZ (R322). -/
  | ctz (rd rs1 : BitVec 5)
  /-- POPC (R322). -/
  | popc (rd rs1 : BitVec 5)
  /-- ADDI (R324). -/
  | addi (rd rs1 : BitVec 5) (imm : BitVec 12)
  /-- SLTI (R324). -/
  | slti (rd rs1 : BitVec 5) (imm : BitVec 12)
  /-- SLTIU (R324). -/
  | sltiu (rd rs1 : BitVec 5) (imm : BitVec 12)
  /-- XORI (R324). -/
  | xori (rd rs1 : BitVec 5) (imm : BitVec 12)
  /-- ORI (R324). -/
  | ori (rd rs1 : BitVec 5) (imm : BitVec 12)
  /-- ANDI (R324). -/
  | andi (rd rs1 : BitVec 5) (imm : BitVec 12)
  /-- SLLI (R324). -/
  | slli (rd rs1 : BitVec 5) (sh : BitVec 6)
  /-- SRLI (R324). -/
  | srli (rd rs1 : BitVec 5) (sh : BitVec 6)
  /-- SRAI (R324). -/
  | srai (rd rs1 : BitVec 5) (sh : BitVec 6)
  /-- LUI (R325). -/
  | lui (rd : BitVec 5) (imm : BitVec 20)
  /-- ADDPC (R325). -/
  | addpc (rd : BitVec 5) (imm : BitVec 20)
  /-- BEQ (R326). -/
  | beq (rs1 rs2 : BitVec 5) (imm : BitVec 12)
  /-- BNE (R326). -/
  | bne (rs1 rs2 : BitVec 5) (imm : BitVec 12)
  /-- BLT (R326). -/
  | blt (rs1 rs2 : BitVec 5) (imm : BitVec 12)
  /-- BGE (R326). -/
  | bge (rs1 rs2 : BitVec 5) (imm : BitVec 12)
  /-- BLTU (R326). -/
  | bltu (rs1 rs2 : BitVec 5) (imm : BitVec 12)
  /-- BGEU (R326). -/
  | bgeu (rs1 rs2 : BitVec 5) (imm : BitVec 12)
  /-- JAL (R327). -/
  | jal (rd : BitVec 5) (imm : BitVec 20)
  /-- JALR (R327). -/
  | jalr (rd rs1 : BitVec 5) (imm : BitVec 12)
  /-- LD_B (R330). -/
  | ldB (rd rs1 : BitVec 5) (imm : BitVec 12)
  /-- LD_H (R330). -/
  | ldH (rd rs1 : BitVec 5) (imm : BitVec 12)
  /-- LD_W (R330). -/
  | ldW (rd rs1 : BitVec 5) (imm : BitVec 12)
  /-- LD_D (R330). -/
  | ldD (rd rs1 : BitVec 5) (imm : BitVec 12)
  /-- LD_BU (R330). -/
  | ldBu (rd rs1 : BitVec 5) (imm : BitVec 12)
  /-- LD_HU (R330). -/
  | ldHu (rd rs1 : BitVec 5) (imm : BitVec 12)
  /-- LD_WU (R330). -/
  | ldWu (rd rs1 : BitVec 5) (imm : BitVec 12)
  /-- ST_B (R330). -/
  | stB (rs2 rs1 : BitVec 5) (imm : BitVec 12)
  /-- ST_H (R330). -/
  | stH (rs2 rs1 : BitVec 5) (imm : BitVec 12)
  /-- ST_W (R330). -/
  | stW (rs2 rs1 : BitVec 5) (imm : BitVec 12)
  /-- ST_D (R330). -/
  | stD (rs2 rs1 : BitVec 5) (imm : BitVec 12)
  /-- LDG_L_B (R372). -/
  | ldgLB (o : LOp)
  /-- LDG_L_H (R372). -/
  | ldgLH (o : LOp)
  /-- LDG_L_W (R372). -/
  | ldgLW (o : LOp)
  /-- LDG_L_D (R372). -/
  | ldgLD (o : LOp)
  /-- LDG_L_BU (R372). -/
  | ldgLBu (o : LOp)
  /-- LDG_L_HU (R372). -/
  | ldgLHu (o : LOp)
  /-- LDG_L_WU (R372). -/
  | ldgLWu (o : LOp)
  /-- STG_B (R378). -/
  | stgB (rs2 rs1 : BitVec 5) (imm : BitVec 12)
  /-- STG_H (R378). -/
  | stgH (rs2 rs1 : BitVec 5) (imm : BitVec 12)
  /-- STG_W (R378). -/
  | stgW (rs2 rs1 : BitVec 5) (imm : BitVec 12)
  /-- STG_D (R378). -/
  | stgD (rs2 rs1 : BitVec 5) (imm : BitVec 12)
  /-- FENCE (R383). -/
  | fence (kind : BitVec 2) (scope : BitVec 3)
  /-- LD_ACQ (R382). -/
  | ldAcq (rd rs1 : BitVec 5) (wid : BitVec 2) (loc : Bool) (scope : BitVec 3)
  /-- ST_REL (R382). -/
  | stRel (rs2 rs1 : BitVec 5) (wid : BitVec 2) (loc : Bool) (scope : BitVec 3)
  /-- BIND (R193). -/
  | bind (rd rs1 rs2 : BitVec 5)
  /-- UNBIND (R193). -/
  | unbind (rd rs1 rs2 : BitVec 5)
  /-- FRES (R386). -/
  | fres (rs1 rs2 : BitVec 5)
  /-- BARINIT (R388). -/
  | barinit (rs1 rs2 : BitVec 5)
  /-- BAREXP (R388). -/
  | barexp (rs1 rs2 : BitVec 5)
  /-- BARARR (R388). -/
  | bararr (rs1 rs2 : BitVec 5)
  /-- WAITF_L (R385). -/
  | waitfL (o : LOp)
  /-- BARW_L (R389). -/
  | barwL (o : LOp)
  /-- AMO_ADD_B (R380). -/
  | amoAddB (o : AOp)
  /-- AMO_ADD_H (R380). -/
  | amoAddH (o : AOp)
  /-- AMO_ADD_W (R380). -/
  | amoAddW (o : AOp)
  /-- AMO_ADD_D (R380). -/
  | amoAddD (o : AOp)
  /-- AMO_SWAP_B (R380). -/
  | amoSwapB (o : AOp)
  /-- AMO_SWAP_H (R380). -/
  | amoSwapH (o : AOp)
  /-- AMO_SWAP_W (R380). -/
  | amoSwapW (o : AOp)
  /-- AMO_SWAP_D (R380). -/
  | amoSwapD (o : AOp)
  /-- AMO_CAS_B (R380). -/
  | amoCasB (o : AOp)
  /-- AMO_CAS_H (R380). -/
  | amoCasH (o : AOp)
  /-- AMO_CAS_W (R380). -/
  | amoCasW (o : AOp)
  /-- AMO_CAS_D (R380). -/
  | amoCasD (o : AOp)
  /-- AMO_AND_W (R380). -/
  | amoAndW (o : AOp)
  /-- AMO_AND_D (R380). -/
  | amoAndD (o : AOp)
  /-- AMO_OR_W (R380). -/
  | amoOrW (o : AOp)
  /-- AMO_OR_D (R380). -/
  | amoOrD (o : AOp)
  /-- AMO_XOR_W (R380). -/
  | amoXorW (o : AOp)
  /-- AMO_XOR_D (R380). -/
  | amoXorD (o : AOp)
  /-- AMO_MIN_W (R380). -/
  | amoMinW (o : AOp)
  /-- AMO_MIN_D (R380). -/
  | amoMinD (o : AOp)
  /-- AMO_MAX_W (R380). -/
  | amoMaxW (o : AOp)
  /-- AMO_MAX_D (R380). -/
  | amoMaxD (o : AOp)
  /-- AMO_ADD_BF16 (R380). -/
  | amoAddBf16 (o : AOp)
  /-- AMO_ADD_F32 (R380). -/
  | amoAddF32 (o : AOp)
  /-- AMO_ADD_F64 (R380). -/
  | amoAddF64 (o : AOp)
  /-- AMO_AMAX_BF16 (R246). -/
  | amoAmaxBf16 (o : AOp)
  /-- AMO_AMAX_F16 (R246). -/
  | amoAmaxF16 (o : AOp)
  /-- AMO_AMAX_F32 (R246). -/
  | amoAmaxF32 (o : AOp)
  /-- AMO_AMAX_F64 (R246). -/
  | amoAmaxF64 (o : AOp)
  /-- APPEND (R393). -/
  | append (o : AOp)
  /-- SEAL (R394). -/
  | seal (o : AOp)
  /-- CSRW (R333). -/
  | csrw (idx : BitVec 12) (rs1 : BitVec 5)
  /-- CSRS (R333). -/
  | csrs (idx : BitVec 12) (rs1 : BitVec 5)
  /-- CSRC (R333). -/
  | csrc (idx : BitVec 12) (rs1 : BitVec 5)
  /-- CSRR (R333). -/
  | csrr (rd : BitVec 5) (idx : BitVec 12)
  /-- FORK (R337). -/
  | fork (o : LOp)
  /-- YIELD_L (R341). -/
  | yieldL (o : LOp)
  /-- TRAP (R342). -/
  | trap (code : BitVec 12)
  /-- MSEND (R391). -/
  | msend (rd rs1 rs2 : BitVec 5) (len : BitVec 6)
  /-- MSEND_MC (R391). -/
  | msendMc (rs1 rs2 : BitVec 5) (len : BitVec 6)
  /-- SIGNAL (R390). -/
  | signal (rd rs1 rs2 : BitVec 5)
  /-- MRECV_L (R392). -/
  | mrecvL (o : LOp)
  /-- QPUSH_L (R395). -/
  | qpushL (o : LOp)
  /-- CPY (R416). -/
  | cpy (rd rs1 rs2 : BitVec 5)
  /-- STREAM (R420). -/
  | stream (rd rs1 rs2 : BitVec 5)
  /-- XFORM (R422). -/
  | xform (rd rs1 rs2 : BitVec 5)
  /-- PUBLISH (R423). -/
  | publish (rs1 rs2 : BitVec 5)
  /-- SUBSCR (R424). -/
  | subscr (rd rs1 rs2 : BitVec 5)
  /-- SUBREL (R425). -/
  | subrel (rs1 rs2 : BitVec 5)
  /-- DEVICE_LAUNCH (R426). -/
  | deviceLaunch (rd rs1 : BitVec 5)
  /-- CPYWAIT_L (R419). -/
  | cpywaitL (o : LOp)
  /-- VWAIT_L (R396). -/
  | vwaitL (o : LOp)
  /-- VSETVL (R347). -/
  | vsetvl (o : VOp)
  /-- VSETTYPE (R347). -/
  | vsettype (o : VOp)
  /-- VADD (R349). -/
  | vadd (o : VOp)
  /-- VSUB (R349). -/
  | vsub (o : VOp)
  /-- VMUL (R349). -/
  | vmul (o : VOp)
  /-- VMULH (R349). -/
  | vmulh (o : VOp)
  /-- VMULHU (R349). -/
  | vmulhu (o : VOp)
  /-- VAND (R349). -/
  | vand (o : VOp)
  /-- VOR (R349). -/
  | vor (o : VOp)
  /-- VXOR (R349). -/
  | vxor (o : VOp)
  /-- VSLL (R349). -/
  | vsll (o : VOp)
  /-- VSRL (R349). -/
  | vsrl (o : VOp)
  /-- VSRA (R349). -/
  | vsra (o : VOp)
  /-- VMIN (R349). -/
  | vmin (o : VOp)
  /-- VMAX (R349). -/
  | vmax (o : VOp)
  /-- VSADD (R349). -/
  | vsadd (o : VOp)
  /-- VSSUB (R349). -/
  | vssub (o : VOp)
  /-- VADDI (R349). -/
  | vaddi (o : VOp)
  /-- VFADD (R350). -/
  | vfadd (o : VOp)
  /-- VFSUB (R350). -/
  | vfsub (o : VOp)
  /-- VFMUL (R350). -/
  | vfmul (o : VOp)
  /-- VFMA (R350). -/
  | vfma (o : VOp)
  /-- VFDIV (R350). -/
  | vfdiv (o : VOp)
  /-- VFSQRT (R350). -/
  | vfsqrt (o : VOp)
  /-- VFMIN (R350). -/
  | vfmin (o : VOp)
  /-- VFMAX (R350). -/
  | vfmax (o : VOp)
  /-- VCVT (R351). -/
  | vcvt (o : VOp)
  /-- VQUANT (R352). -/
  | vquant (o : VOp)
  /-- VDEQUANT (R353). -/
  | vdequant (o : VOp)
  /-- VREDSUM_O (R244). -/
  | vredsumO (o : VOp)
  /-- VREDSUM_U (R245). -/
  | vredsumU (o : VOp)
  /-- VSCAN_O (R356). -/
  | vscanO (o : VOp)
  /-- VSCAN_F (R356). -/
  | vscanF (o : VOp)
  /-- VRAND (R358). -/
  | vrand (o : VOp)
  /-- VCMP_EQ (R354). -/
  | vcmpEq (o : VOp)
  /-- VCMP_NE (R354). -/
  | vcmpNe (o : VOp)
  /-- VCMP_LT (R354). -/
  | vcmpLt (o : VOp)
  /-- VCMP_LE (R354). -/
  | vcmpLe (o : VOp)
  /-- VCMP_LTU (R354). -/
  | vcmpLtu (o : VOp)
  /-- VCMP_LEU (R354). -/
  | vcmpLeu (o : VOp)
  /-- MAND (R354). -/
  | mand (o : VOp)
  /-- MOR (R354). -/
  | mor (o : VOp)
  /-- MXOR (R354). -/
  | mxor (o : VOp)
  /-- MNOT (R354). -/
  | mnot (o : VOp)
  /-- MPOP (R354). -/
  | mpop (o : VOp)
  /-- MFIRST (R354). -/
  | mfirst (o : VOp)
  /-- VREDMAX (R355). -/
  | vredmax (o : VOp)
  /-- VREDMIN (R355). -/
  | vredmin (o : VOp)
  /-- VREDAMAX (R355). -/
  | vredamax (o : VOp)
  /-- VARGMAX (R357). -/
  | vargmax (o : VOp)
  /-- VPERM (R359). -/
  | vperm (o : VOp)
  /-- VSLIDEUP (R359). -/
  | vslideup (o : VOp)
  /-- VSLIDEDN (R359). -/
  | vslidedn (o : VOp)
  /-- VCOMPRESS (R359). -/
  | vcompress (o : VOp)
  /-- VEXPAND (R359). -/
  | vexpand (o : VOp)
  /-- VBCAST (R359). -/
  | vbcast (o : VOp)
  /-- VMOVSV (R359). -/
  | vmovsv (o : VOp)
  /-- VMOVVS (R359). -/
  | vmovvs (o : VOp)
  /-- VGPERM (R359). -/
  | vgperm (o : VOp)
  /-- VGRED (R360). -/
  | vgred (o : VOp)
  /-- VCAPP (R362). -/
  | vcapp (o : VOp)
  /-- VLD (R370). -/
  | vld (o : VOp)
  /-- VLDS (R370). -/
  | vlds (o : VOp)
  /-- VLDX (R370). -/
  | vldx (o : VOp)
  /-- VLD_C (R371). -/
  | vldC (o : VOp)
  /-- VST (R370). -/
  | vst (o : VOp)
  /-- VSTS (R370). -/
  | vsts (o : VOp)
  /-- VSTX (R370). -/
  | vstx (o : VOp)
  /-- VST_F (R370). -/
  | vstF (o : VOp)
  /-- VLDG_L (R373). -/
  | vldgL (o : LOp)
  /-- VLDGX_L (R373). -/
  | vldgxL (o : LOp)
  /-- VLDSEG_L (R374). -/
  | vldsegL (o : LOp)
  /-- VSTG (R377). -/
  | vstg (o : LOp)
  /-- VSCATADD (R377). -/
  | vscatadd (o : LOp)
  /-- PMAKE (R365). -/
  | pmake (o : VOp)
  /-- PTAG (R365). -/
  | ptag (o : VOp)
  /-- PSUB (R364). -/
  | psub (o : VOp)
  /-- PADD (R364). -/
  | padd (o : VOp)
  /-- DADD (R364). -/
  | dadd (o : VOp)
  /-- PCVT (R364). -/
  | pcvt (o : VOp)
  /-- PDIST2 (R365). -/
  | pdist2 (o : VOp)
  /-- VDMIN (R365). -/
  | vdmin (o : VOp)
  /-- FRHOME (R228). -/
  | frhome (o : VOp)
  /-- DADD_SUB (R364). -/
  | daddSub (o : VOp)
  /-- TSHAPE (R404). -/
  | tshape (o : VOp)
  /-- TCLAIM (R405). -/
  | tclaim (o : VOp)
  /-- TRELEASE (R405). -/
  | trelease (o : VOp)
  /-- TLOAD (R406). -/
  | tload (o : VOp)
  /-- MMA (R407). -/
  | mma (o : VOp)
  /-- MMA_S (R407). -/
  | mmaS (o : VOp)
  /-- MZERO (R409). -/
  | mzero (o : VOp)
  /-- MACC2V (R409). -/
  | macc2v (o : VOp)
  /-- MV2ACC (R409). -/
  | mv2acc (o : VOp)
  /-- MACC2L (R409). -/
  | macc2l (o : VOp)
  /-- MAMAX (R410). -/
  | mamax (o : VOp)
  /-- MMARK (R411). -/
  | mmark (o : VOp)
  /-- ILLEGAL_INSTRUCTION (R290). -/
  | illegalInstruction (w : BitVec 32)
  /-- CREATE_QUEUE (R66). -/
  | createQueue
  /-- DELETE_QUEUE (R66). -/
  | deleteQueue
  /-- OPEN_APERTURE (R66). -/
  | openAperture
  /-- CLOSE_APERTURE (R66). -/
  | closeAperture
  /-- CREATE_CONTEXT (R66). -/
  | createContext
  /-- DESTROY_CONTEXT (R66). -/
  | destroyContext
  /-- SET_HOME_MAP (R66). -/
  | setHomeMap
  /-- LAUNCH (R96). -/
  | launch
  /-- PREEMPT (R267). -/
  | preempt
  /-- RESUME (R269). -/
  | resume
  /-- MAP (R67). -/
  | map
  /-- UNMAP (R67). -/
  | unmap
  /-- FREE_PAGE (R206). -/
  | freePage
  /-- READ_MANIFEST (R92). -/
  | readManifest
  /-- FW_STAGE (R79). -/
  | fwStage
  /-- FW_ACTIVATE (R80). -/
  | fwActivate
  /-- FW_COMMIT (R84). -/
  | fwCommit
  /-- FW_QUERY (R78). -/
  | fwQuery
  /-- DEBUG_UNLOCK (R89). -/
  | debugUnlock
  /-- LIFECYCLE (R88). -/
  | lifecycle
  /-- MEASURE_EXTEND (R91). -/
  | measureExtend
  /-- OWNER_SET (R90). -/
  | ownerSet
  /-- SUBMISSION_FETCH (R65). -/
  | submissionFetch
  /-- COMMAND_COMPLETION (R65). -/
  | commandCompletion
  /-- MAILBOX_WRITE (R63). -/
  | mailboxWrite
  /-- SQDB (R62). -/
  | sqdb
  /-- CQDB (R65). -/
  | cqdb
  /-- ADMCTL_BIND (R62). -/
  | admctlBind
  /-- ADMCTL_UNBIND (R62). -/
  | admctlUnbind
  /-- ADMIN_QUEUE_UNBIND_DONE (R62). -/
  | adminQueueUnbindDone
  /-- REGISTER_WRITE (R6). -/
  | registerWrite
  /-- BHMSUB (R58). -/
  | bhmsub
  /-- BFRESA_RESOLVE (R58). -/
  | bfresaResolve
  /-- BFRESA_FAULT (R58). -/
  | bfresaFault
  /-- BFLTACT_RESUME (R256). -/
  | bfltactResume
  /-- BFLTACT_KILL (R256). -/
  | bfltactKill
  /-- BWDKICK (R85). -/
  | bwdkick
  /-- CCMD_QUIESCE (R69). -/
  | ccmdQuiesce
  /-- CCMD_RESUME (R69). -/
  | ccmdResume
  /-- CCMD_RESET (R70). -/
  | ccmdReset
  /-- CCMD_TLBINV (R71). -/
  | ccmdTlbinv
  /-- CCMD_FLUSH_CHAIN_CACHE (R222). -/
  | ccmdFlushChainCache
  /-- HMCQPOP (R117). -/
  | hmcqpop
  /-- HM_TAKE_RECORD (R97). -/
  | hmTakeRecord
  /-- LAUNCH_RESUBMIT (R96). -/
  | launchResubmit
  /-- LAUNCH_CORE_CONFIGURE (R102). -/
  | launchCoreConfigure
  /-- WALKER_STEP (R110). -/
  | walkerStep
  /-- QUEUE_AGE_READY (R111). -/
  | queueAgeReady
  /-- STRAND_GRANT (R112). -/
  | strandGrant
  /-- PREEMPT_DECISION (R114). -/
  | preemptDecision
  /-- FORCED_LEAVE (R114). -/
  | forcedLeave
  /-- FAULT_QUEUE_RETRY (R255). -/
  | faultQueueRetry
  /-- SCOREBOARD_TIMEOUT (R120). -/
  | scoreboardTimeout
  /-- HAZARD_TIMEOUT (R132). -/
  | hazardTimeout
  /-- CONVOY_SPLIT (R435). -/
  | convoySplit
  /-- LAUNCH_END (R116). -/
  | launchEnd
  /-- HM_COMPLETION_WRITE (R117). -/
  | hmCompletionWrite
  /-- CONTEXT_SAVE (R267). -/
  | contextSave
  /-- STEP_BUDGET_EXPIRY (R85). -/
  | stepBudgetExpiry
  /-- HEARTBEAT_EXPIRY (R85). -/
  | heartbeatExpiry
  /-- WATCHDOG_WARNING (R85). -/
  | watchdogWarning
  /-- WARM_RESTART (R87). -/
  | warmRestart
  /-- DIE_RESET (R87). -/
  | dieReset
  /-- MODULE_RESET (R87). -/
  | moduleReset
  /-- BOOT (R77). -/
  | boot
  /-- BOOT_TIMEOUT (R77). -/
  | bootTimeout
  /-- POWER_LOSS (R26). -/
  | powerLoss
  /-- CP_HANDOVER (R80). -/
  | cpHandover
  /-- SWAP_TIMEOUT (R81). -/
  | swapTimeout
  /-- RCVY_BEGIN (R95). -/
  | rcvyBegin
  /-- RCVY_DATA (R95). -/
  | rcvyData
  /-- RCVY_END (R95). -/
  | rcvyEnd
  /-- RCVY_QUERY (R95). -/
  | rcvyQuery
  /-- GET_VERSION (R94). -/
  | getVersion
  /-- GET_CAPABILITIES (R94). -/
  | getCapabilities
  /-- NEGOTIATE_ALGORITHMS (R94). -/
  | negotiateAlgorithms
  /-- GET_DIGESTS (R94). -/
  | getDigests
  /-- GET_CERTIFICATE (R94). -/
  | getCertificate
  /-- CHALLENGE (R94). -/
  | challenge
  /-- GET_MEASUREMENTS (R94). -/
  | getMeasurements
  /-- CHUNK_SEND (R94). -/
  | chunkSend
  /-- CHUNK_GET (R94). -/
  | chunkGet
  /-- DEBUG_ACCESS (R89). -/
  | debugAccess
  /-- FLIT_RECEIVE (R21). -/
  | flitReceive
  /-- LINK_REPLAY (R21). -/
  | linkReplay
  /-- LINK_RETRAIN_DONE (R21). -/
  | linkRetrainDone
  /-- LANE_LOSS (R22). -/
  | laneLoss
  /-- PACKET_SCHEDULE (R34). -/
  | packetSchedule
  /-- MULTICAST_SPLIT (R48). -/
  | multicastSplit
  /-- CLOCK_FAILOVER (R24). -/
  | clockFailover
  /-- READ_REQUEST (R46). -/
  | readRequest
  /-- WRITE_REQUEST (R46). -/
  | writeRequest
  /-- ATOMIC_REQUEST (R188). -/
  | atomicRequest
  /-- APPEND_RESERVATION (R202). -/
  | appendReservation
  /-- MESSAGE_APPEND (R162). -/
  | messageAppend
  /-- SIGNAL_ARRIVAL (R51). -/
  | signalArrival
  /-- MULTICAST_MESSAGE (R50). -/
  | multicastMessage
  /-- PAGER_SERVICE (R42). -/
  | pagerService
  /-- ROUTE_AND_LINK_MAINTENANCE (R33). -/
  | routeAndLinkMaintenance
  /-- RESERVED_OP (R33). -/
  | reservedOp
  /-- RESPONSE_WITH_DATA (R47). -/
  | responseWithData
  /-- ACKNOWLEDGEMENT (R47). -/
  | acknowledgement
  /-- ERROR_RESPONSE (R43). -/
  | errorResponse
  /-- RETRY_LATER_RESPONSE (R45). -/
  | retryLaterResponse
  /-- RETRY_LATER_RESEND (R45). -/
  | retryLaterResend
  /-- RETRANSMIT_TIMEOUT (R45). -/
  | retransmitTimeout
  /-- CXL_READ_TIMEOUT (R17). -/
  | cxlReadTimeout
  /-- CXL_VIRAL (R17). -/
  | cxlViral
  /-- PATROL_SCRUB (R14). -/
  | patrolScrub
  /-- P1_ENTRY (R26). -/
  | p1Entry
  /-- P2_ENTRY (R26). -/
  | p2Entry
  /-- P3_ENTRY (R26). -/
  | p3Entry
  /-- P4_ENTRY (R26). -/
  | p4Entry
  /-- CORE_WAKE (R52). -/
  | coreWake
  /-- LOAD_DATA_RETURN (R139). -/
  | loadDataReturn
  /-- REGISTRATION_ANSWER (R133). -/
  | registrationAnswer
  /-- REGISTRATION_TIMEOUT (R133). -/
  | registrationTimeout
  /-- FUTURE_REGISTRATION (R148). -/
  | futureRegistration
  /-- FUTURE_RESOLUTION (R148). -/
  | futureResolution
  /-- WAITER_READY (R431). -/
  | waiterReady
  /-- ANSWER_ARRIVAL (R379). -/
  | answerArrival
  /-- HELD_RELEASE_WRITE (R382). -/
  | heldReleaseWrite
  /-- GLOBAL_WRITE_PERFORM (R203). -/
  | globalWritePerform
  /-- GLOBAL_READ_PERFORM (R433). -/
  | globalReadPerform
  /-- COPY_TRANSFER_COMPLETE (R417). -/
  | copyTransferComplete
  /-- STREAM_END (R421). -/
  | streamEnd
  /-- STEVEDORE_PUSH_FILL (R181). -/
  | stevedorePushFill
  /-- STEVEDORE_PULL_DRAIN (R182). -/
  | stevedorePullDrain
  /-- MATRIX_COMMAND_FINISH (R407). -/
  | matrixCommandFinish
  /-- TRANSFORM_PERFORM (R160). -/
  | transformPerform
  /-- PUBLISH_SWAP (R200). -/
  | publishSwap
  /-- FENCE_SV (R190). -/
  | fenceSv
  /-- FENCE_VS (R190). -/
  | fenceVs
  /-- EXIT (R336). -/
  | exit
  /-- GRANULE_SET_FULL (R158). -/
  | granuleSetFull
  /-- RESERVED_MANAGEMENT_CHANNEL (R95). -/
  | reservedManagementChannel
  deriving DecidableEq, Repr

end Sys2Proof
end

