-- ==== Sys2Proof/WellFormed.lean ====
section
/-!
DEFINITION. Which instructions are well formed: the fields a row does not name are zero, and the control fields hold
values their descriptions allow (R290). An ill-formed word raises cause 0x01.
-/

namespace Sys2Proof

/-- The fields that the row of the instruction does not name are zero (R290), and a field that names less than its
bits fits them. Words without a spare field, and commands and events, always pass. -/
def Instr.unusedZero : Instr → Bool
  | .createQueue => true
  | .deleteQueue => true
  | .openAperture => true
  | .closeAperture => true
  | .createContext => true
  | .destroyContext => true
  | .setHomeMap => true
  | .launch => true
  | .preempt => true
  | .resume => true
  | .map => true
  | .unmap => true
  | .freePage => true
  | .readManifest => true
  | .fwStage => true
  | .fwActivate => true
  | .fwCommit => true
  | .fwQuery => true
  | .debugUnlock => true
  | .lifecycle => true
  | .measureExtend => true
  | .ownerSet => true
  | .submissionFetch => true
  | .commandCompletion => true
  | .mailboxWrite => true
  | .sqdb => true
  | .cqdb => true
  | .admctlBind => true
  | .admctlUnbind => true
  | .adminQueueUnbindDone => true
  | .registerWrite => true
  | .bhmsub => true
  | .bfresaResolve => true
  | .bfresaFault => true
  | .bfltactResume => true
  | .bfltactKill => true
  | .bwdkick => true
  | .ccmdQuiesce => true
  | .ccmdResume => true
  | .ccmdReset => true
  | .ccmdTlbinv => true
  | .ccmdFlushChainCache => true
  | .hmcqpop => true
  | .hmTakeRecord => true
  | .launchResubmit => true
  | .launchCoreConfigure => true
  | .walkerStep => true
  | .queueAgeReady => true
  | .strandGrant => true
  | .preemptDecision => true
  | .forcedLeave => true
  | .faultQueueRetry => true
  | .scoreboardTimeout => true
  | .hazardTimeout => true
  | .convoySplit => true
  | .launchEnd => true
  | .hmCompletionWrite => true
  | .contextSave => true
  | .stepBudgetExpiry => true
  | .heartbeatExpiry => true
  | .watchdogWarning => true
  | .warmRestart => true
  | .dieReset => true
  | .moduleReset => true
  | .boot => true
  | .bootTimeout => true
  | .powerLoss => true
  | .cpHandover => true
  | .swapTimeout => true
  | .rcvyBegin => true
  | .rcvyData => true
  | .rcvyEnd => true
  | .rcvyQuery => true
  | .getVersion => true
  | .getCapabilities => true
  | .negotiateAlgorithms => true
  | .getDigests => true
  | .getCertificate => true
  | .challenge => true
  | .getMeasurements => true
  | .chunkSend => true
  | .chunkGet => true
  | .debugAccess => true
  | .flitReceive => true
  | .linkReplay => true
  | .linkRetrainDone => true
  | .laneLoss => true
  | .packetSchedule => true
  | .multicastSplit => true
  | .clockFailover => true
  | .readRequest => true
  | .writeRequest => true
  | .atomicRequest => true
  | .appendReservation => true
  | .messageAppend => true
  | .signalArrival => true
  | .multicastMessage => true
  | .pagerService => true
  | .routeAndLinkMaintenance => true
  | .reservedOp => true
  | .responseWithData => true
  | .acknowledgement => true
  | .errorResponse => true
  | .retryLaterResponse => true
  | .retryLaterResend => true
  | .retransmitTimeout => true
  | .cxlReadTimeout => true
  | .cxlViral => true
  | .patrolScrub => true
  | .p1Entry => true
  | .p2Entry => true
  | .p3Entry => true
  | .p4Entry => true
  | .coreWake => true
  | .loadDataReturn => true
  | .registrationAnswer => true
  | .registrationTimeout => true
  | .futureRegistration => true
  | .futureResolution => true
  | .waiterReady => true
  | .answerArrival => true
  | .heldReleaseWrite => true
  | .globalWritePerform => true
  | .globalReadPerform => true
  | .copyTransferComplete => true
  | .streamEnd => true
  | .stevedorePushFill => true
  | .stevedorePullDrain => true
  | .matrixCommandFinish => true
  | .transformPerform => true
  | .publishSwap => true
  | .add _ _ _ => true
  | .sub _ _ _ => true
  | .sll _ _ _ => true
  | .slt _ _ _ => true
  | .sltu _ _ _ => true
  | .xor _ _ _ => true
  | .srl _ _ _ => true
  | .sra _ _ _ => true
  | .or _ _ _ => true
  | .and _ _ _ => true
  | .mul _ _ _ => true
  | .mulh _ _ _ => true
  | .mulhu _ _ _ => true
  | .div _ _ _ => true
  | .divu _ _ _ => true
  | .rem _ _ _ => true
  | .remu _ _ _ => true
  | .lea _ _ _ _ => true
  | .min _ _ _ => true
  | .max _ _ _ => true
  | .minu _ _ _ => true
  | .maxu _ _ _ => true
  | .clz _ _ => true
  | .ctz _ _ => true
  | .popc _ _ => true
  | .addi _ _ _ => true
  | .slti _ _ _ => true
  | .sltiu _ _ _ => true
  | .xori _ _ _ => true
  | .ori _ _ _ => true
  | .andi _ _ _ => true
  | .slli _ _ _ => true
  | .srli _ _ _ => true
  | .srai _ _ _ => true
  | .lui _ _ => true
  | .addpc _ _ => true
  | .beq _ _ _ => true
  | .bne _ _ _ => true
  | .blt _ _ _ => true
  | .bge _ _ _ => true
  | .bltu _ _ _ => true
  | .bgeu _ _ _ => true
  | .jal _ _ => true
  | .jalr _ _ _ => true
  | .ldB _ _ _ => true
  | .ldH _ _ _ => true
  | .ldW _ _ _ => true
  | .ldD _ _ _ => true
  | .ldBu _ _ _ => true
  | .ldHu _ _ _ => true
  | .ldWu _ _ _ => true
  | .stB _ _ _ => true
  | .stH _ _ _ => true
  | .stW _ _ _ => true
  | .stD _ _ _ => true
  | .ldgLB o => decide (o.c = 0)
  | .ldgLH o => decide (o.c = 0)
  | .ldgLW o => decide (o.c = 0)
  | .ldgLD o => decide (o.c = 0)
  | .ldgLBu o => decide (o.c = 0)
  | .ldgLHu o => decide (o.c = 0)
  | .ldgLWu o => decide (o.c = 0)
  | .stgB _ _ _ => true
  | .stgH _ _ _ => true
  | .stgW _ _ _ => true
  | .stgD _ _ _ => true
  | .fence _ _ => true
  | .fenceSv => true
  | .fenceVs => true
  | .ldAcq _ _ _ _ _ => true
  | .stRel _ _ _ _ _ => true
  | .bind _ _ _ => true
  | .unbind _ _ _ => true
  | .fres _ _ => true
  | .barinit _ _ => true
  | .barexp _ _ => true
  | .bararr _ _ => true
  | .waitfL o => decide (o.c = 0) && decide (o.rs2 = 0)
  | .barwL o => decide (o.c = 0) && decide (o.rs2 = 0)
  | .amoAddB _ => true
  | .amoAddH _ => true
  | .amoAddW _ => true
  | .amoAddD _ => true
  | .amoSwapB _ => true
  | .amoSwapH _ => true
  | .amoSwapW _ => true
  | .amoSwapD _ => true
  | .amoCasB _ => true
  | .amoCasH _ => true
  | .amoCasW _ => true
  | .amoCasD _ => true
  | .amoAndW _ => true
  | .amoAndD _ => true
  | .amoOrW _ => true
  | .amoOrD _ => true
  | .amoXorW _ => true
  | .amoXorD _ => true
  | .amoMinW _ => true
  | .amoMinD _ => true
  | .amoMaxW _ => true
  | .amoMaxD _ => true
  | .amoAddBf16 _ => true
  | .amoAddF32 _ => true
  | .amoAddF64 _ => true
  | .amoAmaxBf16 _ => true
  | .amoAmaxF16 _ => true
  | .amoAmaxF32 _ => true
  | .amoAmaxF64 _ => true
  | .append o => decide (o.ord = 0) && decide (o.scope = 0)
  | .seal o => decide (o.ord = 0) && decide (o.scope = 0)
  | .exit => true
  | .csrw _ _ => true
  | .csrs _ _ => true
  | .csrc _ _ => true
  | .csrr _ _ => true
  | .fork o => decide (o.c = 0) && decide (o.rs2 = 0) && decide (o.rs1 = 0)
  | .yieldL o => decide (o.c = 0) && decide (o.rs2 = 0) && decide (o.rs1 = 0) && decide (o.rd = 0)
  | .trap _ => true
  | .msend _ _ _ _ => true
  | .msendMc _ _ _ => true
  | .signal _ _ _ => true
  | .mrecvL o => decide (o.c = 0)
  | .qpushL o => decide (o.c = 0) && decide (o.rs2 = 0) && decide (o.rd = 0)
  | .cpy _ _ _ => true
  | .stream _ _ _ => true
  | .xform _ _ _ => true
  | .publish _ _ => true
  | .subscr _ _ _ => true
  | .subrel _ _ => true
  | .deviceLaunch _ _ => true
  | .cpywaitL o => decide (o.c = 0) && decide (o.rd = 0)
  | .vwaitL o => decide (o.c = 0) && decide (o.rs2 = 0) && decide (o.rd = 0)
  | .vsetvl o => decide (o.c = 0) && decide (o.vs2 = 0) && decide (o.msel = 0)
  | .vsettype o => decide (o.c = 0) && decide (o.msel = 0)
  | .vadd _ => true
  | .vsub _ => true
  | .vmul _ => true
  | .vmulh _ => true
  | .vmulhu _ => true
  | .vand _ => true
  | .vor _ => true
  | .vxor _ => true
  | .vsll _ => true
  | .vsrl _ => true
  | .vsra _ => true
  | .vmin _ => true
  | .vmax _ => true
  | .vsadd _ => true
  | .vssub _ => true
  | .vaddi _ => true
  | .vfadd _ => true
  | .vfsub _ => true
  | .vfmul _ => true
  | .vfma _ => true
  | .vfdiv _ => true
  | .vfsqrt o => decide (o.vs2 = 0)
  | .vfmin _ => true
  | .vfmax _ => true
  | .vcvt o => decide (o.vs2.toNat < 2)
  | .vquant o => decide (o.vs2.toNat < 8) && decide (o.msel = 0)
  | .vdequant o => decide (o.msel = 0)
  | .vredsumO _ => true
  | .vredsumU _ => true
  | .vscanO o => decide (o.vs2 = 0)
  | .vscanF o => decide (o.vs2 = 0)
  | .vrand o => decide (o.vs2 = 0)
  | .vcmpEq _ => true
  | .vcmpNe _ => true
  | .vcmpLt _ => true
  | .vcmpLe _ => true
  | .vcmpLtu _ => true
  | .vcmpLeu _ => true
  | .mand o => decide (o.msel = 0)
  | .mor o => decide (o.msel = 0)
  | .mxor o => decide (o.msel = 0)
  | .mnot o => decide (o.vs2 = 0) && decide (o.msel = 0)
  | .mpop o => decide (o.vs2 = 0)
  | .mfirst o => decide (o.vs2 = 0)
  | .vredmax _ => true
  | .vredmin _ => true
  | .vredamax _ => true
  | .vargmax o => decide (o.vs2 = 0)
  | .vperm _ => true
  | .vslideup _ => true
  | .vslidedn _ => true
  | .vcompress o => decide (o.vs2 = 0)
  | .vexpand o => decide (o.vs2 = 0)
  | .vbcast o => decide (o.vs1 = 0)
  | .vmovsv o => decide (o.msel = 0)
  | .vmovvs o => decide (o.msel = 0)
  | .vgperm _ => true
  | .vgred o => decide (o.vs2 = 0)
  | .vcapp _ => true
  | .vld o => decide (o.vs2 = 0)
  | .vlds _ => true
  | .vldx _ => true
  | .vldC o => decide (o.c = 0)
  | .vst o => decide (o.vs2 = 0)
  | .vsts _ => true
  | .vstx _ => true
  | .vstF o => decide (o.vs2 = 0)
  | .vldgL o => decide (o.c = 0)
  | .vldgxL o => decide (o.c = 0)
  | .vldsegL o => decide (o.c = 0)
  | .vstg o => decide (o.ls = 0)
  | .vscatadd o => decide (o.ls = 0)
  | .pmake _ => true
  | .ptag _ => true
  | .psub _ => true
  | .padd _ => true
  | .dadd _ => true
  | .pcvt _ => true
  | .pdist2 _ => true
  | .vdmin _ => true
  | .frhome o => decide (o.vs2 = 0)
  | .daddSub _ => true
  | .tshape o => decide (o.msel = 0)
  | .tclaim o => decide (o.vs2 = 0) && decide (o.msel = 0)
  | .trelease o => decide (o.vs2 = 0) && decide (o.msel = 0) && decide (o.vd = 0)
  | .tload o => decide (o.msel = 0)
  | .mma o => decide (o.vs2 = 0) && decide (o.msel = 0) && decide (o.vd = 0)
  | .mmaS o => decide (o.msel = 0) && decide (o.vd = 0)
  | .mzero o => decide (o.vs2 = 0) && decide (o.msel = 0) && decide (o.vd = 0)
  | .macc2v o => decide (o.vs2 = 0)
  | .mv2acc o => decide (o.vs2 = 0)
  | .macc2l o => decide (o.msel = 0) && decide (o.vd = 0)
  | .mamax o => decide (o.msel = 0) && decide (o.vd = 0)
  | .mmark o => decide (o.vs2 = 0) && decide (o.msel = 0)
  | .illegalInstruction _ => true
  | .granuleSetFull => true
  | .reservedManagementChannel => true

/-- The instruction is one of the compute core words, not a command or an event. -/
def Instr.isWord : Instr → Bool
  | .createQueue => false
  | .deleteQueue => false
  | .openAperture => false
  | .closeAperture => false
  | .createContext => false
  | .destroyContext => false
  | .setHomeMap => false
  | .launch => false
  | .preempt => false
  | .resume => false
  | .map => false
  | .unmap => false
  | .freePage => false
  | .readManifest => false
  | .fwStage => false
  | .fwActivate => false
  | .fwCommit => false
  | .fwQuery => false
  | .debugUnlock => false
  | .lifecycle => false
  | .measureExtend => false
  | .ownerSet => false
  | .submissionFetch => false
  | .commandCompletion => false
  | .mailboxWrite => false
  | .sqdb => false
  | .cqdb => false
  | .admctlBind => false
  | .admctlUnbind => false
  | .adminQueueUnbindDone => false
  | .registerWrite => false
  | .bhmsub => false
  | .bfresaResolve => false
  | .bfresaFault => false
  | .bfltactResume => false
  | .bfltactKill => false
  | .bwdkick => false
  | .ccmdQuiesce => false
  | .ccmdResume => false
  | .ccmdReset => false
  | .ccmdTlbinv => false
  | .ccmdFlushChainCache => false
  | .hmcqpop => false
  | .hmTakeRecord => false
  | .launchResubmit => false
  | .launchCoreConfigure => false
  | .walkerStep => false
  | .queueAgeReady => false
  | .strandGrant => false
  | .preemptDecision => false
  | .forcedLeave => false
  | .faultQueueRetry => false
  | .scoreboardTimeout => false
  | .hazardTimeout => false
  | .convoySplit => false
  | .launchEnd => false
  | .hmCompletionWrite => false
  | .contextSave => false
  | .stepBudgetExpiry => false
  | .heartbeatExpiry => false
  | .watchdogWarning => false
  | .warmRestart => false
  | .dieReset => false
  | .moduleReset => false
  | .boot => false
  | .bootTimeout => false
  | .powerLoss => false
  | .cpHandover => false
  | .swapTimeout => false
  | .rcvyBegin => false
  | .rcvyData => false
  | .rcvyEnd => false
  | .rcvyQuery => false
  | .getVersion => false
  | .getCapabilities => false
  | .negotiateAlgorithms => false
  | .getDigests => false
  | .getCertificate => false
  | .challenge => false
  | .getMeasurements => false
  | .chunkSend => false
  | .chunkGet => false
  | .debugAccess => false
  | .flitReceive => false
  | .linkReplay => false
  | .linkRetrainDone => false
  | .laneLoss => false
  | .packetSchedule => false
  | .multicastSplit => false
  | .clockFailover => false
  | .readRequest => false
  | .writeRequest => false
  | .atomicRequest => false
  | .appendReservation => false
  | .messageAppend => false
  | .signalArrival => false
  | .multicastMessage => false
  | .pagerService => false
  | .routeAndLinkMaintenance => false
  | .reservedOp => false
  | .responseWithData => false
  | .acknowledgement => false
  | .errorResponse => false
  | .retryLaterResponse => false
  | .retryLaterResend => false
  | .retransmitTimeout => false
  | .cxlReadTimeout => false
  | .cxlViral => false
  | .patrolScrub => false
  | .p1Entry => false
  | .p2Entry => false
  | .p3Entry => false
  | .p4Entry => false
  | .coreWake => false
  | .loadDataReturn => false
  | .registrationAnswer => false
  | .registrationTimeout => false
  | .futureRegistration => false
  | .futureResolution => false
  | .waiterReady => false
  | .answerArrival => false
  | .heldReleaseWrite => false
  | .globalWritePerform => false
  | .globalReadPerform => false
  | .copyTransferComplete => false
  | .streamEnd => false
  | .stevedorePushFill => false
  | .stevedorePullDrain => false
  | .matrixCommandFinish => false
  | .transformPerform => false
  | .publishSwap => false
  | .add _ _ _ => true
  | .sub _ _ _ => true
  | .sll _ _ _ => true
  | .slt _ _ _ => true
  | .sltu _ _ _ => true
  | .xor _ _ _ => true
  | .srl _ _ _ => true
  | .sra _ _ _ => true
  | .or _ _ _ => true
  | .and _ _ _ => true
  | .mul _ _ _ => true
  | .mulh _ _ _ => true
  | .mulhu _ _ _ => true
  | .div _ _ _ => true
  | .divu _ _ _ => true
  | .rem _ _ _ => true
  | .remu _ _ _ => true
  | .lea _ _ _ _ => true
  | .min _ _ _ => true
  | .max _ _ _ => true
  | .minu _ _ _ => true
  | .maxu _ _ _ => true
  | .clz _ _ => true
  | .ctz _ _ => true
  | .popc _ _ => true
  | .addi _ _ _ => true
  | .slti _ _ _ => true
  | .sltiu _ _ _ => true
  | .xori _ _ _ => true
  | .ori _ _ _ => true
  | .andi _ _ _ => true
  | .slli _ _ _ => true
  | .srli _ _ _ => true
  | .srai _ _ _ => true
  | .lui _ _ => true
  | .addpc _ _ => true
  | .beq _ _ _ => true
  | .bne _ _ _ => true
  | .blt _ _ _ => true
  | .bge _ _ _ => true
  | .bltu _ _ _ => true
  | .bgeu _ _ _ => true
  | .jal _ _ => true
  | .jalr _ _ _ => true
  | .ldB _ _ _ => true
  | .ldH _ _ _ => true
  | .ldW _ _ _ => true
  | .ldD _ _ _ => true
  | .ldBu _ _ _ => true
  | .ldHu _ _ _ => true
  | .ldWu _ _ _ => true
  | .stB _ _ _ => true
  | .stH _ _ _ => true
  | .stW _ _ _ => true
  | .stD _ _ _ => true
  | .ldgLB _ => true
  | .ldgLH _ => true
  | .ldgLW _ => true
  | .ldgLD _ => true
  | .ldgLBu _ => true
  | .ldgLHu _ => true
  | .ldgLWu _ => true
  | .stgB _ _ _ => true
  | .stgH _ _ _ => true
  | .stgW _ _ _ => true
  | .stgD _ _ _ => true
  | .fence _ _ => true
  | .fenceSv => true
  | .fenceVs => true
  | .ldAcq _ _ _ _ _ => true
  | .stRel _ _ _ _ _ => true
  | .bind _ _ _ => true
  | .unbind _ _ _ => true
  | .fres _ _ => true
  | .barinit _ _ => true
  | .barexp _ _ => true
  | .bararr _ _ => true
  | .waitfL _ => true
  | .barwL _ => true
  | .amoAddB _ => true
  | .amoAddH _ => true
  | .amoAddW _ => true
  | .amoAddD _ => true
  | .amoSwapB _ => true
  | .amoSwapH _ => true
  | .amoSwapW _ => true
  | .amoSwapD _ => true
  | .amoCasB _ => true
  | .amoCasH _ => true
  | .amoCasW _ => true
  | .amoCasD _ => true
  | .amoAndW _ => true
  | .amoAndD _ => true
  | .amoOrW _ => true
  | .amoOrD _ => true
  | .amoXorW _ => true
  | .amoXorD _ => true
  | .amoMinW _ => true
  | .amoMinD _ => true
  | .amoMaxW _ => true
  | .amoMaxD _ => true
  | .amoAddBf16 _ => true
  | .amoAddF32 _ => true
  | .amoAddF64 _ => true
  | .amoAmaxBf16 _ => true
  | .amoAmaxF16 _ => true
  | .amoAmaxF32 _ => true
  | .amoAmaxF64 _ => true
  | .append _ => true
  | .seal _ => true
  | .exit => true
  | .csrw _ _ => true
  | .csrs _ _ => true
  | .csrc _ _ => true
  | .csrr _ _ => true
  | .fork _ => true
  | .yieldL _ => true
  | .trap _ => true
  | .msend _ _ _ _ => true
  | .msendMc _ _ _ => true
  | .signal _ _ _ => true
  | .mrecvL _ => true
  | .qpushL _ => true
  | .cpy _ _ _ => true
  | .stream _ _ _ => true
  | .xform _ _ _ => true
  | .publish _ _ => true
  | .subscr _ _ _ => true
  | .subrel _ _ => true
  | .deviceLaunch _ _ => true
  | .cpywaitL _ => true
  | .vwaitL _ => true
  | .vsetvl _ => true
  | .vsettype _ => true
  | .vadd _ => true
  | .vsub _ => true
  | .vmul _ => true
  | .vmulh _ => true
  | .vmulhu _ => true
  | .vand _ => true
  | .vor _ => true
  | .vxor _ => true
  | .vsll _ => true
  | .vsrl _ => true
  | .vsra _ => true
  | .vmin _ => true
  | .vmax _ => true
  | .vsadd _ => true
  | .vssub _ => true
  | .vaddi _ => true
  | .vfadd _ => true
  | .vfsub _ => true
  | .vfmul _ => true
  | .vfma _ => true
  | .vfdiv _ => true
  | .vfsqrt _ => true
  | .vfmin _ => true
  | .vfmax _ => true
  | .vcvt _ => true
  | .vquant _ => true
  | .vdequant _ => true
  | .vredsumO _ => true
  | .vredsumU _ => true
  | .vscanO _ => true
  | .vscanF _ => true
  | .vrand _ => true
  | .vcmpEq _ => true
  | .vcmpNe _ => true
  | .vcmpLt _ => true
  | .vcmpLe _ => true
  | .vcmpLtu _ => true
  | .vcmpLeu _ => true
  | .mand _ => true
  | .mor _ => true
  | .mxor _ => true
  | .mnot _ => true
  | .mpop _ => true
  | .mfirst _ => true
  | .vredmax _ => true
  | .vredmin _ => true
  | .vredamax _ => true
  | .vargmax _ => true
  | .vperm _ => true
  | .vslideup _ => true
  | .vslidedn _ => true
  | .vcompress _ => true
  | .vexpand _ => true
  | .vbcast _ => true
  | .vmovsv _ => true
  | .vmovvs _ => true
  | .vgperm _ => true
  | .vgred _ => true
  | .vcapp _ => true
  | .vld _ => true
  | .vlds _ => true
  | .vldx _ => true
  | .vldC _ => true
  | .vst _ => true
  | .vsts _ => true
  | .vstx _ => true
  | .vstF _ => true
  | .vldgL _ => true
  | .vldgxL _ => true
  | .vldsegL _ => true
  | .vstg _ => true
  | .vscatadd _ => true
  | .pmake _ => true
  | .ptag _ => true
  | .psub _ => true
  | .padd _ => true
  | .dadd _ => true
  | .pcvt _ => true
  | .pdist2 _ => true
  | .vdmin _ => true
  | .frhome _ => true
  | .daddSub _ => true
  | .tshape _ => true
  | .tclaim _ => true
  | .trelease _ => true
  | .tload _ => true
  | .mma _ => true
  | .mmaS _ => true
  | .mzero _ => true
  | .macc2v _ => true
  | .mv2acc _ => true
  | .macc2l _ => true
  | .mamax _ => true
  | .mmark _ => true
  | .illegalInstruction _ => false
  | .granuleSetFull => false
  | .reservedManagementChannel => false

/-- A scope code of R185: 0 to 5 are defined, 6 and 7 raise cause 0x01. -/
def scopeOk (c : BitVec 3) : Bool := decide (c.toNat < 6)

/-- ORD 00 requires SCOPE 000; otherwise the scope code must be defined (R282, R185). -/
def AOp.orderOk (o : AOp) : Bool := if o.ord = 0 then decide (o.scope = 0) else scopeOk o.scope

end Sys2Proof
end

