-- ==== Sys2Proof/Decode.lean ====
section
/-!
DEFINITION. Decoding a 32-bit word, total on any word and refusing by name (R274-R290), and the encoder after it.
-/

namespace Sys2Proof

/-- Why a word is not an instruction (R274, R290). Each raises cause 0x01 when it is fetched. -/
inductive DecodeError where
  /-- Bits 1:0 are not 11 (R274). -/
  | notWord
  /-- The major opcode is reserved (R283). -/
  | reservedMajor
  /-- An f3, f7, FN4 or AOP value that the tables leave out. -/
  | undefinedFunction
  /-- A field that the row does not name is not zero. -/
  | unusedField
  /-- Fewer than four bytes. -/
  | truncated
  deriving DecidableEq, Repr

def majF (w : BitVec 32) : BitVec 5 := w.extractLsb' 2 5
def rdF (w : BitVec 32) : BitVec 5 := w.extractLsb' 7 5
def f3F (w : BitVec 32) : BitVec 3 := w.extractLsb' 12 3
def rs1F (w : BitVec 32) : BitVec 5 := w.extractLsb' 15 5
def rs2F (w : BitVec 32) : BitVec 5 := w.extractLsb' 20 5
def f7F (w : BitVec 32) : BitVec 7 := w.extractLsb' 25 7
def fn4F (w : BitVec 32) : BitVec 4 := w.extractLsb' 25 4
def aopSel (w : BitVec 32) : BitVec 5 := w.extractLsb' 27 5

/-- The I immediate, bits 31:20 (R276). -/
def immI (w : BitVec 32) : BitVec 12 := w.extractLsb' 20 12

/-- The shift amount imm[5:0] (R285). -/
def shF (w : BitVec 32) : BitVec 6 := w.extractLsb' 20 6

/-- The S immediate: imm[11:5] in 31:25, imm[4:0] in 11:7 (R276). -/
def immS (w : BitVec 32) : BitVec 12 := f7F w ++ rdF w

/-- The B immediate without its zero bit, imm[12:1]: bit 31, bit 7, bits 30:25, bits 11:8 (R276). -/
def immB (w : BitVec 32) : BitVec 12 :=
  w.extractLsb' 31 1 ++ w.extractLsb' 7 1 ++ w.extractLsb' 25 6 ++ w.extractLsb' 8 4

/-- The U immediate, bits 31:12 (R276). -/
def immU (w : BitVec 32) : BitVec 20 := w.extractLsb' 12 20

/-- The J immediate without its zero bit, imm[20:1]: bit 31, bits 19:12, bit 20, bits 30:21 (R276). -/
def immJ (w : BitVec 32) : BitVec 20 :=
  w.extractLsb' 31 1 ++ w.extractLsb' 12 8 ++ w.extractLsb' 20 1 ++ w.extractLsb' 21 10

/-- The V-format fields (R278). -/
def vopF (w : BitVec 32) : VOp :=
  { c := w.extractLsb' 31 1, hint := w.extractLsb' 29 2, vs2 := rs2F w, vs1 := rs1F w, msel := f3F w, vd := rdF w }

/-- The L- and G-layout fields (R281). -/
def lopF (w : BitVec 32) : LOp :=
  { c := w.extractLsb' 31 1, hint := w.extractLsb' 29 2, ls := fn4F w, rs2 := rs2F w, rs1 := rs1F w, rd := rdF w }

/-- The A-layout fields (R282). -/
def aopF (w : BitVec 32) : AOp :=
  { ord := w.extractLsb' 25 2, rs2 := rs2F w, rs1 := rs1F w, scope := f3F w, rd := rdF w }

/-- Function table of major 01100 (OP). R285. -/
def decodeOp (w : BitVec 32) : Except DecodeError Instr :=
  match f7F w, f3F w with
  | 0#7, 0#3 => .ok (.add (rdF w) (rs1F w) (rs2F w))
  | 32#7, 0#3 => .ok (.sub (rdF w) (rs1F w) (rs2F w))
  | 0#7, 1#3 => .ok (.sll (rdF w) (rs1F w) (rs2F w))
  | 0#7, 2#3 => .ok (.slt (rdF w) (rs1F w) (rs2F w))
  | 0#7, 3#3 => .ok (.sltu (rdF w) (rs1F w) (rs2F w))
  | 0#7, 4#3 => .ok (.xor (rdF w) (rs1F w) (rs2F w))
  | 0#7, 5#3 => .ok (.srl (rdF w) (rs1F w) (rs2F w))
  | 32#7, 5#3 => .ok (.sra (rdF w) (rs1F w) (rs2F w))
  | 0#7, 6#3 => .ok (.or (rdF w) (rs1F w) (rs2F w))
  | 0#7, 7#3 => .ok (.and (rdF w) (rs1F w) (rs2F w))
  | 1#7, 0#3 => .ok (.mul (rdF w) (rs1F w) (rs2F w))
  | 1#7, 1#3 => .ok (.mulh (rdF w) (rs1F w) (rs2F w))
  | 1#7, 3#3 => .ok (.mulhu (rdF w) (rs1F w) (rs2F w))
  | 1#7, 4#3 => .ok (.div (rdF w) (rs1F w) (rs2F w))
  | 1#7, 5#3 => .ok (.divu (rdF w) (rs1F w) (rs2F w))
  | 1#7, 6#3 => .ok (.rem (rdF w) (rs1F w) (rs2F w))
  | 1#7, 7#3 => .ok (.remu (rdF w) (rs1F w) (rs2F w))
  | 5#7, 0#3 => .ok (.min (rdF w) (rs1F w) (rs2F w))
  | 5#7, 1#3 => .ok (.max (rdF w) (rs1F w) (rs2F w))
  | 5#7, 2#3 => .ok (.minu (rdF w) (rs1F w) (rs2F w))
  | 5#7, 3#3 => .ok (.maxu (rdF w) (rs1F w) (rs2F w))
  | 48#7, 0#3 => if rs2F w = 0 then .ok (.clz (rdF w) (rs1F w)) else .error .unusedField
  | 48#7, 1#3 => if rs2F w = 0 then .ok (.ctz (rdF w) (rs1F w)) else .error .unusedField
  | 48#7, 2#3 => if rs2F w = 0 then .ok (.popc (rdF w) (rs1F w)) else .error .unusedField
  | 2#7, 0#3 => .ok (.lea (rdF w) (rs1F w) (rs2F w) 0#2)
  | 2#7, 1#3 => .ok (.lea (rdF w) (rs1F w) (rs2F w) 1#2)
  | 2#7, 2#3 => .ok (.lea (rdF w) (rs1F w) (rs2F w) 2#2)
  | 2#7, 3#3 => .ok (.lea (rdF w) (rs1F w) (rs2F w) 3#2)
  | _, _ => .error .undefinedFunction

/-- Function table of major 00100 (OPIMM). R285. -/
def decodeOpimm (w : BitVec 32) : Except DecodeError Instr :=
  match f3F w with
  | 0#3 => .ok (.addi (rdF w) (rs1F w) (immI w))
  | 2#3 => .ok (.slti (rdF w) (rs1F w) (immI w))
  | 3#3 => .ok (.sltiu (rdF w) (rs1F w) (immI w))
  | 4#3 => .ok (.xori (rdF w) (rs1F w) (immI w))
  | 6#3 => .ok (.ori (rdF w) (rs1F w) (immI w))
  | 7#3 => .ok (.andi (rdF w) (rs1F w) (immI w))
  | 1#3 =>
    if (immI w).extractLsb' 6 6 = 0#6 then .ok (.slli (rdF w) (rs1F w) (shF w)) else .error .undefinedFunction
  | 5#3 =>
    if (immI w).extractLsb' 6 6 = 0#6 then .ok (.srli (rdF w) (rs1F w) (shF w)) else
    if (immI w).extractLsb' 6 6 = 16#6 then .ok (.srai (rdF w) (rs1F w) (shF w)) else .error .undefinedFunction
  | _ => .error .undefinedFunction

/-- Function table of major 01101 (LUI). -/
def decodeLui (w : BitVec 32) : Except DecodeError Instr :=
  .ok (.lui (rdF w) (immU w))

/-- Function table of major 00101 (ADDPC). -/
def decodeAddpc (w : BitVec 32) : Except DecodeError Instr :=
  .ok (.addpc (rdF w) (immU w))

/-- Function table of major 11000 (BRANCH). R286. -/
def decodeBranch (w : BitVec 32) : Except DecodeError Instr :=
  match f3F w with
  | 0#3 => .ok (.beq (rs1F w) (rs2F w) (immB w))
  | 1#3 => .ok (.bne (rs1F w) (rs2F w) (immB w))
  | 4#3 => .ok (.blt (rs1F w) (rs2F w) (immB w))
  | 5#3 => .ok (.bge (rs1F w) (rs2F w) (immB w))
  | 6#3 => .ok (.bltu (rs1F w) (rs2F w) (immB w))
  | 7#3 => .ok (.bgeu (rs1F w) (rs2F w) (immB w))
  | _ => .error .undefinedFunction

/-- Function table of major 11011 (JAL). -/
def decodeJal (w : BitVec 32) : Except DecodeError Instr :=
  .ok (.jal (rdF w) (immJ w))

/-- Function table of major 11001 (JALR). R286. -/
def decodeJalr (w : BitVec 32) : Except DecodeError Instr :=
  match f3F w with
  | 0#3 => .ok (.jalr (rdF w) (rs1F w) (immI w))
  | _ => .error .undefinedFunction

/-- Function table of major 00000 (LOADL). R286. -/
def decodeLoadl (w : BitVec 32) : Except DecodeError Instr :=
  match f3F w with
  | 0#3 => .ok (.ldB (rdF w) (rs1F w) (immI w))
  | 1#3 => .ok (.ldH (rdF w) (rs1F w) (immI w))
  | 2#3 => .ok (.ldW (rdF w) (rs1F w) (immI w))
  | 3#3 => .ok (.ldD (rdF w) (rs1F w) (immI w))
  | 4#3 => .ok (.ldBu (rdF w) (rs1F w) (immI w))
  | 5#3 => .ok (.ldHu (rdF w) (rs1F w) (immI w))
  | 6#3 => .ok (.ldWu (rdF w) (rs1F w) (immI w))
  | _ => .error .undefinedFunction

/-- Function table of major 01000 (STOREL). R286. -/
def decodeStorel (w : BitVec 32) : Except DecodeError Instr :=
  match f3F w with
  | 0#3 => .ok (.stB (rs2F w) (rs1F w) (immS w))
  | 1#3 => .ok (.stH (rs2F w) (rs1F w) (immS w))
  | 2#3 => .ok (.stW (rs2F w) (rs1F w) (immS w))
  | 3#3 => .ok (.stD (rs2F w) (rs1F w) (immS w))
  | _ => .error .undefinedFunction

/-- Function table of major 00001 (LOADG). R286. -/
def decodeLoadg (w : BitVec 32) : Except DecodeError Instr :=
  match f3F w with
  | 0#3 => .ok (.ldgLB (lopF w))
  | 1#3 => .ok (.ldgLH (lopF w))
  | 2#3 => .ok (.ldgLW (lopF w))
  | 3#3 => .ok (.ldgLD (lopF w))
  | 4#3 => .ok (.ldgLBu (lopF w))
  | 5#3 => .ok (.ldgLHu (lopF w))
  | 6#3 => .ok (.ldgLWu (lopF w))
  | _ => .error .undefinedFunction

/-- Function table of major 01001 (STOREG). R286. -/
def decodeStoreg (w : BitVec 32) : Except DecodeError Instr :=
  match f3F w with
  | 0#3 => .ok (.stgB (rs2F w) (rs1F w) (immS w))
  | 1#3 => .ok (.stgH (rs2F w) (rs1F w) (immS w))
  | 2#3 => .ok (.stgW (rs2F w) (rs1F w) (immS w))
  | 3#3 => .ok (.stgD (rs2F w) (rs1F w) (immS w))
  | _ => .error .undefinedFunction

/-- Function table of major 00011 (MISC). R286. -/
def decodeMisc (w : BitVec 32) : Except DecodeError Instr :=
  match f3F w with
  | 0#3 => if rdF w = 0 ∧ rs1F w = 0 ∧ (immI w).extractLsb' 5 7 = 0 then .ok (.fence ((immI w).extractLsb' 3 2) ((immI w).extractLsb' 0 3)) else .error .unusedField
  | 1#3 => if rdF w = 0 ∧ rs1F w = 0 ∧ immI w = 0 then .ok .fenceSv else .error .unusedField
  | 2#3 => if rdF w = 0 ∧ rs1F w = 0 ∧ immI w = 0 then .ok .fenceVs else .error .unusedField
  | _ => .error .undefinedFunction

/-- Function table of major 01011 (SYNC). The R-format group by f7. R287. -/
def decodeSyncGroup (w : BitVec 32) : Except DecodeError Instr :=
  match f7F w with
  | 0#7 => .ok (.bind (rdF w) (rs1F w) (rs2F w))
  | 1#7 => .ok (.unbind (rdF w) (rs1F w) (rs2F w))
  | 2#7 => if rdF w = 0 then .ok (.fres (rs1F w) (rs2F w)) else .error .unusedField
  | 3#7 => if rdF w = 0 then .ok (.barinit (rs1F w) (rs2F w)) else .error .unusedField
  | 4#7 => if rdF w = 0 then .ok (.barexp (rs1F w) (rs2F w)) else .error .unusedField
  | 5#7 => if rdF w = 0 then .ok (.bararr (rs1F w) (rs2F w)) else .error .unusedField
  | _ => .error .undefinedFunction

/-- Function table of major 01011 (SYNC). R286. -/
def decodeSync (w : BitVec 32) : Except DecodeError Instr :=
  match f3F w with
  | 0#3 => if (immI w).extractLsb' 6 6 = 0 then .ok (.ldAcq (rdF w) (rs1F w) ((immI w).extractLsb' 4 2) ((immI w).getLsbD 3) ((immI w).extractLsb' 0 3)) else .error .unusedField
  | 1#3 => if (immS w).extractLsb' 6 6 = 0 then .ok (.stRel (rs2F w) (rs1F w) ((immS w).extractLsb' 4 2) ((immS w).getLsbD 3) ((immS w).extractLsb' 0 3)) else .error .unusedField
  | 3#3 => .ok (.waitfL (lopF w))
  | 4#3 => .ok (.barwL (lopF w))
  | 2#3 => decodeSyncGroup w
  | _ => .error .undefinedFunction

/-- Function table of major 01010 (AMO). R289. -/
def decodeAmo (w : BitVec 32) : Except DecodeError Instr :=
  match aopSel w with
  | 0#5 => .ok (.amoAddB (aopF w))
  | 1#5 => .ok (.amoAddH (aopF w))
  | 2#5 => .ok (.amoAddW (aopF w))
  | 3#5 => .ok (.amoAddD (aopF w))
  | 4#5 => .ok (.amoSwapB (aopF w))
  | 5#5 => .ok (.amoSwapH (aopF w))
  | 6#5 => .ok (.amoSwapW (aopF w))
  | 7#5 => .ok (.amoSwapD (aopF w))
  | 8#5 => .ok (.amoCasB (aopF w))
  | 9#5 => .ok (.amoCasH (aopF w))
  | 10#5 => .ok (.amoCasW (aopF w))
  | 11#5 => .ok (.amoCasD (aopF w))
  | 12#5 => .ok (.amoAndW (aopF w))
  | 13#5 => .ok (.amoAndD (aopF w))
  | 14#5 => .ok (.amoOrW (aopF w))
  | 15#5 => .ok (.amoOrD (aopF w))
  | 16#5 => .ok (.amoXorW (aopF w))
  | 17#5 => .ok (.amoXorD (aopF w))
  | 18#5 => .ok (.amoMinW (aopF w))
  | 19#5 => .ok (.amoMinD (aopF w))
  | 20#5 => .ok (.amoMaxW (aopF w))
  | 21#5 => .ok (.amoMaxD (aopF w))
  | 22#5 => .ok (.amoAddBf16 (aopF w))
  | 23#5 => .ok (.amoAddF32 (aopF w))
  | 24#5 => .ok (.amoAddF64 (aopF w))
  | 25#5 => .ok (.amoAmaxBf16 (aopF w))
  | 26#5 => .ok (.amoAmaxF16 (aopF w))
  | 27#5 => .ok (.amoAmaxF32 (aopF w))
  | 28#5 => .ok (.amoAmaxF64 (aopF w))
  | 29#5 => .ok (.append (aopF w))
  | 30#5 => .ok (.seal (aopF w))
  | _ => .error .undefinedFunction

/-- Function table of major 11100 (SYSTEM). R286. -/
def decodeSystem (w : BitVec 32) : Except DecodeError Instr :=
  match f3F w with
  | 0#3 => if rdF w = 0 ∧ rs1F w = 0 ∧ immI w = 0 then .ok .exit else .error .unusedField
  | 1#3 => if rdF w = 0 then .ok (.csrw (immI w) (rs1F w)) else .error .unusedField
  | 2#3 => if rdF w = 0 then .ok (.csrs (immI w) (rs1F w)) else .error .unusedField
  | 3#3 => if rdF w = 0 then .ok (.csrc (immI w) (rs1F w)) else .error .unusedField
  | 4#3 => if rs1F w = 0 then .ok (.csrr (rdF w) (immI w)) else .error .unusedField
  | 5#3 => .ok (.fork (lopF w))
  | 6#3 => .ok (.yieldL (lopF w))
  | 7#3 => if rdF w = 0 ∧ rs1F w = 0 then .ok (.trap (immI w)) else .error .unusedField
  | _ => .error .undefinedFunction

/-- Function table of major 11110 (MSG). R286. -/
def decodeMsg (w : BitVec 32) : Except DecodeError Instr :=
  match f3F w with
  | 0#3 => if (f7F w).getLsbD 6 then .error .undefinedFunction else .ok (.msend (rdF w) (rs1F w) (rs2F w) ((f7F w).extractLsb' 0 6))
  | 1#3 => if (f7F w).getLsbD 6 then .error .undefinedFunction else if rdF w = 0 then .ok (.msendMc (rs1F w) (rs2F w) ((f7F w).extractLsb' 0 6)) else .error .unusedField
  | 2#3 => if f7F w ≠ 0 then .error .undefinedFunction else .ok (.signal (rdF w) (rs1F w) (rs2F w))
  | 3#3 => .ok (.mrecvL (lopF w))
  | 4#3 => .ok (.qpushL (lopF w))
  | _ => .error .undefinedFunction

/-- Function table of major 11101 (ENGINE). The R-format group by f7. R287. -/
def decodeEngineGroup (w : BitVec 32) : Except DecodeError Instr :=
  match f7F w with
  | 0#7 => .ok (.cpy (rdF w) (rs1F w) (rs2F w))
  | 1#7 => .ok (.stream (rdF w) (rs1F w) (rs2F w))
  | 2#7 => .ok (.xform (rdF w) (rs1F w) (rs2F w))
  | 3#7 => if rdF w = 0 then .ok (.publish (rs1F w) (rs2F w)) else .error .unusedField
  | 4#7 => .ok (.subscr (rdF w) (rs1F w) (rs2F w))
  | 5#7 => if rdF w = 0 then .ok (.subrel (rs1F w) (rs2F w)) else .error .unusedField
  | 6#7 => if rs2F w = 0 then .ok (.deviceLaunch (rdF w) (rs1F w)) else .error .unusedField
  | _ => .error .undefinedFunction

/-- Function table of major 11101 (ENGINE). R286. -/
def decodeEngine (w : BitVec 32) : Except DecodeError Instr :=
  match f3F w with
  | 1#3 => .ok (.cpywaitL (lopF w))
  | 2#3 => .ok (.vwaitL (lopF w))
  | 0#3 => decodeEngineGroup w
  | _ => .error .undefinedFunction

/-- Function table of major 10000 (VCFG). R288. -/
def decodeVcfg (w : BitVec 32) : Except DecodeError Instr :=
  match fn4F w with
  | 0#4 => .ok (.vsetvl (vopF w))
  | 1#4 => .ok (.vsettype (vopF w))
  | _ => .error .undefinedFunction

/-- Function table of major 10001 (VINT). R288. -/
def decodeVint (w : BitVec 32) : Except DecodeError Instr :=
  match fn4F w with
  | 0#4 => .ok (.vadd (vopF w))
  | 1#4 => .ok (.vsub (vopF w))
  | 2#4 => .ok (.vmul (vopF w))
  | 3#4 => .ok (.vmulh (vopF w))
  | 4#4 => .ok (.vmulhu (vopF w))
  | 5#4 => .ok (.vand (vopF w))
  | 6#4 => .ok (.vor (vopF w))
  | 7#4 => .ok (.vxor (vopF w))
  | 8#4 => .ok (.vsll (vopF w))
  | 9#4 => .ok (.vsrl (vopF w))
  | 10#4 => .ok (.vsra (vopF w))
  | 11#4 => .ok (.vmin (vopF w))
  | 12#4 => .ok (.vmax (vopF w))
  | 13#4 => .ok (.vsadd (vopF w))
  | 14#4 => .ok (.vssub (vopF w))
  | 15#4 => .ok (.vaddi (vopF w))
  | _ => .error .undefinedFunction

/-- Function table of major 10010 (VFP). R288. -/
def decodeVfp (w : BitVec 32) : Except DecodeError Instr :=
  match fn4F w with
  | 0#4 => .ok (.vfadd (vopF w))
  | 1#4 => .ok (.vfsub (vopF w))
  | 2#4 => .ok (.vfmul (vopF w))
  | 3#4 => .ok (.vfma (vopF w))
  | 4#4 => .ok (.vfdiv (vopF w))
  | 5#4 => .ok (.vfsqrt (vopF w))
  | 6#4 => .ok (.vfmin (vopF w))
  | 7#4 => .ok (.vfmax (vopF w))
  | 8#4 => .ok (.vcvt (vopF w))
  | 9#4 => .ok (.vquant (vopF w))
  | 10#4 => .ok (.vdequant (vopF w))
  | 11#4 => .ok (.vredsumO (vopF w))
  | 12#4 => .ok (.vredsumU (vopF w))
  | 13#4 => .ok (.vscanO (vopF w))
  | 14#4 => .ok (.vscanF (vopF w))
  | 15#4 => .ok (.vrand (vopF w))
  | _ => .error .undefinedFunction

/-- Function table of major 10011 (VMASK). R288. -/
def decodeVmask (w : BitVec 32) : Except DecodeError Instr :=
  match fn4F w with
  | 0#4 => .ok (.vcmpEq (vopF w))
  | 1#4 => .ok (.vcmpNe (vopF w))
  | 2#4 => .ok (.vcmpLt (vopF w))
  | 3#4 => .ok (.vcmpLe (vopF w))
  | 4#4 => .ok (.vcmpLtu (vopF w))
  | 5#4 => .ok (.vcmpLeu (vopF w))
  | 6#4 => .ok (.mand (vopF w))
  | 7#4 => .ok (.mor (vopF w))
  | 8#4 => .ok (.mxor (vopF w))
  | 9#4 => .ok (.mnot (vopF w))
  | 10#4 => .ok (.mpop (vopF w))
  | 11#4 => .ok (.mfirst (vopF w))
  | 12#4 => .ok (.vredmax (vopF w))
  | 13#4 => .ok (.vredmin (vopF w))
  | 14#4 => .ok (.vredamax (vopF w))
  | 15#4 => .ok (.vargmax (vopF w))
  | _ => .error .undefinedFunction

/-- Function table of major 10100 (VPERM). R288. -/
def decodeVperm (w : BitVec 32) : Except DecodeError Instr :=
  match fn4F w with
  | 0#4 => .ok (.vperm (vopF w))
  | 1#4 => .ok (.vslideup (vopF w))
  | 2#4 => .ok (.vslidedn (vopF w))
  | 3#4 => .ok (.vcompress (vopF w))
  | 4#4 => .ok (.vexpand (vopF w))
  | 5#4 => .ok (.vbcast (vopF w))
  | 6#4 => .ok (.vmovsv (vopF w))
  | 7#4 => .ok (.vmovvs (vopF w))
  | 8#4 => .ok (.vgperm (vopF w))
  | 9#4 => .ok (.vgred (vopF w))
  | 10#4 => .ok (.vcapp (vopF w))
  | _ => .error .undefinedFunction

/-- Function table of major 10101 (VMEML). R288. -/
def decodeVmeml (w : BitVec 32) : Except DecodeError Instr :=
  match fn4F w with
  | 0#4 => .ok (.vld (vopF w))
  | 1#4 => .ok (.vlds (vopF w))
  | 2#4 => .ok (.vldx (vopF w))
  | 3#4 => .ok (.vldC (vopF w))
  | 8#4 => .ok (.vst (vopF w))
  | 9#4 => .ok (.vsts (vopF w))
  | 10#4 => .ok (.vstx (vopF w))
  | 11#4 => .ok (.vstF (vopF w))
  | _ => .error .undefinedFunction

/-- Function table of major 10110 (VMEMG). R286. -/
def decodeVmemg (w : BitVec 32) : Except DecodeError Instr :=
  match f3F w with
  | 0#3 => .ok (.vldgL (lopF w))
  | 1#3 => .ok (.vldgxL (lopF w))
  | 2#3 => .ok (.vldsegL (lopF w))
  | 4#3 => .ok (.vstg (lopF w))
  | 6#3 => .ok (.vscatadd (lopF w))
  | _ => .error .undefinedFunction

/-- Function table of major 10111 (POSN). R288. -/
def decodePosn (w : BitVec 32) : Except DecodeError Instr :=
  match fn4F w with
  | 0#4 => .ok (.pmake (vopF w))
  | 1#4 => .ok (.ptag (vopF w))
  | 2#4 => .ok (.psub (vopF w))
  | 3#4 => .ok (.padd (vopF w))
  | 4#4 => .ok (.dadd (vopF w))
  | 5#4 => .ok (.pcvt (vopF w))
  | 6#4 => .ok (.pdist2 (vopF w))
  | 7#4 => .ok (.vdmin (vopF w))
  | 8#4 => .ok (.frhome (vopF w))
  | 9#4 => .ok (.daddSub (vopF w))
  | _ => .error .undefinedFunction

/-- Function table of major 11010 (MATRIX). R288. -/
def decodeMatrix (w : BitVec 32) : Except DecodeError Instr :=
  match fn4F w with
  | 0#4 => .ok (.tshape (vopF w))
  | 1#4 => .ok (.tclaim (vopF w))
  | 2#4 => .ok (.trelease (vopF w))
  | 3#4 => .ok (.tload (vopF w))
  | 4#4 => .ok (.mma (vopF w))
  | 5#4 => .ok (.mmaS (vopF w))
  | 6#4 => .ok (.mzero (vopF w))
  | 7#4 => .ok (.macc2v (vopF w))
  | 8#4 => .ok (.mv2acc (vopF w))
  | 9#4 => .ok (.macc2l (vopF w))
  | 10#4 => .ok (.mamax (vopF w))
  | 11#4 => .ok (.mmark (vopF w))
  | _ => .error .undefinedFunction

/-- The word read by its major opcode (R283), before the fields that its row does not name are looked at. -/
def decodeFields (w : BitVec 32) : Except DecodeError Instr :=
  match majF w with
  | 0#5 => decodeLoadl w
  | 1#5 => decodeLoadg w
  | 3#5 => decodeMisc w
  | 4#5 => decodeOpimm w
  | 5#5 => decodeAddpc w
  | 8#5 => decodeStorel w
  | 9#5 => decodeStoreg w
  | 10#5 => decodeAmo w
  | 11#5 => decodeSync w
  | 12#5 => decodeOp w
  | 13#5 => decodeLui w
  | 16#5 => decodeVcfg w
  | 17#5 => decodeVint w
  | 18#5 => decodeVfp w
  | 19#5 => decodeVmask w
  | 20#5 => decodeVperm w
  | 21#5 => decodeVmeml w
  | 22#5 => decodeVmemg w
  | 23#5 => decodePosn w
  | 24#5 => decodeBranch w
  | 25#5 => decodeJalr w
  | 26#5 => decodeMatrix w
  | 27#5 => decodeJal w
  | 28#5 => decodeSystem w
  | 29#5 => decodeEngine w
  | 30#5 => decodeMsg w
  | _ => .error .reservedMajor

/-- A word decoded: bits 1:0 are 11 (R274), the tables define it, and the fields its row does not name are zero (R290). -/
def decode (w : BitVec 32) : Except DecodeError Instr :=
  if w.extractLsb' 0 2 = 3#2 then
    match decodeFields w with
    | .ok i => if i.unusedZero then .ok i else .error .unusedField
    | .error e => .error e
  else .error .notWord

/-- The first word of a list of bytes, little-endian (R274), and the bytes that follow it. -/
def decodeBytes : List (BitVec 8) → Except DecodeError (Instr × List (BitVec 8))
  | b0 :: b1 :: b2 :: b3 :: rest =>
    match decode (b3 ++ b2 ++ b1 ++ b0) with
    | .ok i => .ok (i, rest)
    | .error e => .error e
  | _ => .error .truncated

/-- The four bytes of a word as memory holds it, lowest address first (R274). -/
def wordBytes (w : BitVec 32) : List (BitVec 8) :=
  [w.extractLsb' 0 8, w.extractLsb' 8 8, w.extractLsb' 16 8, w.extractLsb' 24 8]

/-- The instruction the decoder reads from a word whose bits the opcode table numbers. Every word is 32 bits, so `nbits`
only says how many of them the table gives. -/
def decodeTableWord (nbits w : Nat) : Option Instr :=
  match decodeBytes (wordBytes (BitVec.ofNat 32 (w % 2 ^ nbits))) with
  | .ok (i, _) => some i
  | .error _ => none

/-! The encoder, from the same formats. -/

/-- R format (R276). -/
def packR (f7 : BitVec 7) (rs2 rs1 : BitVec 5) (f3 : BitVec 3) (rd maj : BitVec 5) : BitVec 32 :=
  f7 ++ rs2 ++ rs1 ++ f3 ++ rd ++ maj ++ 3#2

/-- I format (R276). -/
def packI (imm : BitVec 12) (rs1 : BitVec 5) (f3 : BitVec 3) (rd maj : BitVec 5) : BitVec 32 :=
  imm ++ rs1 ++ f3 ++ rd ++ maj ++ 3#2

/-- S format (R276). -/
def packS (imm : BitVec 12) (rs2 rs1 : BitVec 5) (f3 : BitVec 3) (maj : BitVec 5) : BitVec 32 :=
  packR (imm.extractLsb' 5 7) rs2 rs1 f3 (imm.extractLsb' 0 5) maj

/-- B format, of imm[12:1] (R276). -/
def packB (imm : BitVec 12) (rs2 rs1 : BitVec 5) (f3 : BitVec 3) (maj : BitVec 5) : BitVec 32 :=
  imm.extractLsb' 11 1 ++ imm.extractLsb' 4 6 ++ rs2 ++ rs1 ++ f3 ++ imm.extractLsb' 0 4 ++ imm.extractLsb' 10 1 ++ maj
    ++ 3#2

/-- U format (R276). -/
def packU (imm : BitVec 20) (rd maj : BitVec 5) : BitVec 32 := imm ++ rd ++ maj ++ 3#2

/-- J format, of imm[20:1] (R276). -/
def packJ (imm : BitVec 20) (rd maj : BitVec 5) : BitVec 32 :=
  imm.extractLsb' 19 1 ++ imm.extractLsb' 0 10 ++ imm.extractLsb' 10 1 ++ imm.extractLsb' 11 8 ++ rd ++ maj ++ 3#2

/-- V format (R278). -/
def packV (o : VOp) (fn4 : BitVec 4) (maj : BitVec 5) : BitVec 32 :=
  o.c ++ o.hint ++ fn4 ++ o.vs2 ++ o.vs1 ++ o.msel ++ o.vd ++ maj ++ 3#2

/-- L and G layouts (R281). -/
def packL (o : LOp) (f3 : BitVec 3) (maj : BitVec 5) : BitVec 32 :=
  o.c ++ o.hint ++ o.ls ++ o.rs2 ++ o.rs1 ++ f3 ++ o.rd ++ maj ++ 3#2

/-- A layout (R282). -/
def packA (o : AOp) (aop maj : BitVec 5) : BitVec 32 :=
  aop ++ o.ord ++ o.rs2 ++ o.rs1 ++ o.scope ++ o.rd ++ maj ++ 3#2

/-- The word of an instruction (R276-R289): the fields packed where the format places them. Commands and events have
no word and answer 0, which no decoder accepts (R274). -/
def encode : Instr → BitVec 32
  | .createQueue => 0
  | .deleteQueue => 0
  | .openAperture => 0
  | .closeAperture => 0
  | .createContext => 0
  | .destroyContext => 0
  | .setHomeMap => 0
  | .launch => 0
  | .preempt => 0
  | .resume => 0
  | .map => 0
  | .unmap => 0
  | .freePage => 0
  | .readManifest => 0
  | .fwStage => 0
  | .fwActivate => 0
  | .fwCommit => 0
  | .fwQuery => 0
  | .debugUnlock => 0
  | .lifecycle => 0
  | .measureExtend => 0
  | .ownerSet => 0
  | .submissionFetch => 0
  | .commandCompletion => 0
  | .mailboxWrite => 0
  | .sqdb => 0
  | .cqdb => 0
  | .admctlBind => 0
  | .admctlUnbind => 0
  | .adminQueueUnbindDone => 0
  | .registerWrite => 0
  | .bhmsub => 0
  | .bfresaResolve => 0
  | .bfresaFault => 0
  | .bfltactResume => 0
  | .bfltactKill => 0
  | .bwdkick => 0
  | .ccmdQuiesce => 0
  | .ccmdResume => 0
  | .ccmdReset => 0
  | .ccmdTlbinv => 0
  | .ccmdFlushChainCache => 0
  | .hmcqpop => 0
  | .hmTakeRecord => 0
  | .launchResubmit => 0
  | .launchCoreConfigure => 0
  | .walkerStep => 0
  | .queueAgeReady => 0
  | .strandGrant => 0
  | .preemptDecision => 0
  | .forcedLeave => 0
  | .faultQueueRetry => 0
  | .scoreboardTimeout => 0
  | .hazardTimeout => 0
  | .convoySplit => 0
  | .launchEnd => 0
  | .hmCompletionWrite => 0
  | .contextSave => 0
  | .stepBudgetExpiry => 0
  | .heartbeatExpiry => 0
  | .watchdogWarning => 0
  | .warmRestart => 0
  | .dieReset => 0
  | .moduleReset => 0
  | .boot => 0
  | .bootTimeout => 0
  | .powerLoss => 0
  | .cpHandover => 0
  | .swapTimeout => 0
  | .rcvyBegin => 0
  | .rcvyData => 0
  | .rcvyEnd => 0
  | .rcvyQuery => 0
  | .getVersion => 0
  | .getCapabilities => 0
  | .negotiateAlgorithms => 0
  | .getDigests => 0
  | .getCertificate => 0
  | .challenge => 0
  | .getMeasurements => 0
  | .chunkSend => 0
  | .chunkGet => 0
  | .debugAccess => 0
  | .flitReceive => 0
  | .linkReplay => 0
  | .linkRetrainDone => 0
  | .laneLoss => 0
  | .packetSchedule => 0
  | .multicastSplit => 0
  | .clockFailover => 0
  | .readRequest => 0
  | .writeRequest => 0
  | .atomicRequest => 0
  | .appendReservation => 0
  | .messageAppend => 0
  | .signalArrival => 0
  | .multicastMessage => 0
  | .pagerService => 0
  | .routeAndLinkMaintenance => 0
  | .reservedOp => 0
  | .responseWithData => 0
  | .acknowledgement => 0
  | .errorResponse => 0
  | .retryLaterResponse => 0
  | .retryLaterResend => 0
  | .retransmitTimeout => 0
  | .cxlReadTimeout => 0
  | .cxlViral => 0
  | .patrolScrub => 0
  | .p1Entry => 0
  | .p2Entry => 0
  | .p3Entry => 0
  | .p4Entry => 0
  | .coreWake => 0
  | .loadDataReturn => 0
  | .registrationAnswer => 0
  | .registrationTimeout => 0
  | .futureRegistration => 0
  | .futureResolution => 0
  | .waiterReady => 0
  | .answerArrival => 0
  | .heldReleaseWrite => 0
  | .globalWritePerform => 0
  | .globalReadPerform => 0
  | .copyTransferComplete => 0
  | .streamEnd => 0
  | .stevedorePushFill => 0
  | .stevedorePullDrain => 0
  | .matrixCommandFinish => 0
  | .transformPerform => 0
  | .publishSwap => 0
  | .add rd rs1 rs2 => packR 0b0000000 rs2 rs1 0b000 rd 0b01100
  | .sub rd rs1 rs2 => packR 0b0100000 rs2 rs1 0b000 rd 0b01100
  | .sll rd rs1 rs2 => packR 0b0000000 rs2 rs1 0b001 rd 0b01100
  | .slt rd rs1 rs2 => packR 0b0000000 rs2 rs1 0b010 rd 0b01100
  | .sltu rd rs1 rs2 => packR 0b0000000 rs2 rs1 0b011 rd 0b01100
  | .xor rd rs1 rs2 => packR 0b0000000 rs2 rs1 0b100 rd 0b01100
  | .srl rd rs1 rs2 => packR 0b0000000 rs2 rs1 0b101 rd 0b01100
  | .sra rd rs1 rs2 => packR 0b0100000 rs2 rs1 0b101 rd 0b01100
  | .or rd rs1 rs2 => packR 0b0000000 rs2 rs1 0b110 rd 0b01100
  | .and rd rs1 rs2 => packR 0b0000000 rs2 rs1 0b111 rd 0b01100
  | .mul rd rs1 rs2 => packR 0b0000001 rs2 rs1 0b000 rd 0b01100
  | .mulh rd rs1 rs2 => packR 0b0000001 rs2 rs1 0b001 rd 0b01100
  | .mulhu rd rs1 rs2 => packR 0b0000001 rs2 rs1 0b011 rd 0b01100
  | .div rd rs1 rs2 => packR 0b0000001 rs2 rs1 0b100 rd 0b01100
  | .divu rd rs1 rs2 => packR 0b0000001 rs2 rs1 0b101 rd 0b01100
  | .rem rd rs1 rs2 => packR 0b0000001 rs2 rs1 0b110 rd 0b01100
  | .remu rd rs1 rs2 => packR 0b0000001 rs2 rs1 0b111 rd 0b01100
  | .lea rd rs1 rs2 n => packR 0b0000010 rs2 rs1 (0#1 ++ n) rd 0b01100
  | .min rd rs1 rs2 => packR 0b0000101 rs2 rs1 0b000 rd 0b01100
  | .max rd rs1 rs2 => packR 0b0000101 rs2 rs1 0b001 rd 0b01100
  | .minu rd rs1 rs2 => packR 0b0000101 rs2 rs1 0b010 rd 0b01100
  | .maxu rd rs1 rs2 => packR 0b0000101 rs2 rs1 0b011 rd 0b01100
  | .clz rd rs1 => packR 0b0110000 0 rs1 0b000 rd 0b01100
  | .ctz rd rs1 => packR 0b0110000 0 rs1 0b001 rd 0b01100
  | .popc rd rs1 => packR 0b0110000 0 rs1 0b010 rd 0b01100
  | .addi rd rs1 imm => packI imm rs1 0b000 rd 0b00100
  | .slti rd rs1 imm => packI imm rs1 0b010 rd 0b00100
  | .sltiu rd rs1 imm => packI imm rs1 0b011 rd 0b00100
  | .xori rd rs1 imm => packI imm rs1 0b100 rd 0b00100
  | .ori rd rs1 imm => packI imm rs1 0b110 rd 0b00100
  | .andi rd rs1 imm => packI imm rs1 0b111 rd 0b00100
  | .slli rd rs1 sh => packI (0b000000#6 ++ sh) rs1 0b001 rd 0b00100
  | .srli rd rs1 sh => packI (0b000000#6 ++ sh) rs1 0b101 rd 0b00100
  | .srai rd rs1 sh => packI (0b010000#6 ++ sh) rs1 0b101 rd 0b00100
  | .lui rd imm => packU imm rd 0b01101
  | .addpc rd imm => packU imm rd 0b00101
  | .beq rs1 rs2 imm => packB imm rs2 rs1 0b000 0b11000
  | .bne rs1 rs2 imm => packB imm rs2 rs1 0b001 0b11000
  | .blt rs1 rs2 imm => packB imm rs2 rs1 0b100 0b11000
  | .bge rs1 rs2 imm => packB imm rs2 rs1 0b101 0b11000
  | .bltu rs1 rs2 imm => packB imm rs2 rs1 0b110 0b11000
  | .bgeu rs1 rs2 imm => packB imm rs2 rs1 0b111 0b11000
  | .jal rd imm => packJ imm rd 0b11011
  | .jalr rd rs1 imm => packI imm rs1 0b000 rd 0b11001
  | .ldB rd rs1 imm => packI imm rs1 0b000 rd 0b00000
  | .ldH rd rs1 imm => packI imm rs1 0b001 rd 0b00000
  | .ldW rd rs1 imm => packI imm rs1 0b010 rd 0b00000
  | .ldD rd rs1 imm => packI imm rs1 0b011 rd 0b00000
  | .ldBu rd rs1 imm => packI imm rs1 0b100 rd 0b00000
  | .ldHu rd rs1 imm => packI imm rs1 0b101 rd 0b00000
  | .ldWu rd rs1 imm => packI imm rs1 0b110 rd 0b00000
  | .stB rs2 rs1 imm => packS imm rs2 rs1 0b000 0b01000
  | .stH rs2 rs1 imm => packS imm rs2 rs1 0b001 0b01000
  | .stW rs2 rs1 imm => packS imm rs2 rs1 0b010 0b01000
  | .stD rs2 rs1 imm => packS imm rs2 rs1 0b011 0b01000
  | .ldgLB o => packL o 0b000 0b00001
  | .ldgLH o => packL o 0b001 0b00001
  | .ldgLW o => packL o 0b010 0b00001
  | .ldgLD o => packL o 0b011 0b00001
  | .ldgLBu o => packL o 0b100 0b00001
  | .ldgLHu o => packL o 0b101 0b00001
  | .ldgLWu o => packL o 0b110 0b00001
  | .stgB rs2 rs1 imm => packS imm rs2 rs1 0b000 0b01001
  | .stgH rs2 rs1 imm => packS imm rs2 rs1 0b001 0b01001
  | .stgW rs2 rs1 imm => packS imm rs2 rs1 0b010 0b01001
  | .stgD rs2 rs1 imm => packS imm rs2 rs1 0b011 0b01001
  | .fence kind scope => packI (0#7 ++ kind ++ scope) 0 0b000 0 0b00011
  | .fenceSv => packI 0 0 0b001 0 0b00011
  | .fenceVs => packI 0 0 0b010 0 0b00011
  | .ldAcq rd rs1 wid loc scope => packI (0#6 ++ wid ++ BitVec.ofBool loc ++ scope) rs1 0b000 rd 0b01011
  | .stRel rs2 rs1 wid loc scope => packS (0#6 ++ wid ++ BitVec.ofBool loc ++ scope) rs2 rs1 0b001 0b01011
  | .bind rd rs1 rs2 => packR 0b0000000 rs2 rs1 0b010 rd 0b01011
  | .unbind rd rs1 rs2 => packR 0b0000001 rs2 rs1 0b010 rd 0b01011
  | .fres rs1 rs2 => packR 0b0000010 rs2 rs1 0b010 0 0b01011
  | .barinit rs1 rs2 => packR 0b0000011 rs2 rs1 0b010 0 0b01011
  | .barexp rs1 rs2 => packR 0b0000100 rs2 rs1 0b010 0 0b01011
  | .bararr rs1 rs2 => packR 0b0000101 rs2 rs1 0b010 0 0b01011
  | .waitfL o => packL o 0b011 0b01011
  | .barwL o => packL o 0b100 0b01011
  | .amoAddB o => packA o 0b00000 0b01010
  | .amoAddH o => packA o 0b00001 0b01010
  | .amoAddW o => packA o 0b00010 0b01010
  | .amoAddD o => packA o 0b00011 0b01010
  | .amoSwapB o => packA o 0b00100 0b01010
  | .amoSwapH o => packA o 0b00101 0b01010
  | .amoSwapW o => packA o 0b00110 0b01010
  | .amoSwapD o => packA o 0b00111 0b01010
  | .amoCasB o => packA o 0b01000 0b01010
  | .amoCasH o => packA o 0b01001 0b01010
  | .amoCasW o => packA o 0b01010 0b01010
  | .amoCasD o => packA o 0b01011 0b01010
  | .amoAndW o => packA o 0b01100 0b01010
  | .amoAndD o => packA o 0b01101 0b01010
  | .amoOrW o => packA o 0b01110 0b01010
  | .amoOrD o => packA o 0b01111 0b01010
  | .amoXorW o => packA o 0b10000 0b01010
  | .amoXorD o => packA o 0b10001 0b01010
  | .amoMinW o => packA o 0b10010 0b01010
  | .amoMinD o => packA o 0b10011 0b01010
  | .amoMaxW o => packA o 0b10100 0b01010
  | .amoMaxD o => packA o 0b10101 0b01010
  | .amoAddBf16 o => packA o 0b10110 0b01010
  | .amoAddF32 o => packA o 0b10111 0b01010
  | .amoAddF64 o => packA o 0b11000 0b01010
  | .amoAmaxBf16 o => packA o 0b11001 0b01010
  | .amoAmaxF16 o => packA o 0b11010 0b01010
  | .amoAmaxF32 o => packA o 0b11011 0b01010
  | .amoAmaxF64 o => packA o 0b11100 0b01010
  | .append o => packA o 0b11101 0b01010
  | .seal o => packA o 0b11110 0b01010
  | .exit => packI 0 0 0b000 0 0b11100
  | .csrw idx rs1 => packI idx rs1 0b001 0 0b11100
  | .csrs idx rs1 => packI idx rs1 0b010 0 0b11100
  | .csrc idx rs1 => packI idx rs1 0b011 0 0b11100
  | .csrr rd idx => packI idx 0 0b100 rd 0b11100
  | .fork o => packL o 0b101 0b11100
  | .yieldL o => packL o 0b110 0b11100
  | .trap code => packI code 0 0b111 0 0b11100
  | .msend rd rs1 rs2 len => packR (0#1 ++ len) rs2 rs1 0b000 rd 0b11110
  | .msendMc rs1 rs2 len => packR (0#1 ++ len) rs2 rs1 0b001 0 0b11110
  | .signal rd rs1 rs2 => packR 0b0000000 rs2 rs1 0b010 rd 0b11110
  | .mrecvL o => packL o 0b011 0b11110
  | .qpushL o => packL o 0b100 0b11110
  | .cpy rd rs1 rs2 => packR 0b0000000 rs2 rs1 0b000 rd 0b11101
  | .stream rd rs1 rs2 => packR 0b0000001 rs2 rs1 0b000 rd 0b11101
  | .xform rd rs1 rs2 => packR 0b0000010 rs2 rs1 0b000 rd 0b11101
  | .publish rs1 rs2 => packR 0b0000011 rs2 rs1 0b000 0 0b11101
  | .subscr rd rs1 rs2 => packR 0b0000100 rs2 rs1 0b000 rd 0b11101
  | .subrel rs1 rs2 => packR 0b0000101 rs2 rs1 0b000 0 0b11101
  | .deviceLaunch rd rs1 => packR 0b0000110 0 rs1 0b000 rd 0b11101
  | .cpywaitL o => packL o 0b001 0b11101
  | .vwaitL o => packL o 0b010 0b11101
  | .vsetvl o => packV o 0b0000 0b10000
  | .vsettype o => packV o 0b0001 0b10000
  | .vadd o => packV o 0b0000 0b10001
  | .vsub o => packV o 0b0001 0b10001
  | .vmul o => packV o 0b0010 0b10001
  | .vmulh o => packV o 0b0011 0b10001
  | .vmulhu o => packV o 0b0100 0b10001
  | .vand o => packV o 0b0101 0b10001
  | .vor o => packV o 0b0110 0b10001
  | .vxor o => packV o 0b0111 0b10001
  | .vsll o => packV o 0b1000 0b10001
  | .vsrl o => packV o 0b1001 0b10001
  | .vsra o => packV o 0b1010 0b10001
  | .vmin o => packV o 0b1011 0b10001
  | .vmax o => packV o 0b1100 0b10001
  | .vsadd o => packV o 0b1101 0b10001
  | .vssub o => packV o 0b1110 0b10001
  | .vaddi o => packV o 0b1111 0b10001
  | .vfadd o => packV o 0b0000 0b10010
  | .vfsub o => packV o 0b0001 0b10010
  | .vfmul o => packV o 0b0010 0b10010
  | .vfma o => packV o 0b0011 0b10010
  | .vfdiv o => packV o 0b0100 0b10010
  | .vfsqrt o => packV o 0b0101 0b10010
  | .vfmin o => packV o 0b0110 0b10010
  | .vfmax o => packV o 0b0111 0b10010
  | .vcvt o => packV o 0b1000 0b10010
  | .vquant o => packV o 0b1001 0b10010
  | .vdequant o => packV o 0b1010 0b10010
  | .vredsumO o => packV o 0b1011 0b10010
  | .vredsumU o => packV o 0b1100 0b10010
  | .vscanO o => packV o 0b1101 0b10010
  | .vscanF o => packV o 0b1110 0b10010
  | .vrand o => packV o 0b1111 0b10010
  | .vcmpEq o => packV o 0b0000 0b10011
  | .vcmpNe o => packV o 0b0001 0b10011
  | .vcmpLt o => packV o 0b0010 0b10011
  | .vcmpLe o => packV o 0b0011 0b10011
  | .vcmpLtu o => packV o 0b0100 0b10011
  | .vcmpLeu o => packV o 0b0101 0b10011
  | .mand o => packV o 0b0110 0b10011
  | .mor o => packV o 0b0111 0b10011
  | .mxor o => packV o 0b1000 0b10011
  | .mnot o => packV o 0b1001 0b10011
  | .mpop o => packV o 0b1010 0b10011
  | .mfirst o => packV o 0b1011 0b10011
  | .vredmax o => packV o 0b1100 0b10011
  | .vredmin o => packV o 0b1101 0b10011
  | .vredamax o => packV o 0b1110 0b10011
  | .vargmax o => packV o 0b1111 0b10011
  | .vperm o => packV o 0b0000 0b10100
  | .vslideup o => packV o 0b0001 0b10100
  | .vslidedn o => packV o 0b0010 0b10100
  | .vcompress o => packV o 0b0011 0b10100
  | .vexpand o => packV o 0b0100 0b10100
  | .vbcast o => packV o 0b0101 0b10100
  | .vmovsv o => packV o 0b0110 0b10100
  | .vmovvs o => packV o 0b0111 0b10100
  | .vgperm o => packV o 0b1000 0b10100
  | .vgred o => packV o 0b1001 0b10100
  | .vcapp o => packV o 0b1010 0b10100
  | .vld o => packV o 0b0000 0b10101
  | .vlds o => packV o 0b0001 0b10101
  | .vldx o => packV o 0b0010 0b10101
  | .vldC o => packV o 0b0011 0b10101
  | .vst o => packV o 0b1000 0b10101
  | .vsts o => packV o 0b1001 0b10101
  | .vstx o => packV o 0b1010 0b10101
  | .vstF o => packV o 0b1011 0b10101
  | .vldgL o => packL o 0b000 0b10110
  | .vldgxL o => packL o 0b001 0b10110
  | .vldsegL o => packL o 0b010 0b10110
  | .vstg o => packL o 0b100 0b10110
  | .vscatadd o => packL o 0b110 0b10110
  | .pmake o => packV o 0b0000 0b10111
  | .ptag o => packV o 0b0001 0b10111
  | .psub o => packV o 0b0010 0b10111
  | .padd o => packV o 0b0011 0b10111
  | .dadd o => packV o 0b0100 0b10111
  | .pcvt o => packV o 0b0101 0b10111
  | .pdist2 o => packV o 0b0110 0b10111
  | .vdmin o => packV o 0b0111 0b10111
  | .frhome o => packV o 0b1000 0b10111
  | .daddSub o => packV o 0b1001 0b10111
  | .tshape o => packV o 0b0000 0b11010
  | .tclaim o => packV o 0b0001 0b11010
  | .trelease o => packV o 0b0010 0b11010
  | .tload o => packV o 0b0011 0b11010
  | .mma o => packV o 0b0100 0b11010
  | .mmaS o => packV o 0b0101 0b11010
  | .mzero o => packV o 0b0110 0b11010
  | .macc2v o => packV o 0b0111 0b11010
  | .mv2acc o => packV o 0b1000 0b11010
  | .macc2l o => packV o 0b1001 0b11010
  | .mamax o => packV o 0b1010 0b11010
  | .mmark o => packV o 0b1011 0b11010
  | .illegalInstruction _ => 0
  | .granuleSetFull => 0
  | .reservedManagementChannel => 0

end Sys2Proof
end

