-- ==== Sys2Proof/Config.lean ====
section
/-!
DEFINITION. What an implementation fixes and the free values: constants without a body, so that no proof can use a value
of one (log 4).
-/

namespace Sys2Proof

/-- The tree that VREDSUM.U and VSCAN.F take (R245), by VL, VLENB, the prefix and the addition: which of the values that
remain is taken next. Every choice gives some full binary tree over the terms in some order. -/
opaque Config.treePick : Nat → Nat → Nat → Nat → Nat

/-- CRC-64 of the bytes of a flit (R19): the polynomial is not given. -/
opaque Config.crc64 : List Byte → Nat

/-- The zero-run coder of R23 and R169: the coded bytes. -/
opaque Config.zeroRunEncode : List Byte → List Byte

/-- The zero-run coder: the decoded bytes, or none where the data does not decode. -/
opaque Config.zeroRunDecode : List Byte → Option (List Byte)

/-- SHA-512 of bytes (R75, R91), as a number whose lowest byte is the digest's first. -/
opaque Config.sha512 : List Byte → Nat

/-- The nonce drawn at the n-th draw (R88, R92). -/
opaque Config.nonce : Nat → Nat

/-- The identity key's certificate hash, by draw (R88). -/
opaque Config.certHash : Nat → Nat

/-- The boot ROM digest MEAS0 (R91). -/
opaque Config.romDigest : Nat

/-- Whether an RSASSA-PSS signature verifies (R75, R90): modulus, message bytes, signature. -/
opaque Config.pssVerify : Nat → List Byte → Nat → Bool

/-- The bytes of an SPDM response (R94), which the public standard lays out: request code, the bytes reported, draw. -/
opaque Config.spdmBytes : Nat → List Byte → Nat → List Byte

/-- A value the spec leaves open, by draw. -/
opaque Config.freeNat : Nat → Nat

end Sys2Proof
end

