-- ==== Sys2Proof/Machine/State.lean ====
section
/-!
DEFINITION. The state of the module: every piece of state the spec names, as plain data, and the state after reset.
-/

namespace Sys2Proof.Machine

/-- Bytes by address, strictly rising, none zero: an unlisted address reads as 0 (log 1). -/
abbrev Mem := List Host.Cell

/-- A map from numbers to values, keys strictly rising. -/
abbrev Table (α : Type) := List (Nat × α)

/-- What stops the machine. No strand trap is one: a trap writes a FAULT record and is a next state (R252). -/
inductive Fault where
  /-- Raised by the step while the module is in OFF and no power-on waits (R26). Safe: nothing runs in OFF. -/
  | off
  deriving DecidableEq, Repr

/-- Why an instruction has no meaning here. -/
inductive Refusal where
  /-- Raised by an arm of the dispatch whose instruction has no meaning yet. Safe. -/
  | notModelled (mnemonic : String)
  deriving DecidableEq, Repr

/-! The strand. -/

/-- A vector register: 8,192 bytes, and the valid-length tag in bytes (R139). -/
structure VReg where
  bits : BitVec 65536
  tag : Nat
  deriving DecidableEq, Repr

/-- The registers a record can hold: scalars, vectors, masks, and the control registers of R137 and R295. -/
structure Regs where
  xs : Vector Word 32
  vs : Vector VReg 32
  ms : Vector (BitVec 8192) 8
  vl : Nat
  vtype : BitVec 64
  sstat : BitVec 64
  eix : Vector Word 5
  estart : BitVec 16
  mrow : BitVec 7
  mkstep : BitVec 32
  deriving DecidableEq, Repr

/-- A tensor descriptor, read (R177). -/
structure TDesc where
  loc : Bool
  base : Nat
  fmt : Nat
  nib : Nat
  blkc : Nat
  rows : Nat
  cols : Nat
  pitch : Nat
  sbase : Nat
  deriving DecidableEq, Repr

/-- What a withdrawn matrix word keeps for its reissue (R399, R408): its marker number, its place in acceptance order, the scales it
copied and the descriptor it read. -/
structure Mark where
  marker : Nat
  order : Nat
  scales : List Nat
  tdesc : Option TDesc
  deriving DecidableEq, Repr

/-- A queued convoy with what it was issued with (R258). `caps` holds the rs1- and rs2-position scalars of each word. -/
structure ConvoyEntry where
  words : List (BitVec 32)
  cpc : Word
  started : Bool
  vl : Nat
  vtype : BitVec 64
  caps : List Word
  /-- For an entry of withdrawn matrix words, what each keeps; empty for any other entry. -/
  marks : List Mark
  /-- A parity error has struck it in the queue (R272). -/
  damaged : Bool
  deriving DecidableEq, Repr

/-- A class of SSTAT flag (R247, R248). -/
inductive Flag where
  | nv | dz | of | uf | nx
  deriving DecidableEq, Repr

/-- The convoy in execution: its entry, which word is next, and what a trap discards (R128) or the end applies (R249). -/
structure Convoy where
  live : Bool
  entry : ConvoyEntry
  k : Nat
  /-- The vector and mask registers, and the dirty tags, when the convoy started. -/
  vs0 : Vector VReg 32
  ms0 : Vector (BitVec 8192) 8
  dirtyV0 : BitVec 32
  dirtyM0 : BitVec 8
  /-- Scalar results, in word order, that the scalar stream sees when the convoy retires. -/
  scalars : List (BitVec 5 × Word)
  /-- Flags raised, in word order: the class and the element. -/
  flags : List (Flag × Nat)
  sat : Bool
  /-- ESTART for the word `resumeAt` of a resumed entry (R262); 0 for every other word. -/
  resumeAt : Nat
  estart : Nat
  /-- A stopped matrix command's place (R262): MSTOP, MKSTEP, MROW. -/
  mstop : Bool
  mkstep : Nat
  mrow : Nat
  /-- Acceptance number + 1 of its first matrix command, 0 before one: its commands withdraw as one entry (R399). -/
  first : Nat
  /-- The strand's damaged registers when the convoy started. -/
  bad0 : List (Nat × Nat)
  /-- Since when its word waits on a local hazard (R129, R131), in ns, and whether on the scoreboard (R120). -/
  since : Option (Nat × Bool)
  deriving DecidableEq, Repr

/-- One element of a load in flight: where it comes from, and where in the image it goes (R139). -/
structure LoadElem where
  addr : Nat
  size : Nat
  /-- The element index, or 0 for a scalar load. -/
  index : Nat
  vreg : Nat
  /-- Byte offset within the vector register. -/
  at_ : Nat
  deriving DecidableEq, Repr

/-- The data still due into a record: a scalar destination with its extension, or vector elements (R139, R372, R373). -/
structure LoadJob where
  elems : List LoadElem
  scalar : Option (BitVec 5 × Bool)
  /-- The faulting word's address, for a failure at a peer or at the home (R375). -/
  fpc : Word
  deriving DecidableEq, Repr

/-- What a waiting record waits for (R134). -/
inductive WaitOn where
  | nothing
  | load (job : LoadJob)
  /-- Consuming load: granules still to read, with the element each feeds; `keep` leaves the granule full (R159). -/
  | granule (elems : List LoadElem) (keep : Bool)
  | future (va : Nat) (rd : BitVec 5) (fpc : Word)
  | barrier (addr : Nat) (rd : BitVec 5)
  | msg (hdr : Nat) (dst : Nat) (rd : BitVec 5)
  | push (addr : Nat)
  | chan (ch : Nat) (id : Nat)
  | marker (n : Nat)
  | pager (pa : Nat)
  /-- A pager future on another module (R42). -/
  | peerPager (node : Nat) (pa : Nat)
  deriving DecidableEq, Repr

/-- The kinds of record (R137). -/
inductive Kind where
  | leave | fork | preempt | fault
  deriving DecidableEq, Repr

/-- The trap block of a PREEMPT or FAULT record (R257). -/
structure TrapBlock where
  cause : Nat
  async : Bool
  killed : Bool
  scalar : Bool
  mstop : Bool
  mismatch : Bool
  image : Bool
  fword : Nat
  fpc : Word
  faddr : Word
  estart : Nat
  mkstep : Nat
  mrow : Nat
  lgc : List Nat
  asid : Nat
  dirtyV : BitVec 32
  dirtyM : BitVec 8
  when_ : Nat
  rescyc : Nat
  fut : Nat
  deriving DecidableEq, Repr

/-- A continuation record (R137, R257, R258), with where it lies (R138) and what it waits for. -/
structure Record where
  kind : Kind
  lsidx : Nat
  ready : Bool
  seqB : Bool
  spilled : Bool
  dpend : Bool
  regp : Bool
  det : Bool
  length : Nat
  pc : Word
  /-- The step's descriptor cell: its index, and STEPADDR as the header holds it. -/
  cell : Nat
  stepAddr : Word
  waitLocal : Bool
  waitAddr : Nat
  next : Nat
  dseq : Nat
  regs : Regs
  smask : BitVec 32
  vmask : BitVec 32
  mmask : BitVec 8
  vlenbl : Nat
  isa : Nat
  prio : Nat
  trap : TrapBlock
  convoys : List ConvoyEntry
  /-- First 64-byte block, in the mooring area or, when spilled, in the overflow region. -/
  block : Nat
  on : WaitOn
  /-- Held for ring space (R255). -/
  held : Bool
  /-- The save engine wrote a damaged register into its image (R271, R273). -/
  damaged : Bool
  /-- What a peer's home has returned for the ENGINE word that its entry 0 performs again (R379, R416). -/
  fetched : List (Nat × Nat × Option (List Byte))
  deriving DecidableEq, Repr

/-- What the scalar stream of a resident strand waits for (R133, R379). -/
inductive AnswerWait where
  | none
  /-- An answer-waiting word sent as the packet with this sequence number to this node. -/
  | packet (node : Nat) (sseq : Nat)
  /-- A registration at a home that is not the core (R133). -/
  | registration (node : Nat) (sseq : Nat)
  deriving DecidableEq, Repr

/-- A resident strand (R123). -/
structure Strand where
  pc : Word
  regs : Regs
  cell : Nat
  dirtyV : BitVec 32
  dirtyM : BitVec 8
  running : Bool
  /-- The core's grant count when the strand was granted: R114 takes the last granted. -/
  granted : Nat
  cv : Convoy
  queue : List ConvoyEntry
  /-- A restart point that the first queued convoy takes up (R262): FWORD, ESTART, MSTOP, MKSTEP, MROW. -/
  resume : Option (Nat × Nat × Bool × Nat × Nat)
  wait : AnswerWait
  /-- Bytes that a peer's home has returned for the ENGINE word in execution: node, address, bytes (R416). -/
  fetched : List (Nat × Nat × Option (List Byte))
  /-- The record a filling strand came from, whose blocks it keeps and to which it returns unchanged when its slot is taken (R267). -/
  src : Option Record
  /-- A trap that waits, with the strand's commands and convoys in their places, for an amax word that is on its way (R399, R408): its trap block
  and header PC. -/
  trapping : Option (TrapBlock × Word)
  /-- Since when the word of its scalar stream waits on a local hazard (R131), in ns, and whether on the scoreboard (R120). -/
  waits : Option (Nat × Bool)
  /-- A pre-emption has been decided against it (R115): its step is not charged for the time until it leaves. -/
  leaving : Bool
  /-- Registers that hold an uncorrectable error (R271), by 8-byte unit: scalar n as (n, 0), vector n as 32 + n, mask n as 64 + n. -/
  bad : List (Nat × Nat)
  deriving DecidableEq, Repr

/-! What a core holds beside its strands. -/

/-- A started step, in the entry of its descriptor cell: who it is, its strands, and its matrix state (R108, R400). -/
structure Step where
  live : Bool
  launch : Nat
  die : Nat
  stage : Nat
  lcore : Nat
  stepno : Nat
  /-- Running and filling strands, and records (R152). -/
  strands : Nat
  rescyc : Nat
  slots : BitVec 32
  bands : BitVec 8
  tm : Nat
  tn : Nat
  tk : Nat
  /-- Next matrix, stream and transform marker numbers, and next identifier per channel (R400). -/
  mmark : Nat
  smark : Nat
  xmark : Nat
  nextId : Vector Nat 16
  /-- Markers up to these have passed (R411, R412); CHDONE per channel (R417). -/
  mpassed : Nat
  spassed : Nat
  xpassed : Nat
  chdone : Vector Nat 16
  deriving DecidableEq, Repr

/-- The tag of an operand slot (R406). -/
structure SlotTag where
  fmt : Nat
  blk : Nat
  shape : Nat
  rows : Nat
  tk : Nat
  /-- First slot of the run. -/
  first : Nat
  deriving DecidableEq, Repr

/-- An engine's traffic with peers (R416): bytes received by node and address, or none where the home refused; whether the writes have
been made; the bytes not delivered with the first cause and address (R418). -/
structure EngineIo where
  got : List (Nat × Nat × Option (List Byte))
  written : Bool
  lost : Nat
  cause : Nat
  faddr : Nat
  deriving DecidableEq, Repr

def EngineIo.none : EngineIo where
  got := []
  written := false
  lost := 0
  cause := 0
  faddr := 0

/-- A copy after issue (R414-R418): the block and the descriptors as read. -/
structure CopyJob where
  cell : Nat
  chan : Nat
  id : Nat
  pc : Word
  asid : Nat
  kind : Nat
  src : TDesc
  ctl : Nat
  dsts : List TDesc
  aux : Nat
  auxLoc : Bool
  shadow : Option Nat
  fut : Option Nat
  bar : Option Nat
  /-- Set when the drain of KIND 3 has read its cells, row by row; 2^32 for a damaged one (R271). -/
  cells : List Nat
  /-- Rows of a gather, by the index list. -/
  rows : List Nat
  io : EngineIo
  deriving DecidableEq, Repr

/-- An accepted matrix command (R397-R411). -/
structure MatCmd where
  word : BitVec 32
  cell : Nat
  /-- The slot whose strand it is attached to, or none once detached (R398). -/
  slot : Option Nat
  cpc : Word
  caps : List Word
  vl : Nat
  vtype : BitVec 64
  /-- Convoy count of its strand when accepted: commands of one convoy form one entry when withdrawn (R399). -/
  convoy : Nat
  /-- Its place in acceptance order on the core, kept across a reissue (R399). -/
  order : Nat
  tdesc : Option TDesc
  fut : Option Nat
  tm : Nat
  tn : Nat
  tk : Nat
  scales : List Nat
  marker : Nat
  drain : Option CopyJob
  /-- Next unit: k-step and row offset within the tile (R408). -/
  mkstep : Nat
  mrow : Nat
  /-- The amax word of a MAMAX at another module: `written` once its atomic has been sent, with the cause of an answer that refuses it (R410). -/
  io : EngineIo
  deriving DecidableEq, Repr

/-- A stream on a port (R420). -/
structure StreamJob where
  cell : Nat
  port : Nat
  num : Nat
  pc : Word
  asid : Nat
  src : Nat
  run : Nat
  cnt1 : Nat
  stride1 : Int
  cnt2 : Nat
  stride2 : Int
  dst : Nat
  bar : Option Nat
  fut : Option Nat
  io : EngineIo
  deriving DecidableEq, Repr

/-- A transform handed to its bank (R422). -/
structure XformJob where
  cell : Nat
  num : Nat
  pc : Word
  addr : Nat
  ctl : Nat
  deriving DecidableEq, Repr

/-- A slot of a stevedore ring (R181). -/
inductive RingSt where
  | free | filling | ready | draining
  deriving DecidableEq, Repr

structure RingSlot where
  st : RingSt
  row0 : Int
  col0 : Int
  /-- SUBREL came while it was FILLING (R425). -/
  marked : Bool
  /-- The tensor of the request being served. -/
  tdesc : Option TDesc
  /-- What the stevedore has received from peers and lost so far (R181-R183). -/
  io : EngineIo
  /-- The word that made the request: its address, and its strand's descriptor cell. -/
  pc : Word
  cell : Nat
  deriving DecidableEq, Repr

/-- A slot before its first request. -/
def RingSlot.idle : RingSlot where
  st := .free
  row0 := 0
  col0 := 0
  marked := false
  tdesc := none
  io := EngineIo.none
  pc := 0
  cell := 0

/-- A subscription (R180) of a launch's stage on this core, with its ring, and the slots whose requests the stevedores have still to perform, in the
order the core issued them (R182). -/
structure Ring where
  launch : Nat
  stage : Nat
  sub : Nat
  slots : List RingSlot
  pending : List Nat
  deriving DecidableEq, Repr

/-- A scoreboard entry (R118): the step, the command it belongs to and the region in bytes. -/
structure Region where
  cell : Nat
  engine : Nat
  id : Nat
  lo : Nat
  hi : Nat
  write : Bool
  deriving DecidableEq, Repr

/-- A pair of the bind table (R193). -/
structure Bind where
  base : Nat
  len : Nat
  loc : Bool
  bollard : Nat
  deriving DecidableEq, Repr

/-- A held ST.REL write (R382). -/
structure HeldRel where
  seqB : Bool
  cell : Nat
  pc : Word
  loc : Bool
  addr : Nat
  size : Nat
  value : Nat
  deriving DecidableEq, Repr

/-- The answer to an answer-waiting word (R379): a value, or a failure with its cause and address. -/
inductive Answer where
  | value (v : Word)
  | fail (cause : Nat) (faddr : Nat)
  | pager (node : Nat) (pa : Nat)
  /-- Bytes read at a peer for an ENGINE word: node, address. -/
  | bytes (node : Nat) (va : Nat) (bs : List Byte)
  deriving DecidableEq, Repr

/-- A pager future's use (R176). -/
structure PagerUse where
  inUse : Bool
  asid : Nat
  page : Nat
  order : Nat
  deriving DecidableEq, Repr

/-- A translation held (R175): the leaf entry and its page. -/
structure Tlb where
  asid : Nat
  base : Nat
  size : Nat
  leaf : BitVec 64
  deriving DecidableEq, Repr

/-- A home map entry (R41). -/
structure HomeEntry where
  first : Nat
  count : Nat
  node : Nat
  deriving DecidableEq, Repr

/-- An entry of the chain cache (R222): ASID, source node and GEN, target node and GEN; QT, QD, TU − TD, w and the two
quanta of R221. -/
structure ChainEntry where
  asid : Nat
  src : Nat
  srcGen : Nat
  dst : Nat
  dstGen : Nat
  qt : Int × Int × Int × Int
  qd : Int × Int × Int × Int
  td : Int × Int × Int
  w : Int
  ea : Int
  eb : Int
  deriving DecidableEq, Repr

/-- A held or logged signal (R51): target address and credit. -/
structure Signal where
  asid : Nat
  laddr : Nat
  credit : Word
  /-- Undelivered bytes for ERRB, of an engine's credit (R418). -/
  err : Nat
  deriving DecidableEq, Repr

/-- A core's clock and power state (R26). -/
inductive Power where
  | p0 | p1 | p2 | p3 | p4
  deriving DecidableEq, Repr

/-- A register file as at the start of a step (R136, R295): everything zero but VTYPE.ILL and the EIX registers. -/
def Regs.fresh : Regs where
  xs := Vector.replicate 32 0
  vs := Vector.replicate 32 { bits := 0, tag := 0 }
  ms := Vector.replicate 8 0
  vl := 0
  vtype := 0x8000000000000000#64
  sstat := 0
  eix := Vector.replicate 5 0xFFFFFFFFFFFFFFFF#64
  estart := 0
  mrow := 0
  mkstep := 0

def ConvoyEntry.empty : ConvoyEntry where
  words := []
  cpc := 0
  started := false
  vl := 0
  vtype := 0
  caps := []
  marks := []
  damaged := false

def Convoy.closed : Convoy where
  live := false
  entry := ConvoyEntry.empty
  k := 0
  vs0 := Vector.replicate 32 { bits := 0, tag := 0 }
  ms0 := Vector.replicate 8 0
  dirtyV0 := 0
  dirtyM0 := 0
  scalars := []
  flags := []
  sat := false
  resumeAt := 0
  estart := 0
  mstop := false
  mkstep := 0
  mrow := 0
  first := 0
  bad0 := []
  since := none

def Strand.fresh : Strand where
  pc := 0
  regs := Regs.fresh
  cell := 0
  dirtyV := 0
  dirtyM := 0
  running := false
  granted := 0
  cv := Convoy.closed
  queue := []
  resume := none
  wait := .none
  fetched := []
  src := none
  trapping := none
  waits := none
  leaving := false
  bad := []

def Step.fresh : Step where
  live := false
  launch := 0
  die := 0
  stage := 0
  lcore := 0
  stepno := 0
  strands := 0
  rescyc := 0
  slots := 0
  bands := 0
  tm := 0
  tn := 0
  tk := 0
  mmark := 1
  smark := 1
  xmark := 1
  nextId := Vector.replicate 16 1
  mpassed := 0
  spassed := 0
  xpassed := 0
  chdone := Vector.replicate 16 0

/-- A core's run state (R68, R69). -/
inductive CoreSt where
  | running | quiescing | quiesced | inReset
  deriving DecidableEq, Repr

/-- A compute core. -/
structure Core where
  cstate : CoreSt
  /-- CERR.VAL and CERR.BUSY (R68). -/
  cerrVal : Bool
  cerrBusy : Bool
  vlcap : BitVec 4
  lpart : BitVec 2
  detm : Bool
  asid : BitVec 16
  gangEn : Bool
  home : Table HomeEntry
  cycle : BitVec 64
  power : Power
  /-- The resident context, and the context whose data the memories hold (R158). -/
  ctx : Option Nat
  lastCtx : Option Nat
  loc : Mem
  /-- Granules set full, ascending (R158). -/
  full : List Nat
  /-- Granules whose data is poisoned (R271). -/
  locPoison : List Nat
  opMem : Mem
  /-- Bytes of operand memory that were loaded from poisoned data, ascending (R406). -/
  opPoison : List Nat
  tags : Table SlotTag
  /-- Accumulator cells by row x 512 + column; unlisted cells are 0 (R155). -/
  acc : Table (BitVec 32)
  /-- Cells that hold an uncorrectable error (R271). -/
  accBad : List Nat
  /-- Resident strands by slot 0-3 (R123). -/
  slots : Table Strand
  grants : Nat
  /-- Mooring area size in 64 KiB units (R140). -/
  moor : Nat
  records : List Record
  /-- The ready order: DSEQ of the ready records, by priority (R144). -/
  order : Table (List Nat)
  dseq : Nat
  /-- Waits in registration order: granule address and DSEQ (R141). -/
  granuleWaits : List (Nat × Nat)
  steps : Table Step
  mat : List MatCmd
  /-- Matrix commands accepted, counted. -/
  accepted : Nat
  copies : List CopyJob
  streams : List StreamJob
  xforms : List XformJob
  board : List Region
  /-- The regions of global memory that outstanding engine commands touch, in their order of issue (R189, R197). -/
  gboard : List Region
  /-- Steps started so far: what tells the steps of one descriptor cell apart; the model's own. -/
  started : Nat
  rings : List Ring
  binds : List Bind
  /-- A sector of the bind table came back damaged (R269). -/
  bindBad : Bool
  bindOver : Bool
  heldRels : List HeldRel
  /-- Held answers by DSEQ, and requests still outstanding by DSEQ (R379). -/
  answers : Table Answer
  awaiting : Table (Nat × Nat)
  pagers : Table PagerUse
  pagerOrder : Nat
  tlb : List Tlb
  chains : List ChainEntry
  inbox : List Signal
  /-- The ASID of a TLBINV that waits for instructions to give up their translations; the core's page is held for it (R71). -/
  invalidating : Option Nat
  /-- Halted by the debug port (R89). -/
  halted : Bool
  deriving DecidableEq, Repr

/-- A core after module reset (R68, R69, R158, R295, R297). -/
def Core.reset : Core where
  cstate := .inReset
  cerrVal := false
  cerrBusy := false
  vlcap := 12
  lpart := 1
  detm := false
  asid := 0
  gangEn := false
  home := []
  cycle := 0
  power := .p0
  ctx := none
  lastCtx := none
  loc := []
  full := []
  locPoison := []
  opMem := []
  opPoison := []
  tags := []
  acc := []
  accBad := []
  slots := []
  grants := 0
  moor := 8
  records := []
  order := []
  dseq := 0
  granuleWaits := []
  steps := []
  mat := []
  accepted := 0
  copies := []
  streams := []
  xforms := []
  board := []
  gboard := []
  started := 0
  rings := []
  binds := []
  bindBad := false
  bindOver := false
  heldRels := []
  answers := []
  awaiting := []
  pagers := []
  pagerOrder := 0
  tlb := []
  chains := []
  inbox := []
  invalidating := none
  halted := false

/-! The harbourmaster of a die. -/

/-- A live-set entry (R135). -/
structure LiveSet where
  sregs : BitVec 32
  vregs : BitVec 32
  mregs : BitVec 8
  deriving DecidableEq, Repr

/-- A subscription table entry (R180). -/
structure Subscription where
  tdesc : Nat
  ring : Nat
  nslots : Nat
  pull : Bool
  slotb : Nat
  trows : Nat
  tcols : Nat
  bar : Nat
  deriving DecidableEq, Repr

/-- A stage of a launch as accepted (R101, R135, R180). -/
structure Stage where
  entry : Nat
  live : List LiveSet
  subs : List Subscription
  qdepth : Nat
  prio : Nat
  weight : Nat
  budget : Nat
  /-- The bytes of the record the stage entry came from: LSTAB and SUBTAB addresses. -/
  lstab : Nat
  subtab : Nat
  deriving DecidableEq, Repr

/-- A stage queue entry: its 64-byte descriptor lies in memory at QAREA; the harbourmaster keeps its place, its LCORE and
how long it has waited (R107, R111). -/
structure QEntry where
  place : Nat
  lcore : Nat
  since : Nat
  aged : Bool
  deriving DecidableEq, Repr

/-- A waiting QPUSH.L: the core and DSEQ of the pusher's record, in registration order (R153). -/
structure PushWait where
  core : Nat
  dseq : Nat
  deriving DecidableEq, Repr

/-- A stage queue of a die. -/
structure StageQ where
  entries : List QEntry
  /-- Entries ever placed, for the circular place in QAREA, and STEPNO counters by LCORE. -/
  placed : Nat
  stepno : Table Nat
  waits : List PushWait
  deriving DecidableEq, Repr

/-- A level of the hierarchy (R100). -/
structure Level where
  extent : Nat
  domain : Nat
  scope : Nat
  deriving DecidableEq, Repr

/-- What a launch's end waits for on this die (R116, R117). -/
inductive LaunchSt where
  | active
  | ended
  | refused (offset : Nat)
  deriving DecidableEq, Repr

/-- A launch slot in use (R97-R117). -/
structure Launch where
  st : LaunchSt
  record : Nat
  ctx : Nat
  asid : Nat
  det : Bool
  gang : Bool
  moor : Nat
  vlcapl : Nat
  lpartreq : Nat
  diemask : Nat
  hbint : Nat
  topb : Nat
  qarea : Nat
  ovfBase : Nat
  ovfSize : Nat
  donef : Nat
  levels : List Level
  stages : List Stage
  seed0 : Word
  seed1 : Word
  modidx : Nat
  /-- The parameter block: loops as (COUNT, STEP, START), and CHUNK (R109). -/
  loops : List (Nat × Int × Int)
  chunk : Nat
  /-- Next step of the walk (R110). -/
  walked : Nat
  queues : List StageQ
  faulted : Nat
  /-- Submitted by a strand's LAUNCH: no host completion, and a refusal faults DONEF (R426). -/
  byDevice : Bool
  /-- The started LAUNCH command that submitted it, by its number; none for any other submission. The model's own. -/
  who : Option Nat
  /-- The cores of this die brought to the launch's configuration (R102). -/
  cores : List Nat
  /-- Overflow chunks handed to cores: chunk and core (R142). -/
  chunks : Table Nat
  /-- TIME of the launch's last progress (R85 rung 2). -/
  progress : Nat
  deriving DecidableEq, Repr

/-- An entry of the completion queue (R117). -/
structure HmDone where
  slot : Nat
  record : Nat
  faulted : Nat
  offset : Nat
  status : Nat
  byDevice : Bool
  who : Option Nat
  deriving DecidableEq, Repr

/-- The harbourmaster of a die. -/
structure Harbour where
  /-- The submission queue: record address, whether a strand submitted it, and the command that did (R58, R426). -/
  submit : List (Nat × Bool × Option Nat)
  launches : Table Launch
  last : Vector Nat 8
  done : List HmDone
  /-- Slots whose completion entry waits for room (R117). -/
  pending : List Nat
  deriving DecidableEq, Repr

def Harbour.reset : Harbour where
  submit := []
  launches := []
  last := Vector.replicate 8 127
  done := []
  pending := []

/-! Contexts, command processors, host queues. -/

/-- A context (R66, R98). -/
structure Context where
  asid : BitVec 16
  fqBase : Nat
  fqLog2 : Nat
  vlcap : BitVec 4
  lpart : BitVec 2
  detm : Bool
  gang : Bool
  destroying : Bool
  /-- Dies on which PREEMPT, rung 2 or cause 0x31 has swapped it out, and PREEMPT's priority floor (R66, R267). -/
  swapped : List Nat
  floor : Nat
  /-- The home map that SET_HOME_MAP loads into its cores (R66). -/
  home : Table HomeEntry
  /-- Cores saved at the swap-out and not yet restored: the core's records and orders, by core number (R268, R269). -/
  saved : Table Core
  /-- The pending-signal logs by core (R51). -/
  siglog : Table (List Signal)
  /-- Fault records in the ring that no BFLTACT has taken: physical address, core and record (R59, R60). -/
  pendingFaults : Table (Nat × Record)
  deriving DecidableEq, Repr

/-- The privilege modes of a hart (R54). -/
inductive RvMode where
  | u | s | m
  deriving DecidableEq, Repr

/-- A hart's standard RISC-V state (R54): its mode, registers and control and status registers. -/
structure Rv where
  mode : RvMode
  pc : Word
  xs : Vector Word 32
  fs : Vector Word 32
  fcsr : BitVec 8
  mstatus : Word
  medeleg : Word
  mideleg : Word
  mie : Word
  mtvec : Word
  mcounteren : BitVec 32
  mscratch : Word
  mepc : Word
  mcause : Word
  mtval : Word
  stvec : Word
  scounteren : BitVec 32
  sscratch : Word
  sepc : Word
  scause : Word
  stval : Word
  satp : Word
  pmpcfg : Vector (BitVec 8) 16
  pmpaddr : Vector Word 16
  /-- What mcycle reads above two cycles a nanosecond of TIME, and the instructions retired. -/
  mcycle : Word
  minstret : Word
  deriving DecidableEq, Repr

/-- A hart as reset leaves it: M mode, interrupts off, Bare, no PMP entry. -/
def Rv.reset : Rv where
  mode := .m
  pc := 0
  xs := Vector.replicate 32 0
  fs := Vector.replicate 32 0
  fcsr := 0
  mstatus := 0
  medeleg := 0
  mideleg := 0
  mie := 0
  mtvec := 0
  mcounteren := 0
  mscratch := 0
  mepc := 0
  mcause := 0
  mtval := 0
  stvec := 0
  scounteren := 0
  sscratch := 0
  sepc := 0
  scause := 0
  stval := 0
  satp := 0
  pmpcfg := Vector.replicate 16 0
  pmpaddr := Vector.replicate 16 0
  mcycle := 0
  minstret := 0

/-- A hart's Brodauri state (R57) and watchdog standing (R85); harts 0-7 are the command processors, 8 the management
core. -/
structure Hart where
  power : Power
  /-- The standard RISC-V state (R54). -/
  rv : Rv
  /-- Which of its eight queues it served last (R72). -/
  served : Nat
  irqEn : BitVec 6
  fltCtx : BitVec 64
  pagerCtx : BitVec 64
  dbl : Bool
  ref : Bool
  wdw : Bool
  lastKick : Nat
  restarts : Nat
  restartAt : Nat
  /-- Handover STATE (R83), and the image version it now runs. -/
  handover : Nat
  image : Nat
  deriving DecidableEq, Repr

/-- A started command that has not completed (R65). -/
structure Started where
  /-- Which of the started commands it is, as one host may give two the same CID; the model's own. -/
  uid : Nat
  cid : Nat
  opc : Nat
  sqhd : Nat
  ctx : Nat
  /-- LAUNCH: record address, dies that have not reported, FAULTED sum, first refusal (R96, R116). -/
  record : Nat
  dies : List Nat
  faulted : Nat
  refusal : Option Nat
  /-- Dies whose submission queue was full, to be written again (R96). -/
  resubmit : List Nat
  deriving DecidableEq, Repr

/-- A completion (R64). -/
structure Completion where
  cid : Nat
  sqhd : Nat
  status : Nat
  result : Word
  deriving DecidableEq, Repr

/-- A host queue (R62-R66). -/
structure HostQueue where
  sq : Nat
  cq : Nat
  log2 : Nat
  sqHead : Nat
  sqTail : Nat
  cqTail : Nat
  cqHead : Nat
  phase : Bool
  stopped : Bool
  notNode : Nat
  notAddr : Nat
  notData : Word
  started : List Started
  /-- Completions whose work is done and that wait to be written. -/
  ready : List Completion
  /-- An entry read whose FENCE waits, and whether DELETE_QUEUE has begun (R64, R66). -/
  fenced : Option (List Byte)
  deleting : Bool
  deriving DecidableEq, Repr

/-- A mailbox write waiting in the input queue (R63). -/
structure MbxWrite where
  off : Nat
  data : Word
  deriving DecidableEq, Repr

/-- A memory aperture (R36, R66). -/
structure Aperture where
  base : Nat
  len : Nat
  node : Nat
  rw : Bool
  deriving DecidableEq, Repr

/-- The command mailbox (R61-R63). -/
structure Mailbox where
  admsq : Nat
  admcq : Nat
  admsize : Nat
  admnotn : Nat
  admnota : Nat
  admnotd : Word
  admen : Bool
  /-- ADMCTL EN = 0 was written and started admin commands remain (R62). -/
  unbinding : Bool
  ready : Bool
  swap : Bool
  halt : Bool
  qerr : BitVec 64
  input : List MbxWrite
  deriving DecidableEq, Repr

/-! Firmware, fuses, security. -/

inductive SlotSt where
  | empty | staged | good | failed
  deriving DecidableEq, Repr

/-- A firmware slot in flash (R74). -/
structure FwSlot where
  st : SlotSt
  image : List Byte
  fails : Nat
  deriving DecidableEq, Repr

inductive Lifecycle where
  | manufacture | provisioned | production | rma
  deriving DecidableEq, Repr

inductive Debug where
  | off | observe | invasive
  deriving DecidableEq, Repr

inductive IdKey where
  | none | usable | locked | destroyed
  deriving DecidableEq, Repr

/-- Firmware, fuses, measurements and recovery (R74-R95). -/
structure Firmware where
  slotA : FwSlot
  slotB : FwSlot
  activeB : Bool
  /-- Anti-rollback fuses blown (R76). -/
  counter : Nat
  keyFuse : Vector Nat 4
  keyRevoked : Vector Bool 4
  ownerRows : List Nat
  lifecycle : Lifecycle
  idKey : IdKey
  certHash : Nat
  serial : Nat
  /-- The running image. -/
  version : Nat
  svn : Nat
  swaps : Nat
  meas : Vector Nat 8
  nonce : Nat
  debug : Debug
  debugHigh : Debug
  pendingDebug : Debug
  debugAccesses : Nat
  /-- FW_ACTIVATE in progress: its queue-0 CID and SQHD, the TIME SWAP rose, harts that took over (R80, R81). -/
  activating : Option (Nat × Nat)
  swapAt : Nat
  /-- Harts whose old image has written its handover block, and harts whose new image has taken it (R80, R83). -/
  written : List Nat
  taken : List Nat
  /-- FW_COMMIT in progress: its queue and command (R84). -/
  committing : Option (Nat × Nat)
  /-- What the debug port has read and traced, newest last (R89). -/
  debugOut : List Byte
  /-- Recovery (R77, R95): in recovery, staging slot B, node, length, bytes. -/
  recovery : Bool
  rcvySlotB : Bool
  rcvyNode : Nat
  rcvyLen : Nat
  rcvyBytes : List Byte
  staging : Bool
  bootAt : Nat
  /-- SPDM chunks gathered (R94), and the node that the reset report goes to (R87). -/
  spdm : List Byte
  reportNode : Nat
  deriving DecidableEq, Repr

/-! Quayline. -/

/-- A packet (R32, R33). -/
structure Packet where
  dst : Nat
  src : Nat
  op : Nat
  mc : Bool
  rtx : Bool
  retry : Bool
  asid : Nat
  sseq : Nat
  addr : Nat
  data : List Byte
  deriving DecidableEq, Repr

/-- What a sent request will complete (R47): the answer a word waits for, an element of a record's load, a registration, a
write whose failure is a notice, a copy's or stream's access, nothing. -/
inductive Purpose where
  | answer (ctx core : Nat)
  | load (ctx core dseq key : Nat)
  | register (ctx core dseq : Nat)
  /-- Bytes that an ENGINE word reads at a peer before it starts. -/
  | fetch (ctx core : Nat)
  /-- The registration, at a pager future of the home, of the access that went out as this node's request of this number (R42). -/
  | parked (node sseq : Nat)
  | write (core cell : Nat) (pc : Word)
  | message (core cell : Nat) (pc : Word)
  /-- An engine's credit to a barrier elsewhere: cause 0x42 in answer leaves no record (R263). -/
  | credit (core cell : Nat) (pc : Word)
  | engine (core cell key : Nat)
  | nothing
  deriving DecidableEq, Repr

/-- An unacknowledged request (R44, R45). -/
structure Pending where
  pkt : Packet
  purpose : Purpose
  resends : Nat
  sentAt : Nat
  /-- Answered retry-later, to be resent (R45). -/
  later : Bool
  /-- On its way: one over the 4,096 that a destination may have unacknowledged waits for its turn (R44). -/
  out : Bool
  /-- Answered with a pager future of the home, on which the access waits under a reference of its own before it goes out again (R42, R378,
  R416). -/
  parked : Bool
  deriving DecidableEq, Repr

/-- A replay-window entry (R46). -/
inductive WinSt where
  | inProgress | done | retryLater
  deriving DecidableEq, Repr

structure WinEntry where
  sseq : Nat
  st : WinSt
  /-- The answer that was given: its OP, and up to 8 bytes, which of a pager-service answer are its ADDR. -/
  op : Nat
  resp : List Byte
  deriving DecidableEq, Repr

/-- A flit in a link (R19, R20). `cred` is what its header returned to the far end when it was first sent, and a replay repeats it. -/
structure Flit where
  cred : Nat
  tc : Nat
  cmp : Bool
  len : Nat
  lseq : Nat
  first : Bool
  payload : List Byte
  deriving DecidableEq, Repr

/-- One link of the module (R18-R23, R34). -/
structure Link where
  txLanes : Nat
  rxLanes : Nat
  compressing : Bool
  /-- Packets waiting, by class. -/
  queues : Table (List Packet)
  /-- The transmit queue: flits scheduled and not yet sent (R23). -/
  tx : List Flit
  /-- Flits to be sent again before any of `tx` (R21). -/
  again : List Flit
  /-- The replay buffer: the newest 256 flits sent (R21). -/
  replay : List Flit
  /-- Packets of which a flit is still to be sent, oldest first. -/
  going : List Packet
  /-- Multicast packets scheduled, oldest first, with the flits of each whose credits have not come back: until then the next hop may not have
  received them (R20, R49). -/
  held : List (Packet × Nat)
  /-- Credits to be returned to the far end, by class (R20). -/
  owed : Table Nat
  /-- The 128-byte flits that have left, oldest first: what the far end sees. -/
  wire : List (List Byte)
  /-- Packets held at the port in P4, each with the flits whose credits it holds (R28). -/
  port : List (Nat × Packet)
  /-- One lane awake (R26, P4). -/
  low : Bool
  lseq : Nat
  rxLseq : Nat
  credits : Table Nat
  rr : Nat
  retraining : Bool
  /-- Flits of the packet being received, and the LSEQ that a replay was asked for from (R21). -/
  rx : List Flit
  askReplay : Option Nat
  deriving DecidableEq, Repr

/-- A multicast in flight from this module (R49): members that have not answered. -/
structure McastOut where
  group : Nat
  sseq : Nat
  waiting : List Nat
  core : Nat
  cell : Nat
  pc : Word
  deriving DecidableEq, Repr

/-- Quayline as this module holds it. -/
structure Fabric where
  node : Nat
  links : Table Link
  sseq : Table Nat
  out : List Pending
  windows : Table (List WinEntry)
  groups : Table (List Nat)
  mcasts : List McastOut
  /-- Multicast copies that wait for a credit on every branch, oldest first, with the links of their branches (R48). -/
  splits : List (Packet × List Nat)
  /-- The link that leads to a node, where the management plane has named one (R31). -/
  routes : Table Nat
  /-- Packets answered or sent to other nodes, newest last: what the outside sees. -/
  sent : List Packet
  /-- Host adapters that the enumeration reported: completer role for atomics (R36, R40). -/
  adapters : Table Bool
  /-- Adapters that now answer an atomic as unsupported, whatever they reported (R40). -/
  refusing : List Nat
  /-- Adapters that answer reads and writes of host memory with an error (R375, R378). -/
  erring : List Nat
  /-- The node that the management plane names for the watchdog report (R87). -/
  report : Nat
  /-- Nodes the first router answers no-route for (R31, R43). -/
  absent : List Nat
  /-- References of other modules' records that wait on futures of this one, each with the reference registered before it (R148). -/
  foreign : Table Nat
  deriving DecidableEq, Repr

/-! Memory at its homes. -/

inductive UnitSt where
  | opened | closing | sealed
  deriving DecidableEq, Repr

/-- An append unit (R168, R202-R204), by its physical base. -/
structure AppUnit where
  size : Nat
  tail : Nat
  st : UnitSt
  sealAt : Nat
  /-- Sectors whose written bit is set, by sector number. -/
  written : List Nat
  /-- Seal futures: physical address and the step that named it (core, cell, pc). -/
  futs : List (Nat × Nat × Nat × Word)
  deriving DecidableEq, Repr

/-- Work at a future's or write's home that a later step performs. -/
inductive HomeOp where
  /-- A write of an engine or of a held release: physical and virtual address, bytes, who (core, cell, pc). -/
  | write (pa va : Nat) (cls : Nat) (unit : Nat) (bytes : List Byte) (core cell : Nat) (pc : Word)
  | resolve (pa : Nat) (value : Word) (core cell : Nat) (pc : Word)
  | fault (pa : Nat)
  deriving DecidableEq, Repr

/-- CXL ports (R16, R17, R92). -/
inductive CxlSt where
  | absent | up | unusable | viral
  deriving DecidableEq, Repr

/-- What is attached to a CXL port and what it offers (R16). -/
structure Expander where
  type3 : Bool
  mem : Bool
  cache : Bool
  widths : List Nat
  rates : List Nat
  flit256 : Bool
  direct : Bool
  deriving DecidableEq, Repr

/-- An error that storage protected under R271 has met, and which the device handles before anything else (log 8): one corrected in the SRAM of a die,
by the kind of storage; one in a request on its way to another node, by node and number; one in the queue of a stevedore, by core, launch, stage,
subscription and slot. -/
inductive StorageError where
  | corrected (die storage : Nat)
  | request (node sseq : Nat)
  | stevedore (core launch stage sub slot : Nat)
  deriving DecidableEq, Repr

/-- An error log entry (R57 ELOG): the rule's number that logs it, and an address. -/
abbrev LogEntry := Nat × Nat

/-- The power state of the module (R26). -/
inductive ModPower where
  | on | p4 | off
  deriving DecidableEq, Repr

/-- A line of a sealed unit in a slice of another die than its home (R165, R433): the die, the line's number, its 128 bytes as the home answered
them, and the sectors that came poisoned. -/
structure Replica where
  die : Nat
  line : Nat
  bytes : List Byte
  bad : List Nat
  deriving DecidableEq, Repr

/-- A frame table that conversions of an address space have read since its last swap point (R223): the pages of FRONT, and whether a store has been
made to one of them since. -/
structure FrontUse where
  asid : Nat
  pages : List Nat
  torn : Bool
  deriving DecidableEq, Repr

/-- A publish in progress at its descriptor's home (R200). -/
structure PublishJob where
  pa : Nat
  asid : Nat
  fut : Option Nat
  core : Nat
  cell : Nat
  pc : Word
  deriving DecidableEq, Repr

/-- The operands of a command or event, as the outside or the machine itself supplies them; a meaning reads the fields its
docstring names. -/
structure Input where
  core : Nat
  slot : Nat
  die : Nat
  hart : Nat
  queue : Nat
  n : Nat
  addr : Nat
  data : Word
  ok : Bool
  bytes : List Byte
  pkt : Packet
  deriving DecidableEq, Repr

def Packet.empty : Packet where
  dst := 0
  src := 0
  op := 0
  mc := false
  rtx := false
  retry := false
  asid := 0
  sseq := 0
  addr := 0
  data := []

def Input.none : Input where
  core := 0
  slot := 0
  die := 0
  hart := 0
  queue := 0
  n := 0
  addr := 0
  data := 0
  ok := true
  bytes := []
  pkt := Packet.empty

/-- A step to come: a row of the table with its operands. -/
structure Todo where
  what : Instr
  inp : Input
  deriving DecidableEq, Repr

/-- An engine's access that waits on a pager future of this module (R176, R420): the reference that stands for it in the future's list, the one
registered before it, and the step that goes on with it. -/
structure EngineWait where
  ref : Nat
  before : Nat
  todo : Todo
  deriving DecidableEq, Repr

/-- The module. -/
structure State where
  /-- What the outside makes happen next, in order; the model's own. -/
  agenda : List Todo
  /-- The machine's own outstanding steps, in order; the model's own. -/
  work : List Todo
  /-- Time that the coming steps take, in ns and cycles; the model's own. -/
  clock : List (Nat × Nat)
  /-- Words that the strand in hand may still issue before others have their turn, and whose turn it is; the model's own. -/
  turn : Nat
  phase : Nat
  /-- The core at which the harbourmasters look first (log 2); the model's own. -/
  serveFrom : Nat
  /-- How many convoys, up to 16, the scalar stream lets wait in the queue before the vector unit takes the oldest (R128, R129); the model's own. -/
  ahead : Nat
  /-- Free values drawn so far; the model's own. -/
  draws : Nat
  /-- Operands of the command or event in progress; the model's own. -/
  inp : Input
  /-- The core and slot whose strand is in `core` and `strand`, while `acting`; the model's own. -/
  acting : Bool
  here : Nat
  slot : Nat
  core : Core
  strand : Strand
  cores : Table Core
  mem : Mem
  /-- Sectors marked uncorrectable, and sectors with a correctable error, by sector number (R14, R15). -/
  poison : List Nat
  soft : List Nat
  /-- Errors of on-die storage that the device has still to handle (R271). -/
  struck : List StorageError
  hbmce : Vector Nat 12
  hbmue : Vector Nat 12
  units : Table AppUnit
  /-- Lines of sealed units kept as replicas (R165, R433). -/
  replicas : List Replica
  homeOps : List HomeOp
  engineWaits : List EngineWait
  fronts : List FrontUse
  /-- The 64-byte block of memory that each hart has reserved with LR, until its SC or a store to it (R54, R55). -/
  reservations : Table Nat
  /-- Accesses of cores' pages of the control port that wait for a TLBINV of the page, in order of arrival, each with its core (R71). -/
  portHeld : List (Nat × Todo)
  publishes : List PublishJob
  cxl : Vector CxlSt 4
  /-- What is attached to each port, and the width and rate that a port which is up was trained at (R16). -/
  expanders : Vector (Option Expander) 4
  cxlTrained : Vector (Nat × Nat) 4
  /-- CXL sectors whose reads time out (R17), by sector number. -/
  cxlSilent : List Nat
  hostMem : Table Mem
  contexts : Table Context
  ptPool : Nat
  harbours : Vector Harbour 4
  harts : Vector Hart 9
  queues : Table HostQueue
  /-- Commands started so far; the model's own. -/
  cmdSeq : Nat
  /-- Dies in reset, whose queues are not served (R69, R87). -/
  haltDies : List Nat
  mbx : Mailbox
  apertures : Table Aperture
  fw : Firmware
  wdCount : Vector Nat 5
  clkFail : Bool
  /-- Dies in P3, and the module's power state (R26). -/
  dieSleep : List Nat
  power : ModPower
  time : BitVec 64
  log : List LogEntry
  fabric : Fabric
  deriving DecidableEq, Repr

def Hart.reset : Hart where
  power := .p0
  rv := Rv.reset
  served := 7
  irqEn := 0
  fltCtx := 0
  pagerCtx := 0
  dbl := false
  ref := false
  wdw := false
  lastKick := 0
  restarts := 0
  restartAt := 0
  handover := 0
  image := 0

def Mailbox.reset : Mailbox where
  admsq := 0
  admcq := 0
  admsize := 6
  admnotn := 0
  admnota := 0
  admnotd := 0
  admen := false
  unbinding := false
  ready := false
  swap := false
  halt := false
  qerr := 0
  input := []

def FwSlot.blank : FwSlot where
  st := .empty
  image := []
  fails := 0

/-- The firmware as delivered. DESIGN CHOICE (log 9): NONCE and the module serial number are 0, and no nonce is drawn for the first power-good. -/
def Firmware.reset : Firmware where
  slotA := FwSlot.blank
  slotB := FwSlot.blank
  activeB := false
  counter := 0
  keyFuse := Vector.replicate 4 0
  keyRevoked := Vector.replicate 4 false
  ownerRows := []
  lifecycle := .manufacture
  idKey := .none
  certHash := 0
  serial := 0
  version := 0
  svn := 0
  swaps := 0
  meas := Vector.replicate 8 0
  nonce := 0
  debug := .off
  debugHigh := .off
  pendingDebug := .off
  debugAccesses := 0
  activating := none
  swapAt := 0
  written := []
  taken := []
  committing := none
  debugOut := []
  recovery := false
  rcvySlotB := false
  rcvyNode := 0
  rcvyLen := 0
  rcvyBytes := []
  staging := false
  bootAt := 0
  spdm := []
  reportNode := 0

def Fabric.reset : Fabric where
  node := 0
  links := []
  sseq := []
  out := []
  windows := []
  groups := []
  mcasts := []
  splits := []
  routes := []
  sent := []
  adapters := []
  refusing := []
  erring := []
  report := 0
  absent := []
  foreign := []

/-- The module right after reset: every register at the value its map gives (R7), what no rule gives at the value the
assumption log names, and the boot due (R77). -/
def State.reset : State where
  agenda := []
  work := [{ what := .boot, inp := Input.none }]
  clock := []
  turn := 0
  phase := 0
  serveFrom := 0
  ahead := 16
  draws := 0
  inp := Input.none
  acting := false
  here := 0
  slot := 0
  core := Core.reset
  strand := Strand.fresh
  cores := []
  mem := []
  poison := []
  soft := []
  struck := []
  hbmce := Vector.replicate 12 0
  hbmue := Vector.replicate 12 0
  units := []
  replicas := []
  homeOps := []
  engineWaits := []
  fronts := []
  reservations := []
  portHeld := []
  publishes := []
  cxl := Vector.replicate 4 .absent
  expanders := Vector.replicate 4 none
  cxlTrained := Vector.replicate 4 (0, 0)
  cxlSilent := []
  hostMem := []
  contexts := []
  ptPool := 0x000000BE00000000
  harbours := Vector.replicate 4 Harbour.reset
  harts := Vector.replicate 9 Hart.reset
  queues := []
  cmdSeq := 0
  haltDies := []
  mbx := Mailbox.reset
  apertures := []
  fw := Firmware.reset
  wdCount := Vector.replicate 5 0
  clkFail := false
  dieSleep := []
  power := .on
  time := 0
  log := []
  fabric := Fabric.reset

end Sys2Proof.Machine
end

