-- ==== Sys2Proof/Machine/Ops.lean ====
section
/-!
DEFINITION. The named operations over tables, memory, cores and registers that the meanings share.
-/

namespace Sys2Proof.Machine

open Sys2Proof

/-! Tables. -/

/-- The value at key `k`. -/
def tget {α : Type} (t : Table α) (k : Nat) : Option α := (t.find? (fun p => p.1 == k)).map (·.2)

/-- The table with `v` at key `k`. -/
def tset {α : Type} (t : Table α) (k : Nat) (v : α) : Table α :=
  match t with
  | [] => [(k, v)]
  | p :: r => if k < p.1 then (k, v) :: p :: r else if k = p.1 then (k, v) :: r else p :: tset r k v

/-- The table without key `k`. -/
def tdel {α : Type} (t : Table α) (k : Nat) : Table α := t.filter (fun p => p.1 != k)

/-- A number put into an ascending list of numbers without repeats. -/
def ninsert (l : List Nat) (k : Nat) : List Nat :=
  match l with
  | [] => [k]
  | j :: r => if k < j then k :: j :: r else if k = j then j :: r else j :: ninsert r k

/-- A number taken out of a list. -/
def nremove (l : List Nat) (k : Nat) : List Nat := l.filter (· != k)

/-! Byte memory. -/

/-- The canonical form: addresses strictly rising, no byte equal to the 0 that an unlisted address reads as. -/
abbrev Memory.wf (m : Mem) : Prop := (m.map (·.1)).Pairwise (· < ·) ∧ ∀ c ∈ m, c.2 ≠ 0

/-- One byte of memory. -/
def mget (m : Mem) (a : Nat) : Byte :=
  match m.find? (fun c => c.1 == a) with
  | some c => c.2
  | none => 0

/-- The little-endian value of `n` bytes from `a`, of a memory that lists nothing below `a`. -/
def mwalk : Mem → Nat → Nat → Nat
  | _, _, 0 => 0
  | [], _, _ + 1 => 0
  | c :: r, a, n + 1 => if c.1 = a then c.2.toNat + 256 * mwalk r (a + 1) n else 256 * mwalk (c :: r) (a + 1) n

/-- The little-endian value of the `n` bytes from `a` (R4). -/
def mload (m : Mem) (a n : Nat) : Nat := mwalk (m.dropWhile (fun c => c.1 < a)) a n

/-- The listed cells of bytes laid from `a` upward. -/
def cellsOf (a : Nat) : List Byte → Mem
  | [] => []
  | b :: r => if b = 0 then cellsOf (a + 1) r else (a, b) :: cellsOf (a + 1) r

/-- The memory with `bs` at `a` and upward, in canonical form. -/
def mstore (m : Mem) (a : Nat) (bs : List Byte) : Mem :=
  let e := a + bs.length
  m.filter (fun c => c.1 < a) ++ cellsOf a bs ++ m.filter (fun c => e ≤ c.1)

/-- The low `n` bytes of a value, lowest first. -/
def bytesOf : Nat → Nat → List Byte
  | 0, _ => []
  | n + 1, v => BitVec.ofNat 8 v :: bytesOf n (v / 256)

/-- The value of bytes, lowest first. -/
def valueOf : List Byte → Nat
  | [] => 0
  | b :: r => b.toNat + 256 * valueOf r

/-- A field of `n` bytes at an offset of bytes. -/
def fld (bs : List Byte) (off n : Nat) : Nat := valueOf ((bs.drop off).take n)

/-- Bytes of ASCII. -/
def ascii (s : String) : List Byte := s.toList.map (fun c => BitVec.ofNat 8 c.toNat)

/-- `n` bytes from `a`, of a memory that lists nothing below `a`. -/
def mbytesWalk : Mem → Nat → Nat → List Byte
  | _, _, 0 => []
  | [], _, n + 1 => List.replicate (n + 1) 0
  | c :: r, a, n + 1 => if c.1 = a then c.2 :: mbytesWalk r (a + 1) n else 0 :: mbytesWalk (c :: r) (a + 1) n

/-- `n` bytes from `a` as a list. -/
def mbytes (m : Mem) (a n : Nat) : List Byte := mbytesWalk (m.dropWhile (fun c => c.1 < a)) a n

/-! Numbers. -/

/-- Sign extension of the low `w` bits of a value to a word (R298). -/
def sextN (w v : Nat) : Word :=
  let x := v % 2 ^ w
  if x < 2 ^ (w - 1) then BitVec.ofNat 64 x else BitVec.ofInt 64 ((x : Int) - 2 ^ w)

/-- The low `w` bits of a value read as signed (R298, Wrap). -/
def toSigned (w : Nat) (v : Nat) : Int :=
  let x := v % 2 ^ w
  if x < 2 ^ (w - 1) then (x : Int) else (x : Int) - 2 ^ w

/-- An integer's two's complement in `w` bits. -/
def wrapN (w : Nat) (v : Int) : Nat := (v % (2 ^ w : Int)).toNat

/-- Division rounded up. -/
def ceilDiv (a b : Nat) : Nat := (a + b - 1) / b

/-- Rounded up to a multiple. -/
def roundUp (a b : Nat) : Nat := ceilDiv a b * b

/-- The bits `hi` to `lo` of a number. -/
def bitsN (v hi lo : Nat) : Nat := v / 2 ^ lo % 2 ^ (hi + 1 - lo)

/-- A field of `w` bits at bit `sh` replaced. -/
def setField (bits sh w x : Nat) : Nat := bits - bits / 2 ^ sh % 2 ^ w * 2 ^ sh + x % 2 ^ w * 2 ^ sh

/-! Cores and strands of the state. -/

/-- The core numbered `c`: the one in hand, one that the table lists, or a core as reset leaves it. -/
def State.getCore (s : State) (c : Nat) : Core :=
  if s.acting ∧ s.here = c then s.core else (tget s.cores c).getD Core.reset

/-- The state with core `c` replaced. -/
def State.setCore (s : State) (c : Nat) (k : Core) : State :=
  if s.acting ∧ s.here = c then { s with core := k } else { s with cores := tset s.cores c k }

/-- The state with core `c` changed by a function. -/
def State.modCore (s : State) (c : Nat) (f : Core → Core) : State := s.setCore c (f (s.getCore c))

/-- The core and strand in hand put back among the others. -/
def State.park (s : State) : State :=
  if s.acting then
    { s with
      acting := false
      cores := tset s.cores s.here { s.core with slots := tset s.core.slots s.slot s.strand } }
  else s

/-- The strand in slot `sl` of core `c` taken in hand, if there is one. -/
def State.focus (s : State) (c sl : Nat) : State :=
  let s := s.park
  let k := s.getCore c
  match tget k.slots sl with
  | some st =>
    { s with acting := true, here := c, slot := sl, core := { k with slots := tdel k.slots sl }, strand := st }
  | none => s

/-- The die of a core (R68). -/
def dieOf (c : Nat) : Nat := c / 128

/-- A scalar register; s0 reads zero (R320). -/
def State.x (s : State) (r : BitVec 5) : Word := if r = 0 then 0 else s.strand.regs.xs[r.toNat]

/-- A scalar register written, which mends an error in it (R271); a write to s0 is discarded (R320). -/
def State.setX (s : State) (r : BitVec 5) (v : Word) : State :=
  if r = 0 then s
  else
    { s with strand := { s.strand with
      regs := { s.strand.regs with xs := s.strand.regs.xs.set r.toNat v }
      bad := s.strand.bad.filter (fun b => b.1 != r.toNat) } }

/-- The scalar stream at another address; a wait of the word before is over. -/
def State.setPc (s : State) (pc : Word) : State := { s with strand := { s.strand with pc := pc, waits := none } }

/-- The scalar stream at the next word. -/
def State.next (s : State) : State := s.setPc (s.strand.pc + 4)

/-- The registers of the strand in hand changed. -/
def State.modRegs (s : State) (f : Regs → Regs) : State :=
  { s with strand := { s.strand with regs := f s.strand.regs } }

/-- The core in hand changed. -/
def State.modHere (s : State) (f : Core → Core) : State := { s with core := f s.core }

/-- A step put at the front of what happens next. -/
def State.soon (s : State) (what : Instr) (inp : Input) : State := { s with agenda := { what, inp } :: s.agenda }

/-- A step put behind the machine's outstanding steps. -/
def State.later (s : State) (what : Instr) (inp : Input) : State := { s with work := s.work ++ [{ what, inp }] }

/-- Since when a word of a strand waits on a local hazard: the convoy in execution's, else the scalar stream's. -/
def Strand.waiting (st : Strand) : Option (Nat × Bool) :=
  match st.cv.since with
  | some w => some w
  | none => st.waits

/-- The strand in hand waits on a local hazard and its word issues again later (R131). The bound on the wait runs from its first issue (R120,
R132, R435). -/
def State.stall (s : State) (board : Bool) : State :=
  if !s.acting then s
  else
    match s.strand.waiting with
    | some _ => s.park
    | none =>
      let what := if board then Instr.scoreboardTimeout else if s.strand.cv.live ∧ s.strand.cv.k ≠ 0 then Instr.convoySplit else Instr.hazardTimeout
      let since := some (s.time.toNat, board)
      let st := s.strand
      ({ s with strand := if st.cv.live then { st with cv := { st.cv with since := since } } else { st with waits := since } }.park).later what
        { Input.none with core := s.here, slot := s.slot, addr := s.strand.granted }

/-- 512 cycles of the arithmetic clock, in nanoseconds (R131, log 3). -/
def hazardNs : Nat := 410

/-- Whether a strand has waited 512 cycles. -/
def Strand.waited (st : Strand) (now : Nat) : Bool := st.waiting.any (fun w => decide (hazardNs ≤ now - w.1))

/-- A fresh draw of a free value: its number, and the state with the draw counted (log 4). -/
def State.draw (s : State) : Nat × State := (s.draws, { s with draws := s.draws + 1 })

/-- An entry in the error log (R57 ELOG). -/
def State.logError (s : State) (rule addr : Nat) : State := { s with log := s.log ++ [(rule, addr)] }

/-! What a core's settings make visible. -/

/-- Physical bytes per vector register of a sequencer (R125). -/
def Core.physBytes (k : Core) : Nat := if k.gangEn then 8192 else if k.lpart = 3 then 2048 else 4096

/-- The visible VLENB: the smaller of VLCAP and the physical bytes (R127). -/
def Core.vlenb (k : Core) : Nat := min (2 ^ k.vlcap.toNat) k.physBytes

/-- Lane groups of a sequencer (R125). -/
def Core.groups (k : Core) : Nat := if k.gangEn then 16 else if k.lpart = 3 then 4 else 8

/-- The sequencer of a slot: slots 0, 1 are A, slots 2, 3 are B (R123). -/
def slotIsB (sl : Nat) : Bool := decide (2 ≤ sl)

/-- Whether a sequencer takes strands (R125, R126). -/
def Core.takes (k : Core) (b : Bool) (odd : Bool) : Bool :=
  if k.gangEn then !b && !odd else if b then k.lpart = 2 || k.lpart = 3 else k.lpart = 1 || k.lpart = 3

/-- The mooring area's size and base (R140). -/
def Core.moorSize (k : Core) : Nat := k.moor * 0x10000
def Core.moorBase (k : Core) : Nat := 0x300000 - k.moorSize

/-- The descriptor cell of a step's number, 0-63; the number's higher part tells the steps of one cell apart. -/
def cellIndex (n : Nat) : Nat := n % 64

/-- The local address of a step's descriptor cell (R140, R108). -/
def Core.cellAddr (k : Core) (n : Nat) : Nat := k.moorBase + 0x1000 + 64 * cellIndex n

/-- The step entry of a descriptor cell. -/
def Core.step (k : Core) (cell : Nat) : Step := (tget k.steps cell).getD Step.fresh

/-- The step entry of a descriptor cell changed. -/
def Core.modStep (k : Core) (cell : Nat) (f : Step → Step) : Core :=
  { k with steps := tset k.steps cell (f (k.step cell)) }

/-- Whether `n` bytes from a local address may be touched (R157, R330): below the mooring area, or, for a read, within the
descriptor cells. -/
def Core.localOk (k : Core) (read : Bool) (a n : Nat) : Bool :=
  decide (a + n ≤ k.moorBase) ||
    (read && decide (k.moorBase + 0x1000 ≤ a) && decide (a + n ≤ k.moorBase + 0x2000))

/-- Granules (16-byte, by number) that bytes touch. -/
def granulesOf (a n : Nat) : List Nat := if n = 0 then [] else (List.range ((a + n - 1) / 16 - a / 16 + 1)).map (a / 16 + ·)

/-- Whether a local read meets poisoned data (R271). -/
def Core.locBad (k : Core) (a n : Nat) : Bool := (granulesOf a n).any (fun g => k.locPoison.contains g)

/-- Local bytes written; a granule that is wholly rewritten loses its poison. -/
def Core.locWrite (k : Core) (a : Nat) (bs : List Byte) : Core :=
  let e := a + bs.length
  { k with
    loc := mstore k.loc a bs
    locPoison := k.locPoison.filter (fun g => !(decide (a ≤ 16 * g) && decide (16 * g + 16 ≤ e))) }

/-- Granules set full or empty (R158). -/
def Core.setFull (k : Core) (gs : List Nat) : Core := { k with full := gs.foldl ninsert k.full }
def Core.setEmpty (k : Core) (gs : List Nat) : Core := { k with full := k.full.filter (fun g => !gs.contains g) }

/-! Launches and steps. -/

/-- The harbourmaster of a die. -/
def State.harbour (s : State) (d : Nat) : Harbour := s.harbours[d % 4]'(Nat.mod_lt _ (by decide))

/-- A harbourmaster changed. -/
def State.modHarbour (s : State) (d : Nat) (f : Harbour → Harbour) : State :=
  { s with harbours := s.harbours.set (d % 4) (f (s.harbour d)) (Nat.mod_lt _ (by decide)) }

/-- A launch changed, if its slot is in use. -/
def State.modLaunch (s : State) (d slot : Nat) (f : Launch → Launch) : State :=
  s.modHarbour d (fun h =>
    match tget h.launches slot with
    | some l => { h with launches := tset h.launches slot (f l) }
    | none => h)

def Stage.none : Stage where
  entry := 0
  live := []
  subs := []
  qdepth := 1
  prio := 7
  weight := 1
  budget := 0
  lstab := 0
  subtab := 0

/-- The launch that a step belongs to. -/
def State.launchOf (s : State) (st : Step) : Option Launch := tget (s.harbour st.die).launches st.launch

/-- The stage that a step runs. -/
def State.stageOf (s : State) (st : Step) : Stage :=
  match s.launchOf st with
  | some l => l.stages.getD st.stage Stage.none
  | none => Stage.none

/-- The step of the strand in hand. -/
def State.myStep (s : State) : Step := s.core.step s.strand.cell

/-- The live set that an index names (R135). -/
def State.liveSet (s : State) (ls : Nat) : LiveSet :=
  (s.stageOf s.myStep).live.getD ls { sregs := 0, vregs := 0, mregs := 0 }

/-- The live step whose strands run on a core, by core and cell: DET of its launch. -/
def State.detOf (s : State) (st : Step) : Bool :=
  match s.launchOf st with
  | some l => l.det
  | none => false

/-- The hart that serves a core's quay (R56). -/
def hartOf (core : Nat) : Nat := 2 * dieOf core + core % 128 / 64

def State.hart (s : State) (h : Nat) : Hart := s.harts[h % 9]'(Nat.mod_lt _ (by decide))

def State.modHart (s : State) (h : Nat) (f : Hart → Hart) : State :=
  { s with harts := s.harts.set (h % 9) (f (s.hart h)) (Nat.mod_lt _ (by decide)) }

end Sys2Proof.Machine
end

