-- ==== Sys2Proof/Machine/Packets.lean ====
section
/-!
DEFINITION. Sending packets (spec 01, 02): operations, sequence numbers, the requests outstanding, the links' queues.
-/

namespace Sys2Proof.Machine

open Sys2Proof

/-! OP codes (R33). -/

def opRead : Nat := 0x00
def opWrite : Nat := 0x01
def opAtomic : Nat := 0x02
def opAppend : Nat := 0x03
def opMessage : Nat := 0x04
def opSignal : Nat := 0x05
def opMulticast : Nat := 0x06
def opMailbox : Nat := 0x07
def opPager : Nat := 0x08
def opManagement : Nat := 0x09
def opRoute : Nat := 0x0A
def opData : Nat := 0x10
def opAck : Nat := 0x11
def opError : Nat := 0x12
def opRetryLater : Nat := 0x13

/-- The traffic class of an OP (R33). -/
def opClass (op : Nat) : Nat :=
  if op ≤ 0x04 then 0 else if op ≤ 0x0A then op - 3 else 1

/-- The SEAL, future registration, resolve and barrier codes that an atomic packet's first byte may hold beside the AOP codes of
R289 (log 12). -/
def pktRegister : Nat := 0x20
def pktResolve : Nat := 0x21
def pktSeal : Nat := 0x1E
def pktPublish : Nat := 0x1F

/-- The code of a held ST.REL write (R382), and what is added to the AOP of a reduction packet, which an ordinary page alone takes (R209, R377; log
12). -/
def pktRelease : Nat := 0x22
def pktReduce : Nat := 0x100

/-- What a read request adds to its count when it is an acquire's, which a page of the ordinary or host class alone answers (R382, log 12). -/
def pktAcquire : Nat := 2 ^ 32

/-- Whether a link carries traffic: a direction with no lane takes the link down (R22). -/
def Link.up (l : Link) : Bool := decide (l.txLanes ≠ 0) && decide (l.rxLanes ≠ 0)

/-- The link a packet to a node leaves by: the one that the management plane named for the node if it is up, else the lowest-numbered one
that is up (R22, R31). -/
def Fabric.route (f : Fabric) (node : Nat) : Option Nat :=
  match (tget f.routes node).filter (fun n => (tget f.links n).any Link.up) with
  | some n => some n
  | none => (f.links.find? (fun p => p.2.up)).map (·.1)

/-- Whether the first router knows a way to a node: neither a reserved ID nor an absent node, and some link is up (R31, R43). -/
def Fabric.reaches (f : Fabric) (node : Nat) : Bool :=
  decide (node < 0x1200) && !f.absent.contains node && (f.route node).isSome

/-- The cause that an access to an adapter's memory ends with, where it fails: 0x40 with no route (R43), 0x41 where the adapter answers with an
error (R375). -/
def Fabric.hostFails (f : Fabric) (node : Nat) : Option Nat :=
  if !f.reaches node then some 0x40 else if f.erring.contains node then some 0x41 else none

/-- A packet put into a link's queue of its class (R34). -/
def Link.enqueue (l : Link) (p : Packet) : Link :=
  { l with queues := tset l.queues (opClass p.op) ((tget l.queues (opClass p.op)).getD [] ++ [p]) }

/-- A link changed, if the module has it. -/
def State.modLink (s : State) (n : Nat) (f : Link → Link) : State :=
  match tget s.fabric.links n with
  | none => s
  | some l => { s with fabric := { s.fabric with links := tset s.fabric.links n (f l) } }

/-- A packet handed to the link that leads to its destination, and to what the outside sees (R34). -/
def State.emit (s : State) (p : Packet) : State :=
  let s := { s with fabric := { s.fabric with sent := s.fabric.sent ++ [p] } }
  match s.fabric.route p.dst with
  | none => s
  | some n => s.modLink n (·.enqueue p)

/-- The links of a multicast's branches from this module (R48): those that lead to a member other than this module by another link than the
one it came in on. -/
def Fabric.branches (f : Fabric) (group : Nat) (from_ : Option Nat) : List Nat :=
  (((tget f.groups group).getD []).filter (fun m => m != f.node && f.reaches m)).foldl (fun ls m =>
    match f.route m with
    | some n => if some n = from_ then ls else ninsert ls n
    | none => ls) []

/-- A multicast copy joins those that wait for a credit on every branch (R48, R50). -/
def State.emitMc (s : State) (p : Packet) (from_ : Option Nat) : State :=
  match s.fabric.branches p.dst from_ with
  | [] => s
  | ls =>
    ({ s with fabric := { s.fabric with sent := s.fabric.sent ++ [p], splits := s.fabric.splits ++ [(p, ls)] } }).later .multicastSplit Input.none

/-- The unacknowledged requests that a node has (R44). -/
def Fabric.unacked (f : Fabric) (node : Nat) : Nat := (f.out.filter (fun p => p.out && p.pkt.dst == node)).length

/-- A unicast request sent with the next sequence number for its destination and kept until it is answered; one over the 4,096 that a
destination may have unacknowledged waits for an answer to another (R44). To a node that the first router knows no way to, the no-route
answer is due (R43). The result is its sequence number. -/
def State.request (s : State) (node op asid addr : Nat) (data : List Byte) (why : Purpose) : Nat × State :=
  let q := (tget s.fabric.sseq node).getD 0
  let p : Packet :=
    { Packet.empty with dst := node, src := s.fabric.node, op := op, asid := asid, sseq := q, addr := addr, data := data }
  let f := s.fabric
  let now := decide (f.unacked node < 4096)
  let t : State :=
    { s with fabric :=
      { f with
        sseq := tset f.sseq node ((q + 1) % 2 ^ 48)
        out := f.out ++ [{ pkt := p, purpose := why, resends := 0, sentAt := s.time.toNat, later := false, out := now, parked := false }] } }
  let t := if now then t.emit p else t
  let t := if !f.reaches node then
      t.later .errorResponse { Input.none with pkt := { Packet.empty with dst := f.node, src := node, op := opError, sseq := q, data := bytesOf 1 0x40 } }
    else t
  (q, t.later .retransmitTimeout { Input.none with queue := node, n := q })

/-- An answered request is outstanding no more, and the oldest that waits for its destination goes out (R44). -/
def State.settled (s : State) (p : Pending) : State :=
  let f := s.fabric
  let out := f.out.erase p
  match out.find? (fun x => !x.out && !x.parked && x.pkt.dst == p.pkt.dst) with
  | none => { s with fabric := { f with out := out } }
  | some w =>
    let w' : Pending := { w with out := true, sentAt := s.time.toNat }
    ({ s with fabric := { f with out := out.map (fun x => if x = w then w' else x) } }).emit w.pkt

/-- Bytes written at a peer, in packets of at most 1,024 data bytes (R32). -/
def State.requestWrites (s : State) (node asid va : Nat) (bs : List Byte) (why : Purpose) : State :=
  (List.range ((bs.length + 1023) / 1024)).foldl (fun s i =>
    (s.request node opWrite asid (va + 1024 * i) ((bs.drop (1024 * i)).take 1024) why).2) s

/-- A response to a packet, from a node. -/
def State.respondFrom (s : State) (node : Nat) (q : Packet) (op : Nat) (addr : Nat) (data : List Byte) : State :=
  s.emit { Packet.empty with dst := q.src, src := node, op := op, asid := q.asid, sseq := q.sseq, addr := addr, data := data }

/-- A response to a packet. -/
def State.respond (s : State) (q : Packet) (op : Nat) (addr : Nat) (data : List Byte) : State :=
  s.respondFrom s.fabric.node q op addr data

end Sys2Proof.Machine
end

