-- ==== Sys2Proof/Machine/Walk.lean ====
section
/-!
DEFINITION. The physical map and the walk of the page tables (spec 07): where an address of an address space lies.
-/

namespace Sys2Proof.Machine

open Sys2Proof

/-! The physical map (R163, R164). -/

def hbmEnd : Nat := 0xC000000000
def reserveLo : Nat := 0xBFFFF60000

/-- The CXL port of a physical address. -/
def cxlPort (pa : Nat) : Option Nat :=
  if 0x1000000000000 ≤ pa ∧ pa < 0x1000000000000 + 4 * 0x20000000000 then some ((pa - 0x1000000000000) / 0x20000000000)
  else none

/-- The home die of an address of HBM or CXL. -/
def homeDie (pa : Nat) : Nat :=
  match cxlPort pa with
  | some p => p
  | none => pa / 0x3000000000 % 4

/-- The stack that holds an HBM address (R164). -/
def stackOf (pa : Nat) : Nat := 3 * homeDie pa + (pa % 0x3000000000) / 4096 % 3

/-- A range wholly inside HBM outside the translation reserve, or inside the CXL regions (R163, R173). -/
def mappable (pa n : Nat) : Bool :=
  decide (pa + n ≤ reserveLo) || (decide (0x1000000000000 ≤ pa) && decide (pa + n ≤ 0x1080000000000))

/-- A range inside HBM, reserve included, or CXL: where memory answers. -/
def inMemory (pa n : Nat) : Bool :=
  decide (pa + n ≤ hbmEnd) || (decide (0x1000000000000 ≤ pa) && decide (pa + n ≤ 0x1080000000000))

/-! Translation (R171-R174). -/

/-- The fields of a table entry (R172). -/
def leafV (e : BitVec 64) : Bool := e.getLsbD 0
def leafLeaf (e : BitVec 64) : Bool := e.getLsbD 1
def leafClass (e : BitVec 64) : Nat := (e.extractLsb' 2 2).toNat
def leafR (e : BitVec 64) : Bool := e.getLsbD 4
def leafW (e : BitVec 64) : Bool := e.getLsbD 5
def leafX (e : BitVec 64) : Bool := e.getLsbD 6
def leafSegl (e : BitVec 64) : Nat := (e.extractLsb' 8 4).toNat
def leafAddr (e : BitVec 64) : Nat := (e.extractLsb' 16 36).toNat * 0x10000
def leafHnode (e : BitVec 64) : Nat := (e.extractLsb' 52 9).toNat
def leafNext (e : BitVec 64) : Nat := (e.extractLsb' 8 44).toNat * 256

/-- The size of the page that a leaf at a level maps (R171). -/
def pageSize (level : Nat) : Nat := if level = 0 then 0x10000 else if level = 1 then 0x200000 else 0x40000000

/-- A valid leaf that R173 calls malformed at its level. -/
def leafBad (level : Nat) (e : BitVec 64) : Bool :=
  decide (3 ≤ level) || (e.extractLsb' 61 3 != 0) || e.getLsbD 7 || (e.extractLsb' 12 4 != 0)
    || decide (leafAddr e % pageSize level ≠ 0)
    || (leafX e && decide (leafClass e ≠ 0))
    || decide (8 < leafSegl e) || (decide (leafSegl e ≠ 0) && decide (leafClass e ≠ 1))
    || (decide (leafClass e = 1 ∨ leafClass e = 2) && decide (level ≠ 0))
    || (leafW e && decide (leafClass e = 2))
    || (decide (leafClass e ≠ 3) && decide (leafHnode e ≠ 0))
    || (decide (leafClass e ≠ 3) && !mappable (leafAddr e) (pageSize level))

/-- A valid non-leaf that R173 calls malformed at its level. -/
def ptrBad (level : Nat) (e : BitVec 64) : Bool :=
  decide (level = 0) || (e.extractLsb' 61 3 != 0) || e.getLsbD 7 || (e.extractLsb' 2 5 != 0) || (e.extractLsb' 52 9 != 0)
    || (decide (2 ≤ level) && decide (leafNext e % 4096 ≠ 0))

/-- What a walk finds. -/
inductive Walk where
  | leaf (level : Nat) (e : BitVec 64)
  | miss
  | bad
  /-- A table entry lies outside memory or is uncorrectable (R163). -/
  | dead
  deriving DecidableEq, Repr

/-- The index of an address at a level. -/
def levelIndex (level va : Nat) : Nat :=
  if level = 3 then bitsN va 56 39 else if level = 2 then bitsN va 38 30 else if level = 1 then bitsN va 29 21 else bitsN va 20 16

/-- The 16-byte sectors that bytes touch. -/
def sectorsOf (pa n : Nat) : List Nat := granulesOf pa n

/-- Whether an address lies on a CXL port that is not up (R16, R17). -/
def State.portDown (s : State) (pa : Nat) : Bool :=
  match cxlPort pa with
  | some p => s.cxl.toList.getD p .absent != .up
  | none => false

/-- Whether memory answers bytes as uncorrectable: outside every region, on a port that is not up, poisoned, or in a CXL sector whose reads
time out (R15, R17, R163). -/
def State.bad (s : State) (pa n : Nat) : Bool :=
  !inMemory pa n || s.portDown pa || (sectorsOf pa n).any (fun g => s.poison.contains g || s.cxlSilent.contains g)

/-- Counters of a stack raised by one. -/
def bump (v : Vector Nat 12) (i : Nat) : Vector Nat 12 := v.set (i % 12) (v[i % 12]'(Nat.mod_lt _ (by decide)) + 1) (Nat.mod_lt _ (by decide))

/-- An access to memory wakes the die that holds it (R28). -/
def State.wakeHome (s : State) (pa : Nat) : State := { s with dieSleep := nremove s.dieSleep (homeDie pa) }

/-- The sectors of HBM in a list that bytes touch. -/
def hbmIn (gs : List Nat) (pa n : Nat) : List Nat :=
  gs.filter (fun g => decide (16 * g < hbmEnd) && decide (pa < 16 * g + 16) && decide (16 * g < pa + n))

/-- Sectors counted, each at its stack. -/
def bumpAll (v : Vector Nat 12) (gs : List Nat) : Vector Nat 12 := gs.foldl (fun v g => bump v (stackOf (16 * g))) v

/-- A read reaches memory: the die wakes (R28), and each corrected and each uncorrectable sector is counted at its stack (R15). -/
def State.countRead (s : State) (pa n : Nat) : State :=
  { s.wakeHome pa with
    hbmce := bumpAll s.hbmce (hbmIn s.soft pa n)
    hbmue := bumpAll s.hbmue (hbmIn s.poison pa n) }

/-- Physical bytes read: their value, or cause 0x40. -/
def State.readPhys (s : State) (pa n : Nat) : Except Nat Nat := if s.bad pa n then .error 0x40 else .ok (mload s.mem pa n)

/-- Frame tables of which bytes are stored to directly (R223). -/
def tear (fs : List FrontUse) (pa n : Nat) : List FrontUse :=
  fs.map (fun f => if f.pages.any (fun p => decide (pa < p + 0x10000 ∧ p < pa + n)) then { f with torn := true } else f)

/-- Physical bytes written (R14, R15): a sector covered in part is merged, which counts a corrected one and which a poisoned sector refuses; a
sector covered whole loses its poison. -/
def State.writePhys (s : State) (pa : Nat) (bs : List Byte) : Except Nat State :=
  let n := bs.length
  let partial_ (g : Nat) : Bool := decide (16 * g < pa) || decide (pa + n < 16 * g + 16)
  let gs := sectorsOf pa n
  if !inMemory pa n then .error 0x40
  else if s.portDown pa then .error 0x40
  else if gs.any (fun g => partial_ g && s.poison.contains g) then .error 0x40
  else
    .ok { s.wakeHome pa with
      mem := mstore s.mem pa bs
      fronts := tear s.fronts pa n
      reservations := s.reservations.filter (fun r => !(decide (pa < 64 * r.2 + 64) && decide (64 * r.2 < pa + n)))
      hbmce := bumpAll s.hbmce ((hbmIn s.soft pa n).filter partial_)
      poison := s.poison.filter (fun g => !gs.contains g)
      soft := s.soft.filter (fun g => !gs.contains g) }

/-- Bytes of an object written at its home, where memory takes them. -/
def State.putHome (s : State) (pa : Nat) (bs : List Byte) : State := (s.writePhys pa bs).toOption.getD s

/-- A value merged into an object at its home: its sector is read, and written back (R14, R15). -/
def State.merge (s : State) (pa n v : Nat) : State := (s.countRead pa n).putHome pa (bytesOf n v)

/-- The walk from the table of a level (R171-R173); a table entry that memory answers as uncorrectable ends it (R163). -/
def State.walkFrom (s : State) (va : Nat) : Nat → Nat → Walk
  | level, table =>
    let at_ := table + 8 * levelIndex level va
    let e := BitVec.ofNat 64 (mload s.mem at_ 8)
    if s.bad at_ 8 then .dead
    else if !leafV e then .miss
    else if leafLeaf e then (if leafBad level e then .bad else .leaf level e)
    else if ptrBad level e then .bad
    else
      match level with
      | 0 => .bad
      | l + 1 => s.walkFrom va l (leafNext e)

/-- The whole walk of an address under an ASID, from the ASID root directory (R171). ASID 0 has no table. -/
def State.walk (s : State) (asid va : Nat) : Walk :=
  let at_ := reserveLo + 8 * asid
  let d := mload s.mem at_ 8
  if asid = 0 then .bad
  else if s.bad at_ 8 then .dead
  else if d % 2 = 0 then .miss
  else if bitsN d 20 1 ≠ 0 ∨ bitsN d 63 52 ≠ 0 then .bad
  else s.walkFrom va 3 (bitsN d 51 21 * 0x200000)

/-- The reads of table entries that a walk makes from a level, counted and waking their dies (R15, R28). -/
def State.countFrom (s : State) (va : Nat) : Nat → Nat → State
  | level, table =>
    let at_ := table + 8 * levelIndex level va
    let e := BitVec.ofNat 64 (mload s.mem at_ 8)
    let s := s.countRead at_ 8
    match level with
    | 0 => s
    | l + 1 => if s.bad at_ 8 || !leafV e || leafLeaf e || ptrBad level e then s else s.countFrom va l (leafNext e)

/-- The reads of a whole walk. -/
def State.countWalk (s : State) (asid va : Nat) : State :=
  let at_ := reserveLo + 8 * asid
  let d := mload s.mem at_ 8
  if asid = 0 then s
  else
    let s := s.countRead at_ 8
    if s.bad at_ 8 ∨ d % 2 = 0 ∨ bitsN d 20 1 ≠ 0 ∨ bitsN d 63 52 ≠ 0 then s else s.countFrom va 3 (bitsN d 51 21 * 0x200000)

/-- The physical address of a virtual one whose translation the machine holds. -/
def State.physOf (s : State) (asid va : Nat) : Option Nat :=
  match s.walk asid va with
  | .leaf l e => some (leafAddr e + va % pageSize l)
  | _ => none

end Sys2Proof.Machine
end

