-- ==== Sys2Proof/Machine/Records.lean ====
section
/-!
DEFINITION. Continuation records (spec 06, 11): their layout in bytes, where they lie, the ready order, the fault queue,
and TAKING A TRAP, the one shared operation of every exception.
-/

namespace Sys2Proof.Machine

open Sys2Proof

/-! Sizes and bytes (R137, R257, R258). -/

/-- The bits that a vector register reads as: zero beyond its valid-length tag (R139). -/
def VReg.read (v : VReg) : Nat := v.bits.toNat % 2 ^ (8 * v.tag)

/-- The numbers below `n` whose bit is set. -/
def bitsSet (n v : Nat) : List Nat := (List.range n).filter (fun i => v.testBit i)

/-- Bytes of one held mask register, and of one held vector register. -/
def Record.maskLen (r : Record) : Nat := roundUp (2 ^ r.vlenbl / 8) 64
def Record.vecUnits (r : Record) (n : Nat) : Nat :=
  if r.vmask.toNat.testBit n then ceilDiv ((r.regs.vs.toList.getD n { bits := 0, tag := 0 }).tag) 64 else 0

/-- Where the masks and the vectors begin, and where the image ends (R137). -/
def Record.maskAt (r : Record) : Nat := roundUp (192 + 8 * (bitsSet 32 r.smask.toNat).length) 64
def Record.vecAt (r : Record) : Nat := r.maskAt + (bitsSet 8 r.mmask.toNat).length * r.maskLen
def Record.imageEnd (r : Record) : Nat := r.vecAt + 64 * ((List.range 32).map r.vecUnits).sum

/-- LENGTH of the whole record (R137, R257). -/
def Record.fullLength (r : Record) : Nat :=
  match r.kind with
  | .preempt | .fault => r.imageEnd + 128 + 128 * r.convoys.length
  | .leave | .fork => r.imageEnd

def Kind.code : Kind → Nat
  | .leave => 1
  | .fork => 2
  | .preempt => 3
  | .fault => 4

/-- A number as one bit. -/
def bit (b : Bool) : Nat := if b then 1 else 0

/-- Bytes padded with zeros to a length. -/
def padTo (n : Nat) (bs : List Byte) : List Byte := bs ++ List.replicate (n - bs.length) 0

/-- WAITOBJ (R137). -/
def Record.waitObj (r : Record) : Nat := bit r.waitLocal * 2 ^ 63 + r.waitAddr % 2 ^ 57

/-- The 192-byte header (R137). -/
def Record.header (r : Record) : List Byte :=
  padTo 192
    (bytesOf 1 r.kind.code ++ bytesOf 1 r.lsidx ++ bytesOf 1 (bit r.ready)
      ++ bytesOf 1 (bit r.seqB + 2 * bit r.spilled + 4 * bit r.dpend + 8 * bit r.regp + 16 * bit r.det)
      ++ bytesOf 4 r.length ++ bytesOf 8 r.pc.toNat ++ bytesOf 8 r.stepAddr.toNat ++ bytesOf 8 r.waitObj
      ++ bytesOf 6 r.next ++ bytesOf 2 0 ++ bytesOf 8 r.dseq ++ bytesOf 8 r.regs.vl ++ bytesOf 8 r.regs.vtype.toNat
      ++ bytesOf 8 r.regs.sstat.toNat ++ (r.regs.eix.toList.flatMap (fun w => bytesOf 8 w.toNat))
      ++ bytesOf 4 r.smask.toNat ++ bytesOf 4 r.vmask.toNat ++ bytesOf 1 r.mmask.toNat ++ bytesOf 1 r.vlenbl
      ++ bytesOf 1 r.isa ++ bytesOf 1 r.prio ++ bytesOf 4 0 ++ (List.range 32).flatMap (fun n => bytesOf 1 (r.vecUnits n)))

/-- The register image (R137). -/
def Record.image (r : Record) : List Byte :=
  let xs := (bitsSet 32 r.smask.toNat).flatMap (fun n => bytesOf 8 (r.regs.xs.toList.getD n 0).toNat)
  let ms := (bitsSet 8 r.mmask.toNat).flatMap (fun n => bytesOf r.maskLen (r.regs.ms.toList.getD n 0).toNat)
  let vs := (bitsSet 32 r.vmask.toNat).flatMap
    (fun n => bytesOf (64 * r.vecUnits n) (r.regs.vs.toList.getD n { bits := 0, tag := 0 }).read)
  padTo (r.maskAt - 192) xs ++ ms ++ vs

/-- XFLAGS (R257). -/
def TrapBlock.xflags (t : TrapBlock) : Nat :=
  bit t.async + 2 * bit t.killed + 4 * bit t.scalar + 8 * bit t.mstop + 16 * bit t.mismatch + 32 * bit t.image

/-- The 128-byte trap block (R257). -/
def TrapBlock.bytes (t : TrapBlock) (nconv : Nat) : List Byte :=
  padTo 128
    (bytesOf 1 t.cause ++ bytesOf 1 t.xflags ++ bytesOf 1 nconv ++ bytesOf 1 t.fword ++ bytesOf 4 0
      ++ bytesOf 8 t.fpc.toNat ++ bytesOf 8 t.faddr.toNat ++ bytesOf 8 t.estart ++ bytesOf 8 t.mkstep ++ bytesOf 8 t.mrow
      ++ (List.range 16).flatMap (fun g => bytesOf 2 (t.lgc.getD g 0)) ++ bytesOf 2 t.asid ++ bytesOf 6 0
      ++ bytesOf 4 t.dirtyV.toNat ++ bytesOf 1 t.dirtyM.toNat ++ bytesOf 3 0 ++ bytesOf 8 t.when_ ++ bytesOf 8 t.rescyc
      ++ bytesOf 8 t.fut)

/-- A 128-byte convoy entry (R258). -/
def ConvoyEntry.bytes (e : ConvoyEntry) : List Byte :=
  padTo 128
    ((List.range 4).flatMap (fun i => bytesOf 4 (e.words.getD i 0).toNat) ++ bytesOf 8 e.cpc.toNat
      ++ bytesOf 1 e.words.length ++ bytesOf 1 (bit e.started) ++ bytesOf 6 0 ++ bytesOf 8 e.vl ++ bytesOf 8 e.vtype.toNat
      ++ (List.range 8).flatMap (fun i => bytesOf 8 (e.caps.getD i 0).toNat))

/-- The whole record as bytes. -/
def Record.bytes (r : Record) : List Byte :=
  match r.kind with
  | .preempt | .fault =>
    r.header ++ r.image ++ r.trap.bytes r.convoys.length ++ r.convoys.flatMap ConvoyEntry.bytes
  | .leave | .fork => r.header ++ r.image

/-! A record read back from its bytes (R256, R342). -/

/-- The `n`-byte field at an offset of a record's bytes. -/
def byteField (bs : List Byte) (off n : Nat) : Nat := valueOf ((bs.drop off).take n)

/-- A trap block from its 128 bytes. -/
def TrapBlock.ofBytes (bs : List Byte) : TrapBlock :=
  let x := byteField bs 1 1
  { cause := byteField bs 0 1
    async := x.testBit 0
    killed := x.testBit 1
    scalar := x.testBit 2
    mstop := x.testBit 3
    mismatch := x.testBit 4
    image := x.testBit 5
    fword := byteField bs 3 1
    fpc := BitVec.ofNat 64 (byteField bs 8 8)
    faddr := BitVec.ofNat 64 (byteField bs 16 8)
    estart := byteField bs 24 8
    mkstep := byteField bs 32 8
    mrow := byteField bs 40 8
    lgc := (List.range 16).map (fun g => byteField bs (48 + 2 * g) 2)
    asid := byteField bs 80 2
    dirtyV := BitVec.ofNat 32 (byteField bs 88 4)
    dirtyM := BitVec.ofNat 8 (byteField bs 92 1)
    when_ := byteField bs 96 8
    rescyc := byteField bs 104 8
    fut := byteField bs 112 8 }

/-- A convoy entry from its 128 bytes; what withdrawn commands keep beside it stays with its words. -/
def ConvoyEntry.ofBytes (old : ConvoyEntry) (bs : List Byte) : ConvoyEntry :=
  let n := min (byteField bs 24 1) 4
  let words := (List.range n).map (fun i => BitVec.ofNat 32 (byteField bs (4 * i) 4))
  { words := words
    cpc := BitVec.ofNat 64 (byteField bs 16 8)
    started := decide (byteField bs 25 1 ≠ 0)
    vl := byteField bs 32 8
    vtype := BitVec.ofNat 64 (byteField bs 40 8)
    caps := (List.range (2 * n)).map (fun i => BitVec.ofNat 64 (byteField bs (48 + 8 * i) 8))
    marks := if words = old.words then old.marks else []
    damaged := decide (words = old.words) && old.damaged }

/-- A record read back from its bytes, which Cesis or a program may have changed (R256, R269, R342); its place, its cell, its number and what
it waits for are the machine's own. -/
def Record.ofBytes (old : Record) (bs : List Byte) : Record :=
  let hdr : Record := { old with
    smask := BitVec.ofNat 32 (byteField bs 112 4)
    vmask := BitVec.ofNat 32 (byteField bs 116 4)
    mmask := BitVec.ofNat 8 (byteField bs 120 1)
    vlenbl := byteField bs 121 1
    isa := byteField bs 122 1
    prio := byteField bs 123 1 }
  let sNos := bitsSet 32 hdr.smask.toNat
  let mNos := bitsSet 8 hdr.mmask.toNat
  let units (n : Nat) : Nat := if hdr.vmask.toNat.testBit n then byteField bs (128 + n) 1 else 0
  let vAt (n : Nat) : Nat := hdr.vecAt + 64 * ((List.range n).map units).sum
  let imageEnd := vAt 32
  let place (l : List Nat) (n : Nat) : Nat := (l.filter (fun i => decide (i < n))).length
  let long := old.kind = .preempt ∨ old.kind = .fault
  let t := if long then TrapBlock.ofBytes ((bs.drop imageEnd).take 128) else old.trap
  let nconv := if long then byteField bs (imageEnd + 2) 1 else 0
  { hdr with
    lsidx := byteField bs 1 1
    seqB := (byteField bs 3 1).testBit 0
    det := (byteField bs 3 1).testBit 4
    pc := BitVec.ofNat 64 (byteField bs 8 8)
    regs :=
      { xs := Vector.ofFn (fun (i : Fin 32) =>
          if sNos.contains i.val then BitVec.ofNat 64 (byteField bs (192 + 8 * place sNos i.val) 8) else 0)
        vs := Vector.ofFn (fun (i : Fin 32) =>
          { bits := BitVec.ofNat 65536 (byteField bs (vAt i.val) (64 * units i.val)), tag := 64 * units i.val })
        ms := Vector.ofFn (fun (i : Fin 8) =>
          if mNos.contains i.val then BitVec.ofNat 8192 (byteField bs (hdr.maskAt + hdr.maskLen * place mNos i.val) (2 ^ hdr.vlenbl / 8)) else 0)
        vl := byteField bs 48 8
        vtype := BitVec.ofNat 64 (byteField bs 56 8)
        sstat := BitVec.ofNat 64 (byteField bs 64 8)
        eix := Vector.ofFn (fun (i : Fin 5) => BitVec.ofNat 64 (byteField bs (72 + 8 * i.val) 8))
        estart := if long then BitVec.ofNat 16 t.estart else old.regs.estart
        mrow := if long then BitVec.ofNat 7 t.mrow else old.regs.mrow
        mkstep := if long then BitVec.ofNat 32 t.mkstep else old.regs.mkstep }
    trap := t
    convoys := if long then (List.range nconv).map (fun i =>
        ConvoyEntry.ofBytes (old.convoys.getD i ConvoyEntry.empty) ((bs.drop (imageEnd + 128 + 128 * i)).take 128))
      else old.convoys }

/-! Where records lie (R138, R140, R142). -/

/-- A record reference (R138): form 1 in the mooring area, form 2 in the overflow region. -/
def Record.ref (r : Record) (node core : Nat) : Nat :=
  (if r.spilled then 2 else 1) * 2 ^ 46 + node % 2 ^ 13 * 2 ^ 33 + core % 2 ^ 9 * 2 ^ 24 + r.block % 2 ^ 24

/-- The lowest place of `n` blocks below `limit` that no used range overlaps. -/
def firstFit (used : List (Nat × Nat)) (n limit : Nat) : Option Nat :=
  let free (b : Nat) : Bool := decide (b + n ≤ limit) && used.all (fun u => decide (b + n ≤ u.1) || decide (u.1 + u.2 ≤ b))
  ((0 :: used.map (fun u => u.1 + u.2)).filter free).min?

/-- The records that occupy blocks of a core: those that wait or are ready, and those of strands that fill a slot, to which such a strand may
return unchanged (R267). -/
def Core.placed (k : Core) : List Record := k.records ++ k.slots.filterMap (fun p => if p.2.running then none else p.2.src)

/-- Ranges of blocks that a core's records occupy in the mooring area, and in the overflow region of a launch of a die. -/
def Core.usedBlocks (k : Core) : List (Nat × Nat) :=
  (k.placed.filter (fun r => !r.spilled)).map (fun r => (r.block, ceilDiv r.length 64))
def Core.spillBlocks (k : Core) (die launch : Nat) : List (Nat × Nat) :=
  (k.placed.filter (fun r => r.spilled && (k.step r.cell).die == die && (k.step r.cell).launch == launch)).map (fun r =>
    (r.block, ceilDiv r.length 64))

/-- A place in the overflow region for `n` blocks (R142): within chunks the core holds, else the lowest chunks that no core has. -/
def spillPlace (l : Launch) (chunks : Table Nat) (used : List (Nat × Nat)) (core n : Nat) : Option (Nat × List Nat) :=
  let limit := min l.ovfSize 16384
  let mine := (chunks.filter (fun p => p.2 == core)).map (·.1)
  let inMine := mine.findSome? (fun ch =>
    (firstFit ((0, 1024 * ch) :: used) n (1024 * (ch + 1))).bind (fun b => if n ≤ 1024 then some (b, []) else none))
  match inMine with
  | some p => some p
  | none =>
    let c := ceilDiv n 1024
    let freeCh (ch : Nat) : Bool := (List.range c).all (fun i => (tget chunks (ch + i)).isNone)
    ((List.range (limit + 1 - c)).find? freeCh).bind (fun ch =>
      if c ≤ limit ∧ l.ovfBase ≠ 0 then some (1024 * ch, (List.range c).map (ch + ·)) else none)

/-- Whether a launch of another die came from the same submission. -/
def Launch.twinOf (x l : Launch) : Bool := x.record == l.record && x.ctx == l.ctx && x.who == l.who

/-- The launch whose overflow region takes the records of a descriptor cell's step. -/
def State.spillLaunch (s : State) (k : Core) (cell : Nat) : Option Launch :=
  if (k.step cell).live then s.launchOf (k.step cell) else none

/-- Bytes written at virtual addresses of an address space, to those of its pages that are ordinary and writable. -/
def State.putVirtual (s : State) (asid : Nat) : Nat → Nat → List Byte → State
  | 0, _, _ => s
  | fuel + 1, va, bs =>
    let n := min bs.length (0x10000 - va % 0x10000)
    if n = 0 then s
    else
      let t := match s.walk asid va with
        | .leaf l e =>
          if leafClass e = 0 ∧ leafW e then (s.writePhys (leafAddr e + va % pageSize l) (bs.take n)).toOption.getD s else s
        | _ => s
      t.putVirtual asid fuel (va + n) (bs.drop n)

/-- The physical ranges of bytes at virtual addresses: none where a page has no translation. -/
def State.placesOf (s : State) (asid : Nat) : Nat → Nat → Nat → Option (List (Nat × Nat))
  | 0, _, _ => some []
  | fuel + 1, va, n =>
    let len := min n (0x10000 - va % 0x10000)
    if n = 0 then some []
    else
      match s.walk asid va with
      | .leaf l e => if leafClass e ≠ 0 then none else (s.placesOf asid fuel (va + len) (n - len)).map ((leafAddr e + va % pageSize l, len) :: ·)
      | _ => none

/-- A spilled record's bytes written to its launch's overflow region (R142). -/
def State.showSpill (s : State) (k : Core) (r : Record) : State :=
  match s.spillLaunch k r.cell with
  | none => s
  | some l => s.putVirtual l.asid (r.length / 0x10000 + 2) (l.ovfBase + 64 * r.block) r.bytes

/-- Where `n` bytes of a spilled record lie, from an offset in it. -/
def State.spillPlaces (s : State) (k : Core) (r : Record) (off n : Nat) : Option (List (Nat × Nat)) :=
  (s.spillLaunch k r.cell).bind (fun l => s.placesOf l.asid (n / 0x10000 + 2) (l.ovfBase + 64 * r.block + off) n)

/-- A spilled record read from the overflow region, and whether its bytes are damaged (R142, R273). Where its pages cannot be translated, the
record as the machine holds it (log 73). -/
def State.readSpill (s : State) (k : Core) (r : Record) : Record × Bool :=
  match s.spillPlaces k r 0 r.length with
  | none => (r, false)
  | some ps => if ps.any (fun p => s.bad p.1 p.2) then (r, true) else (r.ofBytes (ps.flatMap (fun p => mbytes s.mem p.1 p.2)), false)

/-- What that read reaches (R15, R28). -/
def State.countSpill (s : State) (k : Core) (r : Record) : State :=
  match (s.spillLaunch k r.cell), s.spillPlaces k r 0 r.length with
  | some l, some ps => ps.foldl (fun s p => s.countRead p.1 p.2) (s.countWalk l.asid (l.ovfBase + 64 * r.block))
  | _, _ => s

/-- STATE 1 shown in the overflow region for every spilled record of a core that has become ready (R137, R142, R337). -/
def State.showReady (s : State) (k : Core) : State :=
  (k.records.filter (fun r => r.spilled && r.ready)).foldl (fun s r =>
    match s.spillPlaces k r 2 1, s.spillLaunch k r.cell with
    | some [p], some l => if mload s.mem p.1 1 = 1 then s else s.putVirtual l.asid 1 (l.ovfBase + 64 * r.block + 2) [1]
    | _, _ => s) s

/-- Local bytes written over: granules that lie wholly in them are no longer poisoned (R271). -/
def Core.writtenOver (k : Core) (a n : Nat) : Core :=
  { k with locPoison := k.locPoison.filter (fun g => !(decide (a ≤ 16 * g) && decide (16 * g + 16 ≤ a + n))) }

/-- The core of a context as its records know it: the physical core while the context is resident, else its saved copy. -/
def State.ctxCore (s : State) (ctx c : Nat) : Core :=
  if (s.getCore c).ctx = some ctx then s.getCore c
  else
    match (tget s.contexts ctx).bind (fun x => tget x.saved c) with
    | some k => k
    | none => s.getCore c

/-- The chunks of a launch's overflow region that cores hold (R142): those of every die that the submission started it on, which share the
region, but for chunks that have come to hold no record. -/
def State.takenChunks (s : State) (l : Launch) : Table Nat :=
  (List.range 4).flatMap (fun d =>
    (s.harbour d).launches.flatMap (fun x =>
      if x.2.twinOf l then
        x.2.chunks.filter (fun p => ((s.ctxCore x.2.ctx p.2).spillBlocks d x.1).any (fun u =>
          decide (u.1 < 1024 * (p.1 + 1)) && decide (1024 * p.1 < u.1 + u.2)))
      else []))

/-- A record given a place (R140, R142), under a number: the lowest free range of the mooring area, else of the overflow region; none where it
fits neither (R143). -/
def State.depositAs (s : State) (c : Nat) (r : Record) (dseq : Nat) : Option (State × Record) :=
  let k := s.getCore c
  let r := { r with length := r.fullLength, dseq := dseq }
  let n := ceilDiv r.length 64
  match firstFit k.usedBlocks n ((k.moorSize - 0x4000) / 64) with
  | some b =>
    let r := { r with block := b, spilled := false }
    some (s.setCore c { k.writtenOver (k.moorBase + 0x2000 + 64 * b) (64 * n) with records := k.records ++ [r] }, r)
  | none =>
    let st := k.step r.cell
    match s.spillLaunch k r.cell with
    | none => none
    | some l =>
      match spillPlace l (s.takenChunks l) (k.spillBlocks st.die st.launch) c n with
      | none => none
      | some (b, chs) =>
        let r := { r with block := b, spilled := true }
        let k := { k with records := k.records ++ [r] }
        let s := (s.setCore c k).showSpill k r
        some (s.modLaunch st.die st.launch (fun l => { l with chunks := chs.foldl (fun t ch => tset t ch c) l.chunks }), r)

/-- A record deposited (R137): placed under the core's next deposit number, which counts. -/
def State.deposit (s : State) (c : Nat) (r : Record) : Option (State × Record) :=
  let n := (s.getCore c).dseq
  (s.depositAs c r n).map (fun p => (p.1.modCore c (fun k => { k with dseq := n + 1 }), p.2))

/-- The number under which a record is placed while its registration's answer is due: it counts as a deposit only once the strand leaves
(R137, R431). -/
def provisional (slot : Nat) : Nat := 2 ^ 48 + slot

/-- A core's record by its deposit number. -/
def Core.record (k : Core) (dseq : Nat) : Option Record := k.records.find? (fun r => r.dseq == dseq)

/-- A core's record changed. -/
def Core.modRecord (k : Core) (dseq : Nat) (f : Record → Record) : Core :=
  { k with records := k.records.map (fun r => if r.dseq = dseq then f r else r) }

/-- A core's record gone: its blocks, its ready-order entry and its granule waits are free. -/
def Core.dropRecord (k : Core) (dseq : Nat) : Core :=
  { k with
    records := k.records.filter (fun r => r.dseq != dseq)
    order := k.order.map (fun p => (p.1, nremove p.2 dseq))
    granuleWaits := k.granuleWaits.filter (fun w => w.2 != dseq) }

/-- The overflow chunks that hold no record of the core return to the harbourmaster (R142). -/
def State.freeChunks (s : State) (c : Nat) (r : Record) : State :=
  if r.spilled then
    let k := s.getCore c
    let st := k.step r.cell
    let used := k.spillBlocks st.die st.launch
    s.modLaunch st.die st.launch (fun l =>
      { l with
        chunks := l.chunks.filter (fun p =>
          p.2 != c || used.any (fun u => decide (u.1 < 1024 * (p.1 + 1)) && decide (1024 * p.1 < u.1 + u.2))) })
  else s

/-- A record of a core taken away. -/
def State.dropRecord (s : State) (c : Nat) (r : Record) : State :=
  (s.modCore c (·.dropRecord r.dseq)).freeChunks c r

/-- What a record's word waits for or has been answered goes with the record to its new number (R379). -/
def Core.rekey (k : Core) (old new : Nat) : Core :=
  { k with
    answers := match tget k.answers old with
      | some a => tset (tdel k.answers old) new a
      | none => k.answers
    awaiting := match tget k.awaiting old with
      | some w => tset (tdel k.awaiting old) new w
      | none => k.awaiting }

/-- A record becomes ready and enters the tail of its priority's ready order (R144). -/
def Core.makeReady (k : Core) (dseq : Nat) : Core :=
  match k.record dseq with
  | none => k
  | some r =>
    if r.ready then k
    else
      let k := k.modRecord dseq (fun r => { r with ready := true, on := .nothing })
      { k with order := tset k.order r.prio ((tget k.order r.prio).getD [] ++ [dseq]) }

/-! The slot. -/

/-- When a sequencer has no running strand, its filling strand becomes the running one, its dirty tags cleared (R124). -/
def Core.promote (k : Core) (b : Bool) : Core :=
  let mine := k.slots.filter (fun p => slotIsB p.1 == b)
  if mine.any (fun p => p.2.running) then k
  else
    match mine with
    | [] => k
    | (sl, st) :: _ => { k with slots := tset k.slots sl { st with running := true, dirtyV := 0, dirtyM := 0, src := none, waits := none } }

/-- The strand in hand is gone from its slot; its core goes back among the others, the filling strand runs (R124). -/
def State.vacate (s : State) : State :=
  { s with
    acting := false
    cores := tset s.cores s.here (s.core.promote (slotIsB s.slot)) }

/-! The fault queue (R253-R255). -/

/-- The bytes of memory changed at physical addresses. -/
def State.put (s : State) (a : Nat) (bs : List Byte) : State := { s with mem := mstore s.mem a bs }

/-- Memory with `n` bytes from an address zero. -/
def mclear (m : Mem) (a n : Nat) : Mem := m.filter (fun c => decide (c.1 < a) || decide (a + n ≤ c.1))

/-- Bytes of memory zeroed, and no longer poisoned. -/
def State.clear (s : State) (a n : Nat) : State :=
  { s with mem := mclear s.mem a n, poison := s.poison.filter (fun g => decide (16 * g + 16 ≤ a) || decide (a + n ≤ 16 * g)) }

/-- A number of `n` bytes at a physical address, read and written. -/
def State.peek (s : State) (a n : Nat) : Nat := mload s.mem a n
def State.poke (s : State) (a n v : Nat) : State := s.put a (bytesOf n v)

/-- A context changed. -/
def State.modContext (s : State) (n : Nat) (f : Context → Context) : State :=
  match tget s.contexts n with
  | some c => { s with contexts := tset s.contexts n (f c) }
  | none => s

/-! Changes of a context's core (R139, R268). -/

/-- Where a context's save area for a core lies (R268); none before Cesis has written SAVEBASE. -/
def State.saveArea (s : State) (ctx c : Nat) : Option Nat :=
  (tget s.contexts ctx).bind (fun x =>
    let base := s.peek (x.fqBase + 16) 8
    if base = 0 then none else some (base + c * 0x400000))

/-- The bytes of changed records of a context's core shown where they lie: in the overflow region (R142), and, for a saved core, in its saved
local memory (R139). -/
def State.showRecords (s : State) (ctx c : Nat) (old new : Core) (out : Bool) : State :=
  (new.records.filter (fun r => (r.spilled || (out && decide (r.block < 2 ^ 24))) && !old.records.contains r)).foldl (fun s r =>
    if r.spilled then s.showSpill new r
    else
      match s.saveArea ctx c with
      | none => s
      | some a => s.put (a + 0x1000 + new.moorBase + 0x2000 + 64 * r.block) r.bytes) s

/-- What changed in the local memory of a saved core shown in its save area (R162, R268): its bytes, and its full and empty bits. -/
def State.showSaved (s : State) (ctx c : Nat) (old new : Core) : State :=
  match s.saveArea ctx c with
  | none => s
  | some a =>
    let gone := old.loc.filter (fun b => !new.loc.any (fun x => x.1 == b.1))
    let s := gone.foldl (fun s b => s.put (a + 0x1000 + b.1) [0]) s
    let s := (new.loc.filter (fun b => !old.loc.contains b)).foldl (fun s b => s.put (a + 0x1000 + b.1) [b.2]) s
    if new.full = old.full then s else s.put (a + 0x301000) (bytesOf 0x6000 (new.full.foldl (fun n g => n ||| 2 ^ g) 0))

/-- That core changed. -/
def State.modCtxCore (s : State) (ctx c : Nat) (f : Core → Core) : State :=
  if (s.getCore c).ctx = some ctx then (s.modCore c f).showRecords ctx c (s.getCore c) (f (s.getCore c)) false
  else
    match (tget s.contexts ctx).bind (fun x => tget x.saved c) with
    | some k =>
      ((s.modContext ctx (fun x => { x with saved := tset x.saved c (f k) })).showRecords ctx c k (f k) true).showSaved ctx c k (f k)
    | none => s.modCore c f

/-- Work on a context's core as if it were resident: where it is swapped out its saved copy stands in for the core. -/
def State.onCtxCore (s : State) (ctx c : Nat) (f : State → State) : State :=
  if (s.getCore c).ctx = some ctx then f s
  else
    match (tget s.contexts ctx).bind (fun x => tget x.saved c) with
    | none => f s
    | some k =>
      let real := s.getCore c
      let t := f (s.setCore c { k with ctx := some ctx, asid := ((tget s.contexts ctx).map (·.asid)).getD 0 })
      let saved := { t.getCore c with ctx := none }
      (((t.setCore c real).modContext ctx (fun x => { x with saved := tset x.saved c saved })).showRecords ctx c k saved true).showSaved ctx c k
        saved

/-- The serving hart learns of a fault record of a context (R59): PAGER for cause 0x10, FLT otherwise. -/
def State.raiseFault (s : State) (core ctx cause : Nat) : State :=
  s.modHart (hartOf core) (fun h =>
    { h with
      fltCtx := h.fltCtx ||| BitVec.ofNat 64 (2 ^ (ctx % 64))
      pagerCtx := if cause = 0x10 then h.pagerCtx ||| BitVec.ofNat 64 (2 ^ (ctx % 64)) else h.pagerCtx })

/-- The blocks of a reservation (R254): skip blocks to the ring's end where the record would cross it, then the record. -/
def skipBlocks (tail size n : Nat) : Nat := if size < tail % size + n then size - tail % size else 0

/-- A record reserved, written and announced in its context's fault queue (R254), or none when there is no room (R255). -/
def State.ringAppend (s : State) (core ctx : Nat) (r : Record) : Option State :=
  match tget s.contexts ctx with
  | none => none
  | some c =>
    let size := 2 ^ c.fqLog2
    let head := s.peek c.fqBase 8
    let tail := s.peek (c.fqBase + 8) 8
    let n := ceilDiv r.length 64
    let skip := skipBlocks tail size n
    if size < (tail + 2 ^ 64 - head) % 2 ^ 64 + skip + n then none
    else
      let ring := c.fqBase + 64
      let s := s.poke (c.fqBase + 8) 8 (tail + skip + n)
      let s := if skip = 0 then s
        else s.put (ring + 64 * (tail % size)) (bytesOf 4 0xFF ++ bytesOf 4 (64 * skip))
      let at_ := ring + 64 * ((tail + skip) % size)
      let s := s.put at_ r.bytes
      let s := s.modContext ctx (fun c => { c with pendingFaults := tset c.pendingFaults at_ (core, r) })
      some (s.raiseFault core ctx r.trap.cause)

/-- HELD of a context's control block raised or lowered (R255). -/
def State.countHeld (s : State) (ctx : Nat) (up : Bool) : State :=
  match tget s.contexts ctx with
  | some c =>
    let n := s.peek (c.fqBase + 24) 8
    s.poke (c.fqBase + 24) 8 (if up then n + 1 else n - 1)
  | none => s

/-- A record waits for room in the ring (R255): HELD rises, the hart is told, its retry is due. `who` is the command that started the launch of a
step that a kill has taken. -/
def State.holdFault (s : State) (core ctx : Nat) (r : Record) (who : Option Nat) : State :=
  ((s.countHeld ctx true).raiseFault core ctx r.trap.cause).later .faultQueueRetry
    { Input.none with core := core, n := r.dseq, queue := (who.map (· + 1)).getD 0 }

/-- A FAULT record goes to the fault queue (R252): it is deposited as a forced leave's is, copied to the ring, and its blocks are freed; one
that has no place goes straight to the ring, under the core's next number. Without room in the ring it stays, with STATE 0, HELD rises and its retry is due (R255). -/
def State.queueFault (s : State) (core ctx : Nat) (r : Record) (who : Option Nat := none) : State :=
  let r := { r with length := r.fullLength, ready := false, on := .nothing }
  match s.deposit core r with
  | some (s, r) =>
    match s.ringAppend core ctx r with
    | some s => s.dropRecord core r
    | none => (s.modCore core (·.modRecord r.dseq (fun r => { r with held := true }))).holdFault core ctx r who
  | none =>
    let r := { r with dseq := (s.getCore core).dseq }
    let s := s.modCore core (fun k => { k with dseq := k.dseq + 1 })
    match s.ringAppend core ctx r with
    | some s => s
    | none =>
      let r := { r with held := true, block := 2 ^ 24 }
      (s.modCore core (fun k => { k with records := k.records ++ [r] })).holdFault core ctx r who

/-- A record that has no place (R143): it becomes a FAULT record of cause 0x31 in the fault queue, and the context is pre-empted on the die. -/
def State.overflowed (s : State) (core ctx : Nat) (r : Record) : State :=
  (s.queueFault core ctx
    { r with
      kind := .fault, lsidx := 0, waitLocal := false, waitAddr := 0, next := 0, dpend := false, regp := false
      trap := { r.trap with cause := 0x31, faddr := 0, fut := 0, when_ := s.time.toNat } }).later .preempt
    { Input.none with n := ctx, die := dieOf core, ok := false }

/-- A record of a context's core becomes a FAULT record in the fault queue. -/
def State.recordFaults (s : State) (ctx core : Nat) (old new : Record) : State :=
  s.onCtxCore ctx core (fun s => (s.dropRecord core old).queueFault core ctx new)

/-! Records of strands. -/

def TrapBlock.none : TrapBlock where
  cause := 0
  async := false
  killed := false
  scalar := false
  mstop := false
  mismatch := false
  image := false
  fword := 0
  fpc := 0
  faddr := 0
  estart := 0
  mkstep := 0
  mrow := 0
  lgc := []
  asid := 0
  dirtyV := 0
  dirtyM := 0
  when_ := 0
  rescyc := 0
  fut := 0

/-- A trap block that names where the matrix command at its entry 0 stopped (R257, R399). -/
def TrapBlock.stoppedAt (t : TrapBlock) (stop : Option (Nat × Nat)) : TrapBlock :=
  match stop with
  | some (ks, row) => if t.mstop then t else { t with mstop := true, mkstep := ks, mrow := row }
  | .none => t

/-- The bits of the vector registers whose valid-length tag is not zero (R259). -/
def Regs.tagged (r : Regs) : BitVec 32 :=
  BitVec.ofNat 32 (((List.range 32).filter (fun n => (r.vs.toList.getD n { bits := 0, tag := 0 }).tag != 0)).foldl
    (fun a n => a + 2 ^ n) 0)

/-- A record of the strand in hand with no image, to be completed: the header fields that the strand gives (R137). -/
def State.blankRecord (s : State) (kind : Kind) (pc : Word) : Record where
  kind := kind
  lsidx := 0
  ready := false
  seqB := slotIsB s.slot
  spilled := false
  dpend := false
  regp := false
  det := s.detOf s.myStep
  length := 0
  pc := pc
  cell := s.strand.cell
  stepAddr := BitVec.ofNat 64 (s.core.cellAddr s.strand.cell)
  waitLocal := false
  waitAddr := 0
  next := 0
  dseq := 0
  regs := s.strand.regs
  smask := 0
  vmask := 0
  mmask := 0
  vlenbl := Nat.log2 s.core.vlenb
  isa := 3
  prio := (s.stageOf s.myStep).prio
  trap := { TrapBlock.none with asid := s.core.asid.toNat }
  convoys := []
  block := 0
  on := .nothing
  held := false
  damaged := false
  fetched := []

/-- Whether an image with these masks holds a damaged register of the strand in hand (R271). -/
def State.damagedIn (s : State) (sm vm : BitVec 32) (mm : BitVec 8) : Bool :=
  s.strand.bad.any (fun b => (b.1 < 32 && sm.getLsbD b.1) || (32 ≤ b.1 && b.1 < 64 && vm.getLsbD (b.1 - 32)) || (64 ≤ b.1 && mm.getLsbD (b.1 - 64)))

/-- The record of a forced leave or trap: every scalar, every mask, every tagged vector register (R259), the trap block
and the convoys still to run (R257, R258). -/
def State.fullRecord (s : State) (kind : Kind) (pc : Word) (t : TrapBlock) (convoys : List ConvoyEntry) : Record :=
  { s.blankRecord kind pc with
    smask := 0xFFFFFFFE
    vmask := s.strand.regs.tagged
    mmask := 0xFE
    damaged := s.damagedIn 0xFFFFFFFE s.strand.regs.tagged 0xFE
    fetched := if kind = .preempt then s.strand.fetched else []
    trap :=
      { t with
        asid := s.core.asid.toNat
        dirtyV := s.strand.dirtyV
        dirtyM := s.strand.dirtyM
        when_ := s.time.toNat
        rescyc := s.myStep.rescyc }
    convoys := convoys }

/-- The context that a core's work belongs to: the resident one. -/
def State.ctxOf (s : State) (core : Nat) : Nat := (s.getCore core).ctx.getD 64

/-- The strand's matrix commands that have not finished leave with it (R399): the one under way stops and becomes the first
entry, the others are withdrawn, one entry per convoy; a drain runs on without it. The answer holds the entries, the stop of the first, and the
state without the commands. -/
def State.withdraw (s : State) : List ConvoyEntry × Option (Nat × Nat) × State :=
  let taken (m : MatCmd) : Bool := m.slot == some s.slot && m.drain.isNone
  let mine := s.core.mat.filter taken
  let stopped := mine.filter (fun m => m.mkstep != 0 || m.mrow != 0)
  let rest := mine.filter (fun m => m.mkstep == 0 && m.mrow == 0)
  let entry (ms : List MatCmd) (started : Bool) : ConvoyEntry :=
    { words := ms.map (·.word)
      cpc := (ms.map (·.cpc)).headD 0
      started := started
      vl := (ms.map (·.vl)).headD 0
      vtype := (ms.map (·.vtype)).headD 0
      caps := ms.flatMap (·.caps)
      marks := ms.map (fun m => { marker := m.marker, order := m.order, scales := m.scales, tdesc := m.tdesc })
      damaged := false }
  let groups := (rest.map (·.convoy)).eraseDups
  let es := stopped.map (fun m => entry [m] true) ++ groups.map (fun g => entry (rest.filter (·.convoy == g)) false)
  let s := s.modHere (fun k => { k with
    mat := (k.mat.filter (fun m => !taken m)).map (fun m => if m.slot == some s.slot then { m with slot := none } else m)
    board := k.board.filter (fun r => !(r.engine == 0 && mine.any (fun m => m.order == r.id)))
    gboard := k.gboard.filter (fun r => !(r.engine == 0 && mine.any (fun m => m.order == r.id))) })
  (es, (stopped.head?).map (fun m => (m.mkstep, m.mrow)), s)

/-- The strand's matrix commands run on without it (R398): they are detached at a leave or EXIT. -/
def State.detach (s : State) : State :=
  s.modHere (fun k => { k with mat := k.mat.map (fun m => if m.slot == some s.slot then { m with slot := none } else m) })

/-- Whether a step has used up its stage's budget (R85 rung 1). -/
def State.spent (s : State) (st : Step) : Bool :=
  let b := (s.stageOf st).budget
  st.live && decide (b ≠ 0) && decide (b ≤ st.rescyc)

/-- Whether a command of the strand is a MAMAX whose atomic is on its way: no forced leave before it has finished (R399, R408). -/
def State.amaxOut (s : State) : Bool := s.core.mat.any (fun m => m.slot == some s.slot && m.io.written)

/-- TAKING A TRAP (R252, R257-R263): the strand's state goes into a FAULT record with the given trap block, header PC and
convoys; the record goes to the context's fault queue; the slot is free. While a MAMAX of the strand is on its way the strand stands, with its
convoys in the queue, until it has finished (R399, R408). -/
def State.trap (s : State) (t : TrapBlock) (pc : Word) (convoys : List ConvoyEntry) : State :=
  if s.amaxOut then
    { s with strand := { s.strand with trapping := some (t, pc), cv := Convoy.closed, queue := convoys } }.park
  else
    let (es, stop, s) := s.withdraw
    let r := s.fullRecord .fault pc (t.stoppedAt stop) (es ++ convoys)
    let core := s.here
    let ctx := s.core.ctx.getD 64
    (s.vacate).queueFault core ctx r

/-- A trap in a scalar-stream word (R261): NCONV 0, SCALAR 1, header PC and FPC at the word, which has had no effect. -/
def State.trapScalar (s : State) (cause : Nat) (faddr : Nat) : State :=
  s.trap { TrapBlock.none with cause := cause, scalar := true, fpc := s.strand.pc, faddr := BitVec.ofNat 64 faddr }
    s.strand.pc []

/-- A trap in a scalar-stream word that names a future (R263 FUT). -/
def State.trapFuture (s : State) (cause : Nat) (faddr fut : Nat) : State :=
  s.trap
    { TrapBlock.none with
      cause := cause
      scalar := true
      fpc := s.strand.pc
      faddr := BitVec.ofNat 64 faddr
      fut := fut }
    s.strand.pc []

/-- What a convoy's trap discards: the vector and mask registers, and the errors in them, as they were before it, no scalar result, no flag
(R128). -/
def State.discard (s : State) : State :=
  let cv := s.strand.cv
  { s with
    strand :=
      { s.strand with
        regs := { s.strand.regs with vs := cv.vs0, ms := cv.ms0 }
        dirtyV := cv.dirtyV0
        dirtyM := cv.dirtyM0
        bad := s.strand.bad.filter (fun b => decide (b.1 < 32)) ++ cv.bad0.filter (fun b => decide (32 ≤ b.1))
        cv := Convoy.closed } }

/-- The convoy entries of a fault in the convoy in execution (R261, R399), with the trap block fitted to them: its own commands that
are not under way are dropped, since its words are performed again in full (R262); the convoy is entry 0 with CSTATE 1, then come
the withdrawn commands and the queued convoys. Where a command of an earlier convoy had stopped part way, that command is
entry 0, and the convoy follows the withdrawn ones, with CSTATE 1 for FWORD and ESTART to name its word (log 74). -/
def State.faultEntries (s : State) (t : TrapBlock) : TrapBlock × List ConvoyEntry × State :=
  let cv := s.strand.cv
  let mine (m : MatCmd) : Bool := m.slot == some s.slot && m.drain.isNone && !m.io.written && decide (cv.first = m.convoy + 1)
  let gone := s.core.mat.filter mine
  let s := s.modHere (fun k => { k with
    mat := k.mat.filter (fun m => !mine m)
    board := k.board.filter (fun r => !(r.engine == 0 && gone.any (fun m => m.order == r.id)))
    gboard := k.gboard.filter (fun r => !(r.engine == 0 && gone.any (fun m => m.order == r.id))) })
  let queue := s.strand.queue
  let fpc := cv.entry.cpc + BitVec.ofNat 64 (4 * cv.k)
  match (s.discard).withdraw with
  | (es, none, s) => ({ t with scalar := false, fword := cv.k, fpc := fpc }, { cv.entry with started := true } :: es ++ queue, s)
  | (es, some (ks, row), s) =>
    ({ t with scalar := false, fword := cv.k, fpc := fpc, mstop := true, mkstep := ks, mrow := row },
      es ++ { cv.entry with started := true } :: queue, s)

/-- A trap in the convoy in execution (R261): the header PC is the next word of the scalar stream. Where the step's budget has been reached the
step is killed instead, whatever the trap, with the convoy put back whole (R265). -/
def State.trapConvoy (s : State) (t : TrapBlock) : State :=
  let (t, es, s) := s.faultEntries t
  if s.spent s.myStep then
    ({ s with strand := { s.strand with queue := es } }.park).soon .stepBudgetExpiry { Input.none with core := s.here, slot := s.strand.cell }
  else s.trap t s.strand.pc es

/-- The cores that may hold a record of core `c`: the one resident there, and the saved copies of swapped-out contexts. -/
def State.coreCopies (s : State) (c : Nat) : List (Nat × Core) :=
  ((s.getCore c).ctx.getD 64, s.getCore c)
    :: s.contexts.filterMap (fun p => if (s.getCore c).ctx = some p.1 then none else (tget p.2.saved c).map (fun k => (p.1, k)))

/-- The context that a step of a core belongs to: the resident one, unless a saved copy holds the step. -/
def State.ctxOfStep (s : State) (core cell : Nat) : Nat :=
  (((s.coreCopies core).find? (fun p => (tget p.2.steps cell).isSome)).map (·.1)).getD (s.ctxOf core)

/-- A notice's record (R264): header and trap block, for a step of a core; STEPADDR 0 once the step has ended. -/
def State.noticeRecord (s : State) (core cell : Nat) (t : TrapBlock) : Record :=
  let k := s.getCore core
  let st := k.step cell
  { s.blankRecord .fault t.fpc with
    seqB := false
    det := s.detOf st
    cell := cell
    stepAddr := if st.live then BitVec.ofNat 64 (k.cellAddr cell) else 0
    regs := Regs.fresh
    vlenbl := Nat.log2 k.vlenb
    prio := (s.stageOf st).prio
    trap := { t with async := true, asid := k.asid.toNat, when_ := s.time.toNat, rescyc := st.rescyc } }

/-- A notice for a step of this module goes to its context's fault queue. -/
def State.postNotice (s : State) (core cell : Nat) (t : TrapBlock) : State :=
  let ctx := s.ctxOfStep core cell
  s.onCtxCore ctx core (fun s => s.queueFault core ctx (s.noticeRecord core cell t))

/-- A step of another module as this one names it where a core is meant: from 512 upward, by ASID, node and core (log 12). -/
def foreignCore (node asid core : Nat) : Nat := asid * 2 ^ 23 + 512 * (node % 2 ^ 13 + 1) + core % 512

/-- The node and the ASID of another module's step. -/
def foreignNode (core : Nat) : Nat := bitsN core 22 9 - 1
def foreignAsid (core : Nat) : Nat := core / 2 ^ 23

/-- A notice (R264): a FAULT record of header and trap block for a step, which stops no strand. One for another module's step travels there in
class 5 (R204): a byte 3, the cause, the core, the step, the word, FADDR and FUT (log 12). -/
def State.notice (s : State) (core cell : Nat) (cause : Nat) (pc : Word) (faddr fut : Nat) : State :=
  if 512 ≤ core then
    (s.request (foreignNode core) opPager (foreignAsid core) 0
      (bytesOf 1 3 ++ bytesOf 1 cause ++ bytesOf 2 (core % 512) ++ bytesOf 8 cell ++ bytesOf 8 pc.toNat ++ bytesOf 8 faddr ++ bytesOf 8 fut) .nothing).2
  else s.postNotice core cell { TrapBlock.none with cause := cause, fpc := pc, faddr := BitVec.ofNat 64 faddr, fut := fut }

/-- A matrix command's notice, naming the unit that faulted (R399). -/
def State.noticeMat (s : State) (core cell : Nat) (cause : Nat) (pc : Word) (faddr ks row : Nat) : State :=
  s.postNotice core cell { TrapBlock.none with cause := cause, fpc := pc, faddr := BitVec.ofNat 64 faddr, mkstep := ks, mrow := row }

end Sys2Proof.Machine
end

