-- ==== Sys2Proof/Machine/Home.lean ====
section
/-!
DEFINITION. Global memory (spec 07, 08): translation with its checks and the pager, and what is performed at a home: reads, writes, append
units, compressed pages, futures.
-/

namespace Sys2Proof.Machine

open Sys2Proof

/-! Futures (R147, R148). -/

/-- ST, WCOUNT, WHEAD and VALUE of a future's 16 bytes. -/
def futSt (w : Nat) : Nat := bitsN w 63 62
def futCount (w : Nat) : Nat := bitsN w 61 48
def futHead (w : Nat) : Nat := bitsN w 47 0

/-- A future's first word. -/
def futWord (st count head : Nat) : Nat := st * 2 ^ 62 + min count 0x3FFF * 2 ^ 48 + head % 2 ^ 48

/-- Whether a record waits on the object at a physical address. -/
def State.waitsOn (s : State) (r : Record) (pa : Nat) : Bool :=
  match r.on with
  | .future va _ _ =>
    match s.walk r.trap.asid va with
    | .leaf l e => decide (leafAddr e + va % pageSize l = pa)
    | _ => false
  | .pager a => decide (a = pa)
  | _ => false

/-- The record of this module that a reference in the list of the object at `pa` names: its context, core and itself. -/
def State.findRef (s : State) (pa ref : Nat) : Option (Nat × Nat × Record) :=
  let core := bitsN ref 32 24
  let form := bitsN ref 47 46
  (s.coreCopies core).findSome? (fun p =>
    (p.2.records.find? (fun r => r.block == bitsN ref 23 0 && r.spilled == (form == 2) && s.waitsOn r pa)).map
      (fun r => (p.1, core, r)))

/-- The form of the references that stand for accesses with no record: an engine's or a store's (R42, R176; log 77). -/
def refIsAccess (ref : Nat) : Bool := bitsN ref 47 46 == 3

/-- An engine's access of this module that a reference stands for. -/
def State.engineWait (s : State) (ref : Nat) : Option EngineWait := s.engineWaits.find? (fun e => e.ref == ref)

/-- What a reference in the list of the object at `pa` leads to: the reference before it, and the record where it is one of this module's. -/
def State.refBefore (s : State) (pa ref : Nat) : Option (Nat × Option (Nat × Nat × Record)) :=
  if (s.engineWait ref).isSome then (s.engineWait ref).map (fun e => (e.before, none))
  else if bitsN ref 45 33 = s.fabric.node % 2 ^ 13 then (s.findRef pa ref).map (fun p => (p.2.2.next, some p))
  else (tget s.fabric.foreign ref).map (fun n => (n % 2 ^ 48, none))

/-- A future's waiters, oldest first, following NEXT from the head (R148): each reference, with its record where it is one of this module's.
The fuel exceeds the number of records that could wait. -/
def State.waiters (s : State) (pa : Nat) : Nat → Nat → List (Nat × Option (Nat × Nat × Record))
  | 0, _ => []
  | fuel + 1, ref =>
    if ref = 0 then []
    else
      match s.refBefore pa ref with
      | some (before, w) => s.waiters pa fuel before ++ [(ref, w)]
      | none => []

/-- More than the records that wait anywhere for an object of this module. -/
def State.waiterBound (s : State) : Nat :=
  (s.park.cores.map (fun p => p.2.records.length)).sum + (s.contexts.flatMap (fun x => x.2.saved.map (fun p => p.2.records.length))).sum
    + s.fabric.foreign.length + s.engineWaits.length + 1

/-- A record registered at a future (R148), whose sector is read and merged (R14, R15, R28): ST 01, WCOUNT + 1, the record heads the list. The answer
is the old head. Of another module's record the home keeps the reference before it, and the ASID and the address of its request (`tag`, log 12). -/
def State.futRegister (s : State) (pa ref tag : Nat) : Nat × State :=
  let w := s.peek pa 8
  let s := (s.countRead pa 16).putHome pa (bytesOf 8 (futWord 1 (futCount w + 1) ref))
  (futHead w,
    if bitsN ref 45 33 = s.fabric.node % 2 ^ 13 then s
    else { s with fabric := { s.fabric with foreign := tset s.fabric.foreign ref (futHead w + 2 ^ 48 * tag) } })

/-- The relaunch notice of a waiter (R148, R431): due here, or sent in class 5 to the module whose record it is (R42). Its ADDR is that of the registration; its
data: a byte 0, or 1 of a faulted future, the reference, the value (log 12). -/
def State.noticeWaiter (s : State) (value : Option Word) (w : Nat × Option (Nat × Nat × Record)) : State :=
  match w.2 with
  | some (ctx, c, r) =>
    s.later .waiterReady { Input.none with core := c, slot := ctx, n := r.dseq, data := value.getD 0, ok := value.isSome }
  | none =>
    match s.engineWait w.1 with
    | some e => { s with engineWaits := s.engineWaits.erase e }.later e.todo.what e.todo.inp
    | none =>
    let tag := (tget s.fabric.foreign w.1).getD 0 / 2 ^ 48
    ({ s with fabric := { s.fabric with foreign := tdel s.fabric.foreign w.1 } }.request (bitsN w.1 45 33) opPager (tag % 2 ^ 16) (tag / 2 ^ 16)
      (bytesOf 1 (bit value.isNone) ++ bytesOf 8 w.1 ++ bytesOf 8 (value.getD 0).toNat) .nothing).2

/-- A future resolved or faulted at its home (R148), whose sector is read and merged (R14, R15, R28): its waiters' relaunch notices are due, oldest
first. The answer is false where it was resolved or faulted before, and it did not change. -/
def State.futResolve (s : State) (pa : Nat) (value : Option Word) : State × Bool :=
  let w := s.peek pa 8
  if 2 ≤ futSt w then (s.countRead pa 16, false)
  else
    let st := bytesOf 8 (futWord (if value.isSome then 2 else 3) 0 0)
    let t := (s.countRead pa 16).putHome pa (match value with
      | some v => st ++ bytesOf 8 v.toNat
      | none => st)
    ((s.waiters pa s.waiterBound (futHead w)).foldl (fun t p => t.noticeWaiter value p) t, true)

/-- Where a future lies: its physical address here, or a node and virtual address from 2^60 upward. -/
def futPeer (loc : Nat) : Option (Nat × Nat) := if loc < 2 ^ 60 then none else some (loc / 2 ^ 60 - 1, loc % 2 ^ 60)

/-- A future resolved or faulted by an engine, a marker, a seal or PUBLISH: one resolved before is a notice of cause 0x30, and one that memory
answers as uncorrectable of cause 0x40, for the step that named it (R15, R17, R148, R264). -/
def State.resolveLoc (s : State) (loc : Nat) (value : Option Word) (core cell : Nat) (pc : Word) : State :=
  match futPeer loc with
  | some (node, va) =>
    (s.request node opAtomic (if core < 512 then (s.getCore core).asid.toNat else foreignAsid core) va
      (bytesOf 8 pktResolve ++ bytesOf 8 (value.getD 0).toNat ++ bytesOf 8 (if value.isSome then 0 else 1)) (.message core cell pc)).2
  | none =>
    if s.bad loc 16 then (s.countRead loc 16).notice core cell 0x40 pc 0 0
    else
      match s.futResolve loc value with
      | (s, true) => s
      | (s, false) => s.notice core cell 0x30 pc 0 loc

/-! Access checks. -/

/-- What an access wants of a page. -/
inductive Access where
  | load | store | atomic | append | fetch
  /-- An object that must lie in an ordinary page: a future, bollard or descriptor. -/
  | object
  /-- A word written and read: an amax word, in an ordinary page with R and W. -/
  | reduce
  deriving DecidableEq, Repr

/-- Whether a leaf's class and permissions allow an access (R167, R172). -/
def admits (a : Access) (e : BitVec 64) : Bool :=
  match a with
  | .load => leafR e
  | .store => leafW e && decide (leafClass e ≠ 2)
  | .atomic => leafR e && leafW e && decide (leafClass e = 0 ∨ leafClass e = 3)
  | .append => decide (leafClass e = 1)
  | .fetch => leafX e && decide (leafClass e = 0)
  | .object => decide (leafClass e = 0)
  | .reduce => decide (leafClass e = 0) && leafR e && leafW e

/-- Where bytes of an address lie, once translated. -/
inductive Piece where
  /-- In this module: physical address, count, class, append unit size and page base. -/
  | here (pa n cls unit page : Nat)
  /-- In host memory: adapter node and host physical address. -/
  | host (node ha n : Nat)
  /-- Homed on a peer: node and virtual address, untranslated (R42). -/
  | peer (node va n : Nat)
  deriving DecidableEq, Repr

def Piece.size : Piece → Nat
  | .here _ n _ _ _ => n
  | .host _ _ n => n
  | .peer _ _ n => n

/-- What the run-ahead pipeline finds for an access (R174). -/
inductive Found where
  | ok (ps : List Piece)
  | miss (va : Nat)
  /-- Refused: cause 0x11, or 0x40 where the tables could not be read. -/
  | prot (cause va : Nat)
  deriving DecidableEq, Repr

/-- The home node of an address by a core's home map (R41): the lowest entry that covers it, else this module. -/
def Core.homeNode (k : Core) (self va : Nat) : Nat :=
  match k.home.find? (fun p => decide (p.2.count ≠ 0) && decide (p.2.first ≤ va / 2 ^ 30)
      && decide (va / 2 ^ 30 < p.2.first + p.2.count)) with
  | some p => p.2.node
  | none => self

/-- A core's translation of one page under an ASID: from its translation buffer, else by a walk, which fills the buffer (R175) and whose
reads count (R15). -/
def State.translate (s : State) (core asid va : Nat) : State × Walk :=
  let k := s.getCore core
  match k.tlb.find? (fun t => t.asid == asid && decide (t.base ≤ va) && decide (va < t.base + t.size)) with
  | some t => (s, .leaf (if t.size = 0x10000 then 0 else if t.size = 0x200000 then 1 else 2) t.leaf)
  | none =>
    let t := s.countWalk asid va
    match s.walk asid va with
    | .leaf l e =>
      let size := pageSize l
      (t.setCore core { k with tlb := ({ asid := asid, base := va / size * size, size := size, leaf := e } :: k.tlb).take 1024 },
        .leaf l e)
    | w => (t, w)

/-- The pieces of an access of `n` bytes from `va`, split at 64 KiB boundaries, each page checked (R174, R366). -/
def State.findPieces (s : State) (core asid : Nat) (a : Access) : Nat → Nat → Nat → State × Found
  | 0, _, _ => (s, .ok [])
  | fuel + 1, va, n =>
    if n = 0 then (s, .ok [])
    else if 2 ^ 57 ≤ va then (s, .prot 0x11 va)
    else
      let len := min n (0x10000 - va % 0x10000)
      let node := (s.getCore core).homeNode s.fabric.node va
      let (s, p) : State × Found :=
        if node ≠ s.fabric.node then (s, .ok [.peer node va len])
        else
          match s.translate core asid va with
          | (s, .miss) => (s, .miss va)
          | (s, .bad) => (s, .prot 0x11 va)
          | (s, .dead) => (s, .prot 0x40 va)
          | (s, .leaf l e) =>
            if !admits a e then (s, .prot 0x11 va)
            else
              let pa := leafAddr e + va % pageSize l
              if leafClass e = 3 then (s, .ok [.host (0x1000 + leafHnode e) pa len])
              else (s, .ok [.here pa len (leafClass e) (2 ^ (8 + leafSegl e)) (leafAddr e)])
      match p with
      | .ok ps =>
        match s.findPieces core asid a fuel (va + len) (n - len) with
        | (s, .ok qs) => (s, .ok (ps ++ qs))
        | r => r
      | _ => (s, p)

/-- The pieces of an access under an ASID, by enough pages for its length. -/
def State.findAs (s : State) (core asid : Nat) (a : Access) (va n : Nat) : State × Found :=
  s.findPieces core asid a (n / 0x10000 + 2) va n

/-- The pieces of an access under the core's ASID. -/
def State.find (s : State) (core : Nat) (a : Access) (va n : Nat) : State × Found :=
  s.findAs core (s.getCore core).asid.toNat a va n

/-! Sectors and units at a home. -/

def AppUnit.fresh (size : Nat) : AppUnit where
  size := size
  tail := 0
  st := .opened
  sealAt := 0
  written := []
  futs := []

/-- An append unit by its physical base (R168): one that nothing has changed is open, with tail 0. -/
def State.unit (s : State) (base size : Nat) : AppUnit := (tget s.units base).getD (AppUnit.fresh size)

/-- Whether a byte of an append unit holds written data (R168, R205): its sector's written bit is set, and, once the unit is closing or
sealed, it lies below T. -/
def AppUnit.holds (u : AppUnit) (off : Nat) : Bool := u.written.contains (off / 16) && (u.st == .opened || decide (off < u.sealAt))

/-- The value of bytes of append units of one size: what no write has reached reads as zero. -/
def State.unitRead (s : State) (size : Nat) : Nat → Nat → Nat
  | _, 0 => 0
  | pa, n + 1 =>
    let base := pa / size * size
    let b := if (s.unit base size).holds (pa - base) then (mget s.mem pa).toNat else 0
    b + 256 * s.unitRead size (pa + 1) n

/-- Whether a read of bytes of append units meets memory that it cannot read: in a sector that a write has reached (R15, R17). -/
def State.unitBad (s : State) (size pa n : Nat) : Bool :=
  (sectorsOf pa n).any (fun g =>
    let base := 16 * g / size * size
    (s.unit base size).written.contains ((16 * g - base) / 16) && s.bad (16 * g) 16)

/-- A range cut at the boundaries of append units: each part's address and length. -/
def unitParts (size : Nat) : Nat → Nat → Nat → List (Nat × Nat)
  | 0, _, _ => []
  | fuel + 1, pa, n =>
    let len := min n (size - pa % size)
    if len = 0 then [] else (pa, len) :: unitParts size fuel (pa + len) (n - len)

/-- A seal completes when every sector below T has its written bit (R204): the unit is sealed, its futures resolve with T, and
a future already resolved is a notice of cause 0x30 for the step that named it. -/
def State.sealCheck (s : State) (base : Nat) : State :=
  match tget s.units base with
  | none => s
  | some u =>
    if u.st == .closing && (List.range (u.sealAt / 16)).all (fun i => u.written.contains i) then
      let s := { s with units := tset s.units base { u with st := .sealed, futs := [] } }
      u.futs.foldl (fun s f => s.resolveLoc f.1 (some (BitVec.ofNat 64 u.sealAt)) f.2.1 f.2.2.1 f.2.2.2) s
    else s

/-- Whether a write of bytes of one append unit is admitted (R203): below the tail of an open unit, or below T of a closing one. -/
def AppUnit.admitsWrite (u : AppUnit) (off n : Nat) : Bool :=
  match u.st with
  | .opened => decide (off + n ≤ u.tail)
  | .closing => decide (off + n ≤ u.sealAt)
  | .sealed => false

/-- An admitted write to one append unit (R168): the first write to a sector zeroes the rest of the sector. -/
def State.unitPut (s : State) (size pa : Nat) (bs : List Byte) : Except Nat State :=
  let base := pa / size * size
  let u := s.unit base size
  let gs := (sectorsOf pa bs.length).map (fun g => g - base / 16)
  let s := (gs.filter (fun g => !u.written.contains g)).foldl (fun s g => { s with
    mem := mstore s.mem (base + 16 * g) (List.replicate 16 0)
    poison := nremove s.poison (base / 16 + g) }) s
  match s.writePhys pa bs with
  | .error c => .error c
  | .ok s => .ok ({ s with units := tset s.units base { u with written := gs.foldl ninsert u.written } }.sealCheck base)

/-- The parts of a write put one after the other. -/
def State.unitPuts (s : State) (size : Nat) (bs : List Byte) : List (Nat × Nat) → Except Nat State
  | [] => .ok s
  | p :: r =>
    match s.unitPut size p.1 (bs.take p.2) with
    | .error c => .error c
    | .ok s => s.unitPuts size (bs.drop p.2) r

/-- A write of one element at the home of its append units (R203): performed when every byte is admitted, else cause 0x12. -/
def State.unitWrite (s : State) (size pa : Nat) (bs : List Byte) : Except Nat State :=
  let ps := unitParts size (bs.length / size + 2) pa bs.length
  if ps.any (fun p => !(s.unit (p.1 / size * size) size).admitsWrite (p.1 % size) p.2) then .error 0x12 else s.unitPuts size bs ps

/-- One compression sector expanded (R169, R170): its 4-byte directory entry holds KIND in bits 31-30, OFFSET in bits 29-12, in units of 16 bytes,
and CLEN in bits 11-0; the sector is zero, 256 raw bytes, or CLEN bytes of R23's coder, which lie at the page's base + 16 x OFFSET. None where its
entry or its data does not decode. An OFFSET below 64 or a CLEN above 256, which R169 does not allow, is taken as it stands (DESIGN CHOICE, log 70). -/
def State.expandSector (s : State) (page i : Nat) : Option (List Byte) :=
  let e := mload s.mem (page + 4 * i) 4
  let at_ := page + 16 * bitsN e 29 12
  if s.bad (page + 4 * i) 4 then none
  else
    match bitsN e 31 30 with
    | 0 => some (List.replicate 256 0)
    | 1 => if s.bad at_ 256 then none else some (mbytes s.mem at_ 256)
    | 2 =>
      if s.bad at_ (bitsN e 11 0) then none
      else
        match Config.zeroRunDecode (mbytes s.mem at_ (bitsN e 11 0)) with
        | some bs => if bs.length = 256 then some bs else none
        | none => none
    | _ => none

/-- Bytes of a compressed-ordinary page (R170), by the compression sectors they fall in. -/
def State.expandBytes (s : State) (page : Nat) : Nat → Nat → Option (List Byte)
  | _, 0 => some []
  | off, n + 1 =>
    match s.expandSector page (off / 256), s.expandBytes page (off + 1) n with
    | some bs, some r => some (bs.getD (off % 256) 0 :: r)
    | _, _ => none

/-- A piece's bytes read at their home: the value, or a cause. Host memory answers through its adapter (R38). -/
def State.readPiece (s : State) : Piece → Except Nat Nat
  | .here pa n cls unit page =>
    if cls = 1 then (if s.unitBad unit pa n then .error 0x40 else .ok (s.unitRead unit pa n))
    else if cls = 2 then
      match s.expandBytes page (pa - page) n with
      | some bs => .ok (valueOf bs)
      | none => .error 0x40
    else s.readPhys pa n
  | .host node ha n => match s.fabric.hostFails node with
    | some c => .error c
    | none => .ok (mload ((tget s.hostMem node).getD []) ha n)
  | .peer _ _ _ => .error 0x40

/-- The sectors that the read of a piece of this module's memory reaches, counted (R15, R28); of a compressed page the entries and the coded
data (R170). -/
def State.countPiece (s : State) : Piece → State
  | .here pa n cls _ page =>
    if cls = 2 then
      (List.range ((pa - page + n - 1) / 256 - (pa - page) / 256 + 1)).foldl (fun s j =>
        let i := (pa - page) / 256 + j
        let e := mload s.mem (page + 4 * i) 4
        let s := s.countRead (page + 4 * i) 4
        match bitsN e 31 30 with
        | 1 => s.countRead (page + 16 * bitsN e 29 12) 256
        | 2 => s.countRead (page + 16 * bitsN e 29 12) (bitsN e 11 0)
        | _ => s) s
    else s.countRead pa n
  | _ => s

/-- Pieces that reads reach. -/
def State.countPieces (s : State) (ps : List Piece) : State := ps.foldl State.countPiece s

/-! Replicas (R165, R433). -/

/-- The replica of a line that a die holds. -/
def State.replica (s : State) (die line : Nat) : Option Replica := s.replicas.find? (fun r => r.die == die && r.line == line)

/-- Bytes of a replica, or 0x40 where a sector of them came poisoned. -/
def Replica.read (r : Replica) (off n : Nat) : Except Nat Nat :=
  if (sectorsOf off n).any (fun g => r.bad.contains g) then .error 0x40 else .ok (fld r.bytes off n)

/-- A line of append units of one size as its home reads it. -/
def State.lineAt (s : State) (die size line : Nat) : Replica :=
  { die := die, line := line, bytes := bytesOf 128 (s.unitRead size (128 * line) 128)
    bad := (List.range 8).filter (fun g => s.unitBad size (128 * line + 16 * g) 16) }

/-- What a core's read of a part of one line of an append unit on another die reaches: a replica of its own die, else the home, whose whole line the
die's slice keeps where the unit is sealed. -/
def State.notePart (s : State) (core size : Nat) (p : Nat × Nat) : State :=
  let line := p.1 / 128
  if (s.replica (dieOf core) line).isSome then s
  else if (s.unit (128 * line / size * size) size).st = .sealed then
    { s.countRead (128 * line) 128 with replicas := s.replicas ++ [s.lineAt (dieOf core) size line] }
  else s.countRead p.1 p.2

/-- A part's value as the core's die answers it. -/
def State.readPart (s : State) (core size : Nat) (p : Nat × Nat) : Except Nat Nat :=
  match s.replica (dieOf core) (p.1 / 128) with
  | some r => r.read (p.1 % 128) p.2
  | none => if s.unitBad size p.1 p.2 then .error 0x40 else .ok (s.unitRead size p.1 p.2)

/-- Parts read in order; the first cause where one fails. -/
def State.readParts (s : State) (core size : Nat) : List (Nat × Nat) → Except Nat Nat
  | [] => .ok 0
  | p :: r =>
    match s.readPart core size p, s.readParts core size r with
    | .ok a, .ok b => .ok (a + 2 ^ (8 * p.2) * b)
    | .error c, _ => .error c
    | _, .error c => .error c

/-- The lines that a piece of an append unit homed on another die than the core's lies in; none for any other piece. -/
def Piece.farParts (core : Nat) : Piece → Option (Nat × List (Nat × Nat))
  | .here pa n cls unit _ => if cls = 1 ∧ homeDie pa ≠ dieOf core then some (unit, unitParts 128 (n / 128 + 2) pa n) else none
  | _ => none

/-- What a core's read of a piece reaches (R15, R28, R433). -/
def State.noteRead (s : State) (core : Nat) (p : Piece) : State :=
  match p.farParts core with
  | some (size, ps) => ps.foldl (fun s q => s.notePart core size q) s
  | none => s.countPiece p

/-- The value of a piece that a core reads, once what it reaches is noted. -/
def State.readBy (s : State) (core : Nat) (p : Piece) : Except Nat Nat :=
  match p.farParts core with
  | some (size, ps) => s.readParts core size ps
  | none => s.readPiece p

/-- The value of pieces read in order; the first cause where one fails. -/
def State.readPieces (s : State) : List Piece → Except Nat Nat
  | [] => .ok 0
  | p :: r =>
    match s.readPiece p, s.readPieces r with
    | .ok a, .ok b => .ok (a + 2 ^ (8 * p.size) * b)
    | .error c, _ => .error c
    | _, .error c => .error c

/-- A piece's bytes written at their home. -/
def State.writePiece (s : State) (bs : List Byte) : Piece → Except Nat State
  | .here pa _ cls unit _ => if cls = 1 then s.unitWrite unit pa bs else s.writePhys pa bs
  | .host node ha _ =>
    match s.fabric.hostFails node with
    | some c => .error c
    | none => .ok { s with hostMem := tset s.hostMem node (mstore ((tget s.hostMem node).getD []) ha bs) }
  | .peer _ _ _ => .error 0x40

/-- Pieces written in order; the first refusal ends it. -/
def State.writePieces (s : State) (bs : List Byte) : List Piece → Except Nat State
  | [] => .ok s
  | p :: r =>
    match s.writePiece (bs.take p.size) p with
    | .ok s => s.writePieces (bs.drop p.size) r
    | .error c => .error c

/-- Whether any piece is homed on a peer, or on a host adapter. -/
def anyPeer (ps : List Piece) : Option (Nat × Nat) :=
  ps.findSome? (fun p => match p with
    | .peer node va _ => some (node, va)
    | _ => none)
def anyHost (ps : List Piece) : Option (Nat × Nat) :=
  ps.findSome? (fun p => match p with
    | .host node ha _ => some (node, ha)
    | _ => none)

/-! The pager (R176). -/

/-- The physical address of pager future `j` of a core. -/
def pagerAddr (core j : Nat) : Nat := 0xBFFFFE0000 + 256 * core + 16 * j

/-- The pager future that a miss registers on, and the state with it taken: one in use for the page, else a free one, whose
fault record is queued, else the one queued earliest (R176). -/
def State.takePager (s : State) (core cell : Nat) (pc : Word) (va : Nat) : Nat × State :=
  let k := s.getCore core
  let page := va / 0x10000
  let use (j : Nat) : PagerUse := (tget k.pagers j).getD { inUse := false, asid := 0, page := 0, order := 0 }
  match (List.range 16).find? (fun j => (use j).inUse && (use j).asid == k.asid.toNat && (use j).page == page) with
  | some j => (pagerAddr core j, s)
  | none =>
    match (List.range 16).find? (fun j => !(use j).inUse) with
    | some j =>
      let s := s.setCore core
        { k with
          pagers := tset k.pagers j { inUse := true, asid := k.asid.toNat, page := page, order := k.pagerOrder }
          pagerOrder := k.pagerOrder + 1 }
      (pagerAddr core j, s.notice core cell 0x10 pc va (pagerAddr core j))
    | none =>
      let j := (List.range 16).foldl (fun b i => if (use i).order < (use b).order then i else b) 0
      (pagerAddr core j, s)

/-- A record registered on a pager future (R252): it stays in the mooring area until the future is resolved. -/
def State.hangOnPager (s : State) (core : Nat) (r : Record) (pa : Nat) : State :=
  match s.deposit core { r with on := .pager pa, waitAddr := pa, ready := false } with
  | none => s.overflowed core (s.ctxOf core) r
  | some (s, r) =>
    let (old, s) := s.futRegister pa (r.ref s.fabric.node core) 0
    s.modCtxCore (s.ctxOf core) core (·.modRecord r.dseq (fun r => { r with next := old }))

/-- A placed record asks for its registration at a pager future of another module (R42): REGP until the answer comes (R133). -/
def State.askPeerPager (s : State) (ctx core : Nat) (r : Record) (node pa : Nat) : State :=
  (s.request node opPager (s.getCore core).asid.toNat pa (bytesOf 1 2 ++ bytesOf 8 (r.ref s.fabric.node core)) (.register ctx core r.dseq)).2

/-- A record registered on a pager future of another module (R42). -/
def State.hangOnPeer (s : State) (core : Nat) (r : Record) (node pa : Nat) : State :=
  match s.deposit core { r with on := .peerPager node pa, waitAddr := pa, ready := false, regp := true } with
  | none => s.overflowed core (s.ctxOf core) r
  | some (s, r) => s.askPeerPager (s.ctxOf core) core r node pa

/-- A translation miss in a scalar-stream word or at a fetch (R176): the strand waits on a pager future and resumes at the
same word. It leaves only once no MAMAX of it is on its way (R399). -/
def State.missScalar (s : State) (va : Nat) : State :=
  if s.amaxOut then s.park
  else
    let core := s.here
    let (pa, s) := s.takePager core s.strand.cell s.strand.pc va
    let (es, stop, s) := s.withdraw
    let t := { TrapBlock.none with cause := 0x10, scalar := true, fpc := s.strand.pc, faddr := BitVec.ofNat 64 va, fut := pa }
    let r := s.fullRecord .fault s.strand.pc (t.stoppedAt stop) es
    (s.vacate).hangOnPager core r pa

/-- A translation miss in the word in execution of a convoy (R261, R263): ESTART 0, nothing of the word performed. -/
def State.missConvoy (s : State) (va : Nat) : State :=
  if s.amaxOut then s.park
  else
    let core := s.here
    let cv := s.strand.cv
    let (pa, s) := s.takePager core s.strand.cell (cv.entry.cpc + BitVec.ofNat 64 (4 * cv.k)) va
    let (t, es, s) := s.faultEntries { TrapBlock.none with cause := 0x10, faddr := BitVec.ofNat 64 va, fut := pa }
    let r := s.fullRecord .fault s.strand.pc t es
    (s.vacate).hangOnPager core r pa

end Sys2Proof.Machine
end

