-- ==== Sys2Proof/Machine/Leave.lean ====
section
/-!
DEFINITION. Leaving and ending (spec 06): the record of a leave, the convoy's retirement, the end of a strand and of a step, and
the restart of a strand from a record, which is the return from a trap or leave.
-/

namespace Sys2Proof.Machine

open Sys2Proof

/-! Retiring a convoy (R128, R249). -/

/-- The SSTAT bit of a class, and its EIX register's place. -/
def Flag.bitNo : Flag → Nat
  | .nv => 4
  | .dz => 3
  | .of => 2
  | .uf => 1
  | .nx => 0
def Flag.eixNo : Flag → Nat
  | .nv => 0
  | .dz => 1
  | .of => 2
  | .uf => 3
  | .nx => 4

/-- One raised class merged: SSTAT by OR, and the class's EIX register. -/
def mergeFlag (r : Regs) (f : Flag × Nat) : Regs :=
  { r with
    sstat := r.sstat ||| BitVec.ofNat 64 (2 ^ f.1.bitNo)
    eix := r.eix.set f.1.eixNo (BitVec.ofNat 64 f.2) (by cases f.1 <;> decide) }

/-- The registers once the convoy's flags are merged in word order, then SAT. -/
def mergeFlags (r : Regs) (fs : List (Flag × Nat)) (sat : Bool) : Regs :=
  let r := fs.foldl mergeFlag r
  if sat then { r with sstat := r.sstat ||| 0x100 } else r

/-- The convoy in execution retires: its flags merge and its scalar results are written (R128, R249). What peers returned for an ENGINE word goes
with that word. -/
def State.retire (s : State) : State :=
  let cv := s.strand.cv
  let s := { s with strand := { s.strand with
    cv := Convoy.closed
    fetched := if cv.entry.words.any (fun w => w.extractLsb' 2 5 == 0b11101#5) then [] else s.strand.fetched
    waits := none } }
  let s := s.modRegs (fun r => mergeFlags r cv.flags cv.sat)
  cv.scalars.foldl (fun s p => s.setX p.1 p.2) s

/-- The word of the convoy in execution is done: the next word's turn, or the convoy retires after its last (R128). -/
def State.wordDone (s : State) : State :=
  let cv := s.strand.cv
  if cv.k + 1 < cv.entry.words.length then { s with strand := { s.strand with cv := { cv with k := cv.k + 1, since := none }, waits := none } }
  else s.retire

/-! The record of a leave (R133-R137). -/

/-- A register file with what an image does not hold cleared: what a strand finds after its relaunch (R136). -/
def Regs.held (r : Regs) (sm vm : BitVec 32) (mm : BitVec 8) : Regs :=
  { r with
    xs := Vector.ofFn (fun i => if sm.getLsbD i.val then r.xs[i] else 0)
    vs := Vector.ofFn (fun i => if vm.getLsbD i.val then r.vs[i] else { bits := 0, tag := 0 })
    ms := Vector.ofFn (fun i => if mm.getLsbD i.val then r.ms[i] else 0) }

/-- The LEAVE record of the strand in hand: the live set's registers, the destinations (a scalar, vector registers covering
`bytes`), resuming at `pc` (R136, R137). -/
def State.leaveRecord (s : State) (ls : Nat) (dx : Option (BitVec 5)) (dv : List Nat) (bytes : Nat) (pc : Word) : Record :=
  let l := s.liveSet ls
  let base := s.blankRecord .leave pc
  let kept := s.strand.regs.held l.sregs l.vregs l.mregs
  let sm := match dx with
    | some r => if r = 0 then l.sregs else l.sregs ||| BitVec.ofNat 32 (2 ^ r.toNat)
    | none => l.sregs
  let vm := dv.foldl (fun m n => m ||| BitVec.ofNat 32 (2 ^ n)) l.vregs
  let vs := kept.vs.mapIdx (fun i v =>
    if dv.contains i then { v with tag := max (s.strand.regs.vs.toList.getD i v).tag (roundUp bytes 64) } else v)
  { base with
    lsidx := ls
    regs := { kept with vs := vs, estart := 0, mrow := 0, mkstep := 0 }
    smask := sm
    vmask := vm
    mmask := l.mregs
    damaged := s.damagedIn l.sregs l.vregs l.mregs }

/-- The strand of a mooring overflow (R143): cause 0x31 at the word, and the context is pre-empted on the die. -/
def State.overflow (s : State) : State :=
  let ctx := s.core.ctx.getD 64
  let die := dieOf s.here
  let s := if s.strand.cv.live then s.trapConvoy { TrapBlock.none with cause := 0x31 } else s.trapScalar 0x31 0
  s.later .preempt { Input.none with n := ctx, die := die, ok := false }

/-- The strand in hand leaves with a record (R133): it is deposited, its matrix commands are detached (R398), its slot is free.
The answer is the record as deposited, or the state after the mooring overflow (R143). -/
def State.leaveWith (s : State) (r : Record) : Except State (State × Record) :=
  match s.deposit s.here r with
  | none => .error s.overflow
  | some (s, r) => .ok (s.detach.vacate, r)

/-! The end of strands and steps (R152, R336). -/

/-- Whether a command of a step is unfinished on its core. -/
def Core.busy (k : Core) (cell : Nat) : Bool :=
  k.mat.any (fun m => m.cell == cell) || k.copies.any (fun j => j.cell == cell) || k.streams.any (fun j => j.cell == cell)
    || k.xforms.any (fun j => j.cell == cell) || k.heldRels.any (fun h => h.cell == cell)

/-- A step that has ended releases its claims once its matrix commands have finished, and its entry goes (R400). -/
def Core.settleStep (k : Core) (cell : Nat) : Core :=
  let st := k.step cell
  if !st.live && st.strands == 0 && !k.mat.any (fun m => m.cell == cell) then
    { k with
      steps := tdel k.steps cell
      tags := k.tags.filter (fun p => !st.slots.getLsbD p.1) }
  else k

/-- One strand of a step is gone; with the last, the step ends, its descriptor cell is free, and the launch may end (R152,
R336). `killed` counts the step in the launch's FAULTED (R117). -/
def State.strandGone (s : State) (core cell : Nat) (killed : Bool) : State :=
  let k := s.getCore core
  let st := k.step cell
  if 1 < st.strands then s.setCore core (k.modStep cell (fun st => { st with strands := st.strands - 1 }))
  else
    let k := k.modStep cell (fun st => { st with strands := 0, live := false })
    let s := s.setCore core (k.settleStep cell)
    let s := s.modLaunch st.die st.launch (fun l =>
      { l with faulted := if killed then l.faulted + 1 else l.faulted, progress := if killed then l.progress else s.time.toNat })
    s.later .launchEnd { Input.none with die := st.die, n := st.launch }

/-- Work that the machine has still to perform is hurried: the first matching outstanding step runs next, and the word in hand
issues again later (R131). -/
def State.hurry (s : State) (what : Instr) (p : Input → Bool) (fresh : Input) : State :=
  let s := s.stall false
  match s.work.find? (fun t => decide (t.what = what) && p t.inp) with
  | some t => { s with work := s.work.erase t, agenda := t :: s.agenda }
  | none => s.soon what fresh

/-- The oldest matrix command runs next, and the word in hand waits (R397). -/
def State.waitMatrix (s : State) : State :=
  s.hurry .matrixCommandFinish (fun i => i.core == s.here) { Input.none with core := s.here }

/-- Orders of a step's withdrawn commands that have not been accepted again: in records, and in strands not in hand. -/
def Core.withdrawn (k : Core) (cell : Nat) : List Nat :=
  ((k.records.filter (·.cell == cell)).flatMap (fun r => r.convoys.flatMap (fun e => e.marks.map (·.order))))
    ++ (k.slots.filter (·.2.cell == cell)).flatMap (fun p =>
      (p.2.queue.flatMap (fun e => e.marks.map (·.order)))
        ++ (if p.2.cv.live then (p.2.cv.entry.marks.drop p.2.cv.k).map (·.order) else []))

/-- Those orders, with the commands that left with a FAULT record which has gone to the resident context's fault queue (R399). -/
def State.withdrawn (s : State) (core cell : Nat) : List Nat :=
  let k := s.getCore core
  k.withdrawn cell ++ (((k.ctx.bind (tget s.contexts)).map (·.pendingFaults)).getD []).flatMap (fun p =>
    if p.2.1 = core ∧ p.2.2.cell = cell then p.2.2.convoys.flatMap (fun e => e.marks.map (·.order)) else [])

/-- What waits for every earlier matrix command of the step, withdrawn ones included (R397, R401). -/
def State.afterMatrix (s : State) (f : State → State) : State :=
  if s.core.mat.any (fun m => m.cell == s.strand.cell) then s.waitMatrix
  else if (s.withdrawn s.here s.strand.cell).isEmpty then f s
  else s.stall false

/-- Whether a command or write of a step is still to perform: its engine commands, and its writes on their way to other nodes
(R189, R192). -/
def State.outstanding (s : State) (core cell : Nat) : Bool :=
  let k := s.getCore core
  k.mat.any (fun m => m.cell == cell) || k.copies.any (fun j => j.cell == cell) || k.streams.any (fun j => j.cell == cell)
    || k.xforms.any (fun j => j.cell == cell)
    || s.fabric.out.any (fun p => match p.purpose with
      | .write c l _ => c == core && l == cell
      | _ => false)

/-- An engine command of a step runs next; with none to run, the strand waits for what comes from outside. -/
def State.hurryStep (s : State) (core cell : Nat) : State :=
  let k := s.getCore core
  match k.copies.find? (fun j => j.cell == cell && j.kind != 3) with
  | some j =>
    s.hurry .copyTransferComplete (fun i => i.core == core && i.slot == cell && i.queue == j.chan && i.n == j.id)
      { Input.none with core := core, slot := cell, queue := j.chan, n := j.id }
  | none =>
    match k.streams.find? (fun j => j.cell == cell) with
    | some j => s.hurry .streamEnd (fun i => i.core == core && i.queue == j.port) { Input.none with core := core, queue := j.port }
    | none =>
      match k.xforms.find? (fun j => j.cell == cell) with
      | some j =>
        s.hurry .transformPerform (fun i => i.core == core && i.slot == cell && i.n == j.num)
          { Input.none with core := core, slot := cell, n := j.num }
      | none =>
        if k.mat.any (fun m => m.cell == cell) then
          s.hurry .matrixCommandFinish (fun i => i.core == core) { Input.none with core := core }
        else
          match k.copies.find? (fun j => j.cell == cell) with
          | some j =>
            s.hurry .copyTransferComplete (fun i => i.core == core && i.slot == cell && i.queue == j.chan && i.n == j.id)
              { Input.none with core := core, slot := cell, queue := j.chan, n := j.id }
          | none => s.stall false

/-- Whether the strand's step holds ST.REL writes (R382), in whichever sequencer its strands issued them. -/
def State.heldHere (s : State) : Bool := s.core.heldRels.any (fun h => h.cell == s.strand.cell)

/-- A word after the held writes of its stream: they are sent first (R189). -/
def State.afterHeld (s : State) (f : State → State) : State :=
  if s.heldHere then s.hurry .heldReleaseWrite (fun i => i.core == s.here) { Input.none with core := s.here } else f s

/-- Whether stores of the strand's step are on their way to other nodes. -/
def State.storesOut (s : State) : Bool :=
  s.fabric.out.any (fun p => match p.purpose with
    | .write c l _ => c == s.here && l == s.strand.cell
    | _ => false)

/-- The bytes at its destination that a write request touches. -/
def Pending.reach (p : Pending) : Nat × Nat := (p.pkt.addr, if p.pkt.op = opWrite then p.pkt.data.length else 8)

/-- Whether a write of a step to any of `n` bytes at another node is still on its way: a later access of the same bytes waits for it (R189, R197). -/
def State.peerWrites (s : State) (core cell node va n : Nat) : Bool :=
  s.fabric.out.any (fun p => match p.purpose with
    | .write c l _ => c == core && l == cell && p.pkt.dst == node && decide (p.reach.1 < va + n) && decide (va < p.reach.1 + p.reach.2)
    | _ => false)

/-- Whether such a write lies in a range of addresses, on whichever node it goes to. -/
def State.rangeWrites (s : State) (core cell lo hi : Nat) : Bool :=
  s.fabric.out.any (fun p => match p.purpose with
    | .write c l _ => c == core && l == cell && decide (p.reach.1 ≤ hi) && decide (lo < p.reach.1 + p.reach.2)
    | _ => false)

/-- Whether pieces of an access meet such a write of the strand's step. -/
def State.meetsWrites (s : State) (ps : List Piece) : Bool :=
  ps.any (fun p => match p with
    | .peer node va n => s.peerWrites s.here s.strand.cell node va n
    | _ => false)

/-- A word that releases the strand's writes (R192, R196): it waits until the held ones and those on their way have performed. -/
def State.afterStores (s : State) (f : State → State) : State := s.afterHeld (fun s => if s.storesOut then s.stall false else f s)

/-- The step's held writes and its stores on their way, or anything an engine has yet to perform for it, go before the word (R190, R383). -/
def State.afterAll (s : State) (f : State → State) : State :=
  s.afterHeld (fun s => if s.outstanding s.here s.strand.cell then s.hurryStep s.here s.strand.cell else f s)

/-! The number of a deposit (R137, R431). -/

/-- A record whose place was taken for a registration is deposited: it gets the core's next number, and what is on its way for it follows. -/
def State.firm (s : State) (core key : Nat) : State :=
  let k := s.getCore core
  let n := k.dseq
  let k' := { k.modRecord key (fun r => { r with dseq := n }) with dseq := n + 1 }
  let rename (p : Pending) : Pending := match p.purpose with
    | .register ctx c d => if c = core ∧ d = key then { p with purpose := .register ctx c n } else p
    | _ => p
  let s := { s.setCore core k' with fabric := { s.fabric with out := s.fabric.out.map rename } }
  s.showRecords (s.ctxOf core) core k k' false

/-! Restarting a strand from a record (R136, R262). -/

/-- The strand that a record restarts as, in a slot: registers as the image holds them, each vector register's valid length VLENT × 64 (R139),
s3 the descriptor cell's address where the image does not hold it (R136), the convoys queued, entry 0's restart point from the trap block (R262). -/
def State.strandOf (s : State) (core : Nat) (r : Record) : Strand :=
  let k := s.getCore core
  let regs := r.regs.held r.smask r.vmask r.mmask
  let cellA := BitVec.ofNat 64 (k.cellAddr r.cell)
  let xs := if r.smask.getLsbD 3 then regs.xs else regs.xs.set 3 cellA
  let regs := { regs with
    xs := xs
    vs := regs.vs.mapIdx (fun i v => { bits := BitVec.ofNat 65536 v.read, tag := 64 * r.vecUnits i })
    estart := match r.kind with
      | .fork => regs.estart
      | .leave => 0
      | .preempt | .fault => if r.convoys.isEmpty then BitVec.ofNat 16 r.trap.estart else 0
    mrow := BitVec.ofNat 7 r.trap.mrow
    mkstep := BitVec.ofNat 32 r.trap.mkstep }
  let regs := if r.trap.mstop then regs else { regs with mrow := 0, mkstep := 0 }
  let convoys := match r.kind with
    | .leave | .fork => []
    | .preempt | .fault => r.convoys
  { Strand.fresh with
    pc := r.pc
    regs := regs
    cell := r.cell
    granted := k.grants
    queue := convoys
    fetched := r.fetched
    resume := if convoys.isEmpty then none
      else some (r.trap.fword, r.trap.estart, r.trap.mstop, r.trap.mkstep, r.trap.mrow)
    src := some r }

end Sys2Proof.Machine
end

