-- ==== Sys2Proof/Machine/Num.lean ====
section
/-!
DEFINITION. Number formats and arithmetic (spec 10): decoding an element, exact arithmetic, one rounding, and the flags.
-/

namespace Sys2Proof.Machine

open Sys2Proof

/-! Formats (R230, R233). -/

/-- A floating-point format: exponent and mantissa bits; `e4m3` for the format without infinities. -/
structure Fmt where
  eb : Nat
  mb : Nat
  e4m3 : Bool
  deriving DecidableEq, Repr

def Fmt.bias (f : Fmt) : Nat := 2 ^ (f.eb - 1) - 1
def Fmt.width (f : Fmt) : Nat := 1 + f.eb + f.mb
/-- The least exponent of a normal value. -/
def Fmt.emin (f : Fmt) : Int := 1 - (f.bias : Int)
/-- The largest finite value, as a mantissa and its exponent. -/
def Fmt.maxM (f : Fmt) : Nat := if f.e4m3 then 14 else 2 ^ (f.mb + 1) - 1
def Fmt.maxE (f : Fmt) : Int := if f.e4m3 then 5 else (f.bias : Int) - f.mb

def fE4M3 : Fmt := { eb := 4, mb := 3, e4m3 := true }
def fE5M2 : Fmt := { eb := 5, mb := 2, e4m3 := false }
def fFP16 : Fmt := { eb := 5, mb := 10, e4m3 := false }
def fBF16 : Fmt := { eb := 8, mb := 7, e4m3 := false }
def fFP32 : Fmt := { eb := 8, mb := 23, e4m3 := false }
def fFP64 : Fmt := { eb := 11, mb := 52, e4m3 := false }

/-- The floating-point format of a format code (R230). -/
def fmtOf (code : Nat) : Option Fmt :=
  if code = 0x08 then some fE4M3 else if code = 0x09 then some fE5M2 else if code = 0x0A then some fFP16
  else if code = 0x0B then some fBF16 else if code = 0x0C then some fFP32 else if code = 0x0D then some fFP64 else none

/-- Whether a format code is one of R230. -/
def codeOk (c : Nat) : Bool := c ≤ 0x03 || (0x08 ≤ c && c ≤ 0x0D) || c = 0x10 || c = 0x18

/-- An integer format (R230), and a format that vector floating-point arithmetic takes (R251). -/
def isInt (c : Nat) : Bool := decide (c ≤ 3)
def isFloat (c : Nat) : Bool := decide (0x0A ≤ c) && decide (c ≤ 0x0D)

/-- The width in bits of a format code (R230). -/
def widthOf (c : Nat) : Nat :=
  if c = 0x00 ∨ c = 0x08 ∨ c = 0x09 then 8 else if c = 0x01 ∨ c = 0x0A ∨ c = 0x0B then 16
  else if c = 0x02 ∨ c = 0x0C then 32 else if c = 0x03 ∨ c = 0x0D then 64 else if c = 0x10 then 4
  else if c = 0x18 then 128 else 8

/-! Values. -/

/-- A decoded value: NaN (signalling or not), infinity, or m × 2^e with a sign. -/
inductive FV where
  | nan (signalling : Bool)
  | inf (neg : Bool)
  | fin (neg : Bool) (m : Nat) (e : Int)
  deriving DecidableEq, Repr

/-- A format's bits decoded (R233). In E4M3 only the all-ones magnitude is NaN, and it is quiet. -/
def Fmt.decode (f : Fmt) (bits : Nat) : FV :=
  let neg := bits.testBit (f.eb + f.mb)
  let ex := bits / 2 ^ f.mb % 2 ^ f.eb
  let m := bits % 2 ^ f.mb
  if f.e4m3 ∧ ex = 15 ∧ m = 7 then .nan false
  else if !f.e4m3 ∧ ex = 2 ^ f.eb - 1 then (if m = 0 then .inf neg else .nan (!m.testBit (f.mb - 1)))
  else if ex = 0 then .fin neg m (f.emin - f.mb)
  else .fin neg (2 ^ f.mb + m) ((ex : Int) - f.bias - f.mb)

/-- The canonical NaN (R234). -/
def Fmt.qnan (f : Fmt) : Nat := if f.e4m3 then 0x7F else (2 ^ f.eb - 1) * 2 ^ f.mb + 2 ^ (f.mb - 1)

def Fmt.signBit (f : Fmt) (neg : Bool) : Nat := if neg then 2 ^ (f.eb + f.mb) else 0
def Fmt.infBits (f : Fmt) (neg : Bool) : Nat := f.signBit neg + (2 ^ f.eb - 1) * 2 ^ f.mb
def Fmt.maxBits (f : Fmt) (neg : Bool) : Nat :=
  f.signBit neg + (if f.e4m3 then 0x7E else (2 ^ f.eb - 2) * 2 ^ f.mb + (2 ^ f.mb - 1))

/-- Rounding modes (R235, R247 FRM); `mm`, to nearest with ties away from zero, is the harts' alone (R54). -/
inductive Mode where
  | ne | tz | dn | up | mm
  deriving DecidableEq, Repr

def modeOf (sstat : BitVec 64) : Mode :=
  let v := (sstat.extractLsb' 5 2).toNat
  if v = 0 then .ne else if v = 1 then .tz else if v = 2 then .dn else .up

/-- Whether k + rem / 2^sh rounds up. -/
def roundsUp (mode : Mode) (neg : Bool) (k rem sh : Nat) : Bool :=
  match mode with
  | .ne => decide (2 ^ sh < 2 * rem) || (decide (2 * rem = 2 ^ sh) && decide (k % 2 = 1))
  | .tz => false
  | .dn => neg && decide (rem ≠ 0)
  | .up => !neg && decide (rem ≠ 0)
  | .mm => decide (2 ^ sh ≤ 2 * rem)

/-- m × 2^-sh rounded to an integer, and whether that is inexact. -/
def roundShift (mode : Mode) (neg : Bool) (m : Nat) (sh : Int) : Nat × Bool :=
  if sh ≤ 0 then (m * 2 ^ (-sh).toNat, false)
  else
    let n := sh.toNat
    let k := m / 2 ^ n
    let rem := m % 2 ^ n
    ((if roundsUp mode neg k rem n then k + 1 else k), decide (rem ≠ 0))

/-- What an overflow gives (R235, R236): the largest finite value when saturating, NaN in a format without infinities, else as
the rounding mode says. -/
def Fmt.overflow (f : Fmt) (mode : Mode) (sat neg : Bool) : Nat :=
  if sat then f.maxBits neg
  else if f.e4m3 then f.qnan
  else
    match mode with
    | .ne => f.infBits neg
    | .tz => f.maxBits neg
    | .dn => if neg then f.infBits neg else f.maxBits neg
    | .up => if neg then f.maxBits neg else f.infBits neg
    | .mm => f.infBits neg

/-- A non-zero exact value (−1)^neg × m × 2^e rounded once into a format (R235), with its flags; underflow is detected after
rounding (R234). -/
def Fmt.round (f : Fmt) (mode : Mode) (sat neg : Bool) (m : Nat) (e : Int) : Nat × List Flag :=
  if m = 0 then (f.signBit neg, [])
  else
    let top : Int := e + Nat.log2 m
    let qe := max (top - f.mb) (f.emin - f.mb)
    let (k, inexact) := roundShift mode neg m (qe - e)
    let ovf : Bool :=
      if f.maxE ≤ qe then decide (f.maxM < k * 2 ^ (qe - f.maxE).toNat) else decide (f.maxM * 2 ^ (f.maxE - qe).toNat < k)
    if ovf then (f.overflow mode sat neg, [.of, .nx])
    else
      let tiny : Bool := decide (top < f.emin) &&
        !(decide (top + 1 = f.emin) && decide ((roundShift mode neg m (top - f.mb - e)).1 = 2 ^ (f.mb + 1)))
      let (k, qe) := if k = 2 ^ (f.mb + 1) then (2 ^ f.mb, qe + 1) else (k, qe)
      let bits := if k < 2 ^ f.mb then k else (qe + f.mb + f.bias).toNat * 2 ^ f.mb + (k - 2 ^ f.mb)
      (f.signBit neg + bits, (if tiny && inexact then [.uf] else []) ++ (if inexact then [.nx] else []))

/-! Exact results, before the one rounding. -/

/-- An exact result: NaN with the flags that make it, an infinity with its flags, or a value. -/
inductive Exact where
  | nan (flags : List Flag)
  | inf (neg : Bool) (flags : List Flag)
  | fin (neg : Bool) (m : Nat) (e : Int)
  deriving DecidableEq, Repr

/-- An exact result put into a format. -/
def Exact.into (x : Exact) (f : Fmt) (mode : Mode) : Nat × List Flag :=
  match x with
  | .nan fs => (f.qnan, fs)
  | .inf neg fs => (f.infBits neg, fs)
  | .fin neg m e => f.round mode false neg m e

/-- NV where one of the inputs is a signalling NaN (R234). -/
def snanFlag (xs : List FV) : List Flag := if xs.any (fun x => x == .nan true) then [.nv] else []

def FV.isNan : FV → Bool
  | .nan _ => true
  | _ => false

/-- A signed value n × 2^e; an exact zero sum is +0, or −0 when rounding toward −∞. -/
def exactOf (mode : Mode) (n : Int) (e : Int) : Exact :=
  if n = 0 then .fin (mode == .dn) 0 e else .fin (decide (n < 0)) n.natAbs e

/-- The signed mantissa. -/
def signedM (neg : Bool) (m : Nat) : Int := if neg then -(m : Int) else m

/-- The exact sum of two values. -/
def addFV (mode : Mode) (a b : FV) : Exact :=
  match a, b with
  | .nan _, _ | _, .nan _ => .nan (snanFlag [a, b])
  | .inf x, .inf y => if x = y then .inf x [] else .nan [.nv]
  | .inf x, .fin _ _ _ => .inf x []
  | .fin _ _ _, .inf y => .inf y []
  | .fin na ma ea, .fin nb mb eb =>
    if ma = 0 ∧ mb = 0 ∧ na = nb then .fin na 0 ea
    else
      let e := min ea eb
      exactOf mode (signedM na ma * 2 ^ (ea - e).toNat + signedM nb mb * 2 ^ (eb - e).toNat) e

def FV.negate : FV → FV
  | .nan q => .nan q
  | .inf n => .inf (!n)
  | .fin n m e => .fin (!n) m e

/-- The exact product of two values. -/
def mulFV (a b : FV) : Exact :=
  match a, b with
  | .nan _, _ | _, .nan _ => .nan (snanFlag [a, b])
  | .inf x, .inf y => .inf (x != y) []
  | .inf x, .fin n m _ => if m = 0 then .nan [.nv] else .inf (x != n) []
  | .fin n m _, .inf y => if m = 0 then .nan [.nv] else .inf (n != y) []
  | .fin na ma ea, .fin nb mb eb => .fin (na != nb) (ma * mb) (ea + eb)

/-- The exact a × b + c (R234: rounded once by its user). -/
def fmaFV (mode : Mode) (a b c : FV) : Exact :=
  match mulFV a b with
  | .nan fs => .nan (fs ++ snanFlag [c])
  | .inf n _ =>
    match c with
    | .nan q => .nan (if q then [.nv] else [])
    | .inf y => if n = y then .inf n [] else .nan [.nv]
    | .fin _ _ _ => .inf n []
  | .fin n m e =>
    match addFV mode (.fin n m e) c with
    | r => r

/-- The quotient, with enough bits and a sticky bit for one rounding into at most 53 bits. -/
def divFV (a b : FV) : Exact :=
  match a, b with
  | .nan _, _ | _, .nan _ => .nan (snanFlag [a, b])
  | .inf _, .inf _ => .nan [.nv]
  | .inf x, .fin n _ _ => .inf (x != n) []
  | .fin n _ _, .inf y => .fin (n != y) 0 0
  | .fin na ma ea, .fin nb mb eb =>
    if mb = 0 then (if ma = 0 then .nan [.nv] else .inf (na != nb) [.dz])
    else
      let q := ma * 2 ^ 120 / mb
      let r := ma * 2 ^ 120 % mb
      .fin (na != nb) (2 * q + (if r = 0 then 0 else 1)) (ea - eb - 121)

/-- The integer square root by bits. -/
def isqrtGo (n : Nat) : Nat → Nat → Nat
  | 0, r => r
  | k + 1, r =>
    let c := r + 2 ^ k
    isqrtGo n k (if c * c ≤ n then c else r)

/-- The square root, with a sticky bit; of a negative number NaN with NV, of −0 itself. -/
def sqrtFV (a : FV) : Exact :=
  match a with
  | .nan _ => .nan (snanFlag [a])
  | .inf n => if n then .nan [.nv] else .inf false []
  | .fin n m e =>
    if m = 0 then .fin n 0 0
    else if n then .nan [.nv]
    else
      let sh : Nat := if (e - 160) % 2 = 0 then 160 else 161
      let x := m * 2 ^ sh
      let r := isqrtGo x 112 0
      .fin false (2 * r + (if r * r = x then 0 else 1)) ((e - sh) / 2 - 1)

/-- The order of two values that are not NaN: −1, 0 or 1, with −0 equal to +0. -/
def cmpFV (a b : FV) : Int :=
  match a, b with
  | .inf x, .inf y => if x = y then 0 else if x then -1 else 1
  | .inf x, _ => if x then -1 else 1
  | _, .inf y => if y then 1 else -1
  | .fin na ma ea, .fin nb mb eb =>
    let e := min ea eb
    let p := signedM na ma * 2 ^ (ea - e).toNat
    let q := signedM nb mb * 2 ^ (eb - e).toNat
    if p < q then -1 else if p = q then 0 else 1
  | _, _ => 0

def FV.isNeg : FV → Bool
  | .nan _ => false
  | .inf n => n
  | .fin n _ _ => n

/-- Minimum or maximum with NaN as missing data and −0 below +0 (R234). `larger` picks the maximum; the answer says whether the
first operand is taken, or none when both are NaN. -/
def pickFV (larger : Bool) (a b : FV) : Option Bool :=
  if a.isNan ∧ b.isNan then none
  else if a.isNan then some false
  else if b.isNan then some true
  else
    let c := cmpFV a b
    let aLess : Bool := decide (c < 0) || (decide (c = 0) && a.isNeg && !b.isNeg)
    some (if larger then !aLess else aLess || (decide (c = 0) && a.isNeg == b.isNeg))

/-- The magnitude. -/
def FV.abs : FV → FV
  | .nan q => .nan q
  | .inf _ => .inf false
  | .fin _ m e => .fin false m e

/-- max(|old|, |x|) in a format (R246): a NaN in either gives the canonical NaN. -/
def amaxBits (f : Fmt) (old x : Nat) : Nat :=
  let a := f.decode old
  let b := f.decode x
  if a.isNan ∨ b.isNan then f.qnan
  else if cmpFV a.abs b.abs < 0 then x % 2 ^ (f.eb + f.mb) else old % 2 ^ (f.eb + f.mb)

/-- A value exactly in its format, as bits, for a value that came from the format. -/
def Fmt.encode (f : Fmt) (x : FV) : Nat :=
  match x with
  | .nan _ => f.qnan
  | .inf n => f.infBits n
  | .fin n m e => (f.round .ne false n m e).1

/-- RoundNE of a sum in a format, with the special values of R241 and no flag. -/
def addNE (f : Fmt) (a b : Nat) : Nat := ((addFV .ne (f.decode a) (f.decode b)).into f .ne).1

/-! Conversions (R232, R236). -/

/-- An integer into a floating-point format. -/
def intToFloat (f : Fmt) (mode : Mode) (sat : Bool) (x : Int) : Nat × List Flag :=
  f.round mode sat (decide (x < 0)) x.natAbs 0

/-- A floating-point value into a signed integer of `w` bits under a mode (R232): NaN gives 0, out of range the nearest bound,
both with NV alone. -/
def floatToInt (mode : Mode) (w : Nat) (x : FV) : Int × List Flag :=
  let hi : Int := 2 ^ (w - 1) - 1
  let lo : Int := -(2 ^ (w - 1))
  match x with
  | .nan _ => (0, [.nv])
  | .inf n => ((if n then lo else hi), [.nv])
  | .fin n m e =>
    let (k, inexact) := roundShift mode n m (-e)
    let v := signedM n k
    if v < lo then (lo, [.nv]) else if hi < v then (hi, [.nv]) else (v, if inexact then [.nx] else [])

/-- A floating-point value into another format (R234-R236). `sat` is the saturating treatment. -/
def floatToFloat (f : Fmt) (mode : Mode) (sat : Bool) (x : FV) : Nat × List Flag :=
  match x with
  | .nan q => (f.qnan, if q then [.nv] else [])
  | .inf n => if f.e4m3 then ((if sat then f.maxBits n else f.qnan), [.of, .nx]) else (f.infBits n, [])
  | .fin n m e => f.round mode sat n m e

/-! The 4-bit block family (R237-R240). -/

/-- A code's value as signed eighths (R238). -/
def f4Eighths (type code : Nat) : Int :=
  let mag := code % 8
  let neg := code % 16 / 8 = 1
  let m : Nat :=
    if type = 1 then [0, 4, 8, 12, 16, 24, 32, 48].getD mag 0
    else if type = 2 then [0, 1, 2, 4, 8, 16, 32, 64].getD mag 0
    else [0, 8, 16, 24, 32, 40, 48, 64].getD mag 0
  if type = 0 then 8 * toSigned 4 code else if neg then -(m : Int) else m

/-- An element's value (R237): its code's value times 2^(s−32), NaN in a NaN block; −0 keeps its sign. -/
def f4Value (scale code : Nat) : FV :=
  let s := scale % 64
  let v := f4Eighths (scale / 64 % 4) code
  if s = 63 then .nan false
  else .fin (if v = 0 then decide (scale / 64 % 4 ≠ 0) && decide (code % 16 = 8) else decide (v < 0)) v.natAbs ((s : Int) - 35)

/-- A finite value coded into a block of a type and scale exponent (R240): the nearest code, ties to the code with bit 0
clear, beyond the type's largest magnitude (8 for the integers) the largest code of its sign with OF and NX. -/
def f4Code (type s : Nat) (neg : Bool) (m : Nat) (e : Int) : Nat × List Flag :=
  let codes := (List.range 16).filter (fun c => decide (type ≠ 0 → (c / 8 = 1) = (neg = true)))
  -- q in units of 2^x, codes scaled alike
  let ex := min (e - ((s : Int) - 32)) (-3)
  let q := signedM neg m * 2 ^ ((e - ((s : Int) - 32)) - ex).toNat
  let val (c : Nat) : Int := f4Eighths type c * 2 ^ (-3 - ex).toNat
  let best := codes.foldl (fun b c =>
    let db := (val b - q).natAbs
    let dc := (val c - q).natAbs
    if dc < db ∨ (dc = db ∧ b % 2 = 1 ∧ c % 2 = 0) then c else b) (codes.headD 0)
  let biggest := codes.foldl (fun b c => if (val b).natAbs < (val c).natAbs ∧ (neg = decide (val c < 0)) then c else b) (codes.headD 0)
  if (List.range 16).all (fun c => decide ((val c).natAbs < q.natAbs)) then (biggest, [.of, .nx])
  else (best, if val best = q then [] else [.nx])

end Sys2Proof.Machine
end

