-- ==== Sys2Proof/Machine/Operands.lean ====
section
/-!
DEFINITION. Every operand form of the vector words: VTYPE's fields, elements of vector registers, masks, captured scalars,
addresses; and how a result is written.
-/

namespace Sys2Proof.Machine

open Sys2Proof

/-! VTYPE (R295). -/

def vtIll (t : BitVec 64) : Bool := t.getLsbD 63
def vtSew (t : BitVec 64) : Nat := (t.extractLsb' 0 5).toNat
def vtSew2 (t : BitVec 64) : Nat := (t.extractLsb' 8 5).toNat
def vtBlkCode (t : BitVec 64) : Nat := (t.extractLsb' 16 2).toNat
def vtLmsel (t : BitVec 64) : BitVec 3 := t.extractLsb' 20 3
/-- The F4 block size (R295). -/
def vtBlk (t : BitVec 64) : Nat := 16 * 2 ^ vtBlkCode t

/-! The convoy in execution. -/

def State.cv (s : State) : Convoy := s.strand.cv
def State.vl (s : State) : Nat := s.strand.cv.entry.vl
def State.vtype (s : State) : BitVec 64 := s.strand.cv.entry.vtype
def State.sew (s : State) : Nat := vtSew s.vtype
def State.sew2 (s : State) : Nat := vtSew2 s.vtype
/-- VLMAX (R127). -/
def State.vlmax (s : State) : Nat := s.core.vlenb * 8 / widthOf s.sew

/-- The scalars captured for the word in execution: rs1 position, rs2 position (R258). -/
def State.capA (s : State) : Word := s.strand.cv.entry.caps.getD (2 * s.strand.cv.k) 0
def State.capB (s : State) : Word := s.strand.cv.entry.caps.getD (2 * s.strand.cv.k + 1) 0

/-- The address of the word in execution. -/
def State.wordPc (s : State) : Word := s.strand.cv.entry.cpc + BitVec.ofNat 64 (4 * s.strand.cv.k)

/-! Elements. -/

/-- Element `i`, `w` bits wide, of a number that holds elements from bit 0 upward. -/
def elemOf (bits i w : Nat) : Nat := bits / 2 ^ (i * w) % 2 ^ w

/-- A vector register by number, as bits. -/
def State.v (s : State) (n : Nat) : Nat := (s.strand.regs.vs.toList.getD n { bits := 0, tag := 0 }).read

/-- A mask register by number, as bits; m0 is all-true (R343). -/
def State.m (s : State) (n : Nat) : Nat :=
  if n = 0 then 2 ^ 16384 - 1 else (s.strand.regs.ms.toList.getD n 0).toNat

/-- The elements from `lo` below VL that a mask selects (R298, Active). -/
def State.activeFrom (s : State) (lo : Nat) (msel : BitVec 3) : List Nat :=
  let all := (List.range s.vl).filter (fun i => decide (lo ≤ i))
  if msel = 0 then all else all.filter (fun i => (s.m msel.toNat).testBit i)

def State.active (s : State) (msel : BitVec 3) : List Nat := s.activeFrom 0 msel

/-! Results. -/

/-- A vector register written with new bits, its tag covering `bytes` (R139), its dirty tag set (R259). -/
def State.writeV (s : State) (n bits bytes : Nat) : State :=
  if h : n < 32 then
    let old := s.strand.regs.vs[n]
    { s with
      strand :=
        { s.strand with
          regs :=
            { s.strand.regs with
              vs := s.strand.regs.vs.set n { bits := BitVec.ofNat 65536 bits, tag := max old.tag (min bytes 8192) } }
          dirtyV := s.strand.dirtyV ||| BitVec.ofNat 32 (2 ^ n) } }
  else s

/-- A mask register written, in the VLENB bits it holds (R137); a write to m0 is ignored (R343). -/
def State.writeM (s : State) (n bits : Nat) : State :=
  if n = 0 then s
  else if h : n < 8 then
    { s with
      strand :=
        { s.strand with
          regs := { s.strand.regs with ms := s.strand.regs.ms.set n (BitVec.ofNat 8192 (bits % 2 ^ s.core.vlenb)) }
          dirtyM := s.strand.dirtyM ||| BitVec.ofNat 8 (2 ^ n)
          bad := s.strand.bad.filter (fun b => b.1 != 64 + n) } }
  else s

/-- Elements of width `w` put into a number: the bits, and the bytes that the highest one covers. -/
def putElems (bits w : Nat) (es : List (Nat × Nat)) : Nat × Nat :=
  es.foldl (fun p e => (setField p.1 (e.1 * w) w e.2, max p.2 (ceilDiv ((e.1 + 1) * w) 8))) (bits, 0)

/-- Units of a register that are written whole are no longer damaged (R271). -/
def State.mend (s : State) (reg : Nat) (whole : Nat → Bool) : State :=
  { s with strand := { s.strand with bad := s.strand.bad.filter (fun b => !(b.1 == reg && whole b.2)) } }

/-- Whether elements of width `w` cover an 8-byte unit. -/
def coversUnit (w : Nat) (es : List (Nat × Nat)) (u : Nat) : Bool :=
  (List.range (max 1 (64 / w))).all (fun j => es.any (fun e => e.1 == 64 * u / w + j))

/-- Elements written into a vector register; with none, nothing is written (R344). -/
def State.putV (s : State) (n w : Nat) (es : List (Nat × Nat)) : State :=
  if es.isEmpty then s
  else
    let p := putElems (s.v n) w es
    (s.writeV n p.1 p.2).mend (32 + n) (coversUnit w es)

/-- A scalar result of a vector word, written when the convoy retires (R345). -/
def State.putX (s : State) (rd : BitVec 5) (v : Word) : State :=
  { s with strand := { s.strand with cv := { s.strand.cv with scalars := s.strand.cv.scalars ++ [(rd, v)] } } }

/-- For each class, its lowest raising element (R249): `fs` in ascending order of elements. -/
def lowestFlags (fs : List (Flag × Nat)) : List (Flag × Nat) :=
  [Flag.nv, Flag.dz, Flag.of, Flag.uf, Flag.nx].filterMap (fun c => fs.find? (fun f => f.1 == c))

/-- Flags that a word raised, kept for the convoy's retirement. -/
def State.raise (s : State) (fs : List (Flag × Nat)) : State :=
  { s with strand := { s.strand with cv := { s.strand.cv with flags := s.strand.cv.flags ++ lowestFlags fs } } }

/-- SAT kept for the convoy's retirement. -/
def State.raiseSat (s : State) (b : Bool) : State :=
  { s with strand := { s.strand with cv := { s.strand.cv with sat := s.strand.cv.sat || b } } }

/-- The flags of an element tagged with its index. -/
def at_ (i : Nat) (fs : List Flag) : List (Flag × Nat) := fs.map (fun f => (f, i))

/-- An element-wise word: each active element's result and flags, written and raised, then the word is done. -/
def State.eachElem (s : State) (msel : BitVec 3) (vd : BitVec 5) (w : Nat) (f : Nat → Nat × List Flag) : State :=
  let rs := (s.active msel).map (fun i => (i, f i))
  ((s.putV vd.toNat w (rs.map (fun r => (r.1, r.2.1)))).raise (rs.flatMap (fun r => at_ r.1 r.2.2))).wordDone

/-! ESTART (R207, R262, R367). -/

/-- The element a vector memory word starts at: the record's ESTART for word FWORD of a resumed entry, else the strand's. -/
def State.startAt (s : State) : Nat :=
  if s.strand.cv.resumeAt = s.strand.cv.k ∧ s.strand.cv.estart ≠ 0 then s.strand.cv.estart
  else s.strand.regs.estart.toNat

/-- The elements below this one were taken before the fault that the word resumes from (R207, R262). -/
def State.resumedFrom (s : State) : Nat := if s.strand.cv.resumeAt = s.strand.cv.k then s.strand.cv.estart else 0

/-- The word in execution goes on from element `i` when its turn comes again. -/
def State.holdAt (s : State) (i : Nat) : State :=
  let st := s.strand
  { s with strand :=
    if st.cv.resumeAt ≤ st.cv.k then { st with cv := { st.cv with resumeAt := st.cv.k, estart := i } }
    else { st with regs := { st.regs with estart := BitVec.ofNat 16 i } } }

/-- ESTART 0, as a vector memory word leaves it; the ESTART that a resume gives to word FWORD stays for that word (R367). -/
def State.clearStart (s : State) : State :=
  { s with
    strand :=
      { s.strand with
        regs := { s.strand.regs with estart := 0 }
        cv := { s.strand.cv with estart := if s.strand.cv.resumeAt = s.strand.cv.k then 0 else s.strand.cv.estart } } }

/-- The mask that an L- or G-layout vector word takes from VTYPE (R281). -/
def State.lmsel (s : State) : BitVec 3 := vtLmsel s.vtype

end Sys2Proof.Machine
end

