-- ==== Sys2Proof/Machine/Flags.lean ====
section
/-!
DEFINITION. Every computation of a flag or an element that the vector words share: saturation, rounded arithmetic in a format,
comparisons, minimum and maximum with their flags (spec 10, 15).
-/

namespace Sys2Proof.Machine

open Sys2Proof

/-- An integer clamped to signed `w` bits, and whether it clamped (R231). -/
def saturate (w : Nat) (x : Int) : Int × Bool :=
  let hi : Int := 2 ^ (w - 1) - 1
  let lo : Int := -(2 ^ (w - 1))
  if x < lo then (lo, true) else if hi < x then (hi, true) else (x, false)

/-- The floating-point format of a code that is one. -/
def fmt! (code : Nat) : Fmt := (fmtOf code).getD fFP32

/-- The sum of two elements of one format code, rounded under a mode; integers wrap (R244, R360). -/
def addElem (code : Nat) (mode : Mode) (a b : Nat) : Nat × List Flag :=
  let w := widthOf code
  if isInt code then ((a + b) % 2 ^ w, [])
  else (addFV mode ((fmt! code).decode a) ((fmt! code).decode b)).into (fmt! code) mode

/-- Minimum or maximum of two elements of one format code (R234, R355): a NaN is missing data, NV for a signalling one. -/
def pickElem (code : Nat) (larger : Bool) (a b : Nat) : Nat × List Flag :=
  let w := widthOf code
  if isInt code then
    let x := toSigned w a
    let y := toSigned w b
    ((if larger then (if x < y then b else a) else (if y < x then b else a)), [])
  else
    let f := fmt! code
    let x := f.decode a
    let y := f.decode b
    match pickFV larger x y with
    | none => (f.qnan, snanFlag [x, y])
    | some true => (a, snanFlag [x, y])
    | some false => (b, snanFlag [x, y])

/-- The magnitude of a floating-point element: its sign bit cleared. -/
def absElem (code a : Nat) : Nat := a % 2 ^ (widthOf code - 1)

/-- A relation of the compares (R354). -/
inductive Rel where
  | eq | ne | lt | le | ltu | leu
  deriving DecidableEq, Repr

/-- A relation of two elements of one format code, and the flags: LT and LE with any NaN set NV, EQ and NE only for a
signalling one (R354). -/
def relElem (code : Nat) (r : Rel) (a b : Nat) : Bool × List Flag :=
  let w := widthOf code
  if isInt code then
    let x := toSigned w a
    let y := toSigned w b
    (match r with
      | .eq => a == b
      | .ne => a != b
      | .lt => decide (x < y)
      | .le => decide (x ≤ y)
      | .ltu => decide (a < b)
      | .leu => decide (a ≤ b), [])
  else
    let f := fmt! code
    let x := f.decode a
    let y := f.decode b
    let nan := x.isNan || y.isNan
    match r with
    | .eq => (!nan && decide (cmpFV x y = 0), snanFlag [x, y])
    | .ne => (nan || decide (cmpFV x y ≠ 0), snanFlag [x, y])
    | .lt => (!nan && decide (cmpFV x y < 0), if nan then [.nv] else [])
    | .le => (!nan && decide (cmpFV x y ≤ 0), if nan then [.nv] else [])
    | .ltu => (false, [])
    | .leu => (false, [])

/-- An element passed on alone: a NaN becomes the canonical one, with NV where it signals (R234). -/
def canonElem (code a : Nat) : Nat × List Flag :=
  if isInt code then (a, [])
  else
    let f := fmt! code
    let x := f.decode a
    if x.isNan then (f.qnan, snanFlag [x]) else (a, [])

/-- The ordered sum (R244) of a start operand, where there is one, and terms, each with the index its flags are recorded at: each
addition rounded. An empty sequence gives +0. -/
def orderedSum (code : Nat) (mode : Mode) (start : Option (Nat × Nat)) (xs : List (Nat × Nat)) : Nat × List (Flag × Nat) :=
  match start.toList ++ xs with
  | [] => (0, [])
  | x :: r =>
    let c := canonElem code x.2
    r.foldl (fun p y =>
      let q := addElem code mode p.1 y.2
      (q.1, p.2 ++ at_ y.1 q.2)) (c.1, at_ x.1 c.2)

/-- The sum over a free binary tree (R245): while two values remain, two picked ones are replaced by their rounded sum. -/
def treeSum (code : Nat) (mode : Mode) (vl vlenb pre : Nat) : Nat → List Nat → Nat × List Flag
  | 0, xs => canonElem code (xs.headD 0)
  | fuel + 1, xs =>
    if xs.length < 2 then canonElem code (xs.headD 0)
    else
      let i := Config.treePick vl vlenb pre (2 * fuel) % xs.length
      let a := xs.getD i 0
      let xs := xs.eraseIdx i
      let j := Config.treePick vl vlenb pre (2 * fuel + 1) % xs.length
      let b := xs.getD j 0
      let q := addElem code mode a b
      let r := treeSum code mode vl vlenb pre fuel (q.1 :: xs.eraseIdx j)
      (r.1, q.2 ++ r.2)

end Sys2Proof.Machine
end

