-- ==== Sys2Proof/Machine/Defects.lean ====
section
/-!
DEFINITION. What a vector-stream word's decode and issue find wrong (R251, R279, R288, R290, R291, R343), and which of its
operands are scalars, captured when the scalar stream issues it (R258, R345).
-/

namespace Sys2Proof.Machine

open Sys2Proof

/-- Whether a word joins the vector stream, by its bits (R283): V-layout majors, VMEMG, MATRIX, and ENGINE with f3 000. -/
def isVectorWord (w : BitVec 32) : Bool :=
  let m := (majF w).toNat
  decide (w.extractLsb' 0 2 = 3) &&
    ((decide (0b10001 ≤ m) && decide (m ≤ 0b10111)) || decide (m = 0b11010) || (decide (m = 0b11101) && decide (f3F w = 0)))

/-- Whether a word is an ENGINE word of f3 000, a convoy of its own (R284). -/
def isEngineWord (w : BitVec 32) : Bool := isVectorWord w && decide ((majF w).toNat = 0b11101)

/-- Whether a vector word is a leave-class one: a G-layout leave or VLD.C (R128). -/
def isVectorLeave (w : BitVec 32) : Bool :=
  isVectorWord w &&
    ((decide ((majF w).toNat = 0b10110) && decide ((f3F w).toNat < 3))
      || (decide ((majF w).toNat = 0b10101) && decide ((fn4F w).toNat = 3)))

/-- The C bit. -/
def cBit (w : BitVec 32) : Bool := w.getLsbD 31

/-- A scalar-stream word whose layout has a C bit, set: cause 0x04 (R128, R281, R284). -/
def badScalarC (w : BitVec 32) : Bool :=
  let m := (majF w).toNat
  let f := (f3F w).toNat
  cBit w && decide (w.extractLsb' 0 2 = 3) &&
    (decide (m = 0b00001) || decide (m = 0b10000)
      || (decide (m = 0b01011) && decide (f = 3 ∨ f = 4))
      || (decide (m = 0b11100) && decide (f = 5 ∨ f = 6))
      || (decide (m = 0b11101) && decide (f = 1 ∨ f = 2))
      || (decide (m = 0b11110) && decide (f = 3 ∨ f = 4)))

/-- A field that names a mask register and is above 7, or a control field that its description restricts (R290, R343, R352). -/
def fieldBad : Instr → Bool
  | .vcmpEq o | .vcmpNe o | .vcmpLt o | .vcmpLe o | .vcmpLtu o | .vcmpLeu o => decide (7 < o.vd.toNat)
  | .mand o | .mor o | .mxor o => decide (7 < o.vd.toNat) || decide (7 < o.vs1.toNat) || decide (7 < o.vs2.toNat)
  | .mnot o => decide (7 < o.vd.toNat) || decide (7 < o.vs1.toNat)
  | .mpop o | .mfirst o => decide (7 < o.vs1.toNat)
  | .vquant o => decide (o.vd = 31) || (o.vs2.getLsbD 2 && decide (o.vs2.extractLsb' 0 2 ≠ 0))
  | .illegalInstruction _ => true
  | _ => false

/-- The encodings that deterministic service forbids (R211, R356). -/
def detForbidden : Instr → Bool
  | .vredsumU _ | .vscanF _ | .vscatadd _ => true
  | _ => false

/-- A format that VCVT takes (R351). -/
def isConvertible (c : Nat) : Bool := decide (c ≤ 3) || (decide (8 ≤ c) && decide (c ≤ 0x0D))

/-- The narrower partner of R251 for integers and for floating point. -/
def intPartner (sew sew2 : Nat) : Bool := decide (sew2 = sew) || decide (sew2 + 1 = sew)
def fpPartner (sew sew2 : Nat) : Bool :=
  decide (sew2 = sew) || (decide (sew = 0x0C) && decide (sew2 = 0x0A ∨ sew2 = 0x0B)) || (decide (sew = 0x0D) && decide (sew2 = 0x0C))

/-- Whether VTYPE's SEW and SEW2 are a combination that a vector-element word takes (R251, R288, R349-R377). -/
def fmtOk (i : Instr) (sew sew2 : Nat) : Bool :=
  let same := decide (sew2 = sew)
  match i with
  | .vadd _ | .vsub _ | .vmul _ => isInt sew && intPartner sew sew2
  | .vmulh _ | .vmulhu _ | .vand _ | .vor _ | .vxor _ | .vsll _ | .vsrl _ | .vsra _ | .vmin _ | .vmax _ | .vsadd _ | .vssub _
  | .vaddi _ => isInt sew && same
  | .vfadd _ | .vfsub _ | .vfmul _ | .vfma _ => isFloat sew && fpPartner sew sew2
  | .vfdiv _ | .vfsqrt _ | .vfmin _ | .vfmax _ | .vredamax _ => isFloat sew && same
  | .vcvt o => isConvertible sew && isConvertible sew2 && (!o.vs2.getLsbD 0 || decide (sew = 8 ∨ sew = 9))
  | .vquant _ => decide (sew = 0x10) && decide (0x0A ≤ sew2 ∧ sew2 ≤ 0x0C)
  | .vdequant _ => decide (sew2 = 0x10) && decide (0x0A ≤ sew ∧ sew ≤ 0x0C)
  | .vredsumO _ | .vredsumU _ | .vscanO _ | .vscanF _ | .vredmax _ | .vredmin _ | .vargmax _ | .vgred _
  | .vcmpEq _ | .vcmpNe _ | .vcmpLt _ | .vcmpLe _ => (isInt sew || isFloat sew) && same
  | .vcmpLtu _ | .vcmpLeu _ => isInt sew && same
  | .vrand _ => decide (sew = 2 ∨ sew = 3) && same
  | .vbcast _ | .vmovsv _ | .vmovvs _ => decide (sew ≠ 0x10 ∧ sew ≠ 0x18) && same
  | .vperm _ | .vslideup _ | .vslidedn _ | .vcompress _ | .vexpand _ | .vgperm _ | .vcapp _ => decide (sew ≠ 0x10) && same
  | .vlds _ | .vldx _ | .vsts _ | .vstx _ | .vldgL _ | .vldgxL _ | .vldsegL _ | .vstg _ => decide (sew ≠ 0x10) && same
  | .vscatadd _ => decide (sew = 2 ∨ sew = 3 ∨ sew = 0x0B ∨ sew = 0x0C ∨ sew = 0x0D) && same
  | .pmake _ | .ptag _ | .psub _ | .padd _ | .dadd _ | .pcvt _ | .pdist2 _ | .frhome _ | .daddSub _ => decide (sew = 0x18) && same
  | .vdmin _ => decide (sew = 3) && same
  | _ => same

/-- Whether a major's words are vector-element words (R279): VINT to POSN. -/
def isElementMajor (m : BitVec 5) : Bool := decide (0b10001 ≤ m.toNat) && decide (m.toNat ≤ 0b10111)

/-- The one cause that a vector-stream word reports at decode or issue, in the order 0x01, 0x05, 0x03, 0x02 (R291); none where it
has no defect. `vl` and `vtype` are those the convoy was issued with. -/
def wordDefect (i : Instr) (k : Core) (vl : Nat) (vtype : BitVec 64) : Option Nat :=
  let w := encode i
  let el := isElementMajor (majF w)
  let mx := decide (majF w = 0b11010)
  if fieldBad i then some 0x01
  else if k.detm && detForbidden i then some 0x05
  else if (el || mx) && vtIll vtype then some 0x03
  else if el && !fmtOk i (vtSew vtype) (vtSew2 vtype) then some 0x03
  else if decide (w.extractLsb' 29 2 = 3) && (mx || (el && decide (vl < k.vlenb * 8 / widthOf (vtSew vtype)))) then some 0x02
  else none

/-- Whether a segment descriptor is bad for a VLDSEG.L (R374): a reserved bit set, NF outside 2 to 8, or a field's register above 31. -/
def segmentBad (o : LOp) (d : Nat) : Bool :=
  let nf := bitsN d 3 0
  decide (bitsN d 63 48 ≠ 0 ∨ bitsN d 15 14 ≠ 0 ∨ bitsN d 7 4 ≠ 0 ∨ nf < 2 ∨ 8 < nf ∨ 31 < o.rd.toNat + nf - 1)

/-- The one cause that a word of a convoy reports at decode or issue, with the scalar captured for its rs2 position: a bad segment descriptor comes
before cause 0x02, and VLDSEG.L has no defect that would come before it (R291, R374). -/
def issueDefect (i : Instr) (k : Core) (vl : Nat) (vtype : BitVec 64) (b : Word) : Option Nat :=
  match i with
  | .vldsegL o => if segmentBad o b.toNat then some 0x03 else wordDefect i k vl vtype
  | _ => wordDefect i k vl vtype

/-- The scalar in a word's rs1 position, and in its rs2 position, where the word reads one there (R258). -/
def scalarA : Instr → Option (BitVec 5)
  | .vmovsv o | .vcapp o | .vld o | .vlds o | .vldx o | .vldC o | .vst o | .vsts o | .vstx o | .vstF o | .tshape o | .tclaim o
  | .trelease o | .tload o | .mma o | .mmaS o | .mzero o | .macc2v o | .mv2acc o | .macc2l o | .mamax o | .mmark o => some o.vs1
  | .vldgL o | .vldgxL o | .vldsegL o | .vstg o | .vscatadd o => some o.rs1
  | .cpy _ a _ | .stream _ a _ | .xform _ a _ | .publish a _ | .subscr _ a _ | .subrel a _ | .deviceLaunch _ a => some a
  | _ => none

def scalarB : Instr → Option (BitVec 5)
  | .vslideup o | .vslidedn o | .vbcast o | .vmovsv o | .vmovvs o | .vcapp o | .vlds o | .vsts o | .pmake o | .ptag o | .pcvt o
  | .tshape o | .tload o | .macc2l o | .mamax o => some o.vs2
  | .vldgL o | .vldsegL o | .vstg o => some o.rs2
  | .cpy _ _ b | .stream _ _ b | .xform _ _ b | .publish _ b | .subscr _ _ b | .subrel _ b => some b
  | _ => none

/-- The index of the lowest defective word of a convoy (R291). -/
def firstDefect (k : Core) (e : ConvoyEntry) : Option Nat :=
  (List.range e.words.length).find? (fun n =>
    match decode (e.words.getD n 0) with
    | .ok i => (issueDefect i k e.vl e.vtype (e.caps.getD (2 * n + 1) 0)).isSome
    | .error _ => true)

end Sys2Proof.Machine
end

