-- ==== Sys2Proof/Machine/Scalar.lean ====
section
/-!
DEFINITION. Scalar, control-flow and system instructions (spec 14).
-/

namespace Sys2Proof.Machine

open Sys2Proof

/-- A state as the outcome of a step. -/
abbrev Out := Host.Outcome State Fault Refusal

/-- A scalar result written and the stream moved to the next word. -/
def State.result (s : State) (rd : BitVec 5) (v : Word) : State := (s.setX rd v).next

/-! Integer operations (R321-R325). -/

/-- High half of the signed and of the unsigned product (R322). -/
def mulhS (a b : Word) : Word := BitVec.ofInt 64 (a.toInt * b.toInt / 2 ^ 64)
def mulhU (a b : Word) : Word := BitVec.ofNat 64 (a.toNat * b.toNat / 2 ^ 64)

/-- Quotients and remainders (R323). -/
def divS (a b : Word) : Word := if b = 0 then BitVec.allOnes 64 else BitVec.ofInt 64 (Int.tdiv a.toInt b.toInt)
def remS (a b : Word) : Word := if b = 0 then a else BitVec.ofInt 64 (Int.tmod a.toInt b.toInt)
def divU (a b : Word) : Word := if b = 0 then BitVec.allOnes 64 else BitVec.ofNat 64 (a.toNat / b.toNat)
def remU (a b : Word) : Word := if b = 0 then a else BitVec.ofNat 64 (a.toNat % b.toNat)

/-- Leading zeros among the low `n` bits of a word, trailing zeros, one bits. -/
def clzFrom (w : Word) : Nat → Nat
  | 0 => 0
  | n + 1 => if w.getLsbD n then 0 else 1 + clzFrom w n
def ctzFrom (w : Word) : Nat → Nat → Nat
  | 0, _ => 0
  | n + 1, i => if w.getLsbD i then 0 else 1 + ctzFrom w n (i + 1)
def popFrom (w : Word) : Nat → Nat
  | 0 => 0
  | n + 1 => (if w.getLsbD n then 1 else 0) + popFrom w n

/-- 1 or 0 for a condition. -/
def flag01 (b : Bool) : Word := if b then 1 else 0

/-- ADD (R322). -/
def execAdd (rd rs1 rs2 : BitVec 5) (s : State) : Out := .next (s.result rd (s.x rs1 + s.x rs2))
/-- SUB (R322). -/
def execSub (rd rs1 rs2 : BitVec 5) (s : State) : Out := .next (s.result rd (s.x rs1 - s.x rs2))
/-- SLL (R322): shifts use bits 5:0 of sb. -/
def execSll (rd rs1 rs2 : BitVec 5) (s : State) : Out := .next (s.result rd (s.x rs1 <<< ((s.x rs2).toNat % 64)))
/-- SLT (R322). -/
def execSlt (rd rs1 rs2 : BitVec 5) (s : State) : Out := .next (s.result rd (flag01 ((s.x rs1).slt (s.x rs2))))
/-- SLTU (R322). -/
def execSltu (rd rs1 rs2 : BitVec 5) (s : State) : Out := .next (s.result rd (flag01 ((s.x rs1).ult (s.x rs2))))
/-- XOR (R322). -/
def execXor (rd rs1 rs2 : BitVec 5) (s : State) : Out := .next (s.result rd (s.x rs1 ^^^ s.x rs2))
/-- SRL (R322). -/
def execSrl (rd rs1 rs2 : BitVec 5) (s : State) : Out := .next (s.result rd (s.x rs1 >>> ((s.x rs2).toNat % 64)))
/-- SRA (R322). -/
def execSra (rd rs1 rs2 : BitVec 5) (s : State) : Out := .next (s.result rd ((s.x rs1).sshiftRight ((s.x rs2).toNat % 64)))
/-- OR (R322). -/
def execOr (rd rs1 rs2 : BitVec 5) (s : State) : Out := .next (s.result rd (s.x rs1 ||| s.x rs2))
/-- AND (R322). -/
def execAnd (rd rs1 rs2 : BitVec 5) (s : State) : Out := .next (s.result rd (s.x rs1 &&& s.x rs2))
/-- MUL (R322). -/
def execMul (rd rs1 rs2 : BitVec 5) (s : State) : Out := .next (s.result rd (s.x rs1 * s.x rs2))
/-- MULH (R322). -/
def execMulh (rd rs1 rs2 : BitVec 5) (s : State) : Out := .next (s.result rd (mulhS (s.x rs1) (s.x rs2)))
/-- MULHU (R322). -/
def execMulhu (rd rs1 rs2 : BitVec 5) (s : State) : Out := .next (s.result rd (mulhU (s.x rs1) (s.x rs2)))
/-- DIV (R323). -/
def execDiv (rd rs1 rs2 : BitVec 5) (s : State) : Out := .next (s.result rd (divS (s.x rs1) (s.x rs2)))
/-- DIVU (R323). -/
def execDivu (rd rs1 rs2 : BitVec 5) (s : State) : Out := .next (s.result rd (divU (s.x rs1) (s.x rs2)))
/-- REM (R323). -/
def execRem (rd rs1 rs2 : BitVec 5) (s : State) : Out := .next (s.result rd (remS (s.x rs1) (s.x rs2)))
/-- REMU (R323). -/
def execRemu (rd rs1 rs2 : BitVec 5) (s : State) : Out := .next (s.result rd (remU (s.x rs1) (s.x rs2)))
/-- LEA (R322): sa plus sb scaled by 2^n. -/
def execLea (rd rs1 rs2 : BitVec 5) (n : BitVec 2) (s : State) : Out :=
  .next (s.result rd (s.x rs1 + s.x rs2 <<< n.toNat))
/-- MIN (R322). -/
def execMin (rd rs1 rs2 : BitVec 5) (s : State) : Out :=
  .next (s.result rd (if (s.x rs2).slt (s.x rs1) then s.x rs2 else s.x rs1))
/-- MAX (R322). -/
def execMax (rd rs1 rs2 : BitVec 5) (s : State) : Out :=
  .next (s.result rd (if (s.x rs1).slt (s.x rs2) then s.x rs2 else s.x rs1))
/-- MINU (R322). -/
def execMinu (rd rs1 rs2 : BitVec 5) (s : State) : Out :=
  .next (s.result rd (if (s.x rs2).ult (s.x rs1) then s.x rs2 else s.x rs1))
/-- MAXU (R322). -/
def execMaxu (rd rs1 rs2 : BitVec 5) (s : State) : Out :=
  .next (s.result rd (if (s.x rs1).ult (s.x rs2) then s.x rs2 else s.x rs1))
/-- CLZ (R322). -/
def execClz (rd rs1 : BitVec 5) (s : State) : Out := .next (s.result rd (BitVec.ofNat 64 (clzFrom (s.x rs1) 64)))
/-- CTZ (R322). -/
def execCtz (rd rs1 : BitVec 5) (s : State) : Out := .next (s.result rd (BitVec.ofNat 64 (ctzFrom (s.x rs1) 64 0)))
/-- POPC (R322). -/
def execPopc (rd rs1 : BitVec 5) (s : State) : Out := .next (s.result rd (BitVec.ofNat 64 (popFrom (s.x rs1) 64)))

/-- The sign-extended I or S immediate (R277). -/
def sext12 (imm : BitVec 12) : Word := imm.signExtend 64
/-- A U immediate's value: bits 31:12, sign-extended from bit 31 (R277). -/
def uValue (imm : BitVec 20) : Word := (imm ++ 0#12).signExtend 64

/-- ADDI (R324). -/
def execAddi (rd rs1 : BitVec 5) (imm : BitVec 12) (s : State) : Out := .next (s.result rd (s.x rs1 + sext12 imm))
/-- SLTI (R324). -/
def execSlti (rd rs1 : BitVec 5) (imm : BitVec 12) (s : State) : Out :=
  .next (s.result rd (flag01 ((s.x rs1).slt (sext12 imm))))
/-- SLTIU (R324). -/
def execSltiu (rd rs1 : BitVec 5) (imm : BitVec 12) (s : State) : Out :=
  .next (s.result rd (flag01 ((s.x rs1).ult (sext12 imm))))
/-- XORI (R324). -/
def execXori (rd rs1 : BitVec 5) (imm : BitVec 12) (s : State) : Out := .next (s.result rd (s.x rs1 ^^^ sext12 imm))
/-- ORI (R324). -/
def execOri (rd rs1 : BitVec 5) (imm : BitVec 12) (s : State) : Out := .next (s.result rd (s.x rs1 ||| sext12 imm))
/-- ANDI (R324). -/
def execAndi (rd rs1 : BitVec 5) (imm : BitVec 12) (s : State) : Out := .next (s.result rd (s.x rs1 &&& sext12 imm))
/-- SLLI (R324). -/
def execSlli (rd rs1 : BitVec 5) (sh : BitVec 6) (s : State) : Out := .next (s.result rd (s.x rs1 <<< sh.toNat))
/-- SRLI (R324). -/
def execSrli (rd rs1 : BitVec 5) (sh : BitVec 6) (s : State) : Out := .next (s.result rd (s.x rs1 >>> sh.toNat))
/-- SRAI (R324). -/
def execSrai (rd rs1 : BitVec 5) (sh : BitVec 6) (s : State) : Out := .next (s.result rd ((s.x rs1).sshiftRight sh.toNat))
/-- LUI (R325). -/
def execLui (rd : BitVec 5) (imm : BitVec 20) (s : State) : Out := .next (s.result rd (uValue imm))
/-- ADDPC (R325): pc is the address of the word itself. -/
def execAddpc (rd : BitVec 5) (imm : BitVec 20) (s : State) : Out := .next (s.result rd (s.strand.pc + uValue imm))

/-! Branches and jumps (R326-R328, R275). -/

/-- A jump to a target: cause 0x01 at the jump where bits 1:0 are not 00, with no effect (R275, R328). -/
def State.jump (s : State) (t : Word) : State := if t.extractLsb' 0 2 = 0 then s.setPc t else s.trapScalar 0x01 0

/-- A conditional branch by imm[12:1] (R326). -/
def State.branch (s : State) (taken : Bool) (imm : BitVec 12) : State :=
  if taken then s.jump (s.strand.pc + (imm ++ 0#1).signExtend 64) else s.next

/-- BEQ (R326). -/
def execBeq (rs1 rs2 : BitVec 5) (imm : BitVec 12) (s : State) : Out := .next (s.branch (s.x rs1 == s.x rs2) imm)
/-- BNE (R326). -/
def execBne (rs1 rs2 : BitVec 5) (imm : BitVec 12) (s : State) : Out := .next (s.branch (s.x rs1 != s.x rs2) imm)
/-- BLT (R326). -/
def execBlt (rs1 rs2 : BitVec 5) (imm : BitVec 12) (s : State) : Out := .next (s.branch ((s.x rs1).slt (s.x rs2)) imm)
/-- BGE (R326). -/
def execBge (rs1 rs2 : BitVec 5) (imm : BitVec 12) (s : State) : Out := .next (s.branch (!(s.x rs1).slt (s.x rs2)) imm)
/-- BLTU (R326). -/
def execBltu (rs1 rs2 : BitVec 5) (imm : BitVec 12) (s : State) : Out := .next (s.branch ((s.x rs1).ult (s.x rs2)) imm)
/-- BGEU (R326). -/
def execBgeu (rs1 rs2 : BitVec 5) (imm : BitVec 12) (s : State) : Out := .next (s.branch (!(s.x rs1).ult (s.x rs2)) imm)

/-- A jump that writes the return address: the target is computed before sd is written (R327). -/
def State.jumpLink (s : State) (rd : BitVec 5) (t : Word) : State :=
  if t.extractLsb' 0 2 = 0 then (s.setX rd (s.strand.pc + 4)).setPc t else s.trapScalar 0x01 0

/-- JAL (R327), by imm[20:1]. -/
def execJal (rd : BitVec 5) (imm : BitVec 20) (s : State) : Out :=
  .next (s.jumpLink rd (s.strand.pc + (imm ++ 0#1).signExtend 64))
/-- JALR (R327). -/
def execJalr (rd rs1 : BitVec 5) (imm : BitVec 12) (s : State) : Out := .next (s.jumpLink rd (s.x rs1 + sext12 imm))

/-! Local loads and stores (R329-R331). -/

/-- A local load of `n` bytes: cause 0x14 out of range, 0x40 on poisoned data; unaligned addresses allowed (R330, R331). -/
def State.loadLocal (s : State) (rd rs1 : BitVec 5) (imm : BitVec 12) (n : Nat) (signed : Bool) : State :=
  s.afterHeld fun s =>
  let a := (s.x rs1 + sext12 imm).toNat
  if !s.core.localOk true a n then s.trapScalar 0x14 a
  else if s.core.locBad a n then s.trapScalar 0x40 a
  else
    let v := mload s.core.loc a n
    s.result rd (if signed then sextN (8 * n) v else BitVec.ofNat 64 v)

/-- A local store of the low `n` bytes: cause 0x14 out of range or in the mooring area (R330). -/
def State.storeLocal (s : State) (rs2 rs1 : BitVec 5) (imm : BitVec 12) (n : Nat) : State :=
  s.afterHeld fun s =>
  let a := (s.x rs1 + sext12 imm).toNat
  if !s.core.localOk false a n then s.trapScalar 0x14 a
  else (s.modHere (fun k => k.locWrite a (bytesOf n (s.x rs2).toNat))).next

/-- LD.b (R329). -/
def execLdB (rd rs1 : BitVec 5) (imm : BitVec 12) (s : State) : Out := .next (s.loadLocal rd rs1 imm 1 true)
/-- LD.h (R329). -/
def execLdH (rd rs1 : BitVec 5) (imm : BitVec 12) (s : State) : Out := .next (s.loadLocal rd rs1 imm 2 true)
/-- LD.w (R329). -/
def execLdW (rd rs1 : BitVec 5) (imm : BitVec 12) (s : State) : Out := .next (s.loadLocal rd rs1 imm 4 true)
/-- LD.d (R329). -/
def execLdD (rd rs1 : BitVec 5) (imm : BitVec 12) (s : State) : Out := .next (s.loadLocal rd rs1 imm 8 true)
/-- LD.bu (R329). -/
def execLdBu (rd rs1 : BitVec 5) (imm : BitVec 12) (s : State) : Out := .next (s.loadLocal rd rs1 imm 1 false)
/-- LD.hu (R329). -/
def execLdHu (rd rs1 : BitVec 5) (imm : BitVec 12) (s : State) : Out := .next (s.loadLocal rd rs1 imm 2 false)
/-- LD.wu (R329). -/
def execLdWu (rd rs1 : BitVec 5) (imm : BitVec 12) (s : State) : Out := .next (s.loadLocal rd rs1 imm 4 false)
/-- ST.b (R329). -/
def execStB (rs2 rs1 : BitVec 5) (imm : BitVec 12) (s : State) : Out := .next (s.storeLocal rs2 rs1 imm 1)
/-- ST.h (R329). -/
def execStH (rs2 rs1 : BitVec 5) (imm : BitVec 12) (s : State) : Out := .next (s.storeLocal rs2 rs1 imm 2)
/-- ST.w (R329). -/
def execStW (rs2 rs1 : BitVec 5) (imm : BitVec 12) (s : State) : Out := .next (s.storeLocal rs2 rs1 imm 4)
/-- ST.d (R329). -/
def execStD (rs2 rs1 : BitVec 5) (imm : BitVec 12) (s : State) : Out := .next (s.storeLocal rs2 rs1 imm 8)

/-! Control registers (R294-R297, R332-R334). -/

/-- A control register's value, or none for an index no map lists (R294). -/
def State.csr (s : State) (idx : Nat) : Option Word :=
  let r := s.strand.regs
  let st := s.myStep
  let k := s.core
  let n (v : Nat) : Option Word := some (BitVec.ofNat 64 v)
  if idx = 0x000 then some r.sstat
  else if idx = 0x001 then n r.vl
  else if idx = 0x002 then some r.vtype
  else if idx = 0x003 then n r.estart.toNat
  else if idx = 0x004 then n st.tm
  else if idx = 0x005 then n st.tn
  else if idx = 0x006 then n st.tk
  else if idx = 0x007 then n r.mrow.toNat
  else if idx = 0x008 then n r.mkstep.toNat
  else if 0x010 ≤ idx ∧ idx ≤ 0x014 then some (r.eix.toList.getD (idx - 0x010) 0)
  else if idx = 0x020 then n (st.lcore * 2 ^ 32 + s.here * 2 ^ 16 + s.slot)
  else if idx = 0x021 then
    n (st.die * 2 ^ 20 + st.launch * 2 ^ 16 + (s.stageOf st).prio * 2 ^ 8 + st.stage)
  else if idx = 0x022 then n (k.cellAddr s.strand.cell)
  else if 0x030 ≤ idx ∧ idx ≤ 0x03F then n (st.chdone.toList.getD (idx - 0x030) 0)
  else if idx = 0x040 then some k.cycle
  else if idx = 0x041 then some s.time
  else if idx = 0x100 then n k.vlcap.toNat
  else if idx = 0x101 then n k.lpart.toNat
  else if idx = 0x102 then n (bit k.detm)
  else if idx = 0x103 then n k.asid.toNat
  else if idx = 0x104 then n 3
  else if idx = 0x105 then n (2 * (s.here % 2) + bit k.gangEn)
  else none

/-- SSTAT after a write of its RW fields: FRM 100-111 keeps FRM; reserved bits stay zero (R247). -/
def sstatWrite (old new : BitVec 64) : BitVec 64 :=
  let keep := new &&& 0x11F
  let frm := if new.getLsbD 7 then old &&& 0xE0 else new &&& 0xE0
  keep ||| frm

/-- A control register written (R333): only SSTAT, ESTART and the EIX registers have RW fields. -/
def State.csrWrite (s : State) (idx : Nat) (v : Word) : State :=
  if idx = 0x000 then s.modRegs (fun r => { r with sstat := sstatWrite r.sstat v })
  else if idx = 0x003 then s.modRegs (fun r => { r with estart := v.extractLsb' 0 16 })
  else if h : 0x010 ≤ idx ∧ idx ≤ 0x014 then
    s.modRegs (fun r => { r with eix := r.eix.set (idx - 0x010) v (by omega) })
  else s

/-- CSRW, CSRS and CSRC (R333): 0x06 from 0x100 upward, 0x01 for an unlisted index, else the new value from the old. -/
def State.csrOp (s : State) (idx : BitVec 12) (f : Word → Word) : State :=
  if 0x100 ≤ idx.toNat then s.trapScalar 0x06 0
  else
    match s.csr idx.toNat with
    | none => s.trapScalar 0x01 0
    | some old => (s.csrWrite idx.toNat (f old)).next

/-- CSRW (R333). -/
def execCsrw (idx : BitVec 12) (rs1 : BitVec 5) (s : State) : Out := .next (s.csrOp idx (fun _ => s.x rs1))
/-- CSRS (R333). -/
def execCsrs (idx : BitVec 12) (rs1 : BitVec 5) (s : State) : Out := .next (s.csrOp idx (fun old => old ||| s.x rs1))
/-- CSRC (R333). -/
def execCsrc (idx : BitVec 12) (rs1 : BitVec 5) (s : State) : Out := .next (s.csrOp idx (fun old => old &&& ~~~(s.x rs1)))

/-- CSRR (R333): TM, TN and TK wait until the step's matrix commands have finished (R401). -/
def execCsrr (rd : BitVec 5) (idx : BitVec 12) (s : State) : Out :=
  .next
    (let read (s : State) : State :=
      match s.csr idx.toNat with
      | none => s.trapScalar 0x01 0
      | some v => s.result rd v
    if 0x004 ≤ idx.toNat ∧ idx.toNat ≤ 0x006 then s.afterMatrix read else read s)

/-! Ending, forking, yielding, trapping (R335-R342). -/

/-- EXIT (R336): the strand ends and frees its slot; its stores and commands are not waited for, and run on as work of the step. -/
def execExit (s : State) : Out := .next (s.detach.vacate.strandGone s.here s.strand.cell false)

/-- The record of a FORK (R337): the named registers with their present values, 2 in sd, resuming at the next word. -/
def State.forkRecord (s : State) (o : LOp) : Record :=
  let l := s.liveSet o.ls.toNat
  let sm := if o.rd = 0 then l.sregs else l.sregs ||| BitVec.ofNat 32 (2 ^ o.rd.toNat)
  { s.blankRecord .fork (s.strand.pc + 4) with
    regs := (s.setX o.rd 2).strand.regs.held sm l.vregs l.mregs
    smask := sm
    vmask := l.vregs
    mmask := l.mregs }

/-- FORK (R337-R340): a FORK record that is ready at once, 1 in sd for the parent and 2 for the child; 0 and no record when the
step holds 64 strands; cause 0x31 where the record fits nowhere (R339). HINT 11 is cause 0x02 (R335). -/
def execFork (o : LOp) (s : State) : Out :=
  .next
    (s.afterStores fun s =>
    if o.hint = 3 then s.trapScalar 0x02 0
    else if 64 ≤ s.myStep.strands then s.result o.rd 0
    else
      match s.deposit s.here (s.forkRecord o) with
      | none => s.overflow
      | some (s, r) =>
        let s := s.modHere (fun k => (k.modStep s.strand.cell (fun st => { st with strands := st.strands + 1 })).makeReady r.dseq)
        s.result o.rd 1)

/-- YIELD.L (R341): always leaves; the record is ready at once. HINT 11 is cause 0x02 (R335). -/
def execYieldL (o : LOp) (s : State) : Out :=
  .next
    (s.afterHeld fun s =>
    if o.hint = 3 then s.trapScalar 0x02 0
    else
      match s.leaveWith (s.leaveRecord o.ls.toNat none [] 0 (s.strand.pc + 4)) with
      | .error s => s
      | .ok (s', r) => s'.modCore s.here (·.makeReady r.dseq))

/-- TRAP (R342): cause 0x01, SCALAR 1, FPC and header PC at the word. -/
def execTrap (_code : BitVec 12) (s : State) : Out := .next (s.trapScalar 0x01 0)

/-- A word that no table defines (R290): cause 0x01 with no effect, in the convoy in execution when it is one of its words
(R261), else as a scalar-stream word. -/
def execIllegalInstruction (_w : BitVec 32) (s : State) : Out :=
  .next (if s.strand.cv.live then s.trapConvoy { TrapBlock.none with cause := 0x01 } else s.trapScalar 0x01 0)

end Sys2Proof.Machine
end

