-- ==== Sys2Proof/Machine/Vector.lean ====
section
/-!
DEFINITION. Vector instructions on registers and masks (spec 15).
-/

namespace Sys2Proof.Machine

open Sys2Proof

/-- The decode- or issue-time cause of the word in execution (R291). -/
def State.defect (s : State) (i : Instr) : Option Nat := issueDefect i s.core s.vl s.vtype s.capB

/-- A vector-stream word: its decode- or issue-time cause as a fault of its convoy (R261, R291), else its effect. -/
def State.vword (s : State) (i : Instr) (f : State → State) : Out :=
  .next
    (match s.defect i with
    | some c => s.trapConvoy { TrapBlock.none with cause := c }
    | none => f s)

/-- A word of spec 15, which with VL = 0 writes nothing and raises no flag (R344). -/
def State.vec (s : State) (i : Instr) (f : State → State) : Out :=
  s.vword i (fun s => if s.vl = 0 then s.wordDone else f s)

/-- The rounding mode that SSTAT.FRM names (R235). -/
def State.mode (s : State) : Mode := modeOf s.strand.regs.sstat

/-! Configuration (R347, R348). -/

/-- The bound on VL (R347). -/
def vlBound (vlenb : Nat) (t : BitVec 64) : Nat := vlenb * 8 / max (widthOf (vtSew t)) (widthOf (vtSew2 t))

/-- The VTYPE that a setting gives (R296, R347). -/
def vtypeOf (set : Word) : BitVec 64 :=
  let keep : BitVec 64 := set &&& 0x731F1F#64
  if set ≠ keep ∨ !codeOk (vtSew keep) ∨ !codeOk (vtSew2 keep) ∨ vtBlkCode keep = 3 then 0x8000000000000000#64 else keep

/-- VL set from AVL under a VTYPE, and sd given VL. -/
def State.setVl (s : State) (rd : BitVec 5) (t : BitVec 64) (avl : Word) : State :=
  let vl := if vtIll t then 0 else min avl.toNat (vlBound s.core.vlenb t)
  (s.modRegs (fun r => { r with vl := vl, vtype := t })).result rd (BitVec.ofNat 64 vl)

/-- VSETVL (R347), in the scalar stream; HINT 11 is cause 0x02. -/
def execVsetvl (o : VOp) (s : State) : Out :=
  .next (if o.hint = 3 then s.trapScalar 0x02 0 else s.setVl o.vd s.strand.regs.vtype (s.x o.vs1))

/-- VSETTYPE (R347). -/
def execVsettype (o : VOp) (s : State) : Out :=
  .next (if o.hint = 3 then s.trapScalar 0x02 0 else s.setVl o.vd (vtypeOf (s.x o.vs1)) (s.x o.vs2))

/-! Integer arithmetic (R349). -/

/-- An integer word: `g` of the SEW width and the two operands, read signed in SEW2 (SEW, or its narrower partner). -/
def State.intWord (s : State) (i : Instr) (o : VOp) (g : Nat → Int → Int → Int) : Out :=
  s.vec i (fun s =>
    let w := widthOf s.sew
    let w2 := widthOf s.sew2
    let a := s.v o.vs1.toNat
    let b := s.v o.vs2.toNat
    s.eachElem o.msel o.vd w (fun k => (wrapN w (g w (toSigned w2 (elemOf a k w2)) (toSigned w2 (elemOf b k w2))), [])))

/-- A saturating integer word: clamped, with SAT when any active element clamps. -/
def State.satWord (s : State) (i : Instr) (o : VOp) (g : Int → Int → Int) : Out :=
  s.vec i (fun s =>
    let w := widthOf s.sew
    let a := s.v o.vs1.toNat
    let b := s.v o.vs2.toNat
    let at' (k : Nat) : Int × Bool := saturate w (g (toSigned w (elemOf a k w)) (toSigned w (elemOf b k w)))
    (s.raiseSat ((s.active o.msel).any (fun k => (at' k).2))).eachElem o.msel o.vd w (fun k => (wrapN w (at' k).1, [])))

/-- An operand read unsigned. -/
def asU (w : Nat) (x : Int) : Nat := wrapN w x

/-- VADD. -/
def execVadd (o : VOp) (s : State) : Out := s.intWord (.vadd o) o (fun _ a b => a + b)
/-- VSUB. -/
def execVsub (o : VOp) (s : State) : Out := s.intWord (.vsub o) o (fun _ a b => a - b)
/-- VMUL. -/
def execVmul (o : VOp) (s : State) : Out := s.intWord (.vmul o) o (fun _ a b => a * b)
/-- VMULH: the high half of the signed product. -/
def execVmulh (o : VOp) (s : State) : Out := s.intWord (.vmulh o) o (fun w a b => a * b / (2 ^ w : Nat))
/-- VMULHU: the high half of the unsigned product. -/
def execVmulhu (o : VOp) (s : State) : Out :=
  s.intWord (.vmulhu o) o (fun w a b => ((asU w a * asU w b / 2 ^ w : Nat) : Int))
/-- VAND. -/
def execVand (o : VOp) (s : State) : Out := s.intWord (.vand o) o (fun w a b => ((asU w a &&& asU w b : Nat) : Int))
/-- VOR. -/
def execVor (o : VOp) (s : State) : Out := s.intWord (.vor o) o (fun w a b => ((asU w a ||| asU w b : Nat) : Int))
/-- VXOR. -/
def execVxor (o : VOp) (s : State) : Out := s.intWord (.vxor o) o (fun w a b => ((asU w a ^^^ asU w b : Nat) : Int))
/-- VSLL. -/
def execVsll (o : VOp) (s : State) : Out := s.intWord (.vsll o) o (fun w a b => a * (2 ^ (asU w b % w) : Nat))
/-- VSRL. -/
def execVsrl (o : VOp) (s : State) : Out :=
  s.intWord (.vsrl o) o (fun w a b => ((asU w a / 2 ^ (asU w b % w) : Nat) : Int))
/-- VSRA. -/
def execVsra (o : VOp) (s : State) : Out := s.intWord (.vsra o) o (fun w a b => a / (2 ^ (asU w b % w) : Nat))
/-- VMIN. -/
def execVmin (o : VOp) (s : State) : Out := s.intWord (.vmin o) o (fun _ a b => min a b)
/-- VMAX. -/
def execVmax (o : VOp) (s : State) : Out := s.intWord (.vmax o) o (fun _ a b => max a b)
/-- VSADD. -/
def execVsadd (o : VOp) (s : State) : Out := s.satWord (.vsadd o) o (fun a b => a + b)
/-- VSSUB. -/
def execVssub (o : VOp) (s : State) : Out := s.satWord (.vssub o) o (fun a b => a - b)
/-- VADDI: the vs2 field is a signed 5-bit immediate. -/
def execVaddi (o : VOp) (s : State) : Out :=
  s.vec (.vaddi o) (fun s =>
    let w := widthOf s.sew
    let a := s.v o.vs1.toNat
    s.eachElem o.msel o.vd w (fun k => (wrapN w (toSigned w (elemOf a k w) + o.vs2.toInt), [])))

/-! Floating-point arithmetic (R350). -/

/-- A floating-point word: `g` of the mode, the two operands in SEW2 and vd's element in SEW; one rounding into SEW. -/
def State.fpWord (s : State) (i : Instr) (o : VOp) (g : Mode → FV → FV → FV → Exact) : Out :=
  s.vec i (fun s =>
    let f := fmt! s.sew
    let f2 := fmt! s.sew2
    let w := widthOf s.sew
    let w2 := widthOf s.sew2
    let a := s.v o.vs1.toNat
    let b := s.v o.vs2.toNat
    let c := s.v o.vd.toNat
    let mode := s.mode
    s.eachElem o.msel o.vd w (fun k =>
      (g mode (f2.decode (elemOf a k w2)) (f2.decode (elemOf b k w2)) (f.decode (elemOf c k w))).into f mode))

/-- VFADD. -/
def execVfadd (o : VOp) (s : State) : Out := s.fpWord (.vfadd o) o (fun m a b _ => addFV m a b)
/-- VFSUB. -/
def execVfsub (o : VOp) (s : State) : Out := s.fpWord (.vfsub o) o (fun m a b _ => addFV m a b.negate)
/-- VFMUL. -/
def execVfmul (o : VOp) (s : State) : Out := s.fpWord (.vfmul o) o (fun _ a b _ => mulFV a b)
/-- VFMA: one rounding (R234). -/
def execVfma (o : VOp) (s : State) : Out := s.fpWord (.vfma o) o (fun m a b c => fmaFV m a b c)
/-- VFDIV. -/
def execVfdiv (o : VOp) (s : State) : Out := s.fpWord (.vfdiv o) o (fun _ a b _ => divFV a b)
/-- VFSQRT. -/
def execVfsqrt (o : VOp) (s : State) : Out := s.fpWord (.vfsqrt o) o (fun _ a _ _ => sqrtFV a)

/-- VFMIN and VFMAX (R234). -/
def State.pickWord (s : State) (i : Instr) (o : VOp) (larger : Bool) : Out :=
  s.vec i (fun s =>
    let code := s.sew
    let w := widthOf code
    let a := s.v o.vs1.toNat
    let b := s.v o.vs2.toNat
    s.eachElem o.msel o.vd w (fun k => pickElem code larger (elemOf a k w) (elemOf b k w)))

/-- VFMIN. -/
def execVfmin (o : VOp) (s : State) : Out := s.pickWord (.vfmin o) o false
/-- VFMAX. -/
def execVfmax (o : VOp) (s : State) : Out := s.pickWord (.vfmax o) o true

/-! Conversions and block quantisation (R351-R353). -/

/-- One element converted from a format to another (R232, R236, R351): the bits, the flags, and whether an integer clamped.
`alt` is the word's ALT bit. -/
def convertElem (src dst : Nat) (alt : Bool) (mode : Mode) (a : Nat) : Nat × List Flag × Bool :=
  let w := widthOf dst
  let sat := if dst = 8 then !alt else alt
  if isInt src ∧ isInt dst then
    let p := saturate w (toSigned (widthOf src) a)
    (wrapN w p.1, [], p.2)
  else if isInt src then
    let p := intToFloat (fmt! dst) mode sat (toSigned (widthOf src) a)
    (p.1, p.2, false)
  else if isInt dst then
    let p := floatToInt mode w ((fmt! src).decode a)
    (wrapN w p.1, p.2, false)
  else
    let p := floatToFloat (fmt! dst) mode sat ((fmt! src).decode a)
    (p.1, p.2, false)

/-- VCVT (R351). -/
def execVcvt (o : VOp) (s : State) : Out :=
  s.vec (.vcvt o) (fun s =>
    let w2 := widthOf s.sew2
    let a := s.v o.vs1.toNat
    let mode := s.mode
    let r (k : Nat) := convertElem s.sew2 s.sew (o.vs2.getLsbD 0) mode (elemOf a k w2)
    (s.raiseSat ((s.active o.msel).any (fun k => (r k).2.2))).eachElem o.msel o.vd (widthOf s.sew)
      (fun k => ((r k).1, (r k).2.1)))

/-- The largest positive code value of an F4 type (R352). -/
def f4Top (type : Nat) : Nat := if type = 0 then 7 else if type = 1 then 6 else 8

/-- A finite magnitude m × 2^e in units of 2^-160. -/
def units160 (m : Nat) (e : Int) : Nat := m * 2 ^ (e + 160).toNat

/-- A block coded by one candidate type (R352): the scale exponent, the codes with their flags, and the error in units of
2^-160, none where an infinity makes it infinite. -/
def quantBlock (type : Nat) (vs : List FV) : Nat × List (Nat × List Flag) × Option Nat :=
  let m := (vs.map (fun v => match v with
    | .fin _ m e => units160 m e
    | _ => 0)).foldl max 0
  let sc := ((List.range 63).find? (fun sc => decide (m ≤ f4Top type * 2 ^ (sc + 128)))).getD 62
  let codes := vs.map (fun v => match v with
    | .fin n m e => f4Code type sc n m e
    | .inf n => ((if type = 0 then (if n then 8 else 7) else (if n then 15 else 7)), [.of, .nx])
    | .nan _ => (0, []))
  let err := (vs.zip codes).foldl (fun acc p =>
    match acc, p.1 with
    | some t, .fin n m e =>
      some (t + (signedM n (units160 m e) - f4Eighths type p.2.1 * 2 ^ (sc + 125)).natAbs)
    | _, _ => none) (some 0)
  (sc, codes, err)

/-- Whether a candidate's error is less than another's. -/
def errLess (a b : Option Nat) : Bool :=
  match a, b with
  | some x, some y => decide (x < y)
  | some _, none => true
  | none, _ => false

/-- A block of VQUANT (R352): the scale byte, the codes and the flags by position in the block. -/
def quantOne (type : Nat) (auto : Bool) (vs : List FV) : Nat × List (Nat × List Flag) :=
  if vs.any FV.isNan then (type * 64 + 63, vs.map (fun v => (0, snanFlag [v])))
  else
    let types := if auto then [0, 1, 2, 3] else [type]
    let best := types.foldl (fun (b : Option (Nat × Nat × List (Nat × List Flag) × Option Nat)) t =>
      let q := quantBlock t vs
      match b with
      | none => some (t, q)
      | some (t0, q0) => if errLess q.2.2 q0.2.2 then some (t, q) else some (t0, q0)) none
    match best with
    | some (t, q) => (t * 64 + q.1, q.2.1)
    | none => (0, [])

/-- VQUANT (R352): codes into vd, scale bytes into v(vd+1). -/
def execVquant (o : VOp) (s : State) : Out :=
  s.vec (.vquant o) (fun s =>
    let w2 := widthOf s.sew2
    let f := fmt! s.sew2
    let src := s.v o.vs1.toNat
    let blk := vtBlk s.vtype
    let vl := s.vl
    let type := (o.vs2.extractLsb' 0 2).toNat
    let one (k : Nat) : Nat × List (Nat × List Flag) :=
      quantOne type (o.vs2.getLsbD 2)
        ((List.range (min blk (vl - k * blk))).map (fun j => f.decode (elemOf src (k * blk + j) w2)))
    let blocks := (List.range (ceilDiv vl blk)).map (fun k => (k, one k))
    let codes := blocks.flatMap (fun p => p.2.2.mapIdx (fun j c => (p.1 * blk + j, c)))
    let s := s.putV o.vd.toNat 4 (codes.map (fun c => (c.1, c.2.1)))
    let s := s.putV (o.vd.toNat + 1) 8 (blocks.map (fun p => (p.1, p.2.1)))
    (s.raise (codes.flatMap (fun c => at_ c.1 c.2.2))).wordDone)

/-- VDEQUANT (R353). -/
def execVdequant (o : VOp) (s : State) : Out :=
  s.vec (.vdequant o) (fun s =>
    let codes := s.v o.vs1.toNat
    let scales := s.v o.vs2.toNat
    let blk := vtBlk s.vtype
    let f := fmt! s.sew
    let mode := s.mode
    s.eachElem 0 o.vd (widthOf s.sew) (fun k =>
      floatToFloat f mode false (f4Value (elemOf scales (k / blk) 8) (elemOf codes k 4))))

/-! Compares and masks (R354). -/

/-- A compare: bit i of md for each active i. -/
def State.cmpWord (s : State) (i : Instr) (o : VOp) (r : Rel) : Out :=
  s.vec i (fun s =>
    let code := s.sew
    let w := widthOf code
    let a := s.v o.vs1.toNat
    let b := s.v o.vs2.toNat
    let rs := (s.active o.msel).map (fun k => (k, relElem code r (elemOf a k w) (elemOf b k w)))
    let old := (s.strand.regs.ms.toList.getD o.vd.toNat 0).toNat
    let bits := rs.foldl (fun m p => setField m p.1 1 (bit p.2.1)) old
    ((s.writeM o.vd.toNat bits).raise (rs.flatMap (fun p => at_ p.1 p.2.2))).wordDone)

/-- VCMP.EQ. -/
def execVcmpEq (o : VOp) (s : State) : Out := s.cmpWord (.vcmpEq o) o .eq
/-- VCMP.NE. -/
def execVcmpNe (o : VOp) (s : State) : Out := s.cmpWord (.vcmpNe o) o .ne
/-- VCMP.LT. -/
def execVcmpLt (o : VOp) (s : State) : Out := s.cmpWord (.vcmpLt o) o .lt
/-- VCMP.LE. -/
def execVcmpLe (o : VOp) (s : State) : Out := s.cmpWord (.vcmpLe o) o .le
/-- VCMP.LTU. -/
def execVcmpLtu (o : VOp) (s : State) : Out := s.cmpWord (.vcmpLtu o) o .ltu
/-- VCMP.LEU. -/
def execVcmpLeu (o : VOp) (s : State) : Out := s.cmpWord (.vcmpLeu o) o .leu

/-- A mask word: bits 0 to VL − 1 of md. -/
def State.maskWord (s : State) (i : Instr) (o : VOp) (g : Nat → Nat → Nat) : Out :=
  s.vec i (fun s =>
    let old := (s.strand.regs.ms.toList.getD o.vd.toNat 0).toNat
    let new := g (s.m o.vs1.toNat) (s.m o.vs2.toNat)
    (s.writeM o.vd.toNat (old / 2 ^ s.vl * 2 ^ s.vl + new % 2 ^ s.vl)).wordDone)

/-- MAND. -/
def execMand (o : VOp) (s : State) : Out := s.maskWord (.mand o) o (fun a b => a &&& b)
/-- MOR. -/
def execMor (o : VOp) (s : State) : Out := s.maskWord (.mor o) o (fun a b => a ||| b)
/-- MXOR. -/
def execMxor (o : VOp) (s : State) : Out := s.maskWord (.mxor o) o (fun a b => a ^^^ b)
/-- MNOT. -/
def execMnot (o : VOp) (s : State) : Out := s.maskWord (.mnot o) o (fun a _ => a ^^^ (2 ^ 16384 - 1))

/-- MPOP: the set bits of ma among active elements. -/
def execMpop (o : VOp) (s : State) : Out :=
  s.vec (.mpop o) (fun s =>
    (s.putX o.vd (BitVec.ofNat 64 ((s.active o.msel).filter (fun k => (s.m o.vs1.toNat).testBit k)).length)).wordDone)

/-- MFIRST: the lowest such bit, or all ones. -/
def execMfirst (o : VOp) (s : State) : Out :=
  s.vec (.mfirst o) (fun s =>
    (s.putX o.vd
      (match (s.active o.msel).find? (fun k => (s.m o.vs1.toNat).testBit k) with
      | some k => BitVec.ofNat 64 k
      | none => BitVec.allOnes 64)).wordDone)

/-! Reductions, scans, VARGMAX (R355-R357). -/

/-- The active elements of a register, with their indices. -/
def State.terms (s : State) (msel : BitVec 3) (n : Nat) : List (Nat × Nat) :=
  let a := s.v n
  let w := widthOf s.sew
  (s.active msel).map (fun k => (k, elemOf a k w))

/-- A reduction's result in element 0 of vd. -/
def State.reduced (s : State) (vd : BitVec 5) (r : Nat × List (Flag × Nat)) : State :=
  ((s.putV vd.toNat (widthOf s.sew) [(0, r.1)]).raise r.2).wordDone

/-- VREDSUM.O (R244). -/
def execVredsumO (o : VOp) (s : State) : Out :=
  s.vec (.vredsumO o) (fun s =>
    let xs := s.terms o.msel o.vs1.toNat
    let first := (xs.head?.map (·.1)).getD 0
    s.reduced o.vd (orderedSum s.sew s.mode (some (first, elemOf (s.v o.vs2.toNat) 0 (widthOf s.sew))) xs))

/-- VREDSUM.U (R245): flags at the lowest active index. -/
def execVredsumU (o : VOp) (s : State) : Out :=
  s.vec (.vredsumU o) (fun s =>
    let xs := s.terms o.msel o.vs1.toNat
    let first := (xs.head?.map (·.1)).getD 0
    let all := elemOf (s.v o.vs2.toNat) 0 (widthOf s.sew) :: xs.map (·.2)
    let r := treeSum s.sew s.mode s.vl s.core.vlenb 0 all.length all
    s.reduced o.vd (r.1, at_ first r.2))

/-- A scan: for each active i, the sum of the active elements up to i, with its flags. -/
def State.scan (s : State) (vd : BitVec 5) (rs : List (Nat × Nat × List (Flag × Nat))) : State :=
  ((s.putV vd.toNat (widthOf s.sew) (rs.map (fun r => (r.1, r.2.1)))).raise (rs.flatMap (fun r => r.2.2))).wordDone

/-- The partial sums of R244: each with the flags of the addition that completes it. -/
def partials (code : Nat) (mode : Mode) : Option Nat → List (Nat × Nat) → List (Nat × Nat × List (Flag × Nat))
  | _, [] => []
  | none, x :: r =>
    let c := canonElem code x.2
    (x.1, c.1, at_ x.1 c.2) :: partials code mode (some c.1) r
  | some t, x :: r =>
    let q := addElem code mode t x.2
    (x.1, q.1, at_ x.1 q.2) :: partials code mode (some q.1) r

/-- VSCAN.O (R356). -/
def execVscanO (o : VOp) (s : State) : Out :=
  s.vec (.vscanO o) (fun s => s.scan o.vd (partials s.sew s.mode none (s.terms o.msel o.vs1.toNat)))

/-- VSCAN.F (R356): each prefix by a tree of its own. -/
def execVscanF (o : VOp) (s : State) : Out :=
  s.vec (.vscanF o) (fun s =>
    let xs := s.terms o.msel o.vs1.toNat
    s.scan o.vd (xs.mapIdx (fun n x =>
      let r := treeSum s.sew s.mode s.vl s.core.vlenb (n + 1) (n + 1) ((xs.take (n + 1)).map (·.2))
      (x.1, r.1, at_ x.1 r.2))))

/-- A minimum or maximum over the start value and the active elements; flags at the element brought in (R355). -/
def pickAll (code : Nat) (larger : Bool) (start : Nat × Nat) (xs : List (Nat × Nat)) : Nat × List (Flag × Nat) :=
  let c := if xs.isEmpty then canonElem code start.2 else (start.2, [])
  xs.foldl (fun p x =>
    let q := pickElem code larger p.1 x.2
    (q.1, p.2 ++ at_ x.1 q.2)) (c.1, at_ start.1 c.2)

/-- VREDMAX, VREDMIN and VREDAMAX, with what each element is taken as. -/
def State.redWord (s : State) (i : Instr) (o : VOp) (larger : Bool) (f : Nat → Nat → Nat) : Out :=
  s.vec i (fun s =>
    let xs := (s.terms o.msel o.vs1.toNat).map (fun x => (x.1, f s.sew x.2))
    let first := (xs.head?.map (·.1)).getD 0
    s.reduced o.vd (pickAll s.sew larger (first, f s.sew (elemOf (s.v o.vs2.toNat) 0 (widthOf s.sew))) xs))

/-- VREDMAX. -/
def execVredmax (o : VOp) (s : State) : Out := s.redWord (.vredmax o) o true (fun _ x => x)
/-- VREDMIN. -/
def execVredmin (o : VOp) (s : State) : Out := s.redWord (.vredmin o) o false (fun _ x => x)
/-- VREDAMAX: the largest magnitude, sign bit clear. -/
def execVredamax (o : VOp) (s : State) : Out := s.redWord (.vredamax o) o true absElem

/-- Whether an element is a NaN of its format. -/
def nanElem (code x : Nat) : Bool := !isInt code && ((fmt! code).decode x).isNan

/-- Whether `b` is strictly larger than `a` (R357). -/
def largerElem (code a b : Nat) : Bool :=
  if isInt code then decide (toSigned (widthOf code) a < toSigned (widthOf code) b)
  else pickFV true ((fmt! code).decode a) ((fmt! code).decode b) == some false

/-- The index of the largest element that is not a NaN, the lowest among equals; with NaNs only, the lowest index. -/
def argmax (code : Nat) (xs : List (Nat × Nat)) : Option Nat :=
  match xs.filter (fun x => !nanElem code x.2) with
  | [] => xs.head?.map (·.1)
  | y :: ys => some (ys.foldl (fun b x => if largerElem code b.2 x.2 then x else b) y).1

/-- VARGMAX (R357, R229). -/
def execVargmax (o : VOp) (s : State) : Out :=
  s.vec (.vargmax o) (fun s =>
    let xs := s.terms o.msel o.vs1.toNat
    let fs := xs.flatMap (fun x => if isInt s.sew then [] else at_ x.1 (snanFlag [(fmt! s.sew).decode x.2]))
    ((s.putX o.vd
      (match argmax s.sew xs with
      | some k => BitVec.ofNat 64 k
      | none => BitVec.allOnes 64)).raise fs).wordDone)

/-! Random numbers (R358). -/

/-- The mix of a counter under two seeds. -/
def randMix (seed0 seed1 x : Word) : Word :=
  (List.range 6).foldl (fun x k =>
    let x := x + (if k % 2 = 0 then seed0 else seed1) + BitVec.ofNat 64 k
    let x := x ^^^ (x >>> 31)
    let x := x * 0xA24BAED4963EE407#64
    x ^^^ (x >>> 29)) x

/-- VRAND. -/
def execVrand (o : VOp) (s : State) : Out :=
  s.vec (.vrand o) (fun s =>
    let w := widthOf s.sew
    let a := s.v o.vs1.toNat
    let (s0, s1) := match s.launchOf s.myStep with
      | some l => (l.seed0, l.seed1)
      | none => (0, 0)
    s.eachElem o.msel o.vd w (fun k => ((randMix s0 s1 (BitVec.ofNat 64 (elemOf a k w))).toNat % 2 ^ w, [])))

/-! Permutations and gang exchange (R346, R359, R360). -/

/-- An index element: SEW bits, or the low 32 of a P128 element. -/
def indexOf (code x : Nat) : Nat := if code = 0x18 then x % 2 ^ 32 else x

/-- VPERM and VGPERM; `halves` keeps each element within its half. -/
def State.permWord (s : State) (i : Instr) (o : VOp) (halves : State → Bool) : Out :=
  s.vec i (fun s =>
    let w := widthOf s.sew
    let a := s.v o.vs1.toNat
    let b := s.v o.vs2.toNat
    let n := s.vlmax
    s.eachElem o.msel o.vd w (fun k =>
      let x := indexOf s.sew (elemOf b k w)
      (if n ≤ x ∨ (halves s ∧ (decide (k < n / 2) != decide (x < n / 2))) then 0 else elemOf a x w, [])))

/-- VPERM: within a gang member (R346). -/
def execVperm (o : VOp) (s : State) : Out := s.permWord (.vperm o) o (fun s => s.core.gangEn)
/-- VGPERM: over the whole vector. -/
def execVgperm (o : VOp) (s : State) : Out := s.permWord (.vgperm o) o (fun _ => false)

/-- VSLIDEUP. -/
def execVslideup (o : VOp) (s : State) : Out :=
  s.vec (.vslideup o) (fun s =>
    let w := widthOf s.sew
    let a := s.v o.vs1.toNat
    let b := s.capB.toNat
    (s.putV o.vd.toNat w (((s.active o.msel).filter (fun k => decide (b ≤ k))).map (fun k => (k, elemOf a (k - b) w)))).wordDone)

/-- VSLIDEDN. -/
def execVslidedn (o : VOp) (s : State) : Out :=
  s.vec (.vslidedn o) (fun s =>
    let w := widthOf s.sew
    let a := s.v o.vs1.toNat
    let b := s.capB.toNat
    let n := s.vlmax
    s.eachElem o.msel o.vd w (fun k => (if k + b < n then elemOf a (k + b) w else 0, [])))

/-- VCOMPRESS: the active elements, in order, from vd[0]. -/
def execVcompress (o : VOp) (s : State) : Out :=
  s.vec (.vcompress o) (fun s =>
    (s.putV o.vd.toNat (widthOf s.sew) ((s.terms o.msel o.vs1.toNat).mapIdx (fun j x => (j, x.2)))).wordDone)

/-- VEXPAND: the j-th active position gets vs1[j]. -/
def execVexpand (o : VOp) (s : State) : Out :=
  s.vec (.vexpand o) (fun s =>
    let w := widthOf s.sew
    let a := s.v o.vs1.toNat
    (s.putV o.vd.toNat w ((s.active o.msel).mapIdx (fun j k => (k, elemOf a j w)))).wordDone)

/-- VBCAST: the low SEW bits of sb. -/
def execVbcast (o : VOp) (s : State) : Out :=
  s.vec (.vbcast o) (fun s => s.eachElem o.msel o.vd (widthOf s.sew) (fun _ => (s.capB.toNat, [])))

/-- VMOVSV: element sb of vd, where sb is below VL. -/
def execVmovsv (o : VOp) (s : State) : Out :=
  s.vec (.vmovsv o) (fun s =>
    (if s.capB.toNat < s.vl then s.putV o.vd.toNat (widthOf s.sew) [(s.capB.toNat, s.capA.toNat)] else s).wordDone)

/-- VMOVVS: element sb of vs1, sign-extended for integers, zero-extended for floating point; 0 at or above VL. -/
def execVmovvs (o : VOp) (s : State) : Out :=
  s.vec (.vmovvs o) (fun s =>
    let w := widthOf s.sew
    let x (_ : Unit) : Nat := elemOf (s.v o.vs1.toNat) s.capB.toNat w
    (s.putX o.vd
      (if s.vl ≤ s.capB.toNat then 0 else if isInt s.sew then sextN w (x ()) else BitVec.ofNat 64 (x ()))).wordDone)

/-- VGRED: vs1[i] + vs1[i + H] for active i below H = VLMAX / 2 (R360). -/
def execVgred (o : VOp) (s : State) : Out :=
  s.vec (.vgred o) (fun s =>
    let w := widthOf s.sew
    let a := s.v o.vs1.toNat
    let h := s.vlmax / 2
    let rs := ((s.active o.msel).filter (fun k => decide (k < h))).map
      (fun k => (k, addElem s.sew s.mode (elemOf a k w) (elemOf a (k + h) w)))
    ((s.putV o.vd.toNat w (rs.map (fun r => (r.1, r.2.1)))).raise (rs.flatMap (fun r => at_ r.1 r.2.2))).wordDone)

end Sys2Proof.Machine
end

