-- ==== Sys2Proof/Machine/LocalMem.lean ====
section
/-!
DEFINITION. Vector access to local memory, consuming loads and full/empty bits, VCAPP, and the scoreboard (spec 05, 07, 15, 16).
-/

namespace Sys2Proof.Machine

open Sys2Proof

/-! The scoreboard (R118-R120). -/

/-- The engines that a scoreboard entry names. -/
def engMatrix : Nat := 0
def engCopy : Nat := 1
def engStream : Nat := 2
def engXform : Nat := 3

/-- The earliest outstanding entry of a step that overlaps a region, once both are rounded to 64 bytes, where one of the two
writes (R119). -/
def overlapIn (board : List Region) (cell lo hi : Nat) (write : Bool) : Option Region :=
  board.find? (fun r => r.cell == cell && (r.write || write) && decide (lo / 64 ≤ r.hi / 64) && decide (r.lo / 64 ≤ hi / 64))

/-- The command that an entry belongs to is performed next. -/
def State.hurryRegion (s : State) (core : Nat) (r : Region) : State :=
  let s := s.stall true
  let q := r.id / 2 ^ 48
  let n := r.id % 2 ^ 48
  if r.engine = engCopy then
    s.hurry .copyTransferComplete (fun i => i.core == core && i.slot == r.cell && i.queue == q && i.n == n)
      { Input.none with core := core, slot := r.cell, queue := q, n := n }
  else if r.engine = engStream then
    s.hurry .streamEnd (fun i => i.core == core && i.queue == q) { Input.none with core := core, queue := q }
  else if r.engine = engXform then
    s.hurry .transformPerform (fun i => i.core == core && i.slot == r.cell && i.n == n)
      { Input.none with core := core, slot := r.cell, n := n }
  else s.hurry .matrixCommandFinish (fun i => i.core == core) { Input.none with core := core }

/-! Faults of vector memory words (R207, R257, R260). -/

/-- The lane-group counters when the word stops before element `k` and nothing above has performed (R260). -/
def laneCounters (k vl w groups : Nat) : List Nat :=
  (List.range 16).map (fun g =>
    if groups ≤ g then 0
    else (((List.range vl).find? (fun i => decide (k ≤ i) && decide (i * w / 256 % groups = g)))).getD vl)

/-- The lane-group counters of a record whose entry 0 is the one word that failed at element `k` (R260). -/
def Record.counters (r : Record) (c : Core) (k : Nat) : List Nat :=
  let w := r.convoys.headD ConvoyEntry.empty
  laneCounters k w.vl (widthOf (vtSew w.vtype)) c.groups

/-- A fault found before any element performs: ESTART 0 (R174). -/
def State.faultNow (s : State) (cause faddr : Nat) : State :=
  s.trapConvoy { TrapBlock.none with cause := cause, faddr := BitVec.ofNat 64 faddr }

/-- A fault at element `k`, at perform time. -/
def State.faultAt (s : State) (cause k faddr : Nat) : State :=
  s.trapConvoy
    { TrapBlock.none with
      cause := cause
      estart := k
      faddr := BitVec.ofNat 64 faddr
      lgc := laneCounters k s.vl (widthOf s.sew) s.core.groups }

/-- A load that stops at element `k` at perform time: the elements below it stay in its destination, from where it goes on (R207, R208). -/
def State.faultKeeping (s : State) (cause k faddr : Nat) (vd : BitVec 5) (v : VReg) : State :=
  let cv := s.strand.cv
  let cv := { cv with vs0 := cv.vs0.set vd.toNat v, dirtyV0 := cv.dirtyV0 ||| BitVec.ofNat 32 (2 ^ vd.toNat) }
  { s with strand := { s.strand with cv := cv } }.faultAt cause k faddr

/-! Elements (R368). -/

/-- The addressing mode of a vector memory word; `indexed` holds the index register. -/
inductive AMode where
  | unit
  | strided
  | indexed (bits : Nat)
  deriving DecidableEq, Repr

/-- The address of element `i` (R368). -/
def State.elemAddr (s : State) (mode : AMode) (i : Nat) : Nat :=
  let w := widthOf s.sew
  let off := match mode with
    | .unit => i * w / 8
    | .strided => i * s.capB.toNat
    | .indexed bits => indexOf s.sew (elemOf bits i w)
  (s.capA.toNat + off) % 2 ^ 64

/-- Whether an element's local access goes to the odd member of the gang, and its local address (R126). -/
def State.localPlace (s : State) (mode : AMode) (i : Nat) : Bool × Nat :=
  let h := s.vlmax / 2
  if s.core.gangEn ∧ h ≤ i then (true, s.elemAddr mode (i - h)) else (false, s.elemAddr mode i)

/-- An element of a local access. The address of the odd member's memory counts from 2^22. -/
def State.localElem (s : State) (mode : AMode) (vreg i : Nat) : LoadElem :=
  let p := s.localPlace mode i
  { addr := (if p.1 then 2 ^ 22 else 0) + p.2, size := widthOf s.sew / 8, index := i, vreg := vreg, at_ := i * widthOf s.sew / 8 }

/-- The core, and its local address, that such an address names. -/
def localCore (here a : Nat) : Nat × Nat := (here + a / 2 ^ 22, a % 2 ^ 22)

/-- The first element whose local access is out of range (R157): none where all are in range. -/
def State.localBad (s : State) (mode : AMode) (read : Bool) (is : List Nat) : Option Nat :=
  (is.find? (fun i =>
    let p := s.localPlace mode i
    !((if p.1 then s.getCore (s.here + 1) else s.core).localOk read p.2 (max 1 (widthOf s.sew / 8))))).map
    (fun i => (s.localPlace mode i).2)

/-- An element's value in local memory; a 4-bit element is a nibble of its byte. -/
def Core.readElem (k : Core) (a : Nat) (e : LoadElem) : Nat :=
  if e.size = 0 then mload k.loc a 1 / 2 ^ (4 * (e.index % 2)) % 16 else mload k.loc a e.size

/-- An element put at its place in a register file; one that no destination takes (R374) has its place above every register. -/
def Regs.putElem (r : Regs) (e : LoadElem) (val : Nat) : Regs :=
  if 8192 ≤ e.at_ then r
  else
  let v := r.vs[e.vreg % 32]'(Nat.mod_lt _ (by decide))
  let bits :=
    if e.size = 0 then setField v.bits.toNat (8 * e.at_ + 4 * (e.index % 2)) 4 val
    else setField v.bits.toNat (8 * e.at_) (8 * e.size) val
  { r with
    vs := r.vs.set (e.vreg % 32) { bits := BitVec.ofNat 65536 bits, tag := max v.tag (e.at_ + max e.size 1) }
      (Nat.mod_lt _ (by decide)) }

/-- The lowest and highest local bytes that elements touch in the strand's own core. -/
def span (es : List LoadElem) : Option (Nat × Nat) :=
  match es.filter (fun e => decide (e.addr < 2 ^ 22)) with
  | [] => none
  | e :: r =>
    some (r.foldl (fun p e => (min p.1 e.addr, max p.2 (e.addr + max e.size 1 - 1))) (e.addr, e.addr + max e.size 1 - 1))

/-- What a region that a word needs must wait for: an entry that it overlaps (R119), or any entry while none of the 64 is free (R120). -/
def Core.regionWait (k : Core) (cell lo hi : Nat) (write : Bool) : Option Region :=
  (overlapIn k.board cell lo hi write).or (if 64 ≤ k.board.length then k.board.head? else none)

/-- The outstanding entry that the elements' region must wait for. -/
def State.spanWait (s : State) (es : List LoadElem) (write : Bool) : Option Region :=
  (span es).bind (fun p => s.core.regionWait s.strand.cell p.1 p.2 write)

/-! Full and empty granules (R158, R159, R141). -/

/-- The pieces of elements by the granules they touch, in ascending order of granules. -/
def byGranule (es : List LoadElem) : List LoadElem :=
  let parts := es.flatMap (fun e =>
    if e.size = 0 then [e]
    else
      (granulesOf e.addr e.size).map (fun g =>
        let lo := max e.addr (16 * g)
        let hi := min (e.addr + e.size) (16 * g + 16)
        { e with addr := lo, size := hi - lo, at_ := e.at_ + (lo - e.addr) }))
  let gs := (parts.map (fun e => e.addr / 16)).foldl ninsert []
  gs.flatMap (fun g => parts.filter (fun e => e.addr / 16 == g))

/-- What a consuming load takes: registers and memory after the full granules, and the pieces from the first granule that is
empty; or a poisoned granule's element and address. -/
def State.takeGranules (s : State) (core : Nat) (keep : Bool) (r : Regs) : Nat → List LoadElem → State × Regs × List LoadElem × Option (Nat × Nat)
  | 0, es => (s, r, es, none)
  | _ + 1, [] => (s, r, [], none)
  | fuel + 1, e :: es =>
    let g := e.addr / 16
    let (c, a) := localCore core e.addr
    let k := s.getCore c
    if !k.full.contains (a / 16) then (s, r, e :: es, none)
    else if k.locPoison.contains (a / 16) then (s, r, e :: es, some (e.index, a))
    else
      let mine := (e :: es).filter (fun x => x.addr / 16 == g)
      let rest := (e :: es).filter (fun x => x.addr / 16 != g)
      let r := mine.foldl (fun r x => r.putElem x (k.readElem (localCore core x.addr).2 x)) r
      let s := if keep then s else s.setCore c (k.setEmpty [a / 16])
      s.takeGranules core keep r fuel rest

/-- The reference of the record that registered last on a granule (R137). -/
def Core.lastGranule (k : Core) (node core key : Nat) : Nat :=
  match ((k.granuleWaits.filter (fun w => w.1 == key)).getLast?).bind (fun w => k.record w.2) with
  | some r => r.ref node core
  | none => 0

/-- The FAULT record that a consuming load's record of a core becomes at a poisoned granule: as R375 gives it for a global load. -/
def granuleFault (s : State) (c : Core) (k addr : Nat) (r : Record) : Record :=
  let w := r.convoys.headD ConvoyEntry.empty
  { r with
    kind := .fault
    lsidx := 0
    waitLocal := false
    trap := { r.trap with
      cause := 0x40
      estart := k
      fpc := w.cpc
      faddr := BitVec.ofNat 64 addr
      lgc := r.counters c k
      rescyc := (c.step r.cell).rescyc
      when_ := s.time.toNat } }

/-- A record that waits on a granule tests it again, and takes this and the following granules (R159). -/
def State.retryGranule (s : State) (core dseq : Nat) : State :=
  match (s.getCore core).record dseq with
  | none => s
  | some r =>
    match r.on with
    | .granule es keep =>
      let ctx := s.ctxOf core
      let (s, regs, rest, bad) := s.takeGranules core keep r.regs (es.length + 1) es
      let r' := { r with regs := regs, on := .granule rest keep }
      match bad, rest with
      | some (i, a), _ => s.recordFaults ctx core r (granuleFault s (s.getCore core) i a r')
      | none, [] => s.modCtxCore ctx core (fun k => (k.modRecord dseq (fun _ => { r' with convoys := [] })).makeReady dseq)
      | none, e :: _ =>
        let key := e.addr / 16
        s.modCtxCore ctx core (fun k =>
          let k := { k with granuleWaits := k.granuleWaits.filter (fun w => w.2 != dseq) }
          let k := k.modRecord dseq (fun _ => { r' with waitAddr := key % 2 ^ 18 * 16, next := k.lastGranule s.fabric.node core key })
          { k with granuleWaits := k.granuleWaits ++ [(key, dseq)] })
    | _ => s

/-- Where the records that wait on a granule of a core lie, and under which key (R126): a gang's lie in the even core. -/
def waitKeys (core g : Nat) : List (Nat × Nat) := (core, g) :: (if core % 2 = 1 then [(core - 1, 2 ^ 18 + g)] else [])

/-- A granule set full: the records registered on it test it in registration order (R141). -/
def State.releaseGranule (s : State) (core g : Nat) : State :=
  (waitKeys core g).foldl (fun s w =>
    (((s.getCore w.1).granuleWaits.filter (fun x => x.1 == w.2)).map (·.2)).foldl (fun s d =>
      if (s.getCore core).full.contains g then s.retryGranule w.1 d else s) s) s

/-- A pair put into a list of pairs, by its first number. -/
def insertPair (p : Nat × Nat) : List (Nat × Nat) → List (Nat × Nat)
  | [] => [p]
  | q :: r => if p.1 < q.1 then p :: q :: r else q :: insertPair p r

/-- Granules that something waits on, in the order of the lowest deposit number that waits on each (R144). -/
def State.waitedGranules (s : State) (core : Nat) (gs : List Nat) : List Nat :=
  ((gs.filterMap (fun g =>
    (((waitKeys core g).flatMap (fun w =>
      ((s.getCore w.1).granuleWaits.filter (fun x => x.1 == w.2)).map (·.2))).min?).map (fun d => (d, g)))).foldr insertPair []).map (·.2)

/-- Granules set full, and what waits on them released: object by object, each object's records in registration order (R158, R144). -/
def State.fill (s : State) (core : Nat) (gs : List Nat) : State :=
  let s := s.modCore core (·.setFull gs)
  (s.waitedGranules core gs).foldl (fun s g => s.releaseGranule core g) s

/-- An engine's write to local memory: the bytes, then their granules set full (R158). -/
def State.engineWrite (s : State) (core a : Nat) (bs : List Byte) : State :=
  (s.modCore core (·.locWrite a bs)).fill core (granulesOf a bs.length)

/-- GRANULE_SET_FULL (R158): the bytes at a local address of a core are written by an engine, and their granules, or with no
bytes the granule at the address, are set full, which releases the loads registered on them. Operands: core, addr, bytes. -/
def execGranuleSetFull (s : State) : Out :=
  let i := s.inp
  .next
    (if i.bytes.isEmpty then s.fill i.core [i.addr / 16] else s.engineWrite i.core i.addr i.bytes)

/-! Loads and stores (R369, R370). -/

/-- A local vector load. -/
def State.localLoad (s : State) (i : Instr) (o : VOp) (mode : State → AMode) : Out :=
  s.vword i (fun s =>
    let m := mode s
    let is := s.activeFrom s.startAt o.msel
    let es := is.map (s.localElem m o.vd.toNat)
    match s.localBad m true is with
    | some a => s.faultNow 0x14 a
    | none =>
      match s.spanWait es false with
      | some r => s.hurryRegion s.here r
      | none =>
        let at' (e : LoadElem) : Core × Nat := let p := localCore s.here e.addr; (s.getCore p.1, p.2)
        let load (es : List LoadElem) : State :=
          s.putV o.vd.toNat (widthOf s.sew) (es.map (fun e => (e.index, (at' e).1.readElem (at' e).2 e)))
        match es.find? (fun e => (at' e).1.locBad (at' e).2 (max 1 e.size)) with
        | some e =>
          s.faultKeeping 0x40 e.index (at' e).2 o.vd
            ((load (es.filter (fun x => decide (x.index < e.index)))).strand.regs.vs.toList.getD o.vd.toNat { bits := 0, tag := 0 })
        | none => ((load es).clearStart).wordDone)

/-- One element stored; a 4-bit element writes its own nibble. -/
def State.storeElem (s : State) (e : LoadElem) (val : Nat) : State :=
  let (c, a) := localCore s.here e.addr
  s.modCore c (fun k =>
    if e.size = 0 then
      k.locWrite a (bytesOf 1 (setField (mload k.loc a 1) (4 * (e.index % 2)) 4 val))
    else k.locWrite a (bytesOf e.size val))

/-- A local vector store; `full` also sets full every granule that it touches. -/
def State.localStore (s : State) (i : Instr) (o : VOp) (mode : State → AMode) (full : Bool) : Out :=
  s.vword i (fun s =>
    let m := mode s
    let is := s.activeFrom s.startAt o.msel
    let es := is.map (s.localElem m o.vd.toNat)
    match s.localBad m false is with
    | some a => s.faultNow 0x14 a
    | none =>
      match s.spanWait es true with
      | some r => s.hurryRegion s.here r
      | none =>
        let data := s.v o.vd.toNat
        let w := widthOf s.sew
        let s := es.foldl (fun s e => s.storeElem e (elemOf data e.index w)) s
        let touched := if full then (es.flatMap (fun e =>
            let p := localCore s.here e.addr
            (granulesOf p.2 (max 1 e.size)).map (fun g => (p.1, g)))).eraseDups else []
        let s := touched.foldl (fun s p => s.fill p.1 [p.2]) s
        (s.clearStart).wordDone)

/-- VLD. -/
def execVld (o : VOp) (s : State) : Out := s.localLoad (.vld o) o (fun _ => .unit)
/-- VLDS. -/
def execVlds (o : VOp) (s : State) : Out := s.localLoad (.vlds o) o (fun _ => .strided)
/-- VLDX. -/
def execVldx (o : VOp) (s : State) : Out := s.localLoad (.vldx o) o (fun s => .indexed (s.v o.vs2.toNat))
/-- VST. -/
def execVst (o : VOp) (s : State) : Out := s.localStore (.vst o) o (fun _ => .unit) false
/-- VSTS. -/
def execVsts (o : VOp) (s : State) : Out := s.localStore (.vsts o) o (fun _ => .strided) false
/-- VSTX. -/
def execVstx (o : VOp) (s : State) : Out := s.localStore (.vstx o) o (fun s => .indexed (s.v o.vs2.toNat)) false
/-- VST.F. -/
def execVstF (o : VOp) (s : State) : Out := s.localStore (.vstF o) o (fun _ => .unit) true

/-- A record deposited by a leave from a state in which the leaving word has had its effect; where it fits nowhere, the mooring
overflow happens in the state before the word (R143). The answer holds the record, or none after an overflow. -/
def State.leaveAfter (s after : State) (r : Record) : State × Option Record :=
  match after.deposit after.here r with
  | none => (s.overflow, none)
  | some (t, r) => (t.detach.vacate, some r)

/-- VLD.C (R371): takes full granules in ascending address, and leaves on the first that is empty. -/
def execVldC (o : VOp) (s : State) : Out :=
  s.vword (.vldC o) (fun s =>
    let is := s.activeFrom s.startAt o.msel
    let es := is.map (s.localElem .unit o.vd.toNat)
    match s.localBad .unit false is with
    | some a => s.faultNow 0x14 a
    | none =>
      match s.spanWait es false with
      | some r => s.hurryRegion s.here r
      | none =>
        let keep := o.vs2.getLsbD 4
        let ls := (o.vs2.extractLsb' 0 4).toNat
        let pieces := byGranule es
        let (t, regs, rest, bad) := s.takeGranules s.here keep s.strand.regs (pieces.length + 1) pieces
        let dirty := t.strand.dirtyV ||| BitVec.ofNat 32 (2 ^ o.vd.toNat)
        match bad, rest with
        | some (k, a), _ => t.faultKeeping 0x40 k a o.vd (regs.vs.toList.getD o.vd.toNat { bits := 0, tag := 0 })
        | none, [] =>
          let t := if es.isEmpty then t else { t with strand := { t.strand with regs := regs, dirtyV := dirty } }
          (t.clearStart).wordDone
        | none, e :: _ =>
          let here := s.here
          let word : ConvoyEntry :=
            { s.strand.cv.entry with
              words := [s.strand.cv.entry.words.getD s.strand.cv.k 0]
              cpc := s.wordPc
              started := true
              caps := [s.capA, s.capB] }
          let t := (t.clearStart).wordDone
          let r := t.leaveRecord ls none [o.vd.toNat] (ceilDiv (s.vl * widthOf s.sew) 8) t.strand.pc
          let before := ((s.active o.msel).filter (fun i => decide (i < s.resumedFrom))).map (s.localElem .unit o.vd.toNat)
          let taken := before ++ pieces.filter (fun p => !rest.contains p)
          let image := taken.foldl (fun q p =>
            q.putElem p (elemOf ((regs.vs.toList.getD o.vd.toNat { bits := 0, tag := 0 }).bits.toNat / 2 ^ (8 * p.at_)) 0 (8 * max 1 p.size)
              / (if p.size = 0 then 2 ^ (4 * (p.index % 2)) else 1))) r.regs
          let key := e.addr / 16
          let r := { r with
            regs := image
            waitLocal := true
            waitAddr := key % 2 ^ 18 * 16
            next := t.core.lastGranule t.fabric.node here key
            convoys := [word]
            on := .granule rest keep }
          match s.leaveAfter t r with
          | (u, some r) => u.modCore here (fun k => { k with granuleWaits := k.granuleWaits ++ [(key, r.dseq)] })
          | (u, none) => u)

/-! VCAPP (R361, R362). -/

/-- VCAPP: one indivisible reservation at the header, then the indices. -/
def execVcapp (o : VOp) (s : State) : Out :=
  s.vec (.vcapp o) (fun s =>
    let a := s.capA.toNat
    let is := s.active o.msel
    let n := is.length
    let k := s.core
    let field (off : Nat) : Nat := mload k.loc (a + off) 4
    if a % 16 ≠ 0 ∨ !k.localOk false a 16 then s.faultNow 0x14 a
    else
      match k.regionWait s.strand.cell a (a + 15) true with
      | some r => s.hurryRegion s.here r
      | none =>
        let cap := field 4
        let base := field 8
        if cap ≠ 0 && !k.localOk false base (4 * cap) then s.faultNow 0x14 base
        else if k.locBad a 16 then s.faultAt 0x40 0 a
        else if field 12 ≠ 0 ∨ cap = 0 ∨ base % 4 ≠ 0 then s.faultNow 0x11 a
        else
          match k.regionWait s.strand.cell base (base + 4 * cap - 1) true with
          | some r => s.hurryRegion s.here r
          | none =>
            let c := field 0
            let refused := decide (cap < c + n)
            let count := if refused then c else c + n
            let s :=
              if refused then s
              else
                s.modHere (fun k =>
                  (is.mapIdx (fun j i => (j, i))).foldl
                    (fun k p => k.locWrite (base + 4 * (c + p.1)) (bytesOf 4 (s.capB.toNat + p.2)))
                    (k.locWrite a (bytesOf 4 count)))
            (s.putX o.vd
              (BitVec.ofNat 64
                (bit (decide (s.vlmax ≤ count)) * 2 ^ 63 + bit refused * 2 ^ 62 + count % 2 ^ 32))).wordDone)

end Sys2Proof.Machine
end

