-- ==== Sys2Proof/Machine/Fabric.lean ====
section
/-!
DEFINITION. How a strand waits for the answer to an answer-waiting word (R379).
-/

namespace Sys2Proof.Machine

open Sys2Proof

/-! Answer-waiting words (R379). -/

/-- Where the answer for a resident strand's word is held until the word takes it. -/
def answerKey (slot : Nat) : Nat := 2 ^ 60 + slot

/-- The answer held for the word in hand. -/
def State.heldAnswer (s : State) : Option Answer := tget s.core.answers (answerKey s.slot)

/-- The held answer taken. -/
def State.takeAnswer (s : State) : State :=
  s.modHere (fun k => { k with answers := tdel k.answers (answerKey s.slot) })

/-- The word's request is on its way; the strand waits for its answer, resident for as long as R132 and R133 allow. -/
def State.await (s : State) (node q : Nat) : State :=
  { s with strand := { s.strand with wait := .packet node q, waits := some (s.time.toNat, false) } }.later .hazardTimeout
    { Input.none with core := s.here, slot := s.slot, addr := s.strand.granted }

/-- A strand that a peer's home answered with a pager future of its own (R42): the answer is taken, it waits there and the word executes again. It
leaves only once no MAMAX of it is on its way (R399). -/
def State.peerPager (s : State) (node pa faddr : Nat) : State :=
  if s.amaxOut then s.stall false
  else
    let core := s.here
    let (es, stop, s) := s.takeAnswer.withdraw
    let t := { TrapBlock.none with cause := 0x10, scalar := true, fpc := s.strand.pc, faddr := BitVec.ofNat 64 faddr, fut := pa }
    let r := s.fullRecord .fault s.strand.pc (t.stoppedAt stop) es
    s.vacate.hangOnPeer core r node pa

/-- An answer-waiting word whose object is homed on a peer: it claims the held answer, or its request goes out (R379). `done`
completes the word with the value. -/
def State.askPeer (s : State) (node op addr : Nat) (data : List Byte) (done : State → Word → State) : State :=
  match s.heldAnswer with
  | some (.value v) => done s.takeAnswer v
  | some (.bytes _ _ bs) => done s.takeAnswer (BitVec.ofNat 64 (valueOf bs))
  | some (.fail cause at_) => if cause = 0x30 then s.takeAnswer.trapFuture 0x30 0 at_ else s.takeAnswer.trapScalar cause addr
  | some (.pager n pa) => s.peerPager n pa addr
  | none =>
    if op ≤ opAtomic ∧ s.peerWrites s.here s.strand.cell node addr 8 then s.stall false
    else
    let (q, s) := s.request node op s.core.asid.toNat addr data (.answer (s.core.ctx.getD 64) s.here)
    s.await node q

end Sys2Proof.Machine
end

