-- ==== Sys2Proof/Machine/GlobalMem.lean ====
section
/-!
DEFINITION. Global loads, stores and scatter-adds (spec 16), and what returns from a home: data into a record, or a fault.
-/

namespace Sys2Proof.Machine

open Sys2Proof

/-! Checks at issue (R174, R366). -/

/-- The first page miss or refusal among elements, in ascending order: its cause, 0x10 for a miss, and the address. -/
def State.checkElems (s : State) (core : Nat) (a : Access) : List LoadElem → State × Option (Nat × Nat)
  | [] => (s, none)
  | e :: r =>
    match s.find core a e.addr e.size with
    | (s, .ok _) => s.checkElems core a r
    | (s, .miss va) => (s, some (0x10, va))
    | (s, .prot c _) => (s, some (c, e.addr))

/-- A scalar-stream word, and the word of the convoy in execution, that its checks stop: a miss waits for the pager, the rest is a trap. -/
def State.stopScalar (s : State) (c va : Nat) : State := if c = 0x10 then s.missScalar va else s.trapScalar c va
def State.stopConvoy (s : State) (c va : Nat) : State := if c = 0x10 then s.missConvoy va else s.faultNow c va

/-- Elements cut at 64 KiB boundaries, so that each lies in one page. -/
def byPage (es : List LoadElem) : List LoadElem :=
  es.flatMap (fun e =>
    let first := min e.size (0x10000 - e.addr % 0x10000)
    if first = e.size then [e]
    else [{ e with size := first }, { e with addr := e.addr + first, size := e.size - first, at_ := e.at_ + first }])

/-! Loads (R372-R375). -/

/-- What names an element among those of a record: its register and byte. -/
def LoadElem.key (e : LoadElem) : Nat := e.vreg * 65536 + e.at_

/-- Destinations of one element of memory, which a permutation can name more than once (R374): one answer serves them all. -/
def LoadElem.same (e x : LoadElem) : Bool := x.index == e.index && x.addr == e.addr && x.vreg == e.vreg

/-- The next element of a record's load goes out, if any is due. -/
def State.nextElem (s : State) (ctx core dseq : Nat) (job : LoadJob) : State :=
  match job.elems with
  | [] => s
  | e :: _ => s.later .globalReadPerform { Input.none with core := core, slot := ctx, n := dseq, queue := e.key }

/-- A load leaves: its record holds what it names, and its elements go out in ascending order; with none it is ready at once. -/
def State.leaveLoad (s after : State) (r : Record) (job : LoadJob) (addr : Nat) : State :=
  let here := s.here
  let ctx := s.core.ctx.getD 64
  let r := { r with dpend := !job.elems.isEmpty, waitAddr := addr, on := .load job, trap := { r.trap with asid := s.core.asid.toNat } }
  match s.leaveAfter after r with
  | (s, none) => s
  | (s, some r) =>
    if job.elems.isEmpty then s.modCore here (·.makeReady r.dseq) else s.nextElem ctx here r.dseq job

/-- LDG.L (R372): a scalar global load. HINT 11 is cause 0x02. -/
def State.loadGlobal (s : State) (o : LOp) (n : Nat) (signed : Bool) : Out :=
  .next
    (if o.hint = 3 then s.trapScalar 0x02 0
    else
      s.afterHeld fun s =>
        let a := (s.x o.rs1 + s.x o.rs2).toNat
        let es := byPage [{ addr := a, size := n, index := 0, vreg := o.rd.toNat, at_ := 0 }]
        match s.checkElems s.here .load [{ addr := a, size := n, index := 0, vreg := o.rd.toNat, at_ := 0 }] with
        | (s, some (c, va)) => s.stopScalar c va
        | (s, none) =>
          let r := s.leaveRecord o.ls.toNat (some o.rd) [] 0 (s.strand.pc + 4)
          let r := { r with regs := { r.regs with xs := if h : o.rd = 0 then r.regs.xs else r.regs.xs.set o.rd.toNat 0 } }
          s.leaveLoad s r { elems := es, scalar := some (o.rd, signed), fpc := s.strand.pc } a)

/-- LDG.L b. -/
def execLdgLB (o : LOp) (s : State) : Out := s.loadGlobal o 1 true
/-- LDG.L h. -/
def execLdgLH (o : LOp) (s : State) : Out := s.loadGlobal o 2 true
/-- LDG.L w. -/
def execLdgLW (o : LOp) (s : State) : Out := s.loadGlobal o 4 true
/-- LDG.L d. -/
def execLdgLD (o : LOp) (s : State) : Out := s.loadGlobal o 8 true
/-- LDG.L bu. -/
def execLdgLBu (o : LOp) (s : State) : Out := s.loadGlobal o 1 false
/-- LDG.L hu. -/
def execLdgLHu (o : LOp) (s : State) : Out := s.loadGlobal o 2 false
/-- LDG.L wu. -/
def execLdgLWu (o : LOp) (s : State) : Out := s.loadGlobal o 4 false

/-- The lowest and highest bytes of a global access by elements. -/
def globalSpan : List LoadElem → Option (Nat × Nat)
  | [] => none
  | e :: r => some (r.foldl (fun p e => (min p.1 e.addr, max p.2 (e.addr + e.size - 1))) (e.addr, e.addr + e.size - 1))

/-- A vector word on global memory after the engine commands of its step that touch the same bytes, where one of the two writes (R189, R197): the
earliest of them is performed first. -/
def State.afterEngines (s : State) (es : List LoadElem) (write : Bool) (f : State → State) : State :=
  match (globalSpan es).bind (fun p => overlapIn s.core.gboard s.strand.cell p.1 p.2 write) with
  | some r => s.hurryRegion s.here r
  | none => f s

/-- A vector global load of elements into registers, which leaves after its convoy's other words have retired (R373). `more`
lists registers added to VMASK so that the word can be issued again, `zero` the elements that receive zero, and `kept` those that a load which failed
further up had already received (R207, R374, R375). -/
def State.loadVector (s : State) (ls : Nat) (dests more : List Nat) (es zero kept : List LoadElem) : State :=
  s.afterEngines es false fun s =>
  match s.checkElems s.here .load es with
  | (s, some (c, va)) => s.stopConvoy c va
  | (s, none) =>
    let word : ConvoyEntry :=
      { s.strand.cv.entry with
        words := [s.strand.cv.entry.words.getD s.strand.cv.k 0]
        cpc := s.wordPc
        started := true
        caps := [s.capA, s.capB] }
    let fpc := s.wordPc
    let bytes := ceilDiv (s.vl * widthOf s.sew) 8
    let t := (s.clearStart).wordDone
    let r := t.leaveRecord ls none dests bytes t.strand.pc
    let vm := more.foldl (fun m n => m ||| BitVec.ofNat 32 (2 ^ n)) r.vmask
    let regs := { r.regs with vs := r.regs.vs.mapIdx (fun i v =>
      if more.contains i ∧ !dests.contains i then t.strand.regs.vs.toList.getD i v else v) }
    let regs := zero.foldl (fun q e => q.putElem e 0) regs
    let regs := kept.foldl (fun q e => q.putElem e ((t.strand.regs.vs.toList.getD e.vreg { bits := 0, tag := 0 }).read / 2 ^ (8 * e.at_) % 2 ^ (8 * e.size))) regs
    s.leaveLoad t { r with regs := regs, vmask := vm, convoys := [word] }
      { elems := byPage es, scalar := none, fpc := fpc } ((es.head?.map (·.addr)).getD 0)

/-- An element of a global access, into a register. -/
def State.globalElem (s : State) (mode : AMode) (vreg i : Nat) : LoadElem :=
  { addr := s.elemAddr mode i, size := widthOf s.sew / 8, index := i, vreg := vreg, at_ := i * widthOf s.sew / 8 }

/-- The active elements that a resumed load has already received. -/
def State.received (s : State) : List Nat := (s.active s.lmsel).filter (fun i => decide (i < s.resumedFrom))

/-- VLDG.L (R373). -/
def execVldgL (o : LOp) (s : State) : Out :=
  s.vword (.vldgL o) (fun s =>
    let el := s.globalElem .strided o.rd.toNat
    s.loadVector o.ls.toNat [o.rd.toNat] [] ((s.activeFrom s.startAt s.lmsel).map el) [] (s.received.map el))

/-- VLDGX.L (R373). -/
def execVldgxL (o : LOp) (s : State) : Out :=
  s.vword (.vldgxL o) (fun s =>
    let el := s.globalElem (.indexed (s.v o.rs2.toNat)) o.rd.toNat
    s.loadVector o.ls.toNat [o.rd.toNat] [o.rs2.toNat] ((s.activeFrom s.startAt s.lmsel).map el) [] (s.received.map el))

/-- VLDSEG.L (R374): NF fields per record, with or without a permutation; every active record is read once, in ascending order, whoever takes it
(R373). -/
def execVldsegL (o : LOp) (s : State) : Out :=
  s.vword (.vldsegL o) (fun s =>
    let d := s.capB.toNat
    let nf := bitsN d 3 0
    let perm := bitsN d 8 8 = 1
    let pv := bitsN d 13 9
    let w := widthOf s.sew
    let stride := if bitsN d 47 16 = 0 then nf * w / 8 else bitsN d 47 16
    let act := s.active s.lmsel
    let idx := s.v pv
    let el (i x f : Nat) : LoadElem :=
      { addr := (s.capA.toNat + x * stride + f * w / 8) % 2 ^ 64, size := w / 8, index := x, vreg := o.rd.toNat + f, at_ := i * w / 8 }
    let fields := List.range nf
    let dests := fields.map (o.rd.toNat + ·)
    if perm then
      let src (i : Nat) : Nat := elemOf idx i w
      let ok (i : Nat) : Bool := decide (src i < s.vl) && act.contains (src i)
      let takers (x : Nat) : List Nat := (List.range s.vl).filter (fun i => src i == x)
      let spare (x f : Nat) : LoadElem := { el 0 x f with at_ := 8192 + x * w / 8 }
      let es := (act.filter (fun x => decide (s.startAt ≤ x))).flatMap (fun x =>
        if (takers x).isEmpty then fields.map (spare x) else (takers x).flatMap (fun i => fields.map (el i x)))
      let zs := ((List.range s.vl).filter (fun i => !ok i)).flatMap (fun i => fields.map (el i 0))
      s.loadVector o.ls.toNat dests [pv] es zs (s.received.flatMap (fun x => (takers x).flatMap (fun i => fields.map (el i x))))
    else
      s.loadVector o.ls.toNat dests [] ((act.filter (fun i => decide (s.startAt ≤ i))).flatMap (fun i => fields.map (el i i))) []
        (s.received.flatMap (fun i => fields.map (el i i))))

/-- GLOBAL_READ_PERFORM (R433): the element of a record's load that the operands name is read at its home, and its data
returns; a peer-homed element's read goes out as a packet. Operands: core, slot (the context), n (DSEQ), queue (the element). -/
def execGlobalReadPerform (s : State) : Out :=
  let i := s.inp
  .next
    (match (s.ctxCore i.slot i.core).record i.n with
    | none => s
    | some r =>
      match r.on with
      | .load job =>
        match job.elems.find? (fun e => e.key == i.queue) with
        | none => s
        | some e =>
          let back (s : State) (ok : Bool) (v cause : Nat) : State :=
            s.soon .loadDataReturn { i with bytes := bytesOf e.size v, ok := ok, addr := cause }
          match s.findAs i.core r.trap.asid .load e.addr e.size with
          | (s, .ok [p]) =>
            match p with
            | .peer node va n =>
              if s.fabric.out.any (fun q => q.purpose == .load i.slot i.core i.n i.queue) then s
              else if s.peerWrites i.core r.cell node va n then s.later .globalReadPerform i
              else (s.request node opRead r.trap.asid va (bytesOf 8 n) (.load i.slot i.core i.n i.queue)).2
            | .here _ _ _ _ _ =>
              let s := s.noteRead i.core p
              match s.readBy i.core p with
              | .ok v => back s true v 0
              | .error c => back s false 0 c
            | .host _ _ _ =>
              match s.readPiece p with
              | .ok v => back s true v 0
              | .error c => back s false 0 c
          | (s, .prot c _) => back s false 0 c
          | (s, _) => back s false 0 0x11
      | _ => s)

/-- A load's record once all its data is in: the scalar extended, the record ready (R139). -/
def loadDone (job : LoadJob) (size : Nat) (r : Record) : Record :=
  let regs := match job.scalar with
    | some (rd, true) =>
      let old := r.regs.xs[rd.toNat]
      { r.regs with xs := if rd = 0 then r.regs.xs else r.regs.xs.set rd.toNat (sextN (8 * size) old.toNat) }
    | _ => r.regs
  { r with regs := regs, dpend := false, convoys := [] }

/-- An element's data put into the image. -/
def putData (job : LoadJob) (e : LoadElem) (v : Nat) (r : Record) : Record :=
  match job.scalar with
  | some (rd, _) =>
    { r with regs := { r.regs with
      xs := if rd = 0 then r.regs.xs
        else r.regs.xs.set rd.toNat (BitVec.ofNat 64 (setField (r.regs.xs[rd.toNat]).toNat (8 * e.at_) (8 * e.size) v)) } }
  | none => { r with regs := r.regs.putElem e v }

/-- How far a piece lies from the start of the element that a page boundary cut it from. -/
def Record.offsetOf (r : Record) (job : LoadJob) (e : LoadElem) : Nat :=
  if job.scalar.isSome then e.at_ else e.at_ % (widthOf (vtSew (r.convoys.headD ConvoyEntry.empty).vtype) / 8)

/-- The FAULT record that a load's record of a core becomes when the answer for an element is a fault (R260, R375). -/
def loadFault (s : State) (c : Core) (job : LoadJob) (e : LoadElem) (cause : Nat) (r : Record) : Record :=
  { r with
    kind := .fault
    lsidx := 0
    dpend := false
    pc := if job.scalar.isSome then job.fpc else r.pc
    convoys := if job.scalar.isSome then [] else r.convoys
    trap :=
      { r.trap with
        cause := cause
        scalar := job.scalar.isSome
        estart := e.index
        fpc := job.fpc
        faddr := BitVec.ofNat 64 (e.addr - r.offsetOf job e)
        lgc := if job.scalar.isSome then [] else r.counters c e.index
        rescyc := (c.step r.cell).rescyc
        when_ := s.time.toNat } }

/-- LOAD_DATA_RETURN (R139, R375): a returning element is written into the record's image; the last one makes the record
ready; a fault converts it. Operands: core, slot (the context), n (DSEQ), queue (the element), bytes, ok, addr (the
cause). -/
def execLoadDataReturn (s : State) : Out :=
  let i := s.inp
  .next
    (match (s.ctxCore i.slot i.core).record i.n with
    | none => s
    | some r =>
      match r.on with
      | .load job =>
        match job.elems.find? (fun e => e.key == i.queue) with
        | none => s
        | some e =>
          if i.ok then
            let mine := job.elems.filter (e.same ·)
            let rest := { job with elems := job.elems.filter (!e.same ·) }
            let r := mine.foldl (fun r x => putData job x (valueOf i.bytes) r) r
            let total := e.at_ + e.size
            let r := if rest.elems.isEmpty then loadDone job total { r with on := .load rest } else { r with on := .load rest }
            let s := s.modCtxCore i.slot i.core (fun k => k.modRecord i.n (fun _ => r))
            if rest.elems.isEmpty then s.modCtxCore i.slot i.core (·.makeReady i.n) else s.nextElem i.slot i.core i.n rest
          else
            s.recordFaults i.slot i.core r (loadFault s (s.ctxCore i.slot i.core) job e i.addr r)
      | _ => s)

/-! Stores (R376-R378). -/

/-- One store of `n` bytes at `va` by the strand in hand, already checked: performed at a home of this module, which may refuse it; accepted for
sending to an adapter, whose failure is a notice, or to a peer (R378). -/
def State.storeAt (s : State) (pc : Word) (va : Nat) (bs : List Byte) : Except Nat State :=
  match s.find s.here .store va bs.length with
  | (s, .ok ps) =>
    let go (acc : Except Nat (State × List Byte)) (p : Piece) : Except Nat (State × List Byte) :=
      match acc with
      | .error c => .error c
      | .ok (s, rest) =>
        match p with
        | .peer node a n =>
          .ok ((s.request node opWrite s.core.asid.toNat a (rest.take n) (.write s.here s.strand.cell pc)).2, rest.drop n)
        | .host _ _ _ =>
          match s.writePiece (rest.take p.size) p with
          | .ok s => .ok (s, rest.drop p.size)
          | .error c => .ok (s.notice s.here s.strand.cell c pc va 0, rest.drop p.size)
        | .here _ _ _ _ _ =>
          match s.writePiece (rest.take p.size) p with
          | .ok s => .ok (s, rest.drop p.size)
          | .error c => .error c
    match ps.foldl go (.ok (s, bs)) with
    | .ok (s, _) => .ok s
    | .error c => .error c
  | (_, _) => .error 0x11

/-- STG (R376, R378): refused before it retires, it is a scalar-stream fault. -/
def State.storeGlobal (s : State) (rs2 rs1 : BitVec 5) (imm : BitVec 12) (n : Nat) : Out :=
  .next
    (s.afterHeld fun s =>
      let a := (s.x rs1 + sext12 imm).toNat
      match s.find s.here .store a n with
      | (s, .miss va) => s.missScalar va
      | (s, .prot c _) => s.trapScalar c a
      | (s, .ok ps) =>
        if s.meetsWrites ps then s.stall false
        else
        match s.storeAt s.strand.pc a (bytesOf n (s.x rs2).toNat) with
        | .ok s => s.next
        | .error c => s.trapScalar c a)

/-- STG b. -/
def execStgB (rs2 rs1 : BitVec 5) (imm : BitVec 12) (s : State) : Out := s.storeGlobal rs2 rs1 imm 1
/-- STG h. -/
def execStgH (rs2 rs1 : BitVec 5) (imm : BitVec 12) (s : State) : Out := s.storeGlobal rs2 rs1 imm 2
/-- STG w. -/
def execStgW (rs2 rs1 : BitVec 5) (imm : BitVec 12) (s : State) : Out := s.storeGlobal rs2 rs1 imm 4
/-- STG d. -/
def execStgD (rs2 rs1 : BitVec 5) (imm : BitVec 12) (s : State) : Out := s.storeGlobal rs2 rs1 imm 8

/-- Whether an element meets a write of the strand's step that is still on its way to another node (R189). -/
def State.elemMeets (s : State) (a : Access) (e : LoadElem) : Bool :=
  match (s.find s.here a e.addr e.size).2 with
  | .ok ps => s.meetsWrites ps
  | _ => false

/-- Elements performed in ascending order; the first refusal is a fault at that element (R207), and those before it stand. An element waits for an
earlier write of its own bytes that is on its way, and in deterministic mode for every one (R189, R211); the word then goes on with it. -/
def State.eachStore (s : State) (a : Access) (f : State → LoadElem → Except Nat State) : List LoadElem → State
  | [] => (s.clearStart).wordDone
  | e :: r =>
    if s.elemMeets a e then (s.holdAt e.index).stall false
    else
      match f s e with
      | .ok t =>
        match r with
        | [] => (t.clearStart).wordDone
        | x :: _ =>
          if s.core.detm && decide (s.fabric.out.length < t.fabric.out.length) then (t.holdAt x.index).stall false
          else t.eachStore a f r
      | .error c => s.faultAt c e.index e.addr

/-- VSTG (R377). -/
def execVstg (o : LOp) (s : State) : Out :=
  s.vword (.vstg o) (fun s =>
    let es := (s.activeFrom s.startAt s.lmsel).map (s.globalElem .strided o.rd.toNat)
    s.afterEngines es true fun s =>
    match s.checkElems s.here .store es with
    | (s, some (c, va)) => s.stopConvoy c va
    | (s, none) =>
      let data := s.v o.rd.toNat
      let w := widthOf s.sew
      let pc := s.wordPc
      s.eachStore .store (fun s e => s.storeAt pc e.addr (bytesOf (w / 8) (elemOf data e.index w))) es)

/-- A read-modify-write of `n` bytes at a physical address, indivisible at its home (R188): the old value. -/
def State.atomicPhys (s : State) (pa n : Nat) (f : Nat → Nat) : Except Nat (Nat × State) :=
  match s.readPhys pa n with
  | .error c => .error c
  | .ok old =>
    let s := s.countRead pa n
    match s.writePhys pa (bytesOf n (f old)) with
    | .error c => .error c
    | .ok s => .ok (old, s)

/-- A sum at a home in a format code (R209, R377): integers wrap, floating point rounds to nearest-even with no flag. -/
def homeAdd (code a b : Nat) : Nat :=
  if isInt code then (a + b) % 2 ^ widthOf code else addNE (fmt! code) a b

/-- The AOP of an add in a format code (R289). -/
def addAop (code : Nat) : Nat :=
  if code = 2 then 0x02 else if code = 3 then 0x03 else if code = 0x0B then 0x16 else if code = 0x0C then 0x17 else 0x18

/-- VSCATADD (R377): reduction packets, each one add at its word's home. -/
def execVscatadd (o : LOp) (s : State) : Out :=
  s.vword (.vscatadd o) (fun s =>
    let w := widthOf s.sew
    let es := (s.activeFrom s.startAt s.lmsel).map (s.globalElem (.indexed (s.v o.rs2.toNat)) o.rd.toNat)
    match es.find? (fun e => decide (e.addr % (w / 8) ≠ 0)) with
    | some e => s.faultNow 0x11 e.addr
    | none =>
      s.afterEngines es true fun s =>
      match s.checkElems s.here .reduce es with
      | (s, some (c, va)) => s.stopConvoy c va
      | (s, none) =>
        let data := s.v o.rd.toNat
        let code := s.sew
        let pc := s.wordPc
        s.eachStore .reduce (fun s e =>
          let x := elemOf data e.index w
          match s.find s.here .reduce e.addr (w / 8) with
          | (s, .ok [.here pa n _ _ _]) =>
            match s.atomicPhys pa n (fun old => homeAdd code old x) with
            | .ok (_, s) => .ok s
            | .error c => .error c
          | (s, .ok [.peer node va n]) =>
            .ok (s.request node opAtomic s.core.asid.toNat va (bytesOf 8 (pktReduce + addAop code) ++ bytesOf n x)
              (.write s.here s.strand.cell pc)).2
          | (_, _) => .error 0x11) es)

/-! Writes that perform later (R203, R378). -/

/-- GLOBAL_WRITE_PERFORM (R203): the oldest write waiting at a home of this module is checked and performed; a refusal is a notice
for the step that issued it (R264). -/
def execGlobalWritePerform (s : State) : Out :=
  .next
    (match s.homeOps with
    | [] => s
    | op :: rest =>
      let s := { s with homeOps := rest }
      match op with
      | .write pa va cls unit bs core cell pc =>
        let r := if cls = 1 then s.unitWrite unit pa bs else s.writePhys pa bs
        match r with
        | .ok s => s
        | .error c => s.notice core cell c pc va 0
      | .resolve pa v core cell pc =>
        s.resolveLoc pa (some v) core cell pc
      | .fault pa => (s.futResolve pa none).1)

end Sys2Proof.Machine
end

