-- ==== Sys2Proof/Machine/Sync.lean ====
section
/-!
DEFINITION. Acquire, release, fences, bindings, futures and barriers (spec 06, 08, 16).
-/

namespace Sys2Proof.Machine

open Sys2Proof

/-- An atomic widths code: 1, 2, 4 or 8 bytes (R382 WID). -/
def widBytes (wid : BitVec 2) : Nat := 2 ^ wid.toNat

/-- A piece of an ordinary or host-class page (R382). -/
def ordinaryOrHost (p : Piece) : Bool :=
  match p with
  | .here _ _ cls _ _ => decide (cls = 0)
  | _ => true

/-! Acquire and release (R382). -/

/-- A global word as an acquire's read: misses and refusals first, a peer's answer awaited. -/
def State.acquireGlobal (s : State) (rd : BitVec 5) (a n : Nat) : State :=
  if a % n ≠ 0 then s.trapScalar 0x11 a
  else
    match s.find s.here .load a n with
    | (s, .miss va) => s.missScalar va
    | (s, .prot c _) => s.trapScalar c a
    | (s, .ok ps) =>
      match ps with
      | [p] =>
        if !ordinaryOrHost p then s.trapScalar 0x11 a
        else
          match p with
          | .peer node va _ => s.askPeer node opRead va (bytesOf 8 (pktAcquire + n)) (fun s v => s.result rd (sextN (8 * n) v.toNat))
          | _ =>
            match s.readPiece p with
            | .ok v => (s.countPiece p).result rd (sextN (8 * n) v)
            | .error c => (s.countPiece p).trapScalar c a
      | _ => s.trapScalar 0x11 a

/-- LD.ACQ (R382). A scope code above 5 is cause 0x01 (R185). -/
def execLdAcq (rd rs1 : BitVec 5) (wid : BitVec 2) (loc : Bool) (scope : BitVec 3) (s : State) : Out :=
  let n := widBytes wid
  .next
    (if !scopeOk scope then s.trapScalar 0x01 0
    else
      s.afterHeld fun s =>
        let a := (s.x rs1).toNat
        if loc then
          if a % n ≠ 0 then s.trapScalar 0x11 a
          else if !s.core.localOk false a n then s.trapScalar 0x14 a
          else if s.core.locBad a n then s.trapScalar 0x40 a
          else s.result rd (sextN (8 * n) (mload s.core.loc a n))
        else s.acquireGlobal rd a n)

/-- The write of ST.REL is held, in its sequencer, until every earlier access has performed (R382); a ninth waits. -/
def State.hold (s : State) (loc : Bool) (a n v : Nat) : State :=
  let b := slotIsB s.slot
  if 8 ≤ (s.core.heldRels.filter (fun h => h.seqB == b)).length then
    s.hurry .heldReleaseWrite (fun i => i.core == s.here) { Input.none with core := s.here }
  else
    let h : HeldRel :=
      { seqB := b, cell := s.strand.cell, pc := s.strand.pc, loc := loc, addr := a, size := n, value := v % 2 ^ (8 * n) }
    ((s.modHere (fun k => { k with heldRels := k.heldRels ++ [h] })).later .heldReleaseWrite
      { Input.none with core := s.here }).next

/-- ST.REL (R382). -/
def execStRel (rs2 rs1 : BitVec 5) (wid : BitVec 2) (loc : Bool) (scope : BitVec 3) (s : State) : Out :=
  let n := widBytes wid
  .next
    (if !scopeOk scope then s.trapScalar 0x01 0
    else
      let a := (s.x rs1).toNat
      let v := (s.x rs2).toNat
      if a % n ≠ 0 then s.trapScalar 0x11 a
      else if loc then (if !s.core.localOk false a n then s.trapScalar 0x14 a else s.hold true a n v)
      else
        match s.find s.here .store a n with
        | (s, .miss va) => s.missScalar va
        | (s, .prot c _) => s.trapScalar c a
        | (s, .ok ps) => if ps.all ordinaryOrHost then s.hold false a n v else s.trapScalar 0x11 a)

/-- HELD_RELEASE_WRITE (R382): the oldest held write of a core is sent once every earlier access of its step has performed; a
refusal is a notice. Operand: core. -/
def execHeldReleaseWrite (s : State) : Out :=
  let core := s.inp.core
  .next
    (match (s.getCore core).heldRels with
    | [] => s
    | h :: rest =>
      if s.outstanding core h.cell then
        (s.hurryStep core h.cell).later .heldReleaseWrite { Input.none with core := core }
      else
        let s := s.modCore core (fun k => { k with heldRels := rest })
        if h.loc then s.modCore core (·.locWrite h.addr (bytesOf h.size h.value))
        else
          match s.find core .store h.addr h.size with
          | (s, .ok [p]) =>
            match p with
            | .peer node va n =>
              (s.request node opAtomic (s.getCore core).asid.toNat va (bytesOf 8 pktRelease ++ bytesOf 8 n ++ bytesOf 8 h.value)
                (.write core h.cell h.pc)).2
            | .here pa n cls unit _ =>
              { s with homeOps := .write pa h.addr cls unit (bytesOf n h.value) core h.cell h.pc :: s.homeOps }.soon
                .globalWritePerform Input.none
            | .host _ _ n =>
              match s.writePiece (bytesOf n h.value) p with
              | .ok s => s
              | .error c => s.notice core h.cell c h.pc h.addr 0
          | (s, .prot c va) => s.notice core h.cell c h.pc va 0
          | (s, _) => s.notice core h.cell 0x11 h.pc h.addr 0)

/-! Fences (R383, R190). -/

/-- FENCE, FENCE.SV and FENCE.VS share a constructor per row; this is FENCE (R383): KIND 00 is cause 0x01, as is a scope above
5. -/
def execFence (kind : BitVec 2) (scope : BitVec 3) (s : State) : Out :=
  .next
    (if kind = 0 ∨ !scopeOk scope then s.trapScalar 0x01 0
    else s.afterAll (fun s => s.next))

/-- FENCE.SV (R190): scalar-stream accesses before it perform before vector-stream accesses after it. -/
def execFenceSv (s : State) : Out :=
  .next
    (s.afterStores (fun s => s.next))

/-- FENCE.VS (R190): vector-stream accesses queued before it perform before scalar-stream accesses after it. -/
def execFenceVs (s : State) : Out :=
  .next (if s.outstanding s.here s.strand.cell then s.hurryStep s.here s.strand.cell else s.next)

/-! Bindings (R193, R384). -/

/-- The region, rounded outward to 64 bytes, and the bollard that a BIND or UNBIND names. -/
def bindOf (sa sl sb : Word) : Bind where
  base := sa.toNat / 64 * 64
  len := roundUp (sa.toNat + sl.toNat) 64 - sa.toNat / 64 * 64
  loc := sb.getLsbD 63
  bollard := if sb.getLsbD 63 then bitsN sb.toNat 21 0 else sb.toNat

/-- A bind or unbind with a legal length and bollard: an 8-byte-aligned word of an ordinary page, or of local memory below the
mooring area; else cause 0x11. A length of 0 changes nothing. A table that came back damaged is cause 0x40 (R269). -/
def State.binding (s : State) (rd rs1 rs2 : BitVec 5) (f : Core → Bind → Core) : State :=
  let sl := s.x rd
  let sb := s.x rs2
  let b := bindOf (s.x rs1) sl sb
  if sl = 0 then s.next
  else if 2 ^ 32 < sl.toNat ∨ b.bollard % 8 ≠ 0 then s.trapScalar 0x11 b.bollard
  else if s.core.bindBad then s.trapScalar 0x40 b.bollard
  else if b.loc then
    (if !s.core.localOk false b.bollard 8 then s.trapScalar 0x11 b.bollard else (s.modHere (fun k => f k b)).next)
  else
    match s.find s.here .object b.bollard 8 with
    | (s, .miss va) => s.missScalar va
    | (s, .prot c _) => s.trapScalar c b.bollard
    | (s, .ok _) => (s.modHere (fun k => f k b)).next

/-- BIND (R193). -/
def execBind (rd rs1 rs2 : BitVec 5) (s : State) : Out :=
  .next
    (s.binding rd rs1 rs2 (fun k b =>
      if k.binds.contains b then k
      else if 32 ≤ k.binds.length then { k with bindOver := true }
      else { k with binds := k.binds ++ [b] }))

/-- UNBIND (R193): the overflow state clears when the table is empty. -/
def execUnbind (rd rs1 rs2 : BitVec 5) (s : State) : Out :=
  .next
    (s.binding rd rs1 rs2 (fun k b =>
      let bs := k.binds.filter (fun c => c != b)
      { k with binds := bs, bindOver := if bs.isEmpty then false else k.bindOver }))

/-! Futures (R147-R149, R385, R386). -/

/-- The place of a future that a word names: 16-byte aligned, in an ordinary page (R147). -/
def State.futPlace (s : State) (a : Nat) (miss : State → Nat → State) (bad : State → Nat → State) (f : State → Nat → State) : State :=
  if a % 16 ≠ 0 then bad s 0x11
  else
    match s.find s.here .object a 16 with
    | (s, .miss va) => miss s va
    | (s, .prot c _) => bad s c
    | (s, .ok ps) =>
      match ps with
      | [.here pa _ _ _ _] => f s pa
      | [.peer node va _] => f s ((node + 1) * 2 ^ 60 + va)
      | _ => bad s 0x11

/-- WAITF.L (R385): its record's blocks are taken and it registers at the future's home; the strand stays resident until the answer
(R133, R431). -/
def execWaitfL (o : LOp) (s : State) : Out :=
  .next
    (if o.hint = 3 then s.trapScalar 0x02 0
    else
      s.afterHeld fun s =>
        let a := (s.x o.rs1).toNat
        s.futPlace a (fun s va => s.missScalar va) (fun s c => s.trapScalar c a) (fun s loc =>
          let r := s.leaveRecord o.ls.toNat (some o.rd) [] 0 (s.strand.pc + 4)
          match s.depositAs s.here { r with on := .future a o.rd s.strand.pc, waitAddr := a } (provisional s.slot) with
          | none => s.overflow
          | some (s, r) =>
            let ctx := s.core.ctx.getD 64
            let ref := r.ref s.fabric.node s.here
            let s := { s with strand := { s.strand with wait := .registration s.fabric.node r.dseq } }
            match futPeer loc with
            | none => s.soon .futureRegistration { Input.none with core := s.here, slot := ctx, n := r.dseq, addr := loc }
            | some (node, va) =>
              let s := { s with strand := { s.strand with waits := some (s.time.toNat, false) } }
              ((s.request node opAtomic s.core.asid.toNat va (bytesOf 8 pktRegister ++ bytesOf 8 ref)
                (.register ctx s.here r.dseq)).2).later .registrationTimeout { Input.none with core := s.here, n := r.dseq }))

/-- FUTURE_REGISTRATION (R148): a record of this module registers at a future of this module, and the answer returns. Operands:
core, slot (the context), n (DSEQ), addr (the future's physical address). -/
def execFutureRegistration (s : State) : Out :=
  let i := s.inp
  .next
    (match (s.ctxCore i.slot i.core).record i.n with
    | none => s
    | some r =>
      let w := s.peek i.addr 8
      let t := s.countRead i.addr 16
      if s.bad i.addr 16 then t.soon .registrationAnswer { i with ok := false, queue := 0x40 }
      else if futSt w = 2 then
        t.soon .registrationAnswer { i with ok := false, queue := 0, data := BitVec.ofNat 64 (s.peek (i.addr + 8) 8) }
      else if futSt w = 3 then t.soon .registrationAnswer { i with ok := false, queue := 0x11 }
      else
        let (old, s) := s.futRegister i.addr (r.ref s.fabric.node i.core) 0
        (s.modCtxCore i.slot i.core (fun k => k.modRecord i.n (fun r => { r with next := old }))).soon .registrationAnswer
          { i with ok := true })

/-- A value put into a record's image as its scalar destination. -/
def Record.setImage (r : Record) (rd : BitVec 5) (v : Word) : Record :=
  { r with regs := { r.regs with xs := if rd = 0 then r.regs.xs else r.regs.xs.set rd.toNat v } }

/-- The FAULT record that a record waiting on a future becomes (R385): SCALAR 1, header PC and FPC at the WAITF.L, FADDR the
future's address. -/
def futureFault (s : State) (c : Core) (cause va : Nat) (fpc : Word) (r : Record) : Record :=
  { r with
    kind := .fault
    lsidx := 0
    regp := false
    pc := fpc
    trap :=
      { r.trap with
        cause := cause
        scalar := true
        fpc := fpc
        faddr := BitVec.ofNat 64 va
        rescyc := (c.step r.cell).rescyc
        when_ := s.time.toNat } }

/-- The slot of a core whose strand waits for a registration's answer. -/
def Core.waitingSlot (k : Core) (w : AnswerWait) : Option Nat := (k.slots.find? (fun p => p.2.wait == w)).map (·.1)

/-- REGISTRATION_ANSWER (R133): "registered" makes the strand leave with its record; "already resolved" completes the word without
a leave; a faulted or unreachable future is a trap. A strand that had left with REGP set has the same done to its record, and so has the
record of a strand that waits for another module's pager future (R42). Operands: core, slot (the context), n (DSEQ), ok ("registered"), data
(the value), queue (a cause, or 0). -/
def execRegistrationAnswer (s : State) : Out :=
  let i := s.inp
  .next
    (match (s.ctxCore i.slot i.core).record i.n with
    | none => s
    | some r =>
      match r.on with
      | .future va rd fpc =>
        let s := s.park
        match (s.getCore i.core).waitingSlot (.registration s.fabric.node i.n) with
        | some sl =>
          let s := s.focus i.core sl
          let s := { s with strand := { s.strand with wait := .none } }
          if i.ok then (s.firm i.core i.n).detach.vacate
          else
            let s := s.dropRecord i.core r
            if i.queue ≠ 0 then s.trapScalar i.queue va else s.result rd i.data
        | none =>
          if i.ok then s.modCtxCore i.slot i.core (fun k => k.modRecord i.n (fun r => { r with regp := false }))
          else if i.queue ≠ 0 then s.recordFaults i.slot i.core r (futureFault s (s.ctxCore i.slot i.core) i.queue va fpc r)
          else
            s.modCtxCore i.slot i.core (fun k => (k.modRecord i.n (fun r => { r with regp := false }.setImage rd i.data)).makeReady i.n)
      | .peerPager _ _ =>
        let s := s.park
        if i.ok then s.modCtxCore i.slot i.core (fun k => k.modRecord i.n (fun r => { r with regp := false }))
        else if i.queue ≠ 0 then
          s.recordFaults i.slot i.core r { r with regp := false, trap := { r.trap with cause := i.queue, fut := 0, when_ := s.time.toNat } }
        else s.modCtxCore i.slot i.core (fun k => (k.modRecord i.n (fun r => { r with regp := false })).makeReady i.n)
      | _ => s)

/-- REGISTRATION_TIMEOUT (R133): with no answer after 512 cycles the strand leaves with REGP set; before that it comes again. Operands: core,
n (the record's number). -/
def execRegistrationTimeout (s : State) : Out :=
  let i := s.inp
  .next
    (let s := s.park
    match (s.getCore i.core).waitingSlot (.registration s.fabric.node i.n) with
    | none => s
    | some sl =>
      let s := s.focus i.core sl
      if !s.strand.waited s.time.toNat then s.later .registrationTimeout i
      else
      let s := { s with strand := { s.strand with wait := .none } }
      ((s.modHere (fun k => k.modRecord i.n (fun r => { r with regp := true }))).firm i.core i.n).detach.vacate)

/-- WAITER_READY (R148, R431): a relaunch notice makes a waiting record ready with its value; of a faulted future it becomes a FAULT
record of cause 0x11; a pager future's waiter runs its instruction again (R176). Operands: core, slot (the context), n (DSEQ), data, ok. -/
def execWaiterReady (s : State) : Out :=
  let i := s.inp
  .next
    (match (s.ctxCore i.slot i.core).record i.n with
    | none => s
    | some r =>
      match r.on with
      | .future va rd fpc =>
        if i.ok then
          s.modCtxCore i.slot i.core (fun k => (k.modRecord i.n (fun r => { r with next := 0, regp := false }.setImage rd i.data)).makeReady i.n)
        else s.recordFaults i.slot i.core r (futureFault s (s.ctxCore i.slot i.core) 0x11 va fpc r)
      | .pager _ | .peerPager _ _ =>
        if i.ok then s.modCtxCore i.slot i.core (fun k => (k.modRecord i.n (fun r => { r with next := 0, regp := false })).makeReady i.n)
        else s.recordFaults i.slot i.core r { r with regp := false, trap := { r.trap with cause := 0x11, fut := 0, when_ := s.time.toNat } }
      | _ => s)

/-- FUTURE_RESOLUTION (R148): a resolve, or with ok false a faulting resolve, performed at its home for the step that named the
future; one already resolved is a notice of cause 0x30. Operands: core, slot (the descriptor cell), addr (where the future
lies), data (the value), ok, n (the issuing word's address). -/
def execFutureResolution (s : State) : Out :=
  let i := s.inp
  .next (s.resolveLoc i.addr (if i.ok then some i.data else none) i.core i.slot (BitVec.ofNat 64 i.n))

/-- FRES (R386): an answer-waiting resolve; a future already resolved or faulted is cause 0x30 with FUT its address. -/
def execFres (rs1 rs2 : BitVec 5) (s : State) : Out :=
  .next
    (s.afterStores fun s =>
      let a := (s.x rs1).toNat
      s.futPlace a (fun s va => s.missScalar va) (fun s c => s.trapScalar c a) (fun s loc =>
        match futPeer loc with
        | none =>
          if s.bad loc 16 then (s.countRead loc 16).trapScalar 0x40 a
          else
            match s.futResolve loc (some (s.x rs2)) with
            | (s, true) => s.next
            | (s, false) => s.trapFuture 0x30 0 loc
        | some (node, va) =>
          s.askPeer node opAtomic va (bytesOf 8 pktResolve ++ bytesOf 8 (s.x rs2).toNat ++ bytesOf 8 0) (fun s _ => s.next)))

/-! Barriers (R150, R151, R387-R389). -/

/-- A barrier's fields. -/
def Core.barSt (k : Core) (a : Nat) : Nat := bitsN (mload k.loc (a + 24) 8) 63 62
def Core.barErr (k : Core) (a : Nat) : Nat := mload k.loc (a + 16) 8

/-- Whether a barrier may lie at a local address: 32-byte aligned and below the mooring area (R150). -/
def Core.barOk (k : Core) (a : Nat) : Bool := decide (a % 32 = 0) && k.localOk false a 32

/-- The waiters of an object of a core's local memory, oldest first, from the list's head. -/
def Core.localWaiters (k : Core) (p : Record → Bool) : Nat → Nat → List Record
  | 0, _ => []
  | fuel + 1, ref =>
    if ref = 0 then []
    else
      match k.records.find? (fun r => r.block == bitsN ref 23 0 && r.spilled == (bitsN ref 47 46 == 2) && p r) with
      | some r => k.localWaiters p fuel r.next ++ [r]
      | none => []

def WaitOn.isBarrier (a : Nat) : WaitOn → Bool
  | .barrier b _ => decide (a = b)
  | _ => false

/-- A barrier complete when it is open, ARRIVE equals EXPECT and PEND is zero (R151): ST 10, or 11 with undelivered bytes; its
waiters are made ready in registration order with their status. -/
def Core.barCheck (k : Core) (a : Nat) : Core :=
  if k.barSt a < 2 ∧ mload k.loc a 4 = mload k.loc (a + 4) 4 ∧ mload k.loc (a + 8) 7 = 0 then
    let st := if k.barErr a = 0 then 2 else 3
    let ws := k.localWaiters (fun r => r.on.isBarrier a) (k.records.length + 1) (bitsN (mload k.loc (a + 24) 8) 47 0)
    let k := k.locWrite (a + 24) (bytesOf 8 (st * 2 ^ 62))
    ws.foldl (fun k r =>
      (k.modRecord r.dseq (fun r => match r.on with
        | .barrier _ rd => { r with next := 0 }.setImage rd (BitVec.ofNat 64 st)
        | _ => r)).makeReady r.dseq) k
  else k

/-- A credit (R387) with undelivered bytes added to ERRB, then R151. -/
def Core.barCredit (k : Core) (a : Nat) (credit : Word) (err : Nat) : Core :=
  let c := credit.toNat
  let pend := (mload k.loc (a + 8) 7 + 2 ^ 56 - c % 2 ^ 56) % 2 ^ 56
  let arrive := (mload k.loc (a + 4) 4 + c / 2 ^ 63) % 2 ^ 32
  let k := k.locWrite (a + 4) (bytesOf 4 arrive ++ bytesOf 7 pend)
  (k.locWrite (a + 16) (bytesOf 8 (k.barErr a + err))).barCheck a

/-- A word on a barrier: misaligned 0x11, out of range 0x14, poisoned 0x40. -/
def State.onBarrier (s : State) (rs1 : BitVec 5) (f : State → Nat → State) : State :=
  s.afterHeld fun s =>
    let a := (s.x rs1).toNat
    if a % 32 ≠ 0 then s.trapScalar 0x11 a
    else if !s.core.localOk false a 32 then s.trapScalar 0x14 a
    else if s.core.locBad a 32 then s.trapScalar 0x40 a
    else f s a

/-- BARINIT (R388). -/
def execBarinit (rs1 rs2 : BitVec 5) (s : State) : Out :=
  .next
    (s.onBarrier rs1 (fun s a =>
      if s.core.barSt a = 1 then s.trapScalar 0x11 a
      else
        let bs := bytesOf 4 (s.x rs2).toNat ++ List.replicate 28 0
        (s.modHere (fun k => (k.locWrite a bs).barCheck a)).next))

/-- BAREXP (R388). -/
def execBarexp (rs1 rs2 : BitVec 5) (s : State) : Out :=
  .next
    (s.onBarrier rs1 (fun s a =>
      let pend := (mload s.core.loc (a + 8) 7 + (s.x rs2).toNat) % 2 ^ 56
      (s.modHere (fun k => (k.locWrite (a + 8) (bytesOf 7 pend)).barCheck a)).next))

/-- BARARR (R388). -/
def execBararr (rs1 rs2 : BitVec 5) (s : State) : Out :=
  .next (s.onBarrier rs1 (fun s a => s.afterStores (fun s => (s.modHere (fun k => k.barCredit a (s.x rs2) 0)).next)))

/-- BARW.L (R389): the status of a complete barrier, or a leave registered on it. -/
def execBarwL (o : LOp) (s : State) : Out :=
  .next
    (if o.hint = 3 then s.trapScalar 0x02 0
    else
      s.onBarrier o.rs1 (fun s a =>
        let st := s.core.barSt a
        if 2 ≤ st then s.result o.rd (BitVec.ofNat 64 st)
        else
          let here := s.here
          let r := s.leaveRecord o.ls.toNat (some o.rd) [] 0 (s.strand.pc + 4)
          let w := mload s.core.loc (a + 24) 8
          match s.leaveWith { r with on := .barrier a o.rd, waitLocal := true, waitAddr := a, next := bitsN w 47 0 } with
          | .error s => s
          | .ok (s, r) =>
            s.modCore here (fun k =>
              k.locWrite (a + 24) (bytesOf 8 (futWord 1 (futCount w + 1) (r.ref s.fabric.node here))))))

end Sys2Proof.Machine
end

