-- ==== Sys2Proof/Machine/Atomic.lean ====
section
/-!
DEFINITION. Atomics and append units (spec 08, 16).
-/

namespace Sys2Proof.Machine

open Sys2Proof

/-! What an atomic does to its word (R380). -/

/-- An operation of R380, with the format code of a floating-point form. -/
inductive Aop where
  | add | swap | cas | and | or | xor | min | max
  | fadd (code : Nat)
  | amax (code : Nat)
  deriving DecidableEq, Repr

/-- Whether the old value is zero-extended into sd: the floating-point forms. -/
def Aop.float : Aop → Bool
  | .fadd _ | .amax _ => true
  | _ => false

/-- Whether the word is a reduction packet when sd is s0: the adds (R209, R381). -/
def Aop.isAdd : Aop → Bool
  | .add | .fadd _ => true
  | _ => false

/-- The word's new value, of `n` bytes: `x` from sb, `e` from sd. -/
def Aop.apply (op : Aop) (n old x e : Nat) : Nat :=
  let m := 2 ^ (8 * n)
  match op with
  | .add => (old + x) % m
  | .swap => x % m
  | .cas => if old = e % m then x % m else old
  | .and => old &&& (x % m)
  | .or => old ||| (x % m)
  | .xor => old ^^^ (x % m)
  | .min => if toSigned (8 * n) x < toSigned (8 * n) old then x % m else old
  | .max => if toSigned (8 * n) old < toSigned (8 * n) x then x % m else old
  | .fadd code => addNE (fmt! code) old (x % m)
  | .amax code => amaxBits (fmt! code) old (x % m)

/-- The operation and width that an AOP code names (R289). -/
def aopOf (code : Nat) : Option (Aop × Nat) :=
  if code < 4 then some (.add, 2 ^ code)
  else if code < 8 then some (.swap, 2 ^ (code - 4))
  else if code < 12 then some (.cas, 2 ^ (code - 8))
  else if code < 0x16 then
    let op := [Aop.and, .or, .xor, .min, .max].getD ((code - 12) / 2) .and
    some (op, if code % 2 = 0 then 4 else 8)
  else if code = 0x16 then some (.fadd 0x0B, 2)
  else if code = 0x17 then some (.fadd 0x0C, 4)
  else if code = 0x18 then some (.fadd 0x0D, 8)
  else if code = 0x19 then some (.amax 0x0B, 2)
  else if code = 0x1A then some (.amax 0x0A, 2)
  else if code = 0x1B then some (.amax 0x0C, 4)
  else if code = 0x1C then some (.amax 0x0D, 8)
  else none

/-- The value that sd receives: the old word extended. -/
def Aop.old (op : Aop) (n v : Nat) : Word := if op.float then BitVec.ofNat 64 (v % 2 ^ (8 * n)) else sextN (8 * n) v

/-- A locked read-modify-write of host memory (R39): the old value. An adapter that reported no completer role, or that now answers with an
unsupported error, gives cause 0x41 (R40), and one that no route leads to 0x40 (R43). -/
def State.atomicHost (s : State) (node ha n : Nat) (f : Nat → Nat) : Except Nat (Nat × State) :=
  if tget s.fabric.adapters node ≠ some true then .error 0x41
  else if !s.fabric.reaches node then .error 0x40
  else if s.fabric.refusing.contains node then .error 0x41
  else
    let m := (tget s.hostMem node).getD []
    let old := mload m ha n
    .ok (old, { s with hostMem := tset s.hostMem node (mstore m ha (bytesOf n (f old))) })

/-- An AMO word with AOP `code` (R380, R381). -/
def State.amo (s : State) (o : AOp) (code : Nat) : Out :=
  .next
    (match aopOf code with
    | none => s.trapScalar 0x01 0
    | some (op, n) =>
      if !o.orderOk then s.trapScalar 0x01 0
      else
        let acq := o.ord.getLsbD 0
        let rel := o.ord.getLsbD 1
        let quiet := op.isAdd && decide (o.rd = 0) && !acq
        let go (s : State) : State :=
          let a := (s.x o.rs1).toNat
          let x := (s.x o.rs2).toNat % 2 ^ (8 * n)
          let e := (s.x o.rd).toNat % 2 ^ (8 * n)
          if a % n ≠ 0 then s.trapScalar 0x11 a
          else
            match s.find s.here .atomic a n with
            | (s, .miss va) => s.missScalar va
            | (s, .prot c _) => s.trapScalar c a
            | (s, .ok ps) =>
              match ps with
              | [.here pa _ _ _ _] =>
                match s.atomicPhys pa n (fun old => op.apply n old x e) with
                | .ok (old, s) => s.result o.rd (op.old n old)
                | .error c => if quiet then (s.notice s.here s.strand.cell c s.strand.pc a 0).next else s.trapScalar c a
              | [.host node ha _] =>
                match s.atomicHost node ha n (fun old => op.apply n old x e) with
                | .ok (old, s) => s.result o.rd (op.old n old)
                | .error c => if quiet ∧ c = 0x40 then (s.notice s.here s.strand.cell c s.strand.pc a 0).next else s.trapScalar c a
              | [.peer node va _] =>
                let data := bytesOf 8 code ++ bytesOf 8 x ++ bytesOf 8 e
                if quiet then
                  ((s.request node opAtomic s.core.asid.toNat va data (.write s.here s.strand.cell s.strand.pc)).2).next
                else s.askPeer node opAtomic va data (fun s v => s.result o.rd (op.old n v.toNat))
              | _ => s.trapScalar 0x11 a
        if rel then s.afterAll go else s.afterHeld go)

/-- AMO.ADD, 1 byte. -/
def execAmoAddB (o : AOp) (s : State) : Out := s.amo o 0x00
/-- AMO.ADD, 2 bytes. -/
def execAmoAddH (o : AOp) (s : State) : Out := s.amo o 0x01
/-- AMO.ADD, 4 bytes. -/
def execAmoAddW (o : AOp) (s : State) : Out := s.amo o 0x02
/-- AMO.ADD, 8 bytes. -/
def execAmoAddD (o : AOp) (s : State) : Out := s.amo o 0x03
/-- AMO.SWAP, 1 byte. -/
def execAmoSwapB (o : AOp) (s : State) : Out := s.amo o 0x04
/-- AMO.SWAP, 2 bytes. -/
def execAmoSwapH (o : AOp) (s : State) : Out := s.amo o 0x05
/-- AMO.SWAP, 4 bytes. -/
def execAmoSwapW (o : AOp) (s : State) : Out := s.amo o 0x06
/-- AMO.SWAP, 8 bytes. -/
def execAmoSwapD (o : AOp) (s : State) : Out := s.amo o 0x07
/-- AMO.CAS, 1 byte. -/
def execAmoCasB (o : AOp) (s : State) : Out := s.amo o 0x08
/-- AMO.CAS, 2 bytes. -/
def execAmoCasH (o : AOp) (s : State) : Out := s.amo o 0x09
/-- AMO.CAS, 4 bytes. -/
def execAmoCasW (o : AOp) (s : State) : Out := s.amo o 0x0A
/-- AMO.CAS, 8 bytes. -/
def execAmoCasD (o : AOp) (s : State) : Out := s.amo o 0x0B
/-- AMO.AND, 4 bytes. -/
def execAmoAndW (o : AOp) (s : State) : Out := s.amo o 0x0C
/-- AMO.AND, 8 bytes. -/
def execAmoAndD (o : AOp) (s : State) : Out := s.amo o 0x0D
/-- AMO.OR, 4 bytes. -/
def execAmoOrW (o : AOp) (s : State) : Out := s.amo o 0x0E
/-- AMO.OR, 8 bytes. -/
def execAmoOrD (o : AOp) (s : State) : Out := s.amo o 0x0F
/-- AMO.XOR, 4 bytes. -/
def execAmoXorW (o : AOp) (s : State) : Out := s.amo o 0x10
/-- AMO.XOR, 8 bytes. -/
def execAmoXorD (o : AOp) (s : State) : Out := s.amo o 0x11
/-- AMO.MIN, 4 bytes, signed. -/
def execAmoMinW (o : AOp) (s : State) : Out := s.amo o 0x12
/-- AMO.MIN, 8 bytes, signed. -/
def execAmoMinD (o : AOp) (s : State) : Out := s.amo o 0x13
/-- AMO.MAX, 4 bytes, signed. -/
def execAmoMaxW (o : AOp) (s : State) : Out := s.amo o 0x14
/-- AMO.MAX, 8 bytes, signed. -/
def execAmoMaxD (o : AOp) (s : State) : Out := s.amo o 0x15
/-- AMO.ADD in BF16. -/
def execAmoAddBf16 (o : AOp) (s : State) : Out := s.amo o 0x16
/-- AMO.ADD in FP32. -/
def execAmoAddF32 (o : AOp) (s : State) : Out := s.amo o 0x17
/-- AMO.ADD in FP64. -/
def execAmoAddF64 (o : AOp) (s : State) : Out := s.amo o 0x18
/-- AMO.AMAX in BF16. -/
def execAmoAmaxBf16 (o : AOp) (s : State) : Out := s.amo o 0x19
/-- AMO.AMAX in FP16. -/
def execAmoAmaxF16 (o : AOp) (s : State) : Out := s.amo o 0x1A
/-- AMO.AMAX in FP32. -/
def execAmoAmaxF32 (o : AOp) (s : State) : Out := s.amo o 0x1B
/-- AMO.AMAX in FP64. -/
def execAmoAmaxF64 (o : AOp) (s : State) : Out := s.amo o 0x1C

/-! Append units (R202-R205, R393, R394). -/

/-- What APPEND answers for SEALED, FULL and an illegal count (R393). -/
def appendSealed : Nat := 0xFFFFFFFFFFFFFFFF
def appendFull : Nat := 0xFFFFFFFFFFFFFFFE
def appendBad : Nat := 0xFFFFFFFFFFFFFFFD

/-- An APPEND at the unit's home (R202). -/
def State.unitAppend (s : State) (base size n : Nat) : Nat × State :=
  let s := s.wakeHome base
  let u := s.unit base size
  if n = 0 ∨ size < n then (appendBad, s)
  else if u.st ≠ .opened then (appendSealed, s)
  else if size < u.tail + roundUp n 16 then (appendFull, s)
  else (u.tail, { s with units := tset s.units base { u with tail := u.tail + roundUp n 16 } })

/-- A SEAL at the unit's home (R204): T, the unit closing, its seal future kept, resolved, or as the seventeenth faulted. -/
def State.unitSeal (s : State) (base size : Nat) (fut : Option Nat) (core cell : Nat) (pc : Word) : Nat × State :=
  let s := s.wakeHome base
  let u := s.unit base size
  let t := match u.st with
    | .opened => u.tail
    | _ => u.sealAt
  let u : AppUnit := match u.st with
    | .opened => { u with st := .closing, sealAt := t }
    | _ => u
  let s := { s with units := tset s.units base u }
  let s := match fut with
    | none => s
    | some f =>
      if u.st = UnitSt.sealed then s.resolveLoc f (some (BitVec.ofNat 64 t)) core cell pc
      else if 16 ≤ u.futs.length then s.resolveLoc f none core cell pc
      else { s with units := tset s.units base { u with futs := u.futs ++ [(f, core, cell, pc)] } }
  (t, s.sealCheck base)

/-- APPEND (R393). -/
def execAppend (o : AOp) (s : State) : Out :=
  .next
    (s.afterHeld fun s =>
      let a := (s.x o.rs1).toNat
      let n := (s.x o.rs2).toNat
      match s.find s.here .append a 1 with
      | (s, .miss va) => s.missScalar va
      | (s, .prot c _) => s.trapScalar c a
      | (s, .ok ps) =>
        match ps with
        | [.here pa _ _ unit _] =>
          if s.portDown pa then s.trapScalar 0x40 a
          else
            let (v, s) := s.unitAppend (pa / unit * unit) unit n
            s.result o.rd (BitVec.ofNat 64 v)
        | [.peer node va _] => s.askPeer node opAppend va (bytesOf 8 n) (fun s v => s.result o.rd v)
        | _ => s.trapScalar 0x11 a)

/-- SEAL (R394): a release at MODULE scope, then the seal. A seal future on this module travels to a peer's unit as its node and
address. -/
def execSeal (o : AOp) (s : State) : Out :=
  .next
    (s.afterAll fun s =>
      let a := (s.x o.rs1).toNat
      let b := (s.x o.rs2).toNat
      let go (s : State) (fut : Option Nat) : State :=
        match s.find s.here .append a 1 with
        | (s, .miss va) => s.missScalar va
        | (s, .prot c _) => s.trapScalar c a
        | (s, .ok ps) =>
          match ps with
          | [.here pa _ _ unit _] =>
            if s.portDown pa then s.trapScalar 0x40 a
            else
              let (t, s) := s.unitSeal (pa / unit * unit) unit fut s.here s.strand.cell s.strand.pc
              s.result o.rd (BitVec.ofNat 64 t)
          | [.peer node va _] =>
            let home := match fut.bind futPeer with
              | some (n, _) => n
              | none => s.fabric.node
            s.askPeer node opAtomic va
              (bytesOf 8 pktSeal ++ bytesOf 8 (if fut.isSome then b else 0) ++ bytesOf 8 home ++ bytesOf 8 (s.here + 512 * s.strand.cell)
                ++ bytesOf 8 s.strand.pc.toNat) (fun s v => s.result o.rd v)
          | _ => s.trapScalar 0x11 a
      if b = 0 then go s none
      else s.futPlace b (fun s va => s.missScalar va) (fun s c => s.trapScalar c b) (fun s loc => go s (some loc)))

end Sys2Proof.Machine
end

