-- ==== Sys2Proof/Machine/Message.lean ====
section
/-!
DEFINITION. Signals, message queues, stage pushes, and the answers that answer-waiting words wait for (spec 02, 05, 16).
-/

namespace Sys2Proof.Machine

open Sys2Proof

/-! Target words (R390). -/

def twNode (w : Word) : Nat := bitsN w.toNat 43 31
def twCore (w : Word) : Nat := bitsN w.toNat 30 22
def twAddr (w : Word) : Nat := bitsN w.toNat 21 0
/-- The core and local address of a target word, as a message's packet carries them in ADDR (log 12). -/
def twPlace (w : Word) : Nat := bitsN w.toNat 30 0
def twReserved (w : Word) : Bool := decide (bitsN w.toNat 63 44 ≠ 0)

/-- The context of an ASID that a core holds, or whose saved copy of the core waits for its restore. -/
def State.ctxByAsid (s : State) (core asid : Nat) : Option Nat :=
  let k := s.getCore core
  if asid ≠ 0 ∧ k.asid.toNat = asid ∧ k.ctx.isSome then k.ctx
  else
    (s.contexts.find? (fun p => p.2.asid.toNat == asid && decide (asid ≠ 0) && (tget p.2.saved core).isSome)).map (·.1)

/-! Signals (R51, R390). -/

/-- What becomes of a signal at its target. -/
inductive Fate where
  | applied (s : State)
  | error (code : Nat)
  | later
  deriving DecidableEq, Repr

/-- Whether a core or its die sleeps or its wake has not completed, so that signals wait in the quay's inbox (R51, R52). -/
def State.asleep (s : State) (core : Nat) : Bool :=
  decide ((s.getCore core).power = .p2 ∨ (s.getCore core).power = .p3) || s.dieSleep.contains (dieOf core)
    || !(s.getCore core).inbox.isEmpty

/-- Where the save header counts the pending-signal log, from the start of a save area (R268, log 73). -/
def logCountAt : Nat := 589

/-- A signal of a swapped-out context's log as its save area shows it (R268, log 73): entry `n`, and the count. -/
def State.showSignal (s : State) (ctx core n : Nat) (g : Signal) : State :=
  match s.saveArea ctx core with
  | none => s
  | some a =>
    (s.put (a + 0x3C7000 + 16 * n) (bytesOf 8 (g.laddr + 2 ^ 22 * g.err) ++ bytesOf 8 g.credit.toNat)).put (a + logCountAt) (bytesOf 4 (n + 1))

/-- A signal that finds its core awake (R51): applied to the barrier, logged for a swapped-out context, refused with retry-later when that
core's log is full (R268), dropped at a core in reset. -/
def State.applySignal (s : State) (core asid laddr : Nat) (credit : Word) (err : Nat) : Fate :=
  let k := s.getCore core
  if k.cstate = .inReset then .error 0x42
  else
    match s.ctxByAsid core asid with
    | none => .error 0x11
    | some x =>
      if k.ctx = some x then
        (if k.barOk laddr then .applied (s.setCore core (k.barCredit laddr credit err)) else .error 0x11)
      else
        match tget s.contexts x with
        | none => .error 0x11
        | some c =>
          let logged := (tget c.siglog core).getD []
          if 4096 ≤ logged.length then .later
          else
            let g : Signal := { asid := asid, laddr := laddr, credit := credit, err := err }
            .applied ((s.modContext x (fun c => { c with siglog := tset c.siglog core (logged ++ [g]) })).showSignal x core logged.length g)

/-- A signal at its target core (R51): dropped at a core in reset of a die that is awake, held in the inbox of a core that sleeps, refused with
retry-later when that is full, else as `applySignal`. DESIGN CHOICE (log 33): of a core in reset on a die that sleeps, to which two rows of R51's
table apply, the inbox holds it; it is dropped once the die has woken. -/
def State.deliverSignal (s : State) (core asid laddr : Nat) (credit : Word) (err : Nat) : Fate :=
  let k := s.getCore core
  if 512 ≤ core then .error 0x11
  else if k.cstate = .inReset ∧ !s.dieSleep.contains (dieOf core) then .error 0x42
  else if s.asleep core then
    (if 64 ≤ k.inbox.length then .later
    else
      .applied
        ((s.setCore core { k with inbox := k.inbox ++ [{ asid := asid, laddr := laddr, credit := credit, err := err }] }).later .coreWake
          { Input.none with core := core }))
  else s.applySignal core asid laddr credit err

/-- The word in hand waits until a sleeping core, to which it sends, has woken (R28). -/
def State.wakeFor (s : State) (core : Nat) : State :=
  s.hurry .coreWake (fun i => i.core == core) { Input.none with core := core }

/-- SIGNAL (R390). -/
def execSignal (rd rs1 rs2 : BitVec 5) (s : State) : Out :=
  .next
    (s.afterStores fun s =>
      let w := s.x rs1
      let credit := s.x rs2
      if twReserved w then s.result rd 0x11
      else if twNode w = s.fabric.node then
        match s.deliverSignal (twCore w) s.core.asid.toNat (twAddr w) credit 0 with
        | .applied s => s.result rd 0
        | .error c => s.result rd (BitVec.ofNat 64 c)
        | .later => s.wakeFor (twCore w)
      else
        match s.heldAnswer with
        | some (.fail c _) =>
          if c = 0x42 ∨ c = 0x11 then s.takeAnswer.result rd (BitVec.ofNat 64 c) else s.takeAnswer.trapScalar c (twAddr w)
        | _ =>
          s.askPeer (twNode w) opSignal (twAddr w) (bytesOf 8 (twCore w) ++ bytesOf 8 credit.toNat ++ bytesOf 8 0) (fun s _ => s.result rd 0))

/-! Message queues (R161, R162, R391, R392). -/

/-- A queue header's fields. -/
structure QHdr where
  base : Nat
  esize : Nat
  nent : Nat
  head : Nat
  tail : Nat
  wait : Nat
  deriving DecidableEq, Repr

/-- The header at a local address, if it is valid (R161): aligned, below the mooring area, VALID 0x01, its sizes in range, its
entries below the mooring area and clear of the header. -/
def Core.qhdr (k : Core) (a : Nat) : Option QHdr :=
  let f (off n : Nat) : Nat := mload k.loc (a + off) n
  let h : QHdr := { base := f 0 4, esize := f 4 2, nent := f 6 2, head := f 8 4, tail := f 12 4, wait := f 16 8 }
  let stop := h.base + h.nent * h.esize
  if decide (a % 64 = 0) && k.localOk false a 64 && decide (f 24 1 = 1) && decide (h.base % 16 = 0)
      && decide (16 ≤ h.esize ∧ h.esize ≤ 1024 ∧ h.esize % 16 = 0) && decide (2 ≤ h.nent ∧ h.nent ≤ 4096)
      && k.localOk false h.base (h.nent * h.esize) && (decide (stop ≤ a) || decide (a + 64 ≤ h.base)) then some h
  else none

/-- Entries between HEAD and TAIL. -/
def QHdr.used (h : QHdr) : Nat := (h.tail + 2 ^ 32 - h.head) % 2 ^ 32

def WaitOn.isMsg (a : Nat) : WaitOn → Bool
  | .msg h _ _ => decide (a = h)
  | _ => false

/-- The action of MRECV.L on a non-empty queue (R392): the oldest entry copied to the buffer, HEAD + 1. The answer is the number
HEAD had. -/
def Core.takeMsg (k : Core) (a dst : Nat) (h : QHdr) : Nat × Core :=
  let bs := mbytes k.loc (h.base + h.head % h.nent * h.esize) h.esize
  (h.head, (k.locWrite dst bs).locWrite (a + 8) (bytesOf 4 (h.head + 1)))

/-- The oldest waiter of a queue takes an entry and is ready (R162): it is unlinked from the end of the list. -/
def Core.wakeReceiver (k : Core) (a : Nat) (h : QHdr) : Core :=
  match k.localWaiters (·.on.isMsg a) (k.records.length + 1) (bitsN h.wait 47 0) with
  | [] => k
  | r :: younger =>
    let count := bitsN h.wait 61 48
    let (n, k) : Nat × Core := match r.on with
      | .msg _ dst _ => k.takeMsg a dst h
      | _ => (0, k)
    let k := k.modRecord r.dseq (fun r => match r.on with
      | .msg _ _ rd => { r with next := 0 }.setImage rd (BitVec.ofNat 64 n)
      | _ => r)
    let k := match younger with
      | [] => k.locWrite (a + 16) (bytesOf 8 0)
      | y :: _ =>
        (k.modRecord y.dseq (fun r => { r with next := 0 })).locWrite (a + 16) (bytesOf 8 (futWord 1 (count - 1) (bitsN h.wait 47 0)))
    k.makeReady r.dseq

/-- An append at the target bank (R162): the free entries after it, or a cause with nothing changed. -/
def State.appendMsg (s : State) (core a asid : Nat) (bs : List Byte) : Except Nat (Nat × State) :=
  match s.ctxByAsid core asid with
  | none => .error 0x11
  | some x =>
    let k := s.ctxCore x core
    match k.qhdr a with
    | none => .error 0x11
    | some h =>
      if h.nent ≤ h.used ∨ h.esize < bs.length then .error 0x32
      else
        let at_ := h.base + h.tail % h.nent * h.esize
        let gs := granulesOf at_ h.esize
        let put (k : Core) : Core := (k.locWrite at_ (padTo h.esize bs)).locWrite (a + 12) (bytesOf 4 (h.tail + 1))
        let s := if k.ctx = some x then (s.modCore core put).fill core gs
          else s.modCtxCore x core (fun k => (put k).setFull gs)
        let h := { h with tail := (h.tail + 1) % 2 ^ 32 }
        .ok (h.nent - h.used, s.modCtxCore x core (fun k => k.wakeReceiver a h))

/-- The message of a word, read when it issues: bytes at sb, 16-byte aligned in readable local memory. -/
def State.withMessage (s : State) (rs2 : BitVec 5) (len : BitVec 6) (f : State → List Byte → State) : State :=
  let b := (s.x rs2).toNat
  let n := 16 * (len.toNat + 1)
  if b % 16 ≠ 0 ∨ !s.core.localOk true b n then s.trapScalar 0x14 b
  else if s.core.locBad b n then s.trapScalar 0x40 b
  else f s (mbytes s.core.loc b n)

/-- A failed append: sd all ones, and a notice for the sending step. -/
def State.msgFailed (s : State) (rd : BitVec 5) (c : Nat) : State :=
  (s.notice s.here s.strand.cell c s.strand.pc 0 0).result rd (BitVec.allOnes 64)

/-- MSEND (R391). -/
def execMsend (rd rs1 rs2 : BitVec 5) (len : BitVec 6) (s : State) : Out :=
  .next
    (s.afterStores fun s => s.withMessage rs2 len fun s bs =>
      let w := s.x rs1
      if twReserved w then s.msgFailed rd 0x11
      else if twNode w = s.fabric.node then
        if s.asleep (twCore w) then s.wakeFor (twCore w)
        else
        match s.appendMsg (twCore w) (twAddr w) s.core.asid.toNat bs with
        | .ok (n, s) => s.result rd (BitVec.ofNat 64 n)
        | .error c => s.msgFailed rd c
      else
        match s.heldAnswer with
        | some (.fail c _) => if c = 0x32 ∨ c = 0x11 then s.takeAnswer.msgFailed rd c else s.takeAnswer.trapScalar c (twAddr w)
        | _ => s.askPeer (twNode w) opMessage (twPlace w) bs (fun s v => s.result rd v))

/-- The multicast counter of a group, which starts above every unicast number. -/
def mcastBase : Nat := 2 ^ 47

/-- MSEND.MC (R391): the packet is accepted for sending, and each member's failure is a notice. This module's own member takes the
message at once. -/
def execMsendMc (rs1 rs2 : BitVec 5) (len : BitVec 6) (s : State) : Out :=
  .next
    (s.afterStores fun s => s.withMessage rs2 len fun s bs =>
      let w := s.x rs1
      let g := twNode w
      let core := s.here
      let cell := s.strand.cell
      let pc := s.strand.pc
      if twReserved w ∨ 255 < g then (s.notice core cell 0x11 pc 0 0).next
      else
        let members := (tget s.fabric.groups g).getD []
        let away := members.filter (· != s.fabric.node)
        let lost := away.filter (fun n => !s.fabric.reaches n)
        let asid := s.core.asid.toNat
        if members.contains s.fabric.node ∧ s.asleep (twCore w) then s.wakeFor (twCore w)
        else
        let s := if members.contains s.fabric.node then
            (match s.appendMsg (twCore w) (twAddr w) asid bs with
            | .ok (_, s) => s
            | .error c => s.notice core cell c pc 0 0)
          else s
        let s := lost.foldl (fun s _ => s.notice core cell 0x40 pc 0 0) s
        let left := away.filter (fun n => !lost.contains n)
        if left.isEmpty then s.next
        else
          let q := mcastBase + (tget s.fabric.sseq (0x2000 + g)).getD 0
          let f := s.fabric
          let m : McastOut := { group := g, sseq := q, waiting := left, core := core, cell := cell, pc := pc }
          let s := { s with fabric := { f with
            sseq := tset f.sseq (0x2000 + g) (q + 1 - mcastBase)
            mcasts := f.mcasts ++ [m] } }
          (s.emitMc { Packet.empty with
            dst := g
            src := s.fabric.node
            op := opMulticast
            mc := true
            asid := asid
            sseq := q
            addr := twPlace w
            data := bs } none).next)

/-- MRECV.L (R392). -/
def execMrecvL (o : LOp) (s : State) : Out :=
  .next
    (if o.hint = 3 then s.trapScalar 0x02 0
    else
      s.afterHeld fun s =>
        let a := (s.x o.rs1).toNat
        let dst := (s.x o.rs2).toNat
        if !s.core.localOk false a 64 then s.trapScalar 0x14 a
        else
          match s.core.qhdr a with
          | none => s.trapScalar 0x11 a
          | some h =>
            if dst % 16 ≠ 0 ∨ !s.core.localOk false dst h.esize then s.trapScalar 0x14 dst
            else if s.core.locBad a 64 then s.trapScalar 0x40 a
            else if h.used ≠ 0 then
              if s.core.locBad (h.base + h.head % h.nent * h.esize) h.esize then
                s.trapScalar 0x40 (h.base + h.head % h.nent * h.esize)
              else
                let (n, k) := s.core.takeMsg a dst h
                { s with core := k }.result o.rd (BitVec.ofNat 64 n)
            else
              let here := s.here
              let r := s.leaveRecord o.ls.toNat (some o.rd) [] 0 (s.strand.pc + 4)
              match s.leaveWith { r with on := .msg a dst o.rd, waitLocal := true, waitAddr := a, next := bitsN h.wait 47 0 } with
              | .error s => s
              | .ok (s, r) =>
                s.modCore here (fun k =>
                  k.locWrite (a + 16) (bytesOf 8 (futWord 1 (bitsN h.wait 61 48 + 1) (r.ref s.fabric.node here)))))

/-! Stage pushes (R107, R108, R153, R395). -/

/-- A die's queue area: its span, and where a stage's queue begins (R106). -/
def Launch.qspan (l : Launch) : Nat := roundUp (64 * (l.stages.map (·.qdepth)).sum) 4096
def Launch.qbase (l : Launch) (d st : Nat) : Nat := l.qarea + d * l.qspan + 64 * ((l.stages.take st).map (·.qdepth)).sum

/-- The queue of a stage. -/
def Launch.queue (l : Launch) (st : Nat) : StageQ := l.queues.getD st { entries := [], placed := 0, stepno := [], waits := [] }

/-- Whether a stage's queue is full. -/
def Launch.full (l : Launch) (st : Nat) : Bool :=
  decide ((l.stages.getD st Stage.none).qdepth ≤ (l.queue st).entries.length)

/-- A queue that is not ready by its WEIGHT will be by its age (R111): the look at its oldest entry is due, once. -/
def State.ageing (s : State) (d slot st : Nat) : State :=
  match tget (s.harbour d).launches slot with
  | none => s
  | some l =>
    let i := { Input.none with die := d, n := slot, queue := st }
    if (l.queue st).entries.isEmpty ∨ (l.stages.getD st Stage.none).weight ≤ 1 ∨ s.work.any (fun t => t.what = .queueAgeReady ∧ t.inp = i) then s
    else s.later .queueAgeReady i

/-- A step descriptor enters a stage's queue (R107): bytes 0-47 given, bytes 48-63 the harbourmaster's. Its place is the next free
one in circular order. -/
def State.pushEntry (s : State) (d slot st : Nat) (payload : List Byte) (lcore : Nat) : State :=
  match tget (s.harbour d).launches slot with
  | none => s
  | some l =>
    let q := l.queue st
    let depth := (l.stages.getD st Stage.none).qdepth
    let taken := q.entries.map (·.place)
    let place := (((List.range depth).map (fun i => (q.placed + i) % depth)).find? (fun p => !taken.contains p)).getD 0
    let n := (tget q.stepno lcore).getD 0
    let bs := padTo 48 (payload.take 48) ++ bytesOf 4 lcore ++ bytesOf 1 st ++ bytesOf 1 (bit l.det)
      ++ bytesOf 2 (slot + 16 * d) ++ bytesOf 8 n
    let s := match s.physOf l.asid (l.qbase d st + 64 * place) with
      | some pa => s.putHome pa bs
      | none => s
    let q := { q with
      entries := q.entries ++ [{ place := place, lcore := lcore, since := s.time.toNat, aged := false }]
      placed := (place + 1) % max depth 1
      stepno := tset q.stepno lcore (n + 1) }
    (s.modLaunch d slot (fun l => { l with queues := l.queues.set st q, progress := s.time.toNat })).ageing d slot st

/-- Waiting pushes into a stage's queue are performed in registration order while it has room, each pusher's record ready after its
own push (R153); a push of a swapped-out context waits for its restore (R395). -/
def State.servePushes (s : State) (d slot st : Nat) : Nat → State
  | 0 => s
  | fuel + 1 =>
    match tget (s.harbour d).launches slot with
    | none => s
    | some l =>
      match (l.queue st).waits with
      | [] => s
      | w :: rest =>
        let k := s.getCore w.core
        if l.full st ∨ k.ctx ≠ some l.ctx then s
        else
          let s := s.modLaunch d slot (fun l => { l with queues := l.queues.set st { l.queue st with waits := rest } })
          match k.record w.dseq with
          | none => s.servePushes d slot st fuel
          | some r =>
            match r.on with
            | .push a =>
              let s := s.pushEntry d slot st (mbytes k.loc a 48) (k.step r.cell).lcore
              (s.modCore w.core (·.makeReady w.dseq)).servePushes d slot st fuel
            | _ => s.servePushes d slot st fuel

/-- The reference of the record that registered last on a full queue (R137). -/
def State.lastPusher (s : State) (l : Launch) (st : Nat) : Nat :=
  match ((l.queue st).waits.getLast?).bind (fun w => ((s.ctxCore l.ctx w.core).record w.dseq).map (fun r => (w.core, r))) with
  | some (c, r) => r.ref s.fabric.node c
  | none => 0

/-- QPUSH.L (R395): it leaves and registers on a full queue (R153). -/
def execQpushL (o : LOp) (s : State) : Out :=
  .next
    (if o.hint = 3 then s.trapScalar 0x02 0
    else
      s.afterStores fun s =>
        let a := (s.x o.rs1).toNat
        let st := s.myStep
        if a % 16 ≠ 0 ∨ !s.core.localOk true a 48 then s.trapScalar 0x14 a
        else
          match s.launchOf st with
          | none => s.trapScalar 0x11 a
          | some l =>
            if l.stages.length ≤ st.stage + 1 then s.trapScalar 0x11 a
            else if s.core.locBad a 48 then s.trapScalar 0x40 a
            else if l.full (st.stage + 1) then
              let here := s.here
              let r := s.leaveRecord o.ls.toNat none [] 0 (s.strand.pc + 4)
              let next := s.lastPusher l (st.stage + 1)
              match s.leaveWith { r with on := .push a, waitAddr := l.qbase st.die (st.stage + 1), next := next } with
              | .error s => s
              | .ok (s, r) =>
                s.modLaunch st.die st.launch (fun l =>
                  let q := l.queue (st.stage + 1)
                  { l with queues := l.queues.set (st.stage + 1) { q with waits := q.waits ++ [{ core := here, dseq := r.dseq }] } })
            else (s.pushEntry st.die st.launch (st.stage + 1) (mbytes s.core.loc a 48) st.lcore).next)

/-! Answers (R379). -/

/-- ANSWER_ARRIVAL (R379): the answer to an answer-waiting word's request is held for the strand that waits, or under the DSEQ of the
record of a strand that was forced out; an answer nobody awaits is discarded. Operands: core, slot (the context), queue (the
node asked), n (the request's sequence number), ok, data, addr (the cause of a failure: with 0x10 data is a pager future, with 0x30
the future resolved before); for the bytes of an ENGINE word, bytes, with addr where they lie. -/
def execAnswerArrival (s : State) : Out :=
  let i := s.inp
  let ans : Answer := if i.ok ∧ !i.bytes.isEmpty then .bytes i.queue i.addr i.bytes else if i.ok then .value i.data else if i.addr = 0x10 then .pager i.queue i.data.toNat else .fail i.addr i.data.toNat
  .next
    (let s := s.park
    match (if (s.getCore i.core).ctx = some i.slot then (s.getCore i.core).waitingSlot (.packet i.queue i.n) else none) with
    | some sl =>
      let s := s.focus i.core sl
      ({ s with strand := { s.strand with wait := .none } }.modHere (fun k =>
        { k with answers := tset k.answers (answerKey sl) ans })).park
    | none =>
      match ((s.ctxCore i.slot i.core).awaiting.find? (fun p => p.2 == (i.queue, i.n))).map (·.1) with
      | some dseq =>
        s.modCtxCore i.slot i.core (fun k =>
          { k with answers := tset k.answers dseq ans, awaiting := tdel k.awaiting dseq })
      | none => s)

end Sys2Proof.Machine
end

