-- ==== Sys2Proof/Machine/Position.lean ====
section
/-!
DEFINITION. Coordinate frames and tagged positions (spec 09, 15): the frame table, conversion, the chain cache, the position words.
-/

namespace Sys2Proof.Machine

open Sys2Proof

/-! The frame table (R212-R215). -/

/-- The virtual address of the frame-table anchor (R212). -/
def anchorVa : Nat := 0x01FFFFFFFFFF0000

/-- Why an element cannot be done: a translation miss, or a cause with its FADDR; `none` for FADDR stands for the first operand's
tag (R364). -/
inductive PErr where
  | miss (va : Nat)
  | fail (cause : Nat) (faddr : Option Nat)
  deriving DecidableEq, Repr

/-- A frame node, read (R213). -/
structure FNode where
  parent : Nat
  depth : Nat
  qexp : Int
  gen : Nat
  valid : Bool
  root : Bool
  rootno : Nat
  q : Int × Int × Int × Int
  t : Int × Int × Int
  /-- The reserved fields are zero. -/
  clean : Bool
  deriving DecidableEq, Repr

/-- The anchor, read: FRONT and NNODE. -/
structure Anchor where
  front : Nat
  nnode : Nat
  deriving DecidableEq, Repr

/-- A core's translation of a page of its own module, without filling its buffer. -/
def State.look (s : State) (core asid va : Nat) : Walk :=
  match (s.getCore core).tlb.find? (fun t => t.asid == asid && decide (t.base ≤ va) && decide (va < t.base + t.size)) with
  | some t => .leaf (if t.size = 0x10000 then 0 else if t.size = 0x200000 then 1 else 2) t.leaf
  | none => s.walk asid va

/-- 64 bytes of an ordinary, readable page of this module, by virtual address: their physical address. -/
def State.framePlace (s : State) (core va : Nat) : Except PErr Nat :=
  match s.look core (s.getCore core).asid.toNat va with
  | .miss => .error (.miss va)
  | .bad => .error (.fail 0x11 (some va))
  | .dead => .error (.fail 0x40 (some va))
  | .leaf l e =>
    if leafClass e ≠ 0 ∨ !leafR e then .error (.fail 0x11 (some va))
    else
      let pa := leafAddr e + va % pageSize l
      if s.bad pa 64 then .error (.fail 0x40 (some va)) else .ok pa

/-- The anchor, read and checked (R212). -/
def State.anchor (s : State) (core : Nat) : Except PErr Anchor :=
  match s.framePlace core anchorVa with
  | .error e => .error e
  | .ok pa =>
    let npage := s.peek (pa + 16) 4
    let nnode := s.peek (pa + 32) 4
    if s.peek (pa + 36) 28 ≠ 0 ∨ s.peek (pa + 29) 3 ≠ 0 ∨ nnode = 0 ∨ 2 ^ 23 < nnode ∨ 1024 * npage < nnode then
      .error (.fail 0x11 (some anchorVa))
    else .ok { front := s.peek pa 8 % 2 ^ 57, nnode := nnode }

/-- Node `n`'s virtual address. -/
def Anchor.nodeVa (an : Anchor) (n : Nat) : Nat := an.front + 64 * n

/-- A node, read. -/
def State.node (s : State) (core : Nat) (an : Anchor) (n : Nat) : Except PErr FNode :=
  match s.framePlace core (an.nodeVa n) with
  | .error e => .error e
  | .ok pa =>
    let f (off k : Nat) : Nat := s.peek (pa + off) k
    let i (off k : Nat) : Int := toSigned (8 * k) (f off k)
    .ok {
      parent := f 0 4 % 2 ^ 23
      depth := f 4 1
      qexp := i 5 1
      gen := f 6 1
      valid := decide (f 7 1 % 2 = 1)
      root := decide (f 7 1 / 2 % 2 = 1)
      rootno := f 48 1 % 16
      q := (i 8 4, i 12 4, i 16 4, i 20 4)
      t := (i 24 8, i 32 8, i 40 8)
      clean := decide (f 0 4 / 2 ^ 23 = 0) && decide (f 7 1 / 4 = 0) && decide (f 48 1 / 16 = 0) && decide (f 49 15 = 0) }

/-- A node's own checks (R214). -/
def FNode.sound (n : FNode) : Bool :=
  let (w, x, y, z) := n.q
  let off := w * w + x * x + y * y + z * z - 2 ^ 60
  n.clean && decide (-32 ≤ n.qexp ∧ n.qexp ≤ 15) && decide (n.depth ≤ 15)
    && (!n.root || (decide (n.depth = 0) && decide (n.parent = 0) && decide (n.t = (0, 0, 0)) && decide (n.q = (2 ^ 30, 0, 0, 0))))
    && decide (off.natAbs ≤ 2 ^ 34)

/-- A node of a walk: read, and refused as malformed where its own checks fail. -/
def State.soundNode (s : State) (core : Nat) (an : Anchor) (n : Nat) : Except PErr FNode :=
  match s.node core an n with
  | .error e => .error e
  | .ok nd => if nd.sound then .ok nd else .error (.fail 0x11 (some (an.nodeVa n)))

/-- A node's parent, with the checks that tie the two (R214). -/
def State.parentOf (s : State) (core : Nat) (an : Anchor) (n : Nat) (nd : FNode) : Except PErr (Nat × FNode) :=
  let bad : Except PErr (Nat × FNode) := .error (.fail 0x11 (some (an.nodeVa n)))
  if an.nnode ≤ nd.parent then bad
  else
    match s.soundNode core an nd.parent with
    | .error e => .error e
    | .ok p => if !p.valid ∨ nd.depth ≠ p.depth + 1 ∨ nd.rootno ≠ p.rootno then bad else .ok (nd.parent, p)

/-! Arithmetic of conversion (R215, R221). -/

abbrev Quat := Int × Int × Int × Int
abbrev Vec3 := Int × Int × Int

def qone : Quat := (2 ^ 30, 0, 0, 0)

/-- RoundNE(x / 2^n). -/
def roundDiv (x : Int) (n : Int) : Int :=
  let r := roundShift .ne (decide (x < 0)) x.natAbs n
  signedM (decide (x < 0)) r.1

/-- The Hamilton product. -/
def qmul (a c : Quat) : Quat :=
  let (aw, ax, ay, az) := a
  let (cw, cx, cy, cz) := c
  (aw * cw - ax * cx - ay * cy - az * cz, aw * cx + ax * cw + ay * cz - az * cy,
    aw * cy - ax * cz + ay * cw + az * cx, aw * cz + ax * cy - ay * cx + az * cw)

/-- Rounded back to Q30, once per multiply. -/
def qround (q : Quat) : Quat := (roundDiv q.1 30, roundDiv q.2.1 30, roundDiv q.2.2.1 30, roundDiv q.2.2.2 30)

def qconj (q : Quat) : Quat := (q.1, -q.2.1, -q.2.2.1, -q.2.2.2)

/-- M(q) × v, in units of 2^-60 (R215). -/
def rotate (q : Quat) (v : Vec3) : Vec3 :=
  let (w, x, y, z) := q
  let (a, b, c) := v
  ((w * w + x * x - y * y - z * z) * a + 2 * (x * y - w * z) * b + 2 * (x * z + w * y) * c,
    2 * (x * y + w * z) * a + (w * w - x * x + y * y - z * z) * b + 2 * (y * z - w * x) * c,
    2 * (x * z - w * y) * a + 2 * (y * z + w * x) * b + (w * w - x * x - y * y + z * z) * c)

def vmap (f : Int → Int) (v : Vec3) : Vec3 := (f v.1, f v.2.1, f v.2.2)
def vzip (f : Int → Int → Int) (u v : Vec3) : Vec3 := (f u.1 v.1, f u.2.1 v.2.1, f u.2.2 v.2.2)
def vall (p : Int → Bool) (v : Vec3) : Bool := p v.1 && p v.2.1 && p v.2.2

/-- A path composed from its start upward: each node with its parent's quantum. -/
def compose (w : Int) (path : List (FNode × Int)) : Vec3 × Quat :=
  path.foldl
    (fun a n =>
      (vzip (· + ·) (vmap (roundDiv · 60) (rotate n.1.q a.1)) (vmap (· * 2 ^ (n.2 - w).toNat) n.1.t), qround (qmul n.1.q a.2)))
    ((0, 0, 0), qone)

/-- Whether an integer lies in −2^95 … 2^95 − 1, and in −2^31 … 2^31 − 1. -/
def in95 (x : Int) : Bool := decide (-(2 ^ 95) ≤ x ∧ x < 2 ^ 95)
def in31 (x : Int) : Bool := decide (-(2 ^ 31) ≤ x ∧ x < 2 ^ 31)

/-! Chains (R220, R222). -/

/-- Two nodes with the paths below them, each path from its start upward with each node's parent's quantum. -/
structure Climb where
  x : Nat
  nx : FNode
  y : Nat
  ny : FNode
  up : List (FNode × Int)
  down : List (FNode × Int)
  deriving DecidableEq, Repr

/-- The climb to the lowest common ancestor: the deeper node first, then both together (R220). Two tops of DEPTH 0 end it: one that is no
root is malformed (R214), two roots have no common ancestor. DESIGN CHOICE (log 36): in a cyclic table, whose common ancestor's PARENT may be a node
that the walk reads for another reason, the ancestor is not checked against it. -/
def State.climb (s : State) (core : Nat) (an : Anchor) : Nat → Climb → Except PErr Climb
  | 0, _ => .error (.fail 0x11 none)
  | fuel + 1, c =>
    let stepX (c : Climb) : Except PErr Climb :=
      match s.parentOf core an c.x c.nx with
      | .error e => .error e
      | .ok (p, np) => .ok { c with x := p, nx := np, up := c.up ++ [(c.nx, np.qexp)] }
    let stepY (c : Climb) : Except PErr Climb :=
      match s.parentOf core an c.y c.ny with
      | .error e => .error e
      | .ok (p, np) => .ok { c with y := p, ny := np, down := c.down ++ [(c.ny, np.qexp)] }
    if c.x = c.y then .ok c
    else if c.ny.depth < c.nx.depth then
      match stepX c with
      | .error e => .error e
      | .ok c => s.climb core an fuel c
    else if c.nx.depth < c.ny.depth then
      match stepY c with
      | .error e => .error e
      | .ok c => s.climb core an fuel c
    else if c.nx.depth = 0 then
      if !c.nx.root then .error (.fail 0x11 (some (an.nodeVa c.x)))
      else if !c.ny.root then .error (.fail 0x11 (some (an.nodeVa c.y)))
      else .error (.fail 0x21 none)
    else
      match stepX c with
      | .error e => .error e
      | .ok c =>
        match stepY c with
        | .error e => .error e
        | .ok c => s.climb core an fuel c

/-- The chain from node `a` to node `b` by a walk of the table. A node whose parent is the other one is checked against it before the two
ROOTNO are compared (R214, R219). -/
def State.walkChain (s : State) (core : Nat) (an : Anchor) (a b : Nat) : Except PErr ChainEntry :=
  match s.soundNode core an a with
  | .error e => .error e
  | .ok na =>
    match s.soundNode core an b with
    | .error e => .error e
    | .ok nb =>
      if na.rootno ≠ nb.rootno ∧ !na.root ∧ na.parent = b then .error (.fail 0x11 (some (an.nodeVa a)))
      else if na.rootno ≠ nb.rootno ∧ !nb.root ∧ nb.parent = a then .error (.fail 0x11 (some (an.nodeVa b)))
      else if na.rootno ≠ nb.rootno then .error (.fail 0x21 none)
      else
        match s.climb core an 17 { x := a, nx := na, y := b, ny := nb, up := [], down := [] } with
        | .error e => .error e
        | .ok c =>
          let w := ((c.up ++ c.down).foldl (fun m n => min m n.1.qexp) (min c.nx.qexp (min na.qexp nb.qexp))) - 16
          let (tu, qu) := compose w c.up
          let (td, qd) := compose w c.down
          let d := vzip (· - ·) tu td
          if !(vall in95 tu && vall in95 td && vall in95 d) then .error (.fail 0x23 none)
          else
            .ok {
              asid := (s.getCore core).asid.toNat
              src := a
              srcGen := na.gen
              dst := b
              dstGen := nb.gen
              qt := qround (qmul (qconj qd) qu)
              qd := qd
              td := d
              w := w
              ea := na.qexp
              eb := nb.qexp }

/-- Whether FRONT of a core's address space has been stored to directly since its last swap point, while conversions ran (R223). -/
def State.torn (s : State) (core : Nat) : Bool := s.fronts.any (fun f => f.torn && f.asid == (s.getCore core).asid.toNat)

/-- A chain between two nodes of given generations (R222), every node checked (R223), and whether the table has been stored to directly, so that
the result is unpredictable; that the cached chain and the walked one differ shows such a store too. -/
def State.chain (s : State) (core : Nat) (an : Anchor) (a ga b gb : Nat) : Except PErr (ChainEntry × Bool) :=
  match s.walkChain core an a b with
  | .error e => .error e
  | .ok w =>
    match (s.getCore core).chains.find? (fun c =>
        c.asid == (s.getCore core).asid.toNat && c.src == a && c.srcGen == ga && c.dst == b && c.dstGen == gb) with
    | some c => .ok (c, c != w || s.torn core)
    | none => .ok (w, s.torn core)

/-- A chain used last becomes the newest of the 256 (R222). -/
def Core.useChain (k : Core) (c : ChainEntry) : Core := { k with chains := (c :: k.chains.filter (· != c)).take 256 }

/-- Offsets converted along a chain (R221). -/
def ChainEntry.convert (c : ChainEntry) (p : Vec3) (point : Bool) : Except PErr Vec3 :=
  let v := vmap (· * 2 ^ (c.ea - c.w).toNat) (rotate c.qt p)
  let v := if point then vzip (· + ·) v (rotate (qconj c.qd) c.td) else v
  let r := vmap (roundDiv · (60 + c.eb - c.w)) v
  if vall in31 r then .ok r else .error (.fail 0x23 none)

/-! Positions (R216-R219). -/

/-- A position element: offsets and tag. -/
structure Pos where
  p : Vec3
  tag : Nat
  deriving DecidableEq, Repr

def Pos.of (bits : Nat) : Pos where
  p := (toSigned 32 bits, toSigned 32 (bits / 2 ^ 32), toSigned 32 (bits / 2 ^ 64))
  tag := bits / 2 ^ 96 % 2 ^ 32
def Pos.bits (x : Pos) : Nat :=
  wrapN 32 x.p.1 + 2 ^ 32 * wrapN 32 x.p.2.1 + 2 ^ 64 * wrapN 32 x.p.2.2 + 2 ^ 96 * (x.tag % 2 ^ 32)

/-- The fields of a tag: whether a displacement, node, generation. -/
def tagDisp (t : Nat) : Bool := t.testBit 31
def tagNode (t : Nat) : Nat := bitsN t 30 8
def tagGen (t : Nat) : Nat := t % 256
def mkTag (disp : Bool) (node gen : Nat) : Nat := bit disp * 2 ^ 31 + node % 2 ^ 23 * 256 + gen % 256

/-- A tag's currency check (R217, R219): the node, or cause 0x20. -/
def State.current (s : State) (core : Nat) (an : Except PErr Anchor) (tag : Nat) : Except PErr FNode :=
  match an with
  | .error e => .error e
  | .ok an =>
    let stale : Except PErr FNode := .error (.fail 0x20 (some tag))
    if an.nnode ≤ tagNode tag then stale
    else
      match s.node core an (tagNode tag) with
      | .error e => .error e
      | .ok n => if n.valid && n.gen == tagGen tag then .ok n else stale

/-- The chains that an element used, each with whether its result is unpredictable (R223); none where an unpredictable chain fits no cache entry. -/
abbrev Used := List (Option ChainEntry × Bool)

/-- The end of a conversion that is out of range (R221): where the result is unpredictable (R223), so is whether it is. -/
def torn23 (torn : Bool) : PErr → Option ChainEntry → Except PErr (Vec3 × Used)
  | .fail 0x23 none, c => if torn then .ok ((0, 0, 0), [(c, true)]) else .error (.fail 0x23 none)
  | e, _ => .error e

/-- A value's offsets in another node's frame, and the chain used: unchanged where the nodes are one (R220). -/
def State.convertPos (s : State) (core : Nat) (an : Anchor) (x : Pos) (a ga b gb : Nat) : Except PErr (Vec3 × Used) :=
  if a = b then .ok (x.p, [])
  else
    match s.chain core an a ga b gb with
    | .error e => torn23 (s.torn core) e none
    | .ok (c, torn) =>
      match c.convert x.p (!tagDisp x.tag) with
      | .error e => torn23 torn e (some c)
      | .ok p => .ok (p, [(some c, torn)])

/-- What one element gives: its value, and the chains used. -/
abbrev PRes := Except PErr (Nat × Used)

/-- An element's result: where a chain of it is unpredictable (R223), free offsets or a free distance beside the tag, or cause 0x23, as a free bit
has it. -/
def freed (w draw : Nat) : PRes → PRes
  | .ok (v, us) =>
    if us.any (·.2) then
      if (Config.freeNat draw).testBit 128 then .error (.fail 0x23 none)
      else .ok (if w = 128 then v / 2 ^ 96 * 2 ^ 96 + Config.freeNat draw % 2 ^ 96 else Config.freeNat draw % 2 ^ w, us)
    else .ok (v, us)
  | .error e => .error e

/-- The kinds of two operands: the result's kind, or none for a mismatch (R218). -/
inductive PKind where
  | sub | add | disp | dist
  deriving DecidableEq, Repr

def PKind.result (k : PKind) (d1 d2 : Bool) : Option Bool :=
  match k with
  | .sub => if !d1 then some (!d2) else if d2 then some true else none
  | .add => if d1 || d2 then some (d1 && d2) else none
  | .disp => if d1 && d2 then some true else none
  | .dist => if d1 || d2 then none else some false

/-- An element of a two-operand word: the checks of R219 in order, the second operand converted to the first one's frame, and
what `f` makes of the two offsets and the result tag. -/
def State.posPair (s : State) (core : Nat) (an : Except PErr Anchor) (k : PKind) (x y : Pos)
    (f : Vec3 → Vec3 → Nat → Except PErr Nat) : PRes :=
  match k.result (tagDisp x.tag) (tagDisp y.tag) with
  | none => .error (.fail 0x22 none)
  | some rk =>
    match s.current core an x.tag with
    | .error e => .error e
    | .ok nx =>
      match s.current core an y.tag with
      | .error e => .error e
      | .ok ny =>
        match an with
        | .error e => .error e
        | .ok an =>
          match s.convertPos core an y (tagNode y.tag) ny.gen (tagNode x.tag) nx.gen with
          | .error e => .error e
          | .ok (p, cs) =>
            let tag := mkTag rk (tagNode x.tag) nx.gen
            match f x.p p tag with
            | .error e => if cs.any (·.2) then .ok (2 ^ 96 * tag, cs) else .error e
            | .ok v => .ok (v, cs)

/-- A sum or difference of offsets with its tag; outside int32 it is cause 0x23 (R364). -/
def sumPos (sign : Int) (p q : Vec3) (tag : Nat) : Except PErr Nat :=
  let r := vzip (fun a b => a + sign * b) p q
  if vall in31 r then .ok ({ p := r, tag := tag : Pos }).bits else .error (.fail 0x23 none)

/-! What a position word reads of the frame table (R15, R28, R222, R223). -/

/-- A conversion from one node to another, each with its generation. -/
abbrev Conv := Nat × Nat × Nat × Nat

/-- The nodes that a word looks at for its tags, and its conversions. -/
structure Frames where
  looked : List Nat
  convs : List Conv
  deriving DecidableEq, Repr

/-- The nodes looked at for an element's tags, in order, until one is not current; and whether all are. -/
def State.lookAt (s : State) (core : Nat) (an : Anchor) : List Nat → List Nat × Bool
  | [] => ([], true)
  | t :: r =>
    if an.nnode ≤ tagNode t then ([], false)
    else if (s.current core (.ok an) t).toOption.isNone then ([tagNode t], false)
    else
      let q := s.lookAt core an r
      (tagNode t :: q.1, q.2)

/-- An element that converts a value of one tag to the node of another, after looking at tags. -/
def State.convOf (s : State) (core : Nat) (an : Anchor) (tags : List Nat) (src dst : Nat) : Frames :=
  let q := s.lookAt core an tags
  { looked := q.1, convs := if q.2 then [(tagNode src, tagGen src, tagNode dst, tagGen dst)] else [] }

/-- An element of FRHOME. -/
def State.homeOf (s : State) (core : Nat) (an : Anchor) (tag : Nat) : Frames :=
  let n := tagNode tag
  match (if an.nnode ≤ n then none else (s.node core an n).toOption) with
  | none => { looked := [], convs := [] }
  | some nd =>
    if nd.root ∨ an.nnode ≤ nd.parent then { looked := [n], convs := [] }
    else
      match s.node core an nd.parent with
      | .error _ => { looked := [n], convs := [] }
      | .ok p => { looked := [n, nd.parent], convs := if p.valid then [(n, nd.gen, nd.parent, p.gen)] else [] }

/-- What a word reads, element by element. -/
def State.framesOf (s : State) (o : VOp) (f : Nat → Anchor → Frames) : Frames :=
  match s.anchor s.here with
  | .error _ => { looked := [], convs := [] }
  | .ok an =>
    let fs := (s.active o.msel).map (fun i => f i an)
    { looked := fs.flatMap (·.looked), convs := (fs.flatMap (·.convs)).eraseDups }

/-- A node and those above it. -/
def State.upward (s : State) (core : Nat) (an : Anchor) : Nat → Nat → List Nat
  | 0, _ => []
  | fuel + 1, n =>
    match s.node core an n with
    | .error _ => []
    | .ok nd => n :: (if nd.root ∨ an.nnode ≤ nd.parent then [] else s.upward core an fuel nd.parent)

/-- The nodes that the walk of a conversion reads: up to the lowest common ancestor. -/
def State.walked (s : State) (core : Nat) (an : Anchor) (c : Conv) : List Nat :=
  if c.1 = c.2.2.1 then []
  else
    let a := s.upward core an 17 c.1
    let b := s.upward core an 17 c.2.2.1
    a.filter (fun n => !b.contains n) ++ b.filter (fun n => !a.contains n) ++ (a.find? (fun n => b.contains n)).toList

/-- 64 bytes of the frame table read by a core: the translation is held, and the read counts. -/
def State.readFrame (s : State) (core va : Nat) : State :=
  match s.translate core (s.getCore core).asid.toNat va with
  | (s, .leaf l e) => s.countRead (leafAddr e + va % pageSize l) 64
  | (s, _) => s

/-- FRONT of a core's address space is in use by conversions until its next swap point. -/
def State.useFront (s : State) (core : Nat) (an : Anchor) : State :=
  let asid := (s.getCore core).asid.toNat
  if s.fronts.any (fun f => f.asid == asid) then s
  else
    let pages := (List.range ((an.front % 0x10000 + 64 * an.nnode + 0xFFFF) / 0x10000)).filterMap (fun i =>
      match s.look core asid (an.front / 0x10000 * 0x10000 + 0x10000 * i) with
      | .leaf l e => some ((leafAddr e + (an.front + 0x10000 * i) % pageSize l) / 0x10000 * 0x10000)
      | _ => none)
    { s with fronts := s.fronts ++ [{ asid := asid, pages := pages, torn := false }] }

/-- What a word reads of the table, read: the anchor, and each node once. -/
def State.readFrames (s : State) (fr : Frames) : State :=
  let t := s.readFrame s.here anchorVa
  match s.anchor s.here with
  | .error _ => t
  | .ok an =>
    ((fr.looked ++ fr.convs.flatMap (s.walked s.here an)).eraseDups.foldl (fun t n => t.readFrame s.here (an.nodeVa n)) t).useFront s.here an

/-- A position word over the active elements (R364): misses before any cause, then the lowest failing element, then every result
written in elements of `w` bits. -/
def State.posWord (s : State) (o : VOp) (w : Nat) (fr : Frames) (first : Nat → Nat) (f : Nat → PRes)
    (after : State → State) : State :=
  let is := s.active o.msel
  if is.isEmpty then s.wordDone
  else
    let an := s.anchor s.here
    let s := s.readFrames fr
    let rs : List (Nat × PRes) := is.map (fun i => (i, freed w (s.draws + i) (f i)))
    let missed := match an with
      | .error (.miss va) => some va
      | _ => rs.findSome? (fun (r : Nat × PRes) => match r.2 with
        | .error (.miss va) => some va
        | _ => none)
    match missed with
    | some va => s.missConvoy va
    | none =>
      match rs.findSome? (fun (r : Nat × PRes) => match r.2 with
          | .error (.fail c fa) => some (r.1, c, fa.getD (first r.1))
          | _ => none) with
      | some (i, c, fa) =>
        s.trapConvoy { TrapBlock.none with cause := c, estart := i, faddr := BitVec.ofNat 64 fa }
      | none =>
        let vals := rs.filterMap (fun (r : Nat × PRes) => match r.2 with
          | .ok v => some (r.1, v.1)
          | _ => none)
        let cs := rs.flatMap (fun (r : Nat × PRes) => match r.2 with
          | .ok v => v.2
          | _ => [])
        let s := s.modHere (fun k => (cs.filterMap (·.1)).foldl Core.useChain k)
        let s := if cs.any (·.2) then { s with draws := s.draws + 1025 } else s
        (after (s.putV o.vd.toNat w vals)).wordDone

/-- Element `i` of a register as a position. -/
def State.pos (s : State) (n : BitVec 5) (i : Nat) : Pos := Pos.of (elemOf (s.v n.toNat) i 128)

/-- What PMAKE reads. -/
def State.makeFrames (s : State) (o : VOp) : Frames :=
  s.framesOf o (fun _ an => { looked := (s.lookAt s.here an [s.capB.toNat % 2 ^ 32]).1, convs := [] })

/-- What a two-operand position word reads. -/
def State.pairFrames (s : State) (o : VOp) (k : PKind) : Frames :=
  s.framesOf o (fun i an =>
    let x := (s.pos o.vs1 i).tag
    let y := (s.pos o.vs2 i).tag
    match k.result (tagDisp x) (tagDisp y) with
    | none => { looked := [], convs := [] }
    | some _ => s.convOf s.here an [x, y] y x)

/-- What PCVT reads. -/
def State.cvtFrames (s : State) (o : VOp) : Frames :=
  s.framesOf o (fun i an =>
    let x := (s.pos o.vs1 i).tag
    s.convOf s.here an [x, s.capB.toNat % 2 ^ 32] x (s.capB.toNat % 2 ^ 32))

/-- What FRHOME reads. -/
def State.homeFrames (s : State) (o : VOp) : Frames := s.framesOf o (fun i an => s.homeOf s.here an (s.pos o.vs1 i).tag)

/-- What a position word reads of the table. -/
def State.framesRead (s : State) (i : Instr) : Frames :=
  match i with
  | .psub o => s.pairFrames o .sub
  | .padd o => s.pairFrames o .add
  | .dadd o => s.pairFrames o .disp
  | .daddSub o => s.pairFrames o .disp
  | .pdist2 o => s.pairFrames o .dist
  | .pcvt o => s.cvtFrames o
  | .frhome o => s.homeFrames o
  | .pmake o => s.makeFrames o
  | _ => { looked := [], convs := [] }

/-- Whether a word has a walk of the table still to make (R222): a conversion whose chain the cache does not hold, and no wait for it yet. The walk
is over when the word issues again; once 512 cycles have gone by, the wait is a local hazard's (R132, R435). -/
def State.walkDue (s : State) (i : Instr) : Bool :=
  s.strand.waiting.isNone && (s.framesRead i).convs.any (fun c =>
    decide (c.1 ≠ c.2.2.1) && !s.core.chains.any (fun e =>
      e.asid == s.core.asid.toNat && e.src == c.1 && e.srcGen == c.2.1 && e.dst == c.2.2.1 && e.dstGen == c.2.2.2))

/-- PMAKE (R363, R365). -/
def execPmake (o : VOp) (s : State) : Out :=
  s.vec (.pmake o) (fun s =>
    let an := s.anchor s.here
    let tag := s.capB.toNat % 2 ^ 32
    let chk := s.current s.here an tag
    let src := s.v o.vs1.toNat
    s.posWord o 128 (s.makeFrames o) (fun _ => tag)
      (fun i => match chk with
        | .error e => .error e
        | .ok _ => .ok (src / 2 ^ (96 * i) % 2 ^ 96 + 2 ^ 96 * tag, [])) id)

/-- PTAG (R363): unchecked. -/
def execPtag (o : VOp) (s : State) : Out :=
  s.vec (.ptag o) (fun s =>
    let tag := s.capB.toNat % 2 ^ 32
    s.eachElem o.msel o.vd 128 (fun i => ({ s.pos o.vs1 i with tag := tag }.bits, [])))

/-- A two-operand position word. -/
def State.pairWord (s : State) (o : VOp) (w : Nat) (k : PKind) (f : Vec3 → Vec3 → Nat → Except PErr Nat) : State :=
  let an := s.anchor s.here
  s.posWord o w (s.pairFrames o k) (fun i => (s.pos o.vs1 i).tag) (fun i => s.posPair s.here an k (s.pos o.vs1 i) (s.pos o.vs2 i) f) id

/-- PSUB (R218, R364). -/
def execPsub (o : VOp) (s : State) : Out := s.vec (.psub o) (fun s => s.pairWord o 128 .sub (sumPos (-1)))
/-- PADD. -/
def execPadd (o : VOp) (s : State) : Out := s.vec (.padd o) (fun s => s.pairWord o 128 .add (sumPos 1))
/-- DADD. -/
def execDadd (o : VOp) (s : State) : Out := s.vec (.dadd o) (fun s => s.pairWord o 128 .disp (sumPos 1))
/-- DADD.SUB. -/
def execDaddSub (o : VOp) (s : State) : Out := s.vec (.daddSub o) (fun s => s.pairWord o 128 .disp (sumPos (-1)))

/-- A squared distance clamped into I64, and whether it clamped (R365). -/
def dist2 (p q : Vec3) : Nat × Bool :=
  let d := vzip (· - ·) p q
  let r := saturate 64 (d.1 * d.1 + d.2.1 * d.2.1 + d.2.2 * d.2.2)
  (wrapN 64 r.1, r.2)

/-- PDIST2 (R365). -/
def execPdist2 (o : VOp) (s : State) : Out :=
  s.vec (.pdist2 o) (fun s =>
    let an := s.anchor s.here
    let f (i : Nat) : PRes := s.posPair s.here an .dist (s.pos o.vs1 i) (s.pos o.vs2 i) (fun p q _ => .ok (dist2 p q).1)
    let sat := (s.active o.msel).any (fun i =>
      match s.posPair s.here an .dist (s.pos o.vs1 i) (s.pos o.vs2 i) (fun p q _ => .ok (bit (dist2 p q).2)) with
      | .ok v => if v.2.any (·.2) then (Config.freeNat (s.draws + 1024)).testBit 0 else decide (v.1 = 1)
      | .error _ => false)
    s.posWord o 64 (s.pairFrames o .dist) (fun i => (s.pos o.vs1 i).tag) f (fun s => s.raiseSat sat))

/-- PCVT (R218, R364): the value's tag, then the target's. -/
def execPcvt (o : VOp) (s : State) : Out :=
  s.vec (.pcvt o) (fun s =>
    let an := s.anchor s.here
    let target := s.capB.toNat % 2 ^ 32
    s.posWord o 128 (s.cvtFrames o) (fun i => (s.pos o.vs1 i).tag)
      (fun i =>
        let x := s.pos o.vs1 i
        match s.current s.here an x.tag with
        | .error e => .error e
        | .ok nx =>
          match s.current s.here an target with
          | .error e => .error e
          | .ok nt =>
            match an with
            | .error e => .error e
            | .ok an =>
              match s.convertPos s.here an x (tagNode x.tag) nx.gen (tagNode target) nt.gen with
              | .error e => .error e
              | .ok (p, cs) => .ok ({ p := p, tag := mkTag (tagDisp x.tag) (tagNode target) nt.gen : Pos }.bits, cs)) id)

/-- VDMIN (R365): the unsigned minimum. -/
def execVdmin (o : VOp) (s : State) : Out :=
  s.vec (.vdmin o) (fun s =>
    let a := s.v o.vs1.toNat
    let b := s.v o.vs2.toNat
    s.eachElem o.msel o.vd 64 (fun i => (min (elemOf a i 64) (elemOf b i 64), [])))

/-- An element of FRHOME (R228): its tag current, or one behind a deleted node's generation; a root's value unchanged; the parent
must be in use. -/
def State.reHome (s : State) (core : Nat) (an : Except PErr Anchor) (x : Pos) : PRes :=
  match an with
  | .error e => .error e
  | .ok an =>
    let n := tagNode x.tag
    let stale : PRes := .error (.fail 0x20 (some x.tag))
    if an.nnode ≤ n then stale
    else
      match s.node core an n with
      | .error e => .error e
      | .ok nd =>
        if !((nd.valid && nd.gen == tagGen x.tag) || (!nd.valid && decide ((tagGen x.tag + 1) % 256 = nd.gen))) then stale
        else if nd.root then .ok (x.bits, [])
        else if nd.valid ∧ nd.parent = n then .error (.fail 0x11 (some (an.nodeVa n)))
        else if an.nnode ≤ nd.parent then .error (.fail 0x20 (some (mkTag false nd.parent 0)))
        else
          match s.node core an nd.parent with
          | .error e => .error e
          | .ok p =>
            if !p.valid then .error (.fail 0x20 (some (mkTag false nd.parent p.gen)))
            else
              match s.convertPos core an x n nd.gen nd.parent p.gen with
              | .error e => .error e
              | .ok (q, cs) => .ok ({ p := q, tag := mkTag (tagDisp x.tag) nd.parent p.gen : Pos }.bits, cs)

/-- FRHOME (R228). -/
def execFrhome (o : VOp) (s : State) : Out :=
  s.vec (.frhome o) (fun s =>
    let an := s.anchor s.here
    s.posWord o 128 (s.homeFrames o) (fun i => (s.pos o.vs1 i).tag) (fun i => s.reHome s.here an (s.pos o.vs1 i)) id)

end Sys2Proof.Machine
end

