-- ==== Sys2Proof/Machine/Matrix.lean ====
section
/-!
DEFINITION. The matrix engine (spec 17): claims, operand loads, multiplication, accumulator moves, markers, and its command queue.
-/

namespace Sys2Proof.Machine

open Sys2Proof

/-! Tensor descriptors (R177, R178). -/

/-- A descriptor from its 32 bytes, given by a reader of fields; none where R177 makes it cause 0x03. -/
def tdescOf (f : Nat → Nat → Nat) : Option TDesc :=
  let base := f 0 8
  let fmt := f 8 1
  let d : TDesc :=
    { loc := decide (base / 2 ^ 63 = 1), base := base % 2 ^ 57, fmt := fmt, nib := f 9 1, blkc := f 10 1, rows := f 12 4
      cols := f 16 4, pitch := f 20 4, sbase := f 24 8 % 2 ^ 57 }
  if bitsN base 62 57 ≠ 0 ∨ !codeOk fmt ∨ f 11 1 ≠ 0 ∨ d.rows = 0 ∨ d.cols = 0 ∨ d.pitch < d.cols ∨ 1 < d.nib ∨ 2 < d.blkc
      ∨ (fmt ≠ 0x10 ∧ (d.nib ≠ 0 ∨ d.blkc ≠ 0 ∨ f 24 8 ≠ 0)) then none
  else some d

def TDesc.w (d : TDesc) : Nat := widthOf d.fmt
def TDesc.isF4 (d : TDesc) : Bool := decide (d.fmt = 0x10)
def TDesc.blk (d : TDesc) : Nat := 16 * 2 ^ d.blkc

/-- The bit address of element (i, j) (R178). -/
def TDesc.bitAddr (d : TDesc) (i j : Nat) : Nat := 8 * d.base + 4 * d.nib + (i * d.pitch + j) * d.w

/-- The bytes of `n` elements of row `i` from column `j`: first byte, byte count, bit offset within the first byte. -/
def TDesc.span (d : TDesc) (i j n : Nat) : Nat × Nat × Nat :=
  let a := d.bitAddr i j
  (a / 8, ceilDiv (a % 8 + n * d.w) 8, a % 8)

/-- The first scale byte of row `i`, block `b`. -/
def TDesc.scaleAddr (d : TDesc) (i b : Nat) : Nat := d.sbase + i * ceilDiv d.cols d.blk + b

/-- The byte ranges of rows and their scales: `n` elements from column `j` of each of the rows. -/
def TDesc.ranges (d : TDesc) (rows : List Nat) (j n : Nat) : List (Nat × Nat) :=
  if n = 0 then []
  else
    rows.flatMap (fun i =>
      let s := d.span i j n
      (s.1, s.2.1) ::
        (if d.isF4 then [(d.scaleAddr i (j / d.blk), (j + n - 1) / d.blk - j / d.blk + 1)] else []))

/-- The lowest and highest byte of ranges. -/
def hull : List (Nat × Nat) → Option (Nat × Nat)
  | [] => none
  | r :: rs => some (rs.foldl (fun p q => (min p.1 q.1, max p.2 (q.1 + q.2 - 1))) (r.1, r.1 + r.2 - 1))

/-! What an engine reads (R406, R418). -/

/-- Bytes of a peer that an engine has received. -/
def gotByte (got : List (Nat × Nat × Option (List Byte))) (node va : Nat) : Option Byte :=
  got.findSome? (fun g =>
    if g.1 = node ∧ g.2.1 ≤ va then (g.2.2.getD [])[va - g.2.1]? else none)
def gotBytes (got : List (Nat × Nat × Option (List Byte))) (node va : Nat) : Nat → Except Nat Nat
  | 0 => .ok 0
  | n + 1 =>
    match gotByte got node va, gotBytes got node (va + 1) n with
    | some b, .ok r => .ok (b.toNat + 256 * r)
    | _, _ => .error 0x40

/-- Pieces read by an engine of a core, peers' bytes from what it has received. -/
def State.readEngine (s : State) (core : Nat) (got : List (Nat × Nat × Option (List Byte))) : List Piece → Except Nat Nat
  | [] => .ok 0
  | p :: r =>
    let one := match p with
      | .peer node va n => gotBytes got node va n
      | _ => s.readBy core p
    match one, s.readEngine core got r with
    | .ok a, .ok b => .ok (a + 2 ^ (8 * p.size) * b)
    | .error c, _ => .error c
    | _, .error c => .error c

/-- Bytes of local or global memory read by an engine of a core under an ASID. -/
def State.readBytes (s : State) (core asid : Nat) (got : List (Nat × Nat × Option (List Byte))) (loc : Bool) (a n : Nat) :
    Except Nat Nat :=
  if n = 0 then .ok 0
  else if loc then (if (s.getCore core).locBad a n then .error 0x40 else .ok (mload (s.getCore core).loc a n))
  else
    match (s.findAs core asid .load a n).2 with
    | .ok ps => s.readEngine core got ps
    | _ => .error 0x11

/-- The reads that an engine makes of global ranges, counted and waking the dies that hold them (R15, R28); lines of sealed units stay as replicas
(R433). -/
def State.countRanges (s : State) (core asid : Nat) (rs : List (Nat × Nat)) : State :=
  rs.foldl (fun s r =>
    match (s.findAs core asid .load r.1 r.2).2 with
    | .ok ps => ps.foldl (fun s p => s.noteRead core p) s
    | _ => s) s

/-- `n` elements of row `i` from column `j`: their bits from bit 0 upward, and those that cannot be read, each with its cause. -/
def State.readRow (s : State) (core asid : Nat) (got : List (Nat × Nat × Option (List Byte))) (d : TDesc) (i j n : Nat) :
    Nat × List (Nat × Nat) :=
  let (a, k, sh) := d.span i j n
  match s.readBytes core asid got d.loc a k with
  | .ok v => (v / 2 ^ sh % 2 ^ (n * d.w), [])
  | .error _ =>
    (List.range n).foldl (fun (acc : Nat × List (Nat × Nat)) e =>
      let (a, k, sh) := d.span i (j + e) 1
      match s.readBytes core asid got d.loc a k with
      | .ok v => (acc.1 + v / 2 ^ sh % 2 ^ d.w * 2 ^ (e * d.w), acc.2)
      | .error c => (acc.1, acc.2 ++ [(e, c)])) (0, [])

/-- `n` scale bytes of row `i` from block `b`, and those that cannot be read. -/
def State.readScales (s : State) (core asid : Nat) (got : List (Nat × Nat × Option (List Byte))) (d : TDesc) (i b n : Nat) :
    Nat × List (Nat × Nat) :=
  match s.readBytes core asid got d.loc (d.scaleAddr i b) n with
  | .ok v => (v, [])
  | .error _ =>
    (List.range n).foldl (fun (acc : Nat × List (Nat × Nat)) e =>
      match s.readBytes core asid got d.loc (d.scaleAddr i (b + e)) 1 with
      | .ok v => (acc.1 + v * 2 ^ (8 * e), acc.2)
      | .error c => (acc.1, acc.2 ++ [(e, c)])) (0, [])

/-! Control words and claims (R400, R403, R405). -/

def ctlRow (c : Word) : Nat := bitsN c.toNat 22 16
def ctlCol (c : Word) : Nat := bitsN c.toNat 40 32
def ctlA (c : Word) : Nat := bitsN c.toNat 4 0
def ctlB (c : Word) : Nat := bitsN c.toNat 9 5
def ctlPitch (c : Word) : Nat := bitsN c.toNat 63 48
def ctlReserved (c : Word) : Bool := decide (bitsN c.toNat 47 41 ≠ 0 ∨ bitsN c.toNat 31 23 ≠ 0 ∨ bitsN c.toNat 15 10 ≠ 0)

/-- A control word whose tile does not fit or whose reserved bits are set (R403): cause 0x03. -/
def ctlBad (c : Word) (rows cols : Nat) : Bool := ctlReserved c || decide (128 < ctlRow c + rows) || decide (512 < ctlCol c + cols)

/-- Whether a step has claimed the bands of rows, and slots. -/
def Step.hasBands (st : Step) (row n : Nat) : Bool :=
  n == 0 || (List.range ((row + n - 1) / 16 - row / 16 + 1)).all (fun b => st.bands.getLsbD (row / 16 + b))
def Step.hasSlots (st : Step) (first n : Nat) : Bool := (List.range n).all (fun i => st.slots.getLsbD (first + i))

/-- A pair of operand formats that an MMA row of R251 lists. -/
def mmaPair (a b : Nat) : Bool :=
  (a == 0x10 && b == 0x10) || (decide (a = 8 ∨ a = 9) && decide (b = 8 ∨ b = 9)) || (a == 0 && b == 0)
    || (a == 0x0B && b == 0x0B) || (a == 0x0A && b == 0x0A) || (a == 0x0C && b == 0x0C)

/-- An operand format of R251's MMA rows. -/
def mmaFmt (c : Nat) : Bool := c == 0x10 || c == 8 || c == 9 || c == 0 || c == 0x0B || c == 0x0A || c == 0x0C

/-- Bytes of an operand tile's codes, and of its scales (R406). -/
def tileCodes (fmt rows tk : Nat) : Nat := ceilDiv (rows * tk * widthOf fmt) 8
def tileScales (fmt blk rows tk : Nat) : Nat := if fmt = 0x10 then rows * ceilDiv tk blk else 0
/-- Slots of a tile. -/
def tileSlots (fmt blk rows tk : Nat) : Nat := ceilDiv (tileCodes fmt rows tk + tileScales fmt blk rows tk) 16384

/-! Cells (R155). -/

def Core.cell (k : Core) (row col : Nat) : Nat := ((tget k.acc (row * 512 + col)).getD 0).toNat
def Core.setCell (k : Core) (row col v : Nat) : Core :=
  { k with
    acc := if v % 2 ^ 32 = 0 then tdel k.acc (row * 512 + col) else tset k.acc (row * 512 + col) (BitVec.ofNat 32 v)
    accBad := nremove k.accBad (row * 512 + col) }

/-- Whether cells hold an uncorrectable error (R271). -/
def Core.cellsBad (k : Core) (cs : List (Nat × Nat)) : Bool := !k.accBad.isEmpty && cs.any (fun c => k.accBad.contains (c.1 * 512 + c.2))

/-- A cell converted to an element of a format (R409): RoundNE, overflow to infinity, canonical NaN; I32 takes the bits. -/
def cellTo (fmt v : Nat) : Nat := if fmt = 2 then v else (floatToFloat (fmt! fmt) .ne false (fFP32.decode v)).1

/-- The formats that a cell converts to. -/
def cellFmt (c : Nat) : Bool := c == 0x0C || c == 0x0B || c == 0x0A || c == 2

/-! Commands (R397-R399, R407, R408). -/

def MatCmd.sew (m : MatCmd) : Nat := vtSew m.vtype
def MatCmd.sew2 (m : MatCmd) : Nat := vtSew2 m.vtype
def MatCmd.blk (m : MatCmd) : Nat := vtBlk m.vtype
def MatCmd.ctl (m : MatCmd) : Word := m.caps.getD 0 0
def MatCmd.sb (m : MatCmd) : Word := m.caps.getD 1 0

/-- K-steps, row groups, and the unit at which the command starts or resumes. -/
def MatCmd.ks (m : MatCmd) : Nat := if m.sew = 0x10 then ceilDiv m.tk m.blk else m.tk
def MatCmd.groups (m : MatCmd) : Nat := ceilDiv m.tm 16
def MatCmd.units (m : MatCmd) : Nat := if m.tn = 0 ∨ m.tk = 0 then 0 else m.ks * m.groups
def MatCmd.start (m : MatCmd) : Nat :=
  if m.mkstep = 0 ∧ m.mrow = 0 then 0 else m.mkstep * m.groups + (m.mrow - ctlRow m.ctl) / 16

/-- The stop point before a unit (R408). -/
def MatCmd.at_ (m : MatCmd) (u : Nat) : Nat × Nat := (u / max m.groups 1, ctlRow m.ctl + 16 * (u % max m.groups 1))

/-- Element bits and scale bytes of the operand runs. -/
def Core.opBits (k : Core) (slot bit w : Nat) : Nat :=
  mload k.opMem (16384 * slot + bit / 8) (ceilDiv (bit % 8 + w) 8) / 2 ^ (bit % 8) % 2 ^ w
def MatCmd.a (m : MatCmd) (k : Core) (i kk : Nat) : Nat := k.opBits (ctlA m.ctl) ((i * m.tk + kk) * widthOf m.sew) (widthOf m.sew)
def MatCmd.b (m : MatCmd) (k : Core) (j kk : Nat) : Nat := k.opBits (ctlB m.ctl) ((j * m.tk + kk) * widthOf m.sew2) (widthOf m.sew2)
def MatCmd.aScale (m : MatCmd) (k : Core) (i kb : Nat) : Nat :=
  if m.scales.isEmpty then mload k.opMem (16384 * ctlA m.ctl + tileCodes m.sew m.tm m.tk + i * ceilDiv m.tk m.blk + kb) 1
  else m.scales.getD (i * (m.tk / m.blk) + kb) 0
def MatCmd.bScale (m : MatCmd) (k : Core) (j kb : Nat) : Nat :=
  mload k.opMem (16384 * ctlB m.ctl + tileCodes m.sew2 m.tn m.tk + j * ceilDiv m.tk m.blk + kb) 1

/-- A block step of two F4 operands on a cell (R242): the exact sum in 64ths, one rounding; a zero sum is −0 only where every product
is. -/
def f4Step (acc sa sb : Nat) (codes : List (Nat × Nat)) : Nat :=
  if sa % 64 = 63 ∨ sb % 64 = 63 then fFP32.qnan
  else
    let ps := codes.map (fun c => f4Eighths (sa / 64) c.1 * f4Eighths (sb / 64) c.2)
    let p := ps.foldl (· + ·) 0
    let minus (t c : Nat) : Bool := decide (f4Eighths (t / 64) c < 0) || (decide (t / 64 ≠ 0) && decide (c = 8))
    let neg := if p = 0 then codes.all (fun c => decide (f4Eighths (sa / 64) c.1 * f4Eighths (sb / 64) c.2 = 0) && (minus sa c.1 != minus sb c.2))
      else decide (p < 0)
    ((addFV .ne (fFP32.decode acc) (.fin neg p.natAbs ((sa % 64 : Nat) + (sb % 64 : Nat) - 70))).into fFP32 .ne).1

/-- One k-step on one cell (R241, R242). -/
def MatCmd.cellStep (m : MatCmd) (k : Core) (i j ks acc : Nat) : Nat :=
  if m.sew = 0x10 then
    f4Step acc (m.aScale k i ks) (m.bScale k j ks)
      ((List.range (min m.blk (m.tk - ks * m.blk))).map (fun n => (m.a k i (ks * m.blk + n), m.b k j (ks * m.blk + n))))
  else if m.sew = 0 then wrapN 32 (toSigned 32 acc + toSigned 8 (m.a k i ks) * toSigned 8 (m.b k j ks))
  else
    ((fmaFV .ne ((fmt! m.sew).decode (m.a k i ks)) ((fmt! m.sew2).decode (m.b k j ks)) (fFP32.decode acc)).into fFP32 .ne).1

/-- The rows of a unit. -/
def MatCmd.unitRows (m : MatCmd) (u : Nat) : List Nat :=
  let g := u % max m.groups 1
  (List.range (min 16 (m.tm - 16 * g))).map (16 * g + ·)

/-- One unit performed. -/
def MatCmd.unit (m : MatCmd) (k : Core) (u : Nat) : Core :=
  let ks := u / max m.groups 1
  let r0 := ctlRow m.ctl
  let c0 := ctlCol m.ctl
  ((m.unitRows u).flatMap (fun i => (List.range m.tn).map (fun j => (i, j)))).foldl
    (fun k c => k.setCell (r0 + c.1) (c0 + c.2) (m.cellStep k c.1 c.2 ks (k.cell (r0 + c.1) (c0 + c.2)))) k

/-- Whether a unit reads a poisoned element or scale (R406), or a damaged cell (R271). -/
def MatCmd.unitBad (m : MatCmd) (k : Core) (u : Nat) : Bool :=
  let pa := k.opPoison.filterMap (fun b => if 16384 * ctlA m.ctl ≤ b then some (b - 16384 * ctlA m.ctl) else none)
  let pb := k.opPoison.filterMap (fun b => if 16384 * ctlB m.ctl ≤ b then some (b - 16384 * ctlB m.ctl) else none)
  let ks := u / max m.groups 1
  let kk := if m.sew = 0x10 then (List.range (min m.blk (m.tk - ks * m.blk))).map (ks * m.blk + ·) else [ks]
  let nb := ceilDiv m.tk m.blk
  let hit (p : List Nat) (fmt rows i : Nat) (scaled : Bool) : Bool :=
    !p.isEmpty &&
      (kk.any (fun k => (List.range (max 1 (widthOf fmt / 8))).any (fun b => p.contains ((i * m.tk + k) * widthOf fmt / 8 + b)))
        || (scaled && p.contains (tileCodes fmt rows m.tk + i * nb + ks)))
  (m.unitRows u).any (fun i => hit pa m.sew m.tm i (m.sew == 0x10 && m.scales.isEmpty))
    || (List.range m.tn).any (fun j => hit pb m.sew2 m.tn j (m.sew2 == 0x10))
    || k.cellsBad ((m.unitRows u).flatMap (fun i => (List.range m.tn).map (fun j => (ctlRow m.ctl + i, ctlCol m.ctl + j))))

/-- Units performed from one upward, at most `n` of them, until one is poisoned: the core, and the next unit. -/
def MatCmd.runUnits (m : MatCmd) : Nat → Core → Nat → Core × Nat
  | 0, k, u => (k, u)
  | n + 1, k, u => if m.units ≤ u ∨ m.unitBad k u then (k, u) else m.runUnits n (m.unit k u) (u + 1)

/-! Acceptance (R397, R399). -/

/-- A queued word: it waits while the queue is full. -/
def State.queuedWord (s : State) (i : Instr) (f : State → State) : Out :=
  s.vword i (fun s => if 8 ≤ s.core.mat.length then s.waitMatrix else f s)

/-- A synchronous word: it waits for the step's earlier commands, withdrawn ones included. -/
def State.syncWord (s : State) (i : Instr) (f : State → State) : Out :=
  s.vword i (fun s => s.afterMatrix f)

/-- What the word in execution kept when it was withdrawn. -/
def State.mark (s : State) : Option Mark := s.cv.entry.marks[s.cv.k]?

/-- The word in execution as a command of its step, with the tile sizes it captures. -/
def State.matCmd (s : State) : MatCmd :=
  let st := s.myStep
  let cv := s.cv
  let order := (s.mark.map (·.order)).getD s.core.accepted
  let resumed := cv.mstop && cv.resumeAt == cv.k
  { word := cv.entry.words.getD cv.k 0
    cell := s.strand.cell
    slot := some s.slot
    cpc := s.wordPc
    caps := [s.capA, s.capB]
    vl := s.vl
    vtype := s.vtype
    convoy := if cv.first = 0 then order else cv.first - 1
    order := order
    tdesc := none
    fut := none
    tm := st.tm
    tn := st.tn
    tk := st.tk
    scales := []
    marker := 0
    drain := none
    mkstep := if resumed then cv.mkstep else 0
    mrow := if resumed then cv.mrow else 0
    io := EngineIo.none }

/-- A command taken into the queue, with its scoreboard entry and the global regions that the vector stream orders after it (R189), and its
word done. -/
def State.accept (s : State) (m : MatCmd) (region : Option (Nat × Nat × Bool)) (globals : List (Nat × Nat × Bool) := []) : State :=
  let fresh := s.mark.isNone
  let s := s.modHere (fun k => { k with
    mat := k.mat ++ [m]
    accepted := if fresh then k.accepted + 1 else k.accepted
    board := match region with
      | some (lo, hi, w) => k.board ++ [{ cell := m.cell, engine := engMatrix, id := m.order, lo := lo, hi := hi, write := w }]
      | none => k.board
    gboard := k.gboard ++ globals.map (fun r =>
      { cell := m.cell, engine := engMatrix, id := m.order, lo := r.1, hi := r.2.1, write := r.2.2 }) })
  let s := { s with strand := { s.strand with cv := { s.strand.cv with first := if s.cv.first = 0 then m.order + 1 else s.cv.first } } }
  (s.later .matrixCommandFinish { Input.none with core := s.here }).wordDone

/-- A local region that must wait for an outstanding entry (R119), or for a free entry of the 64 (R120), else `f`. -/
def State.withRegion (s : State) (rs : List (Nat × Nat × Bool)) (f : State → State) : State :=
  match rs.findSome? (fun r => overlapIn s.core.board s.strand.cell r.1 r.2.1 r.2.2) with
  | some b => s.hurryRegion s.here b
  | none =>
    match s.core.board with
    | b :: _ => if 64 < s.core.board.length + rs.length then s.hurryRegion s.here b else f s
    | [] => f s

/-- Global regions of a command, which wait for the step's earlier commands that touch the same bytes, and for its writes to them that are on their
way to other nodes (R189, R197), then `f`. -/
def State.withGlobals (s : State) (rs : List (Nat × Nat × Bool)) (f : State → State) : State :=
  match rs.findSome? (fun r => overlapIn s.core.gboard s.strand.cell r.1 r.2.1 r.2.2) with
  | some b => s.hurryRegion s.here b
  | none => if rs.any (fun r => s.rangeWrites s.here s.strand.cell r.1 r.2.1) then s.stall false else f s

/-! The words. -/

/-- TSHAPE (R404). -/
def execTshape (o : VOp) (s : State) : Out :=
  s.syncWord (.tshape o) (fun s =>
    let a := s.capA.toNat
    let k := s.capB.toNat
    if a / 2 ^ 32 ≠ 0 ∨ k / 2 ^ 32 ≠ 0 ∨ !mmaPair s.sew s.sew2 then s.faultNow 0x03 0
    else
      let m := a % 2 ^ 16
      let n := a / 2 ^ 16
      let tm := min m 128
      let tn := min n 512
      let b := if s.sew = 0x10 then 5 else max (widthOf s.sew) (widthOf s.sew2)
      let g := if s.sew = 0x10 then vtBlk s.vtype else 16
      let lim := min 1024 (1048576 / (max tm tn * b)) / g * g
      let (tm, tn, tk) := if m = 0 ∨ n = 0 ∨ k = 0 then (0, 0, 0) else (tm, tn, min k lim)
      let s := s.modHere (fun c => c.modStep s.strand.cell (fun st => { st with tm := tm, tn := tn, tk := tk }))
      (s.putX o.vd (BitVec.ofNat 64 (tm + tn * 2 ^ 16 + tk * 2 ^ 32))).wordDone)

/-- TCLAIM (R405): all or nothing. -/
def execTclaim (o : VOp) (s : State) : Out :=
  s.syncWord (.tclaim o) (fun s =>
    let m := s.capA.toNat
    if m / 2 ^ 40 ≠ 0 then s.faultNow 0x03 0
    else
      let slots := BitVec.ofNat 32 m
      let bands := BitVec.ofNat 8 (m / 2 ^ 32)
      let others := s.core.steps.filter (fun p => p.1 != s.strand.cell)
      let ok := others.all (fun p => decide (p.2.slots &&& slots = 0) && decide (p.2.bands &&& bands = 0))
      let s := if ok then
          s.modHere (fun c => c.modStep s.strand.cell (fun st => { st with slots := st.slots ||| slots, bands := st.bands ||| bands }))
        else s
      (s.putX o.vd (flag01 ok)).wordDone)

/-- TRELEASE (R405): a queued word. -/
def execTrelease (o : VOp) (s : State) : Out :=
  s.queuedWord (.trelease o) (fun s => if s.capA.toNat / 2 ^ 40 ≠ 0 then s.faultNow 0x03 0 else s.accept s.matCmd none)

/-- Whether an F4 operand's rows start on block boundaries (R179). -/
def TDesc.aligned (d : TDesc) (rows : List Nat) : Bool := rows.all (fun i => decide ((2 * d.base + d.nib + i * d.pitch) % d.blk = 0))

/-- A tile's rows that lie in the tensor, and the columns of each (R406). -/
def TDesc.tileRows (d : TDesc) (row0 n : Nat) : List Nat := (List.range (min n (d.rows - row0))).map (row0 + ·)
def TDesc.tileCols (d : TDesc) (col0 n : Nat) : Nat := min n (d.cols - col0)

/-- Global byte ranges as an engine names them at issue (R174): none, or the first miss (0x10), refusal or peer-homed byte, with its address. -/
def State.checkRanges (s : State) (core : Nat) (a : Access) (peers : Bool) : List (Nat × Nat) → State × Option (Nat × Nat)
  | [] => (s, none)
  | r :: rs =>
    match s.find core a r.1 r.2 with
    | (s, .miss va) => (s, some (0x10, va))
    | (s, .prot c va) => (s, some (c, va))
    | (s, .ok ps) =>
      match if peers then none else anyPeer ps with
      | some (_, va) => (s, some (0x11, va))
      | none => s.checkRanges core a peers rs

/-- TLOAD (R406): the descriptor is read and checked, the tags stand from acceptance. -/
def execTload (o : VOp) (s : State) : Out :=
  s.queuedWord (.tload o) (fun s =>
    let a := s.capA.toNat
    let org := s.capB.toNat
    let st := s.myStep
    let shape := org / 2 ^ 63
    let row0 := org % 2 ^ 32
    let col0 := bitsN org 62 32
    let rows := if shape = 1 then st.tn else st.tm
    if a % 8 ≠ 0 then s.faultNow 0x11 a
    else if !s.core.localOk false a 32 then s.faultNow 0x14 a
    else
      match overlapIn s.core.board s.strand.cell a (a + 31) false with
      | some b => s.hurryRegion s.here b
      | none =>
        let kept := s.mark.bind (·.tdesc)
        if kept.isNone ∧ s.core.locBad a 32 then s.faultNow 0x40 a
        else
          match (match kept with
            | some d => some d
            | none => tdescOf (fun off n => mload s.core.loc (a + off) n)) with
          | none => s.faultNow 0x03 0
          | some d =>
            let used := d.tileRows row0 rows
            let cols := d.tileCols col0 st.tk
            let rs := d.ranges used col0 cols
            let n := tileSlots d.fmt d.blk rows st.tk
            let first := o.vd.toNat
            if !mmaFmt d.fmt ∨ 32 < first + n then s.faultNow 0x03 0
            else if !st.hasSlots first n then s.faultNow 0x11 0
            else if d.isF4 ∧ (col0 % d.blk ≠ 0 ∨ !d.aligned used) then s.faultNow 0x13 0
            else
              let go (s : State) : State :=
                let tag : SlotTag := { fmt := d.fmt, blk := if d.isF4 then d.blk else 0, shape := shape, rows := rows, tk := st.tk, first := first }
                let s := s.modHere (fun k => { k with tags := (List.range n).foldl (fun t i => tset t (first + i) tag) k.tags })
                let h := (hull rs).map (fun h => (h.1, h.2, false))
                s.accept { s.matCmd with tdesc := some d } (if d.loc then h else none) (if d.loc then [] else h.toList)
              if d.loc then
                match rs.find? (fun r => !s.core.localOk false r.1 r.2) with
                | some r => s.faultNow 0x14 r.1
                | none => s.withRegion ((hull rs).toList.map (fun h => (h.1, h.2, false))) go
              else
                match s.checkRanges s.here .load false rs with
                | (s, some (c, va)) => s.stopConvoy c va
                | (s, none) => s.withGlobals ((hull rs).toList.map (fun h => (h.1, h.2, false))) go)

/-- Whether the run at a slot carries a tag (R407). -/
def Core.runIs (k : Core) (first fmt blk shape rows tk : Nat) : Bool :=
  (List.range (tileSlots fmt blk rows tk)).all (fun i =>
    match tget k.tags (first + i) with
    | some t => t.fmt == fmt && t.blk == blk && t.shape == shape && t.rows == rows && t.tk == tk && t.first == first
    | none => false)

/-- MMA and MMA.S at acceptance (R407). -/
def State.mmaWord (s : State) (i : Instr) (scales : State → Option (List Nat)) : Out :=
  s.queuedWord i (fun s =>
    let m := s.matCmd
    let st := s.myStep
    let c := m.ctl
    let blk := if m.sew = 0x10 then m.blk else 0
    if ctlBad c m.tm m.tn ∨ !mmaPair m.sew m.sew2 then s.faultNow 0x03 0
    else if !s.core.runIs (ctlA c) m.sew blk 0 m.tm m.tk ∨ !s.core.runIs (ctlB c) m.sew2 blk 1 m.tn m.tk then s.faultNow 0x03 0
    else
      match scales s with
      | none => s.faultNow 0x03 0
      | some sc =>
        if !st.hasSlots (ctlA c) (tileSlots m.sew (max blk 1) m.tm m.tk) ∨ !st.hasSlots (ctlB c) (tileSlots m.sew2 (max blk 1) m.tn m.tk)
            ∨ (m.tn ≠ 0 ∧ !st.hasBands (ctlRow c) m.tm) then s.faultNow 0x11 0
        else s.accept { m with scales := match s.mark with
          | some k => k.scales
          | none => sc } none)

/-- MMA. -/
def execMma (o : VOp) (s : State) : Out := s.mmaWord (.mma o) (fun _ => some [])

/-- MMA.S: A's block scales come from vs, copied at acceptance. -/
def execMmaS (o : VOp) (s : State) : Out :=
  s.mmaWord (.mmaS o) (fun s =>
    let st := s.myStep
    let blk := vtBlk s.vtype
    if s.sew ≠ 0x10 ∨ st.tk % blk ≠ 0 ∨ s.vl ≠ st.tm * st.tk then none
    else
      let bits := s.v o.vs2.toNat
      some ((List.range (st.tm * (st.tk / blk))).map (fun n => elemOf bits n 8)))

/-- MZERO (R409). -/
def execMzero (o : VOp) (s : State) : Out :=
  s.queuedWord (.mzero o) (fun s =>
    let m := s.matCmd
    if ctlBad m.ctl m.tm m.tn then s.faultNow 0x03 0
    else if m.tn ≠ 0 ∧ !s.myStep.hasBands (ctlRow m.ctl) m.tm then s.faultNow 0x11 0
    else s.accept m none)

/-- The moves between cells and a vector register (R409). -/
def State.moveWord (s : State) (i : Instr) (f : State → Nat → State) : Out :=
  s.syncWord i (fun s =>
    let c := s.capA
    let x := ctlRow c * 512 + ctlCol c
    if ctlReserved c ∨ ¬ (s.sew = 0x0C ∨ s.sew = 2) ∨ 65536 < x + s.vl then s.faultNow 0x03 0
    else if s.vl ≠ 0 ∧ !s.myStep.hasBands (x / 512) ((x + s.vl - 1) / 512 - x / 512 + 1) then s.faultNow 0x11 0
    else f s x)

/-- MACC2V. -/
def execMacc2v (o : VOp) (s : State) : Out :=
  s.moveWord (.macc2v o) (fun s x => match (s.active o.msel).find? (fun i => s.core.accBad.contains (x + i)) with
    | some i => s.faultAt 0x40 i 0
    | none => (s.putV o.vd.toNat 32 ((s.active o.msel).map (fun i => (i, s.core.cell ((x + i) / 512) ((x + i) % 512))))).wordDone)

/-- MV2ACC. -/
def execMv2acc (o : VOp) (s : State) : Out :=
  s.moveWord (.mv2acc o) (fun s x =>
    let bits := s.v o.vd.toNat
    (s.modHere (fun k =>
      (s.active o.msel).foldl (fun k i => k.setCell ((x + i) / 512) ((x + i) % 512) (elemOf bits i 32)) k)).wordDone)

/-- MACC2L's destination pitch. -/
def MatCmd.pitch (m : MatCmd) : Nat := if ctlPitch m.ctl = 0 then m.tn * widthOf m.sew / 8 else ctlPitch m.ctl

/-- MACC2L (R409). -/
def execMacc2l (o : VOp) (s : State) : Out :=
  s.queuedWord (.macc2l o) (fun s =>
    let m := s.matCmd
    let a := m.sb.toNat
    let es := widthOf m.sew / 8
    let n := if m.tm = 0 ∨ m.tn = 0 then 0 else (m.tm - 1) * m.pitch + m.tn * es
    if ctlBad m.ctl m.tm m.tn ∨ !cellFmt m.sew ∨ ctlPitch m.ctl % max es 1 ≠ 0 then s.faultNow 0x03 0
    else if a % max es 1 ≠ 0 ∨ !s.core.localOk false a n then s.faultNow 0x14 a
    else if m.tn ≠ 0 ∧ !s.myStep.hasBands (ctlRow m.ctl) m.tm then s.faultNow 0x11 0
    else if n = 0 then s.accept m none
    else s.withRegion [(a, a + n - 1, true)] (fun s => s.accept s.matCmd (some (a, a + n - 1, true))))

/-- MAMAX (R410). -/
def execMamax (o : VOp) (s : State) : Out :=
  s.queuedWord (.mamax o) (fun s =>
    let m := s.matCmd
    let a := m.sb.toNat
    if ctlBad m.ctl m.tm m.tn ∨ m.sew ≠ 0x0C then s.faultNow 0x03 0
    else if m.tn ≠ 0 ∧ !s.myStep.hasBands (ctlRow m.ctl) m.tm then s.faultNow 0x11 0
    else if a % 4 ≠ 0 then s.faultNow 0x11 a
    else
      match s.find s.here .reduce a 4 with
      | (s, .miss va) => s.missConvoy va
      | (s, .prot c va) => s.faultNow c va
      | (s, .ok _) => s.withGlobals [(a, a + 3, true)] (fun s => s.accept s.matCmd none [(a, a + 3, true)]))

/-- MMARK (R411): sd receives the marker word; a reissued one keeps its number and writes nothing. -/
def execMmark (o : VOp) (s : State) : Out :=
  s.queuedWord (.mmark o) (fun s =>
    let a := s.capA.toNat
    let go (s : State) (fut : Option Nat) : State :=
      match s.mark with
      | some k => s.accept { s.matCmd with marker := k.marker, fut := fut } none
      | none =>
        let n := s.myStep.mmark
        let s := s.modHere (fun c => c.modStep s.strand.cell (fun st => { st with mmark := n + 1 }))
        let s := s.putX o.vd (BitVec.ofNat 64 n)
        s.accept { s.matCmd with marker := n, fut := fut } none
    if a = 0 then go s none
    else s.futPlace a (fun s va => s.missConvoy va) (fun s c => s.faultNow c a) (fun s loc => go s (some loc)))

/-! Performing a command. -/

/-- Records of a core made ready in registration order. -/
def Core.wake (k : Core) (p : Record → Bool) : Core := ((k.records.filter p).map (·.dseq)).foldl Core.makeReady k

/-- Records of a step that wait for a marker of an engine up to a number (R412), made ready. -/
def Core.wakeMarkers (k : Core) (cell eng n : Nat) : Core :=
  k.wake (fun r => r.cell == cell && match r.on with
    | .marker w => w / 2 ^ 60 == eng && decide (w % 2 ^ 48 ≤ n)
    | _ => false)

/-- A tile loaded into its slots (R406): codes packed row by row, then scale bytes; what lies outside the tensor is zero. -/
def State.fillTile (s : State) (core : Nat) (m : MatCmd) (d : TDesc) (first shape row0 col0 : Nat) : State :=
  let asid := (s.getCore core).asid.toNat
  let rows := if shape = 1 then m.tn else m.tm
  let w := d.w
  let cols := d.tileCols col0 m.tk
  let nb := ceilDiv m.tk d.blk
  let used := if cols = 0 then [] else d.tileRows row0 rows
  let code := tileCodes d.fmt rows m.tk
  let base := 16384 * first
  let total := code + tileScales d.fmt d.blk rows m.tk
  let step (acc : Nat × List Nat) (i : Nat) : Nat × List Nat :=
    let r := s.readRow core asid [] d i col0 cols
    let at_ := (i - row0) * m.tk
    let bad := r.2.flatMap (fun e => (List.range (max 1 (w / 8))).map (fun b => (at_ + e.1) * w / 8 + b))
    (acc.1 + r.1 * 2 ^ (at_ * w), acc.2 ++ bad)
  let (codes, bad) := used.foldl step (0, [])
  let sstep (acc : Nat × List Nat) (i : Nat) : Nat × List Nat :=
    let n := ceilDiv cols d.blk
    let r := s.readScales core asid [] d i (col0 / d.blk) n
    let at_ := (i - row0) * nb
    (acc.1 + r.1 * 2 ^ (8 * at_), acc.2 ++ r.2.map (fun e => code + at_ + e.1))
  let (sc, sbad) := if d.isF4 then used.foldl sstep (0, []) else (0, [])
  let bits := codes + sc * 2 ^ (8 * code)
  let s := if d.loc then s else s.countRanges core asid (d.ranges used col0 cols)
  s.modCore core (fun k => { k with
    opMem := mstore k.opMem base (bytesOf total bits)
    opPoison := ((bad ++ sbad).map (base + ·)).foldl ninsert (k.opPoison.filter (fun b => decide (b < base) || decide (base + total ≤ b))) })

/-- What a performed command leaves: done, stopped before a unit with a cause and FADDR, or still in execution, for an answer of another module. -/
inductive MatEnd where
  | done (s : State)
  | waits (s : State)
  | stopped (s : State) (unit cause faddr : Nat)
  deriving DecidableEq, Repr

/-- The cells of a command, row by row. -/
def cellList (row col rows cols : Nat) : List (Nat × Nat) :=
  (List.range rows).flatMap (fun i => (List.range cols).map (fun j => (row + i, col + j)))

/-- What names a matrix command's traffic among an engine's requests (log 12). -/
def matKey (order : Nat) : Nat := 2 ^ 62 + order

/-- A command performed (R407-R411). A MAMAX at another module stays in execution until its home has performed the atomic (R410). -/
def State.performMat (s : State) (core : Nat) (m : MatCmd) : MatEnd :=
  let k := s.getCore core
  let r0 := ctlRow m.ctl
  let c0 := ctlCol m.ctl
  match m.drain with
  | some j =>
    let ctl := BitVec.ofNat 64 j.ctl
    let d := j.dsts.getD 0 j.src
    let cells := (cellList (ctlRow ctl) (ctlCol ctl) d.rows d.cols).map (fun c => if k.cellsBad [c] then 2 ^ 32 else k.cell c.1 c.2)
    .done (s.setCore core { k with copies := k.copies.map (fun c =>
      if c.cell = j.cell ∧ c.chan = j.chan ∧ c.id = j.id then { c with cells := cells } else c) })
  | none =>
    match decode m.word with
    | .ok (.trelease _) =>
      let a := m.ctl.toNat
      let st := k.step m.cell
      let slots := BitVec.ofNat 32 a &&& st.slots
      let k := k.modStep m.cell (fun st => { st with slots := st.slots &&& ~~~ slots, bands := st.bands &&& ~~~ (BitVec.ofNat 8 (a / 2 ^ 32)) })
      .done (s.setCore core { k with tags := k.tags.filter (fun p => !slots.getLsbD p.1) })
    | .ok (.tload o) =>
      let org := m.sb.toNat
      match m.tdesc with
      | some d => .done (s.fillTile core m d o.vd.toNat (org / 2 ^ 63) (org % 2 ^ 32) (bitsN org 62 32))
      | none => .done s
    | .ok (.mma _) | .ok (.mmaS _) =>
      let (k, u) := m.runUnits (m.units - m.start) k m.start
      let s := s.setCore core k
      if u < m.units then .stopped s u 0x40 0 else .done s
    | .ok (.mzero _) => .done (s.setCore core ((cellList r0 c0 m.tm m.tn).foldl (fun k c => k.setCell c.1 c.2 0) k))
    | .ok (.macc2l _) =>
      let w := widthOf m.sew
      if k.cellsBad (cellList r0 c0 m.tm m.tn) then .stopped s 0 0x40 0
      else
      .done ((List.range m.tm).foldl (fun s i =>
        if m.tn = 0 then s
        else
          let bits := (List.range m.tn).foldl (fun a j => a + cellTo m.sew (k.cell (r0 + i) (c0 + j)) % 2 ^ w * 2 ^ (j * w)) 0
          s.engineWrite core (m.sb.toNat + i * m.pitch) (bytesOf (m.tn * w / 8) bits)) s)
    | .ok (.mamax _) =>
      let x := (cellList r0 c0 m.tm m.tn).foldl (fun a c => amaxBits fFP32 a (k.cell c.1 c.2)) 0
      if k.cellsBad (cellList r0 c0 m.tm m.tn) then .stopped s 0 0x40 0
      else
      match (s.find core .reduce m.sb.toNat 4).2 with
      | .ok [.here pa _ _ _ _] =>
        match s.atomicPhys pa 4 (fun old => amaxBits fFP32 old x) with
        | .ok (_, s) => .done s
        | .error c => .stopped s 0 c m.sb.toNat
      | .ok [.peer node va _] =>
        if !m.io.written then
          let s := s.modCore core (fun k => { k with
            mat := k.mat.map (fun n => if n.order = m.order then { n with io := { n.io with written := true } } else n) })
          .waits (s.request node opAtomic k.asid.toNat va (bytesOf 8 0x1B ++ bytesOf 8 x) (.engine core m.cell (matKey m.order))).2
        else if s.fabric.out.any (fun p => p.purpose == .engine core m.cell (matKey m.order)) then .waits s
        else if m.io.cause = 0 then .done s
        else .stopped s 0 m.io.cause m.sb.toNat
      | _ => .stopped s 0 0x11 m.sb.toNat
    | .ok (.mmark _) =>
      let s := s.setCore core (k.modStep m.cell (fun st => { st with mpassed := max st.mpassed m.marker }))
      let s := match m.fut with
        | some loc => s.resolveLoc loc (some (BitVec.ofNat 64 m.marker)) core m.cell m.cpc
        | none => s
      .done (s.modCore core (fun k => k.wakeMarkers m.cell 0 m.marker))
    | _ => .done s

/-- The command that the engine performs next (R398): the first in the queue that no earlier unfinished command of its step holds. -/
def State.nextMat (s : State) (core : Nat) : Option MatCmd :=
  let k := s.getCore core
  k.mat.find? (fun m =>
    k.mat.all (fun n => n.cell != m.cell || decide (m.order ≤ n.order)) && (s.withdrawn core m.cell).all (fun o => decide (m.order < o)))

/-- A command finished: it leaves the queue, its scoreboard entry retires, an ended step's claims may be released (R400), and MROW and
MKSTEP read 0 again (R401). -/
def State.finishMat (s : State) (core : Nat) (m : MatCmd) : State :=
  s.modCore core (fun k =>
    let k := { k with
      mat := k.mat.filter (fun n => n.order != m.order)
      board := k.board.filter (fun r => !(r.engine == engMatrix && r.id == m.order))
      gboard := k.gboard.filter (fun r => !(r.engine == engMatrix && r.id == m.order))
      slots := match m.slot with
        | some sl => k.slots.map (fun (p : Nat × Strand) =>
            if p.1 = sl then (p.1, { p.2 with regs := { p.2.regs with mrow := 0, mkstep := 0 } }) else p)
        | none => k.slots }
    k.settleStep m.cell)

/-! Where a forced stop finds a convoy (R262, R435). -/

/-- What is left of the open convoy: whole and not started when nothing of it has been performed, else its waiting word and those
after it, the words before having retired as a convoy of their own; with the restart point that a resumed entry keeps. -/
def State.splitConvoy (s : State) : List ConvoyEntry × State :=
  let cv := s.strand.cv
  if !cv.live then ([], s)
  else if cv.k = 0 then
    let keep := cv.mstop || cv.estart != 0 || cv.resumeAt != 0
    ([{ cv.entry with started := keep }],
      { s with strand := { s.strand with
        cv := Convoy.closed
        resume :=
          if cv.mstop then some ((s.strand.resume.map (·.1)).getD 0, (s.strand.resume.map (·.2.1)).getD 0, true, cv.mkstep, cv.mrow)
          else if keep then some (cv.resumeAt, cv.estart, false, 0, 0)
          else s.strand.resume } })
  else
    let keep := cv.resumeAt == cv.k && cv.estart != 0
    let s := if keep then { s with strand := { s.strand with resume := some (0, cv.estart, false, 0, 0) } } else s
    let rest : ConvoyEntry := { cv.entry with
      words := cv.entry.words.drop cv.k
      cpc := s.wordPc
      started := keep
      caps := cv.entry.caps.drop (2 * cv.k)
      marks := cv.entry.marks.drop cv.k }
    ([rest], s.retire)

/-- Whether a strand can stop where it stands: between convoys, before the first word of one, or at a word that waits on a local hazard
(R435). A convoy that a record restarts at a later word counts as in execution until it has reached that word, since the record of a forced leave
names none (R257 FWORD, R266). -/
def Strand.canStop (st : Strand) : Bool :=
  st.trapping.isNone && if st.cv.live then
    (st.cv.k == 0 && st.cv.resumeAt == 0) || (st.waiting.isSome && decide (st.cv.resumeAt ≤ st.cv.k))
  else !st.resume.any (fun r => r.1 != 0)

/-- What a strand waits for passes to the record that takes its place (R379): the answer that its slot held, or its request. -/
def Core.holdFor (k : Core) (sl dseq : Nat) (held : Option Answer) (w : AnswerWait) : Core :=
  { k with
    answers := match held with
      | some a => tset (tdel k.answers (answerKey sl)) dseq a
      | none => tdel k.answers (answerKey sl)
    awaiting := match w with
      | .packet node q => tset k.awaiting dseq (node, q)
      | _ => k.awaiting }

/-- Whether a strand of a core, in a slot, can leave by force now: where it can stop, and no MAMAX of it is on its way (R408). -/
def Core.mayStop (k : Core) (sl : Nat) (st : Strand) : Bool := st.canStop && !k.mat.any (fun m => m.slot == some sl && m.io.written)

/-- A fault met by an attached command (R399): its strand takes a trap with the command, stopped before the unit, as entry 0. What the strand
waits for stays with the record (R379). -/
def State.matFault (s : State) (m : MatCmd) (u cause faddr : Nat) : State :=
  let (ks, row) := m.at_ u
  let s := s.modHere (fun k => { k with
    mat := k.mat.filter (fun n => n.order != m.order)
    board := k.board.filter (fun r => !(r.engine == engMatrix && r.id == m.order))
    gboard := k.gboard.filter (fun r => !(r.engine == engMatrix && r.id == m.order)) })
  let (rest, s) := s.splitConvoy
  let (es, _, s) := s.withdraw
  let w := s.strand.wait
  let held := s.heldAnswer
  let n := s.core.dseq
  let e : ConvoyEntry :=
    { words := [m.word]
      cpc := m.cpc
      started := true
      vl := m.vl
      vtype := m.vtype
      caps := m.caps
      marks := [{ marker := m.marker, order := m.order, scales := m.scales, tdesc := m.tdesc }]
      damaged := false }
  (s.trap { TrapBlock.none with cause := cause, fpc := m.cpc, faddr := BitVec.ofNat 64 faddr, mstop := true, mkstep := ks, mrow := row } s.strand.pc
    (e :: es ++ rest ++ s.strand.queue)).modCore s.here (·.holdFor s.slot n held w)

/-- The trap of a strand that waited for a command to finish is taken (R399). -/
def State.takeTrap (s : State) (core : Nat) (m : MatCmd) : State :=
  match m.slot.bind (fun sl => (tget (s.getCore core).slots sl).bind (fun st => st.trapping.map (fun t => (sl, t)))) with
  | none => s
  | some (sl, t) =>
    let s := s.focus core sl
    let q := s.strand.queue
    { s with strand := { s.strand with trapping := none, queue := [] } }.trap t.1 t.2 q

/-- MATRIX_COMMAND_FINISH (R397-R399, R407-R411): the engine of a core performs its next command, which then has finished, or which
stops before a unit that faults; one that waits for another module is looked at again. Operand: core. -/
def execMatrixCommandFinish (s : State) : Out :=
  let core := s.inp.core
  .next
    (let s := s.park
    match s.nextMat core with
    | none => s
    | some m =>
      match s.performMat core m with
      | .done s => (s.finishMat core m).takeTrap core m
      | .waits s => s.later .matrixCommandFinish { Input.none with core := core }
      | .stopped t u cause faddr =>
        match m.slot with
        | none =>
          let (ks, row) := m.at_ u
          (t.noticeMat core m.cell cause m.cpc faddr ks row).finishMat core m
        | some sl =>
          if (s.focus core sl).strand.canStop then (t.focus core sl).matFault m u cause faddr
          else (s.focus core sl).later .matrixCommandFinish { Input.none with core := core })

/-! Waiting for a marker (R396, R412). -/

/-- The reference of the record that registered last on an object of its step (R137), 0 where none waits there. -/
def Core.lastOn (k : Core) (node core cell : Nat) (on : WaitOn → Bool) : Nat :=
  (((k.records.filter (fun r => r.cell == cell && on r.on)).getLast?).map (·.ref node core)).getD 0

/-- VWAIT.L: the strand leaves until the named marker of its step has passed. -/
def execVwaitL (o : LOp) (s : State) : Out :=
  .next
    (if o.hint = 3 then s.trapScalar 0x02 0
    else
      s.afterHeld fun s =>
        let w := (s.x o.rs1).toNat
        let st := s.myStep
        let eng := w / 2 ^ 60
        let n := w % 2 ^ 48
        let issued := if eng = 0 then st.mmark else if eng = 1 then st.smark else st.xmark
        let passed := if eng = 0 then st.mpassed else if eng = 1 then st.spassed else st.xpassed
        if 2 < eng ∨ bitsN w 59 48 ≠ 0 ∨ n = 0 ∨ issued ≤ n then s.trapScalar 0x11 0
        else if n ≤ passed then s.next
        else
          let r := s.leaveRecord o.ls.toNat none [] 0 (s.strand.pc + 4)
          match s.leaveWith { r with on := .marker w, next := s.core.lastOn s.fabric.node s.here s.strand.cell (· == .marker w) } with
          | .error s => s
          | .ok (s, _) => s)

end Sys2Proof.Machine
end

