-- ==== Sys2Proof/Machine/Engines.lean ====
section
/-!
DEFINITION. The ENGINE words (spec 17) and the copy, stream and transform engines, publishing, and the stevedores' tile streams.
-/

namespace Sys2Proof.Machine

open Sys2Proof

/-! What an ENGINE word reads before it starts (R414, R416). -/

/-- A word in execution whose bytes lie on a peer that answered with a pager future of its own: the answer is taken, it waits there and executes
again (R42). It leaves only once no MAMAX of it is on its way (R399). -/
def State.peerPagerConvoy (s : State) (node pa faddr : Nat) : State :=
  if s.amaxOut then s.stall false
  else
  let core := s.here
  let (t, es, s) := s.takeAnswer.faultEntries { TrapBlock.none with cause := 0x10, faddr := BitVec.ofNat 64 faddr, fut := pa }
  let r := s.fullRecord .fault s.strand.pc t es
  s.vacate.hangOnPeer core r node pa

/-- The bytes that a peer has returned for the word in execution are kept with it. -/
def State.claimBytes (s : State) (a : Nat) (f : State → State) : State :=
  match s.heldAnswer with
  | some (.bytes node va bs) =>
    let s := s.takeAnswer
    f { s with strand := { s.strand with fetched := s.strand.fetched ++ [(node, va, some bs)] } }
  | some (.fail c _) => s.takeAnswer.faultNow c a
  | some (.pager node pa) => s.peerPagerConvoy node pa a
  | some (.value _) => f s
  | none => f s

/-- The first piece on a peer that has not been fetched. -/
def unfetched (got : List (Nat × Nat × Option (List Byte))) (ps : List Piece) : Option (Nat × Nat × Nat) :=
  ps.findSome? (fun p => match p with
    | .peer node va n => if (gotBytes got node va n).toOption.isSome then none else some (node, va, n)
    | _ => none)

/-- `n` bytes that an ENGINE word reads at issue: in local memory below the mooring area, or in ordinary pages. -/
def State.engineRead (s : State) (loc : Bool) (a n : Nat) (f : State → Nat → State) : State :=
  if n = 0 then f s 0
  else if loc then
    if !s.core.localOk false a n then s.faultNow 0x14 a
    else
      match overlapIn s.core.board s.strand.cell a (a + n - 1) false with
      | some b => s.hurryRegion s.here b
      | none => if s.core.locBad a n then s.faultNow 0x40 a else f s (mload s.core.loc a n)
  else
    match s.find s.here .load a n with
    | (s, .miss va) => s.missConvoy va
    | (s, .prot c va) => s.faultNow c va
    | (s, .ok ps) =>
      s.withGlobals [(a, a + n - 1, false)] fun s =>
      if ps.any (fun p => match p with
        | .here _ _ cls _ _ => cls != 0
        | .host _ _ _ => true
        | .peer _ _ _ => false) then s.faultNow 0x11 a
      else
        s.claimBytes a (fun s =>
          match unfetched s.strand.fetched ps with
          | some (node, va, k) =>
            let (q, s) := s.request node opRead s.core.asid.toNat va (bytesOf 8 k) (.fetch (s.core.ctx.getD 64) s.here)
            s.await node q
          | none =>
            let s := s.countPieces ps
            match s.readEngine s.here s.strand.fetched ps with
            | .ok v => f s v
            | .error c => s.faultNow c a)

/-- A field of `n` bytes at offset `off` of bytes read. -/
def fieldAt (v off n : Nat) : Nat := v / 2 ^ (8 * off) % 2 ^ (8 * n)

/-- A tensor descriptor that an ENGINE word names (R177). -/
def State.engineTdesc (s : State) (loc : Bool) (a : Nat) (f : State → TDesc → State) : State :=
  if a % 8 ≠ 0 then s.faultNow 0x11 a
  else
    s.engineRead loc a 32 (fun s v =>
      match tdescOf (fieldAt v) with
      | some d => f s d
      | none => s.faultNow 0x03 0)

/-- Descriptors 32 bytes apart. -/
def State.engineTdescs (s : State) (loc : Bool) (a : Nat) : Nat → (State → List TDesc → State) → State
  | 0, f => f s []
  | n + 1, f => s.engineTdesc loc a (fun s d => s.engineTdescs loc (a + 32) n (fun s ds => f s (d :: ds)))

/-- A future that an ENGINE word names, or none (R147). -/
def State.engineFut (s : State) (named : Bool) (a : Nat) (f : State → Option Nat → State) : State :=
  if named then s.futPlace a (fun s va => s.missConvoy va) (fun s c => s.faultNow c a) (fun s loc => f s (some loc))
  else f s none

/-- Ranges of a command, local (R157) or global with each page translated (R174), then `f`. -/
def State.engineRanges (s : State) (loc : Bool) (a : Access) (rs : List (Nat × Nat)) (f : State → State) : State :=
  if loc then
    match rs.find? (fun r => !s.core.localOk false r.1 r.2) with
    | some r => s.faultNow 0x14 r.1
    | none => f s
  else
    match s.checkRanges s.here a true rs with
    | (s, some (c, va)) => s.stopConvoy c va
    | (s, none) => f s

/-! Copies at issue (R414-R416). -/

/-- Rows and columns of a destination that a copy writes: full rows, then for a de-interleave the elements that are left. -/
def destRows (kind : Nat) (src d : TDesc) : List (Nat × Nat) :=
  if kind = 0 then (List.range src.rows).map (fun i => (i, src.cols))
  else if kind = 1 then (List.range d.rows).map (fun i => (i, src.cols))
  else if kind = 2 then (List.range (ceilDiv src.rows d.cols)).map (fun i => (i, min d.cols (src.rows - i * d.cols)))
  else (List.range d.rows).map (fun i => (i, d.cols))

/-- The byte ranges that a copy writes in a destination. -/
def destRanges (kind : Nat) (src d : TDesc) : List (Nat × Nat) :=
  (destRows kind src d).flatMap (fun r => d.ranges [r.1] 0 r.2)

/-- The byte ranges that a copy reads of its source. -/
def srcRanges (kind : Nat) (src : TDesc) (rows : List Nat) : List (Nat × Nat) :=
  if kind = 1 then src.ranges (rows.filter (fun x => decide (x < src.rows))).eraseDups 0 src.cols
  else if kind = 3 then []
  else src.ranges (List.range src.rows) 0 src.cols

/-- Whether formats and sizes agree (R415). -/
def copyFits (kind : Nat) (src : TDesc) (ds : List TDesc) : Bool :=
  ds.all (fun d =>
    decide (d.fmt = src.fmt) && (!d.isF4 || decide (d.blkc = src.blkc)) &&
      (if kind = 0 then decide (src.rows ≤ d.rows ∧ src.cols ≤ d.cols)
      else if kind = 1 then decide (src.cols ≤ d.cols)
      else decide (src.rows ≤ d.rows * d.cols)))

/-- A shadow descriptor (R198), as its bytes. -/
structure Shadow where
  front : Nat
  back : Nat
  npage : Nat
  gen : Nat
  pend : Nat
  lock : Nat
  deriving DecidableEq, Repr

def shadowOf (v : Nat) : Shadow where
  front := fieldAt v 0 8
  back := fieldAt v 8 8
  npage := fieldAt v 16 4
  gen := fieldAt v 20 4
  pend := fieldAt v 24 4
  lock := fieldAt v 28 4

/-- A destination marked shadow, moved to the same offset within BACK (R199); none where a byte of it lies outside FRONT. -/
def shadowDest (sh : Shadow) (kind : Nat) (src d : TDesc) : Option TDesc :=
  let stop := sh.front + 0x10000 * sh.npage
  if !d.loc && (destRanges kind src d).all (fun r => decide (sh.front ≤ r.1) && decide (r.1 + r.2 ≤ stop)) then
    some { d with base := sh.back + (d.base - sh.front), sbase := if d.isF4 then sh.back + (d.sbase - sh.front) else d.sbase }
  else none

/-- A shadow descriptor as a copy finds it: where it lies, as a future's place is encoded, and its bytes. -/
structure ShadowAt where
  loc : Nat
  bytes : Nat
  deriving DecidableEq, Repr

/-- The shadow descriptor of a copy, read at its home (R199), and the copy's destinations within BACK. While LOCK is 1 the copy is held before
acceptance: on this module the publication goes on, on a peer the descriptor is read again. -/
def State.withShadow (s : State) (named : Bool) (a kind : Nat) (src : TDesc) (ds : List TDesc)
    (f : State → Option ShadowAt → List TDesc → State) : State :=
  if !named then f s none ds
  else if a % 32 ≠ 0 then s.faultNow 0x11 a
  else
    let found (s : State) (loc v : Nat) (hold : State → State) : State :=
      let sh := shadowOf v
      match ds.mapM (shadowDest sh kind src) with
      | none => s.faultNow 0x11 a
      | some ds => if sh.lock % 2 = 1 then hold s else f s (some { loc := loc, bytes := v }) ds
    match s.find s.here .object a 32 with
    | (s, .miss va) => s.missConvoy va
    | (s, .prot c va) => s.faultNow c va
    | (s, .ok [.here pa _ _ _ _]) =>
      match s.readPhys pa 32 with
      | .error c => s.faultNow c a
      | .ok v => found (s.countRead pa 32) pa v (fun s => s.hurry .publishSwap (fun i => i.addr == pa) { Input.none with addr := pa })
    | (s, .ok [.peer node va _]) =>
      s.claimBytes a (fun s =>
        match gotBytes s.strand.fetched node va 32 with
        | .error _ =>
          let (q, s) := s.request node opRead s.core.asid.toNat va (bytesOf 8 32) (.fetch (s.core.ctx.getD 64) s.here)
          s.await node q
        | .ok v =>
          found s ((node + 1) * 2 ^ 60 + va) v (fun s =>
            { s with strand := { s.strand with fetched := s.strand.fetched.filter (fun g => !(g.1 == node && g.2.1 == va)) } }.stall false))
    | (s, _) => s.faultNow 0x11 a

/-- PEND of a shadow descriptor gains 1 at its home (R199), then `f`. On a peer that is a compare-and-swap of PEND and LOCK as they were read;
where they have changed, the descriptor is read again. -/
def State.countPend (s : State) (sh : Option ShadowAt) (f : State → State) : State :=
  match sh with
  | none => f s
  | some d =>
    match futPeer d.loc with
    | none => f (s.merge (d.loc + 24) 4 ((shadowOf d.bytes).pend + 1))
    | some (node, va) =>
      let old := fieldAt d.bytes 24 8
      match s.heldAnswer with
      | some (.value v) =>
        if v.toNat = old then f s.takeAnswer
        else
          let s := s.takeAnswer
          { s with strand := { s.strand with fetched := s.strand.fetched.filter (fun g => !(g.1 == node && g.2.1 == va)) } }.stall false
      | _ =>
        let (q, s) := s.request node opAtomic s.core.asid.toNat (va + 24)
          (bytesOf 8 0x0B ++ bytesOf 8 (setField old 0 32 ((shadowOf d.bytes).pend + 1)) ++ bytesOf 8 old) (.answer (s.core.ctx.getD 64) s.here)
        s.await node q

/-- Registers 1 to the step's next identifier on a channel, unfinished transfers of the core on it. -/
def Core.onChannel (k : Core) (c : Nat) : List CopyJob := k.copies.filter (fun j => j.chan == c)

/-- A copy taken by its channel (R416): its regions, PEND, its identifier, and for a drain its place in the matrix queue. -/
def State.startCopy (s : State) (rd : BitVec 5) (j : CopyJob) (regions globals : List (Nat × Nat × Bool)) : State :=
  let id := s.myStep.nextId.toList.getD j.chan 1
  let j := { j with id := id }
  let key := j.chan * 2 ^ 48 + id
  let s := s.modHere (fun k =>
    let k := k.modStep j.cell (fun st => { st with nextId := st.nextId.set (j.chan % 16) (id + 1) (Nat.mod_lt _ (by decide)) })
    { k with
      copies := k.copies ++ [j]
      board := k.board ++ regions.map (fun r =>
        { cell := j.cell, engine := engCopy, id := key, lo := r.1, hi := r.2.1, write := r.2.2 })
      gboard := k.gboard ++ globals.map (fun r =>
        { cell := j.cell, engine := engCopy, id := key, lo := r.1, hi := r.2.1, write := r.2.2 }) })
  let s := s.putX rd (BitVec.ofNat 64 id)
  let s := s.later .copyTransferComplete { Input.none with core := s.here, slot := j.cell, queue := j.chan, n := id }
  if j.kind = 3 then s.accept { s.matCmd with drain := some j, tm := 0, tn := 0, tk := 0 } none else s.wordDone

/-- CPY (R414-R418). -/
def execCpy (rd rs1 rs2 : BitVec 5) (s : State) : Out :=
  s.vword (.cpy rd rs1 rs2) (fun s =>
    let sa := s.capA.toNat
    let ch := s.capB.toNat
    let loc := decide (sa / 2 ^ 63 = 1)
    let a := if loc then sa % 2 ^ 22 else sa
    if a % 64 ≠ 0 then s.faultNow 0x11 a
    else
      s.engineRead loc a 64 (fun s v =>
        let kind := fieldAt v 0 1
        let flags := fieldAt v 1 1
        let ctl := fieldAt v 8 8
        let cw := BitVec.ofNat 64 ctl
        let bar := fieldAt v 48 8
        let src := fieldAt v 8 8
        let dst := fieldAt v 16 8
        let aux := fieldAt v 24 8
        if 3 < kind then s.faultNow 0x03 0
        else if kind ≠ 3 ∧ src % 8 ≠ 0 then s.faultNow 0x11 src
        else if dst % 8 ≠ 0 then s.faultNow 0x11 dst
        else if kind = 1 ∧ aux % 4 ≠ 0 then s.faultNow 0x11 aux
        else if 7 < flags ∨ fieldAt v 2 6 ≠ 0 ∨ fieldAt v 56 8 ≠ 0 ∨ (kind ≠ 1 ∧ fieldAt v 24 8 ≠ 0)
            ∨ (flags % 2 = 0 ∧ fieldAt v 32 8 ≠ 0) ∨ (bitsN flags 2 2 = 1 ∧ twReserved (BitVec.ofNat 64 bar)) then s.faultNow 0x03 0
        else
          let rest (s : State) (src : TDesc) (ds : List TDesc) : State :=
              s.engineRead loc aux (if kind = 1 then 4 * (ds.map (·.rows)).headD 0 else 0) (fun s list =>
                let rows := if kind = 1 then (List.range ((ds.map (·.rows)).headD 0)).map (fun i => fieldAt list (4 * i) 4) else []
                s.withShadow (flags % 2 = 1) (fieldAt v 32 8) kind src ds (fun s shadow ds =>
                  let srs := srcRanges kind src rows
                  s.engineRanges src.loc .load srs (fun s =>
                    ds.foldr (fun d go s => s.engineRanges d.loc .store (destRanges kind src d) go)
                      (fun s =>
                        s.engineFut (bitsN flags 1 1 = 1) (fieldAt v 40 8) (fun s fut =>
                          let named (loc : Bool) : List (Nat × Nat × Bool) :=
                            (if src.loc = loc then (hull srs).toList.map (fun h => (h.1, h.2, false)) else [])
                              ++ ds.flatMap (fun d =>
                                if d.loc = loc then (hull (destRanges kind src d)).toList.map (fun h => (h.1, h.2, true)) else [])
                          if 15 < ch then s.faultNow 0x11 0
                          else if kind = 3 ∧ 8 ≤ s.core.mat.length then s.waitMatrix
                          else
                            s.withRegion (named true) (fun s => s.withGlobals (named false) (fun s =>
                              match (if 64 ≤ (s.core.onChannel ch).length then s.core.onChannel ch else []) with
                              | j :: _ => s.hurry .copyTransferComplete
                                  (fun i => i.core == s.here && i.slot == j.cell && i.queue == ch && i.n == j.id)
                                  { Input.none with core := s.here, slot := j.cell, queue := ch, n := j.id }
                              | [] =>
                                s.countPend shadow (fun s =>
                                  s.startCopy rd
                                    { cell := s.strand.cell, chan := ch, id := 0, pc := s.wordPc, asid := s.core.asid.toNat, kind := kind
                                      src := src, ctl := ctl, dsts := ds, aux := aux, auxLoc := loc, shadow := shadow.map (·.loc), fut := fut
                                      bar := if bitsN flags 2 2 = 1 then some bar else none, cells := [], rows := rows
                                      io := EngineIo.none } (named true) (named false))))))
                      s)))
          if kind = 3 then
            s.engineTdesc loc dst (fun s d =>
              if ctlReserved cw ∨ ctl % 1024 ≠ 0 ∨ ctlPitch cw ≠ 0 ∨ !cellFmt d.fmt ∨ ctlBad cw d.rows d.cols then s.faultNow 0x03 0
              else if !s.myStep.hasBands (ctlRow cw) d.rows then s.faultNow 0x11 0
              else rest s d [d])
          else
            s.engineTdesc loc ctl (fun s src =>
              if kind = 2 ∧ (src.cols < 2 ∨ 8 < src.cols) then s.faultNow 0x03 0
              else
                s.engineTdescs loc dst (if kind = 2 then src.cols else 1) (fun s ds =>
                  if !copyFits kind src ds then s.faultNow 0x03 0 else rest s src ds))))

/-! The engines' traffic (R416, R418). -/

/-- An engine's requests to peers that have not been answered. -/
def State.engineBusy (s : State) (core cell key : Nat) : Bool := s.fabric.out.any (fun p => p.purpose == .engine core cell key)

/-- The pieces of ranges that lie on peers and have not been asked for, cut into requests of at most 1,024 bytes. -/
def State.peerNeeds (s : State) (core asid : Nat) (got : List (Nat × Nat × Option (List Byte))) (rs : List (Nat × Nat)) :
    List (Nat × Nat × Nat) :=
  let pieces := rs.flatMap (fun r =>
    match (s.findAs core asid .load r.1 r.2).2 with
    | .ok ps => ps
    | _ => [])
  let cuts := pieces.flatMap (fun p => match p with
    | .peer node va n => (List.range (ceilDiv n 1024)).map (fun i => (node, va + 1024 * i, min 1024 (n - 1024 * i)))
    | _ => [])
  cuts.eraseDups.filter (fun c => !got.any (fun g => g.1 == c.1 && g.2.1 == c.2.1 && decide (c.2.2 ≤ (g.2.2.getD []).length ∨ g.2.2.isNone)))

/-- Reads sent for an engine. -/
def State.askAll (s : State) (core cell key asid : Nat) (cs : List (Nat × Nat × Nat)) : State :=
  cs.foldl (fun s c => (s.request c.1 opRead asid c.2.1 (bytesOf 8 c.2.2) (.engine core cell key)).2) s

/-- Elements written as a run of bits from a bit address, the bits beside them in their bytes kept; or the cause for which they were
not. -/
def State.writeRun (s : State) (core cell key asid : Nat) (got : List (Nat × Nat × Option (List Byte))) (loc : Bool)
    (bit n w bits : Nat) : Except Nat State :=
  let a := bit / 8
  let sh := bit % 8
  let k := ceilDiv (sh + n * w) 8
  let old : Except Nat Nat := if sh = 0 ∧ n * w % 8 = 0 then .ok 0 else s.readBytes core asid got loc a k
  match old with
  | .error c => .error c
  | .ok o =>
    let bs := bytesOf k (setField o sh (n * w) bits)
    if loc then .ok (s.modCore core (·.locWrite a bs))
    else
      match (s.findAs core asid .store a k).2 with
      | .ok ps =>
        (ps.foldl (fun (acc : Except Nat (State × List Byte)) p =>
          match acc with
          | .error c => .error c
          | .ok (s, rest) =>
            match p with
            | .peer node va m =>
              .ok (s.requestWrites node asid va (rest.take m) (.engine core cell key), rest.drop m)
            | _ =>
              match s.writePiece (rest.take p.size) p with
              | .ok s => .ok (s, rest.drop p.size)
              | .error c => .error c) (.ok (s, bs))).map (·.1)
      | _ => .error 0x11

/-- The runs of `n` elements between those that are bad: first element and count. -/
def runsOf (n : Nat) (bad : List Nat) : List (Nat × Nat) :=
  ((bad ++ [n]).foldl (fun (acc : List (Nat × Nat) × Nat) b =>
    (if acc.2 < b then acc.1 ++ [(acc.2, b - acc.2)] else acc.1, b + 1)) ([], 0)).1

/-- What an engine lost: elements of `w` bits, the first cause and address; and the local granules that it wrote. -/
structure Lost where
  bits : Nat
  cause : Nat
  faddr : Nat
  granules : List Nat
  deriving DecidableEq, Repr

def Lost.none : Lost where
  bits := 0
  cause := 0
  faddr := 0
  granules := []

def Lost.add (l : Lost) (bits cause faddr : Nat) : Lost :=
  { l with bits := l.bits + bits, cause := if l.cause = 0 then cause else l.cause, faddr := if l.cause = 0 then faddr else l.faddr }

/-- Local granules written beside those before. -/
def Lost.wrote (l : Lost) (loc : Bool) (bit n w : Nat) : Lost :=
  if loc then { l with granules := l.granules ++ granulesOf (bit / 8) (ceilDiv (bit % 8 + n * w) 8) } else l

/-- A row of elements delivered (R203, R418): the bad ones are skipped, and of a refused run each element stands for itself. -/
def State.deliver (s : State) (core cell key asid : Nat) (got : List (Nat × Nat × Option (List Byte))) (loc : Bool)
    (bit n w bits : Nat) (src : Nat → Nat) (bad : List (Nat × Nat)) (l : Lost) : State × Lost :=
  let l := bad.foldl (fun l e => l.add w e.2 (src e.1)) l
  (runsOf n (bad.map (·.1))).foldl (fun (acc : State × Lost) r =>
    match acc.1.writeRun core cell key asid got loc (bit + r.1 * w) r.2 w (bits / 2 ^ (r.1 * w) % 2 ^ (r.2 * w)) with
    | .ok s => (s, acc.2.wrote loc (bit + r.1 * w) r.2 w)
    | .error _ =>
      (List.range r.2).foldl (fun (acc : State × Lost) i =>
        let e := r.1 + i
        match acc.1.writeRun core cell key asid got loc (bit + e * w) 1 w (bits / 2 ^ (e * w) % 2 ^ w) with
        | .ok s => (s, acc.2.wrote loc (bit + e * w) 1 w)
        | .error c => (acc.1, acc.2.add w c ((bit + e * w) / 8))) acc) (s, l)

/-- The elements of a destination row of a copy, and those that could not be read; then its scale bytes likewise. -/
def State.copyRow (s : State) (core : Nat) (j : CopyJob) (f : Nat) (d : TDesc) (i n : Nat) :
    (Nat × List (Nat × Nat)) × (Nat × List (Nat × Nat)) :=
  let got := j.io.got
  let nb := ceilDiv n d.blk
  let row (x : Nat) : (Nat × List (Nat × Nat)) × (Nat × List (Nat × Nat)) :=
    (s.readRow core j.asid got j.src x 0 n, if d.isF4 then s.readScales core j.asid got j.src x 0 nb else (0, []))
  if j.kind = 0 then row i
  else if j.kind = 1 then (if j.rows.getD i 0 < j.src.rows then row (j.rows.getD i 0) else ((0, []), (0, [])))
  else if j.kind = 2 then
    ((List.range n).foldl (fun (acc : Nat × List (Nat × Nat)) c =>
      let e := s.readRow core j.asid got j.src (i * d.cols + c) f 1
      (acc.1 + e.1 % 2 ^ d.w * 2 ^ (c * d.w), acc.2 ++ e.2.map (fun b => (c, b.2)))) (0, []),
      (Config.freeNat (s.draws + f + 8 * i) % 2 ^ (8 * nb), []))
  else
    let cell (c : Nat) : Nat := j.cells.getD (i * d.cols + c) 0
    (((List.range n).foldl (fun a c => a + cellTo d.fmt (cell c) % 2 ^ d.w * 2 ^ (c * d.w)) 0,
      ((List.range n).filter (fun c => decide (2 ^ 32 ≤ cell c))).map (fun c => (c, 0x40))), (0, []))

/-- The source address of element `e` of a destination row. -/
def CopyJob.srcAddr (j : CopyJob) (f : Nat) (d : TDesc) (i e : Nat) : Nat :=
  if j.kind = 1 then j.src.bitAddr (j.rows.getD i 0) e / 8
  else if j.kind = 2 then j.src.bitAddr (i * d.cols + e) f / 8
  else j.src.bitAddr i e / 8

/-- The writes of a copy, each row and its scales; then the local granules that it wrote are full (R158). DESIGN CHOICE (log 42): a row of a 4-bit
destination starts where R178's address puts it, at a high nibble where NIB or an odd PITCH does so. -/
def State.copyWrites (s : State) (core key : Nat) (j : CopyJob) : State × Lost :=
  let all := (j.dsts.mapIdx (fun f d => (destRows j.kind j.src d).map (fun r => (f, d, r.1, r.2)))).flatten
  let (t, l) := all.foldl (fun (acc : State × Lost) x =>
    let (f, d, i, n) := x
    let ((bits, bad), (sc, sbad)) := s.copyRow core j f d i n
    let (t, l) := acc.1.deliver core j.cell key j.asid j.io.got d.loc (d.bitAddr i 0) n d.w bits
      (j.srcAddr f d i) bad acc.2
    if d.isF4 then t.deliver core j.cell key j.asid j.io.got d.loc (8 * d.scaleAddr i 0) (ceilDiv n d.blk) 8 sc
        (fun b => j.src.scaleAddr (if j.kind = 1 then j.rows.getD i 0 else i) b) sbad l
    else (t, l)) (s, Lost.none)
  let t := if j.kind = 2 ∧ j.src.isF4 then { t with draws := t.draws + 8 * j.src.rows + 8 } else t
  let t := if j.src.loc ∨ j.kind = 3 then t else t.countRanges core j.asid (srcRanges j.kind j.src j.rows)
  (t.fill core (l.granules.foldl ninsert []), l)

/-- The bytes that a copy declares (R417): its elements and scale bytes. -/
def CopyJob.declared (j : CopyJob) : Nat :=
  (j.dsts.map (fun d => ((destRows j.kind j.src d).map (fun r =>
    ceilDiv (r.2 * d.w) 8 + (if d.isF4 then ceilDiv r.2 d.blk else 0))).sum)).sum

/-- An engine's credit (R387) to the barrier of a target word: on this module by the rules of R51, on another by a signal packet. `later`
means that the target asked for a retry. -/
def State.engineCredit (s : State) (core cell : Nat) (pc : Word) (asid : Nat) (tw : Word) (bytes err : Nat) : Except Unit State :=
  let credit := BitVec.ofNat 64 (2 ^ 63 + bytes % 2 ^ 56)
  if twNode tw = s.fabric.node then
    match s.deliverSignal (twCore tw) asid (twAddr tw) credit err with
    | .applied s => .ok s
    | .error c => .ok (if c = 0x42 then s else s.notice core cell c pc 0 0)
    | .later => .error ()
  else
    .ok (s.request (twNode tw) opSignal asid (twAddr tw) (bytesOf 8 (twCore tw) ++ bytesOf 8 credit.toNat ++ bytesOf 8 err)
      (.credit core cell pc)).2

/-- CHDONE of a step's channel once a transfer is gone from the core's list (R417). -/
def Core.chdoneNow (k : Core) (cell ch : Nat) : Nat :=
  let left := (k.copies.filter (fun j => j.cell == cell && j.chan == ch)).map (·.id)
  (left.min?).getD ((k.step cell).nextId.toList.getD ch 1) - 1

/-- The end of a transfer (R417, R418): the future, the barrier, PEND, CHDONE with its waiters, and a notice where bytes were lost. -/
def State.finishCopy (s : State) (core : Nat) (j : CopyJob) : Except Unit State :=
  let failed := decide (j.io.lost ≠ 0) || decide (j.io.cause ≠ 0)
  let s1 := match j.fut with
    | some loc => s.resolveLoc loc (if failed then none else some (BitVec.ofNat 64 j.id)) core j.cell j.pc
    | none => s
  let s2 : Except Unit State := match j.bar with
    | some tw => s1.engineCredit core j.cell j.pc j.asid (BitVec.ofNat 64 tw) j.declared j.io.lost
    | none => .ok s1
  s2.map (fun s =>
    let s := match j.shadow with
      | some loc =>
        (match futPeer loc with
        | none => s.merge (loc + 24) 4 (s.peek (loc + 24) 4 - 1)
        | some (node, va) =>
          (s.request node opAtomic j.asid (va + 24) (bytesOf 8 0x02 ++ bytesOf 8 (2 ^ 32 - 1)) (.write core j.cell j.pc)).2)
      | none => s
    let s := s.modCore core (fun k =>
      let k := { k with
        copies := k.copies.filter (fun c => !(c.cell == j.cell && c.chan == j.chan && c.id == j.id))
        board := k.board.filter (fun r => !(r.cell == j.cell && r.engine == engCopy && r.id == j.chan * 2 ^ 48 + j.id))
        gboard := k.gboard.filter (fun r => !(r.cell == j.cell && r.engine == engCopy && r.id == j.chan * 2 ^ 48 + j.id)) }
      let done := k.chdoneNow j.cell j.chan
      let k := if (tget k.steps j.cell).isSome then
          k.modStep j.cell (fun st => { st with chdone := st.chdone.set (j.chan % 16) done (Nat.mod_lt _ (by decide)) })
        else k
      (k.wake (fun r => r.cell == j.cell && match r.on with
        | .chan c n => c == j.chan && decide (n ≤ done)
        | _ => false)).settleStep j.cell)
    if failed then s.notice core j.cell j.io.cause j.pc j.io.faddr 0 else s)

/-- A copy changed. -/
def Core.modCopy (k : Core) (j : CopyJob) (f : CopyJob → CopyJob) : Core :=
  { k with copies := k.copies.map (fun c => if c.cell = j.cell ∧ c.chan = j.chan ∧ c.id = j.id then f c else c) }

/-- COPY_TRANSFER_COMPLETE (R415-R418): a transfer reads, writes and completes; while it waits for a drain's place in the matrix queue or
for a peer it makes no step. Operands: core, slot (the descriptor cell), queue (the channel), n (the identifier). -/
def execCopyTransferComplete (s : State) : Out :=
  let i := s.inp
  .next
    (let s := s.park
    match (s.getCore i.core).copies.find? (fun j => j.cell == i.slot && j.chan == i.queue && j.id == i.n) with
    | none => s
    | some j =>
      let key := j.chan * 2 ^ 48 + j.id
      if j.kind = 3 ∧ j.cells.isEmpty then
        (s.later .copyTransferComplete i).hurry .matrixCommandFinish (fun x => x.core == i.core) { Input.none with core := i.core }
      else if s.engineBusy i.core j.cell key then s
      else
        let edges := (j.dsts.filter (fun d => !d.loc && d.isF4)).flatMap (fun d => destRanges j.kind j.src d)
        let needs := s.peerNeeds i.core j.asid j.io.got ((if j.src.loc then [] else srcRanges j.kind j.src j.rows) ++ edges)
        if !j.io.written ∧ !needs.isEmpty then s.askAll i.core j.cell key j.asid needs
        else
          let (s, j) : State × CopyJob :=
            if j.io.written then (s, j)
            else
              let (s, l) := s.copyWrites i.core key j
              let io := { j.io with
                written := true
                got := []
                lost := ceilDiv l.bits 8
                cause := if j.io.cause = 0 then l.cause else j.io.cause
                faddr := if j.io.cause = 0 then l.faddr else j.io.faddr }
              let j := { j with io := io }
              (s.modCore i.core (·.modCopy j (fun _ => j)), j)
          if s.engineBusy i.core j.cell key then s
          else
            match s.finishCopy i.core j with
            | .ok s => s
            | .error _ => s.later .copyTransferComplete i)

/-- A wait on a copy channel. -/
def WaitOn.isChan (ch : Nat) : WaitOn → Bool
  | .chan c _ => decide (c = ch)
  | _ => false

/-- CPYWAIT.L (R419). -/
def execCpywaitL (o : LOp) (s : State) : Out :=
  .next
    (if o.hint = 3 then s.trapScalar 0x02 0
    else
      s.afterHeld fun s =>
        let id := (s.x o.rs1).toNat
        let ch := (s.x o.rs2).toNat
        let st := s.myStep
        if 15 < ch ∨ id = 0 ∨ st.nextId.toList.getD ch 1 ≤ id then s.trapScalar 0x11 0
        else if id ≤ st.chdone.toList.getD ch 0 then s.next
        else
          let r := s.leaveRecord o.ls.toNat none [] 0 (s.strand.pc + 4)
          match s.leaveWith { r with on := .chan ch id, next := s.core.lastOn s.fabric.node s.here s.strand.cell (·.isChan ch) } with
          | .error s => s
          | .ok (s, _) => s)

/-! Streams (R420, R421). -/

/-- The bytes that a stream reads, from the lowest to the highest; the whole space where an address of it wraps. -/
def streamSpan (src run c1 c2 : Nat) (s1 s2 : Int) : Nat × Nat :=
  let e1 := ((c1 : Int) - 1) * s1
  let e2 := ((c2 : Int) - 1) * s2
  let lo := (src : Int) + min 0 e1 + min 0 e2
  let hi := (src : Int) + max 0 e1 + max 0 e2 + (run : Int) - 1
  if lo < 0 ∨ 2 ^ 64 ≤ hi then (0, 2 ^ 64 - 1) else (lo.toNat, hi.toNat)

/-- STREAM: the block is read once, at issue. -/
def execStream (rd rs1 rs2 : BitVec 5) (s : State) : Out :=
  s.vword (.stream rd rs1 rs2) (fun s =>
    let a := s.capA.toNat
    let port := s.capB.toNat
    if a % 64 ≠ 0 then s.faultNow 0x11 a
    else
      s.engineRead true a 64 (fun s v =>
        let run := fieldAt v 8 4
        let c1 := fieldAt v 12 4
        let c2 := fieldAt v 24 4
        let dst := fieldAt v 40 4
        let bar := fieldAt v 44 4
        let fut := fieldAt v 48 8
        let len := run * c1 * c2
        let ok (x : Nat) : Bool := decide (1 ≤ x) && decide (x ≤ 65536)
        if !ok run ∨ !ok c1 ∨ !ok c2 ∨ fieldAt v 28 4 ≠ 0 ∨ fieldAt v 56 8 ≠ 0 ∨ dst % 16 ≠ 0
            ∨ (bar ≠ 0xFFFFFFFF ∧ bar % 32 ≠ 0) then s.faultNow 0x03 0
        else if !s.core.localOk false dst len then s.faultNow 0x14 dst
        else if bar ≠ 0xFFFFFFFF ∧ !s.core.localOk false bar 32 then s.faultNow 0x14 bar
        else
          s.engineFut (fut ≠ 0) fut (fun s loc =>
            if 7 < port then s.faultNow 0x11 0
            else
              let reads := streamSpan (fieldAt v 0 8) run c1 c2 (toSigned 64 (fieldAt v 16 8)) (toSigned 64 (fieldAt v 32 8))
              s.withRegion [(dst, dst + len - 1, true)] (fun s => s.withGlobals [(reads.1, reads.2, false)] (fun s =>
                if 4 ≤ (s.core.streams.filter (fun j => j.port == port)).length then
                  s.hurry .streamEnd (fun i => i.core == s.here && i.queue == port) { Input.none with core := s.here, queue := port }
                else
                  let n := s.myStep.smark
                  let j : StreamJob :=
                    { cell := s.strand.cell, port := port, num := n, pc := s.wordPc, asid := s.core.asid.toNat, src := fieldAt v 0 8
                      run := run, cnt1 := c1, stride1 := toSigned 64 (fieldAt v 16 8), cnt2 := c2
                      stride2 := toSigned 64 (fieldAt v 32 8), dst := dst, bar := if bar = 0xFFFFFFFF then none else some bar
                      fut := loc, io := EngineIo.none }
                  let s := s.modHere (fun k =>
                    let k := k.modStep j.cell (fun st => { st with smark := n + 1 })
                    { k with
                      streams := k.streams ++ [j]
                      board := k.board ++ [{ cell := j.cell, engine := engStream, id := port * 2 ^ 48 + n, lo := dst, hi := dst + len - 1, write := true }]
                      gboard := k.gboard ++
                        [{ cell := j.cell, engine := engStream, id := port * 2 ^ 48 + n, lo := reads.1, hi := reads.2, write := false }] })
                  let s := s.putX rd (BitVec.ofNat 64 (2 ^ 60 + n))
                  (s.later .streamEnd { Input.none with core := s.here, queue := port }).wordDone)))))

/-- The runs of a stream, in stream order: the address of each. -/
def StreamJob.runs (j : StreamJob) : List Nat :=
  (List.range j.cnt2).flatMap (fun (p : Nat) => (List.range j.cnt1).map (fun (r : Nat) =>
    (((j.src : Int) + (p : Int) * j.stride2 + (r : Int) * j.stride1) % (2 ^ 64 : Int)).toNat))

/-- The sectors of a run, each with the bytes of the run in it. -/
def runSectors (a n : Nat) : List (Nat × Nat) :=
  (granulesOf a n).map (fun g => (max a (16 * g), min (a + n) (16 * g + 16) - max a (16 * g)))

/-- A run written at its place; where it cannot be read whole, the bytes before its first sector that fails, and the cause. -/
def State.streamRun (s : State) (core : Nat) (j : StreamJob) (a at_ : Nat) : State × Nat × Nat :=
  match s.readBytes core j.asid j.io.got false a j.run with
  | .ok v => (s.modCore core (·.locWrite at_ (bytesOf j.run v)), j.run, 0)
  | .error _ =>
    let r := (runSectors a j.run).foldl (fun (acc : State × Nat × Nat) p =>
      if acc.2.2 ≠ 0 then acc
      else
        match acc.1.readBytes core j.asid j.io.got false p.1 p.2 with
        | .ok v => (acc.1.modCore core (·.locWrite (at_ + acc.2.1) (bytesOf p.2 v)), acc.2.1 + p.2, 0)
        | .error c => (acc.1, acc.2.1, c)) (s, 0, 0)
    r

/-- The runs written until one fails: the state, the bytes delivered, and the cause or 0. -/
def State.streamRuns (s : State) (core : Nat) (j : StreamJob) : List Nat → Nat → State × Nat × Nat
  | [], n => (s, n, 0)
  | a :: r, n =>
    match s.streamRun core j a (j.dst + n) with
    | (s, k, 0) => s.streamRuns core j r (n + k)
    | (s, k, c) => (s, n + k, c)

/-- The end of a stream (R421): its granules are full, the barrier is credited in full with the undelivered bytes in ERRB, the future
resolves with the marker word or faults, the marker passes. -/
def State.finishStream (s : State) (core : Nat) (j : StreamJob) (n cause : Nat) : State :=
  let len := j.run * j.cnt1 * j.cnt2
  let s := s.fill core (granulesOf j.dst n)
  let s := match j.bar with
    | some b => s.modCore core (·.barCredit b (BitVec.ofNat 64 (2 ^ 63 + len % 2 ^ 56)) (len - n))
    | none => s
  let s := match j.fut with
    | some loc => s.resolveLoc loc (if cause = 0 then some (BitVec.ofNat 64 (2 ^ 60 + j.num)) else none) core j.cell j.pc
    | none => s
  let s := s.modCore core (fun k =>
    let k := { k with
      streams := k.streams.filter (fun c => !(c.cell == j.cell && c.num == j.num))
      board := k.board.filter (fun r => !(r.cell == j.cell && r.engine == engStream && r.id == j.port * 2 ^ 48 + j.num))
      gboard := k.gboard.filter (fun r => !(r.cell == j.cell && r.engine == engStream && r.id == j.port * 2 ^ 48 + j.num)) }
    let left := ((k.streams.filter (fun c => c.cell == j.cell)).map (·.num)).min?
    let passed := left.getD (k.step j.cell).smark - 1
    let k := if (tget k.steps j.cell).isSome then k.modStep j.cell (fun st => { st with spassed := passed }) else k
    (k.wakeMarkers j.cell 1 passed).settleStep j.cell)
  if cause = 0x11 then s.notice core j.cell cause j.pc 0 0 else s

/-- The pages of a stream as it starts on its port: the first miss (0x10) or refusal. -/
def State.streamPages (s : State) (core : Nat) (j : StreamJob) : List Nat → State × Option (Nat × Nat)
  | [] => (s, none)
  | a :: r =>
    match s.findAs core j.asid .load a j.run with
    | (s, .miss va) => (s, some (0x10, va))
    | (s, .prot c va) => (s, some (c, va))
    | (s, .ok _) => s.streamPages core j r

/-- The reference that stands for a port's access in the list of a pager future. -/
def State.portRef (s : State) (core : Nat) (j : StreamJob) : Nat :=
  3 * 2 ^ 46 + s.fabric.node % 2 ^ 13 * 2 ^ 33 + s.fabric.node % 2 ^ 13 * 2 ^ 20 + core % 512 * 2 ^ 11 + j.port % 8 * 2 ^ 8 + j.num % 2 ^ 8

/-- A stream that waits on a pager future of this module (R176, R420): its step goes on once that is resolved, or at once where it already was. -/
def State.hangPort (s : State) (core : Nat) (j : StreamJob) (pa : Nat) (t : Todo) : State :=
  if 2 ≤ futSt (s.peek pa 8) then s.later t.what t.inp
  else
    let ref := s.portRef core j
    let (before, s) := s.futRegister pa ref 0
    { s with engineWaits := s.engineWaits ++ [{ ref := ref, before := before, todo := t }] }

/-- STREAM_END (R420, R421): the stream that runs on a port is performed to its end; at a page miss it waits on the pager future. Operands: core,
queue (the port). -/
def execStreamEnd (s : State) : Out :=
  let i := s.inp
  .next
    (let s := s.park
    match (s.getCore i.core).streams.find? (fun j => j.port == i.queue) with
    | none => s
    | some j =>
      let key := 2 ^ 60 + j.num
      if s.engineBusy i.core j.cell key || (s.engineWait (s.portRef i.core j)).isSome then s
      else
        match s.streamPages i.core j j.runs with
        | (s, some (0x10, va)) =>
          let (pa, s) := s.takePager i.core j.cell j.pc va
          s.hangPort i.core j pa { what := .streamEnd, inp := i }
        | (s, some (c, _)) => s.finishStream i.core j 0 c
        | (s, none) =>
          let needs := s.peerNeeds i.core j.asid j.io.got (j.runs.map (fun a => (a, j.run)))
          if !needs.isEmpty then s.askAll i.core j.cell key j.asid needs
          else
            let (s, n, c) := (s.countRanges i.core j.asid (j.runs.map (fun a => (a, j.run)))).streamRuns i.core j j.runs 0
            s.finishStream i.core j n c)

/-! Transforms (R422). -/

/-- The bytes that a transform touches. -/
def xformSpan (sb : Nat) : Nat :=
  let n := bitsN sb 15 8
  if bitsN sb 3 0 = 2 then n * n * 2 ^ bitsN sb 5 4 else bitsN sb 28 16

/-- XFORM. -/
def execXform (rd rs1 rs2 : BitVec 5) (s : State) : Out :=
  s.vword (.xform rd rs1 rs2) (fun s =>
    let a := s.capA.toNat
    let sb := s.capB.toNat
    let op := bitsN sb 3 0
    let w := 2 ^ bitsN sb 5 4
    let len := bitsN sb 28 16
    let n := xformSpan sb
    if 4 < op ∨ (op = 2 ∧ (len ≠ 0 ∨ bitsN sb 15 8 = 0)) ∨ (op ≠ 2 ∧ (len = 0 ∨ len % w ≠ 0)) ∨ (op = 1 ∧ len % 4 ≠ 0)
        ∨ (op = 4 ∧ w ≠ 4) ∨ bitsN sb 7 6 ≠ 0 ∨ bitsN sb 31 29 ≠ 0 then s.faultNow 0x03 0
    else if a % w ≠ 0 ∨ a / 4096 ≠ (a + n - 1) / 4096 ∨ !s.core.localOk false a n then s.faultNow 0x14 a
    else
      s.withRegion [(a, a + n - 1, true)] (fun s =>
        let num := s.myStep.xmark
        let cell := s.strand.cell
        let s := s.modHere (fun k =>
          let k := k.modStep cell (fun st => { st with xmark := num + 1 })
          { k with
            xforms := k.xforms ++ [{ cell := cell, num := num, pc := s.wordPc, addr := a, ctl := sb }]
            board := k.board ++ [{ cell := cell, engine := engXform, id := num, lo := a, hi := a + n - 1, write := true }] })
        let s := s.putX rd (BitVec.ofNat 64 (2 * 2 ^ 60 + num))
        (s.later .transformPerform { Input.none with core := s.here, slot := cell, n := num }).wordDone))

/-- The bytes that a transform writes at its address, from those of its region. -/
def xformBytes (sb : Nat) (bs : List Byte) : List Byte :=
  let op := bitsN sb 3 0
  let w := 2 ^ bitsN sb 5 4
  let n := bitsN sb 15 8
  let len := bitsN sb 28 16
  if op = 0 then List.replicate len 0
  else if op = 1 then (List.range (len / 4)).flatMap (fun _ => bytesOf 4 (bitsN sb 63 32))
  else if op = 2 then
    (List.range (n * n)).flatMap (fun e => (bs.drop ((e % n * n + e / n) * w)).take w)
  else if op = 3 then (List.range (len / w)).flatMap (fun e => ((bs.drop (e * w)).take w).reverse)
  else (List.range (len / 4)).flatMap (fun e => bytesOf 2 (cellTo 0x0B (valueOf ((bs.drop (4 * e)).take 4))))

/-- TRANSFORM_PERFORM (R160, R422): a bank performs a transform, its granules are full, its marker passes; poisoned data is a notice of
cause 0x40 and leaves the region as it was. Operands: core, slot (the descriptor cell), n (the transform's number). -/
def execTransformPerform (s : State) : Out :=
  let i := s.inp
  .next
    (let s := s.park
    match (s.getCore i.core).xforms.find? (fun j => j.cell == i.slot && j.num == i.n) with
    | none => s
    | some j =>
      let k := s.getCore i.core
      let n := xformSpan j.ctl
      let reads := decide (1 < bitsN j.ctl 3 0)
      let bad := reads && k.locBad j.addr n
      let s := if bad then s
        else s.engineWrite i.core j.addr (xformBytes j.ctl (mbytes k.loc j.addr n))
      let s := s.modCore i.core (fun k =>
        let k := { k with
          xforms := k.xforms.filter (fun c => !(c.cell == j.cell && c.num == j.num))
          board := k.board.filter (fun r => !(r.cell == j.cell && r.engine == engXform && r.id == j.num)) }
        let left := ((k.xforms.filter (fun c => c.cell == j.cell)).map (·.num)).min?
        let passed := left.getD (k.step j.cell).xmark - 1
        let k := if (tget k.steps j.cell).isSome then k.modStep j.cell (fun st => { st with xpassed := passed }) else k
        (k.wakeMarkers j.cell 2 passed).settleStep j.cell)
      if bad then s.notice i.core j.cell 0x40 j.pc j.addr 0 else s)

end Sys2Proof.Machine
end

