-- ==== Sys2Proof/Machine/Tiles.lean ====
section
/-!
DEFINITION. PUBLISH and its swap point (spec 08), the stevedores' tile streams (spec 07), and LAUNCH by a strand (spec 05, 17).
-/

namespace Sys2Proof.Machine

open Sys2Proof

/-! What holds translations of an address space (R175). -/

/-- A step of the machine's own that performs next. -/
def State.hurryTodo (s : State) (t : Todo) : State := s.hurry t.what (fun i => i == t.inp) t.inp

/-- What a translation is held for (R175): an access whose next step the machine can make, or one that an answer from a peer must end. -/
inductive Holder where
  | step (t : Todo)
  | peer
  deriving DecidableEq, Repr

/-- A step that must wait for an access: the access goes on at once where it can, and the step comes again, right after it where the access
is a load's read, which always ends. -/
def State.comesAfter (s : State) (what : Instr) (i : Input) (h : Holder) : State :=
  match h with
  | .step t => if t.what = .globalReadPerform then (s.soon what i).hurryTodo t else (s.later what i).hurryTodo t
  | .peer => s.later what i

/-- What names a ring slot's traffic among an engine's requests (log 12). -/
def ringKey (launch stage sub slot : Nat) : Nat := 2 ^ 61 + launch % 16 * 2 ^ 40 + stage % 8 * 2 ^ 32 + sub % 16 * 2 ^ 16 + slot % 64

/-- The request of a ring that its stevedore serves next (R182): its slot, the step that performs it, and what names its traffic. -/
def Ring.due (core : Nat) (r : Ring) : Option (RingSlot × Todo × Nat) :=
  r.pending.head?.bind (fun n => (r.slots[n]?).map (fun x =>
    (x, { what := if x.st = .draining then Instr.stevedorePullDrain else Instr.stevedorePushFill
          inp := { Input.none with core := core, slot := r.launch, addr := r.stage, n := r.sub, queue := n } },
      ringKey r.launch r.stage r.sub n)))

/-- An access of an ASID that a core has translated and not yet performed: a load, a copy, a stream, a matrix command that names global memory
or a future, a held ST.REL write, or a tile. -/
def State.holdsOn (s : State) (c : Nat) (k : Core) (asid : Nat) : Option Holder :=
  let load := k.records.findSome? (fun r => match r.on with
    | .load job =>
      match job.elems with
      | e :: _ =>
        if r.trap.asid ≠ asid then none
        else if s.fabric.out.any (fun q => q.purpose == .load (k.ctx.getD 64) c r.dseq e.key) then some .peer
        else
          some (Holder.step
            { what := Instr.globalReadPerform, inp := { Input.none with core := c, slot := k.ctx.getD 64, n := r.dseq, queue := e.key } })
      | [] => none
    | _ => none)
  let copy := (k.copies.find? (fun j => j.asid == asid)).map (fun j =>
    if s.engineBusy c j.cell (j.chan * 2 ^ 48 + j.id) then .peer
    else .step { what := Instr.copyTransferComplete, inp := { Input.none with core := c, slot := j.cell, queue := j.chan, n := j.id } })
  let stream := (k.streams.find? (fun j => j.asid == asid)).map (fun j =>
    if s.engineBusy c j.cell (2 ^ 60 + j.num) then .peer
    else .step { what := Instr.streamEnd, inp := { Input.none with core := c, queue := j.port } })
  let names (m : MatCmd) : Bool :=
    (match m.tdesc with
    | some d => !d.loc
    | none => m.drain.isSome) || m.fut.isSome || (match decode m.word with
      | .ok (.mamax _) => true
      | _ => false)
  let mat := if k.asid.toNat = asid ∧ k.mat.any names then
      some (Holder.step { what := Instr.matrixCommandFinish, inp := { Input.none with core := c } })
    else none
  let rel := if k.asid.toNat = asid ∧ k.heldRels.any (fun h => !h.loc) then
      some (Holder.step { what := Instr.heldReleaseWrite, inp := { Input.none with core := c } })
    else none
  let tile := if k.asid.toNat = asid then
      (k.rings.findSome? (Ring.due c)).map (fun p => if s.engineBusy c p.1.cell p.2.2 then Holder.peer else Holder.step p.2.1)
    else none
  load <|> copy <|> stream <|> mat <|> rel <|> tile

/-- Any access of an ASID that holds a translation, resident or saved. -/
def State.holdsAsid (s : State) (asid : Nat) : Option Holder :=
  (s.cores.findSome? (fun p => s.holdsOn p.1 p.2 asid))
    <|> (s.contexts.findSome? (fun x => x.2.saved.findSome? (fun p => s.holdsOn p.1 { p.2 with ctx := some x.1 } asid)))

/-- A publication that still has its future's translation, as a holder. -/
def State.publishHolds (s : State) (mine : PublishJob → Bool) : Option Holder :=
  (s.publishes.find? (fun p => mine p && p.fut.isSome)).map (fun p => .step { what := Instr.publishSwap, inp := { Input.none with addr := p.pa } })

/-- Any access or publication of an ASID that holds a translation, which an invalidation waits for (R175). -/
def State.holdsAny (s : State) (asid : Nat) : Option Holder :=
  (s.holdsAsid asid) <|> (s.publishHolds (fun p => p.asid == asid))

/-- Every core of the module, none in hand, changed. -/
def State.allCores (s : State) (f : Core → Core) : State :=
  let s := s.park
  { s with cores := s.cores.map (fun p => (p.1, f p.2)) }

/-! PUBLISH (R198-R201, R423). -/

/-- The next publication waiting at a descriptor takes the lock (R200 step 2). -/
def State.lockShadow (s : State) (pa : Nat) : State :=
  let waiting := s.publishes.any (fun p => p.pa == pa)
  let s := s.merge (pa + 28) 1 (s.peek (pa + 28) 1 / 2 * 2 + bit waiting)
  if waiting then s.later .publishSwap { Input.none with addr := pa } else s

/-- A publication arrives at its descriptor's home (R200). -/
def State.publishAt (s : State) (j : PublishJob) : State :=
  let first := !s.publishes.any (fun p => p.pa == j.pa)
  let s := { s with publishes := s.publishes ++ [j] }
  if first then s.lockShadow j.pa else s

/-- PUBLISH (R423): checked at issue, complete at once. Its release (R200 step 1) waits for the strand's stores. -/
def execPublish (rs1 rs2 : BitVec 5) (s : State) : Out :=
  s.vword (.publish rs1 rs2) (fun s => s.afterStores fun s =>
    let a := s.capA.toNat
    let f := s.capB.toNat
    if a % 32 ≠ 0 then s.faultNow 0x11 a
    else
      match s.find s.here .object a 32 with
      | (s, .miss va) => s.missConvoy va
      | (s, .prot c va) => s.faultNow c va
      | (s, .ok [p]) =>
        s.engineFut (f ≠ 0) f (fun s fut =>
          match p with
          | .here pa _ _ _ _ =>
            (s.publishAt
              { pa := pa, asid := s.core.asid.toNat, fut := fut, core := s.here, cell := s.strand.cell, pc := s.wordPc }).wordDone
          | .peer node va _ =>
            let home := match fut.bind futPeer with
              | some (n, _) => n
              | none => s.fabric.node
            ((s.request node opAtomic s.core.asid.toNat va (bytesOf 8 pktPublish ++ bytesOf 8 (if fut.isSome then f else 0) ++ bytesOf 8 home
                ++ bytesOf 8 (s.here + 512 * s.strand.cell) ++ bytesOf 8 s.wordPc.toNat)
              (.message s.here s.strand.cell s.wordPc)).2).wordDone
          | .host _ _ _ => s.faultNow 0x11 a)
      | (s, _) => s.faultNow 0x11 a)

/-- Where the level-0 leaf of an address lies. -/
def State.leafPlace (s : State) (va : Nat) : Nat → Nat → Option Nat
  | level, table =>
    let pa := table + 8 * levelIndex level va
    let e := BitVec.ofNat 64 (mload s.mem pa 8)
    if s.bad pa 8 then none
    else
      match level with
      | 0 => if leafV e && leafLeaf e && !leafBad 0 e then some pa else none
      | l + 1 => if leafV e && !leafLeaf e && !ptrBad (l + 1) e then s.leafPlace va l (leafNext e) else none

/-- The place of an address's 64 KiB leaf under an ASID. -/
def State.leafAt (s : State) (asid va : Nat) : Option Nat :=
  let d := s.peek (reserveLo + 8 * asid) 8
  if asid = 0 ∨ s.bad (reserveLo + 8 * asid) 8 ∨ d % 2 = 0 ∨ bitsN d 20 1 ≠ 0 ∨ bitsN d 63 52 ≠ 0 then none
  else s.leafPlace va 3 (bitsN d 51 21 * 0x200000)

/-- The leaves of a shadow's two ranges, pairwise, where R198 holds: both ranges in order, apart, of ordinary 64 KiB leaves homed here. -/
def State.shadowLeaves (s : State) (core asid : Nat) (sh : Shadow) (v : Nat) : Option (List (Nat × Nat)) :=
  let size := 0x10000 * sh.npage
  if 2 ^ 57 < sh.front + size ∨ 2 ^ 57 < sh.back + size ∨ sh.front % 0x10000 ≠ 0 ∨ sh.back % 0x10000 ≠ 0 ∨ sh.npage = 0
      ∨ 65536 < sh.npage ∨ fieldAt v 28 1 / 2 ≠ 0 ∨ fieldAt v 29 3 ≠ 0
      ∨ (sh.front < sh.back + size ∧ sh.back < sh.front + size) then none
  else
    (List.range sh.npage).mapM (fun i =>
      let f := sh.front + 0x10000 * i
      let b := sh.back + 0x10000 * i
      let k := s.getCore core
      match s.leafAt asid f, s.leafAt asid b with
      | some x, some y =>
        if k.homeNode s.fabric.node f = s.fabric.node ∧ k.homeNode s.fabric.node b = s.fabric.node
            ∧ bitsN (s.peek x 8) 3 2 = 0 ∧ bitsN (s.peek y 8) 3 2 = 0 then some (x, y) else none
      | _, _ => none)

/-- Two leaves with their ADDR fields exchanged (R200 step 5). -/
def State.swapLeaves (s : State) (p : Nat × Nat) : State :=
  let x := s.peek p.1 8
  let y := s.peek p.2 8
  (s.merge p.1 8 (setField x 16 36 (bitsN y 51 16))).merge p.2 8 (setField y 16 36 (bitsN x 51 16))

/-- The walks of a shadow's two ranges, whose reads count (R15, R28). -/
def State.countShadow (s : State) (asid : Nat) (sh : Shadow) : State :=
  (List.range (min sh.npage 65536)).foldl (fun s i => (s.countWalk asid (sh.front + 0x10000 * i)).countWalk asid (sh.back + 0x10000 * i)) s

/-- A publication that exchanges nothing: its future is faulted, or the cause is a notice (R200). -/
def State.unpublished (s : State) (j : PublishJob) (cause : Nat) : State :=
  match j.fut with
  | some loc => s.resolveLoc loc none j.core j.cell j.pc
  | none => s.notice j.core j.cell cause j.pc 0 0

/-- PUBLISH_SWAP (R200): the publication in progress at a descriptor, once PEND is 0 and no translation of the ASID is held, swaps its
ranges; one that R198 refuses, or whose descriptor memory answers as uncorrectable (R15, R17), changes nothing. Operand: addr (the descriptor's
physical address). -/
def execPublishSwap (s : State) : Out :=
  let pa := s.inp.addr
  .next
    (let s := s.park
    match s.publishes.find? (fun p => p.pa == pa) with
    | none => s
    | some j =>
      let v := s.peek pa 32
      let sh := shadowOf v
      let gone (s : State) : State := { s with publishes := s.publishes.erase j }
      if s.bad pa 32 then ((gone (s.countRead pa 32)).lockShadow pa).unpublished j 0x40
      else
      match s.shadowLeaves j.core j.asid sh v with
      | none => ((gone ((s.countRead pa 32).countShadow j.asid sh)).lockShadow pa).unpublished j 0x11
      | some ls =>
        if sh.pend ≠ 0 then
          let s := s.later .publishSwap s.inp
          match s.cores.findSome? (fun p => (p.2.copies.find? (fun c => c.shadow == some pa)).map (fun c => (p.1, c))) with
          | some (c, k) =>
            s.hurryTodo { what := .copyTransferComplete, inp := { Input.none with core := c, slot := k.cell, queue := k.chan, n := k.id } }
          | none => s
        else
          match s.holdsAsid j.asid with
          | some h => s.comesAfter .publishSwap s.inp h
          | none =>
            let anchored := decide (s.physOf j.asid anchorVa = some pa)
            let s := ls.foldl State.swapLeaves ((s.countRead pa 32).countShadow j.asid sh)
            let gen := (sh.gen + 1) % 2 ^ 32
            let s := s.merge (pa + 20) 4 gen
            let s := { s with fronts := s.fronts.filter (fun f => !(anchored && f.asid == j.asid)) }
            let size := 0x10000 * sh.npage
            let within (t : Tlb) (b : Nat) : Bool := decide (b ≤ t.base) && decide (t.base < b + size)
            let s := s.allCores (fun k => { k with
              tlb := k.tlb.filter (fun t => !(t.asid == j.asid && (within t sh.front || within t sh.back)))
              chains := k.chains.filter (fun c => c.asid != j.asid) })
            let s := (gone s).lockShadow pa
            match j.fut with
            | some loc => s.resolveLoc loc (some (BitVec.ofNat 64 gen)) j.core j.cell j.pc
            | none => s)

/-! Tile streams (R180-R183, R424, R425). -/

/-- Granules of a tile's row in its slot. -/
def Subscription.rowGranules (b : Subscription) (w : Nat) : Nat := ceilDiv (b.tcols * w) 128

/-- The columns of a tile within the tensor: the first column of the tile that lies there, and how many. -/
def tileClip (cols : Nat) (col0 : Int) (n : Nat) : Nat × Nat :=
  let lo := (-col0).toNat
  let hi := min n ((cols : Int) - col0).toNat
  (lo, hi - lo)

/-- The tile's rows that lie in the tensor, by their number in the tile. -/
def tileRowsIn (rows : Nat) (row0 : Int) (n : Nat) : List Nat :=
  (List.range n).filter (fun (r : Nat) => decide (0 ≤ row0 + (r : Int)) && decide (row0 + (r : Int) < (rows : Int)))

/-- The byte ranges of a tile in its tensor. -/
def tileRanges (d : TDesc) (b : Subscription) (row0 col0 : Int) : List (Nat × Nat) :=
  let c := tileClip d.cols col0 b.tcols
  (tileRowsIn d.rows row0 b.trows).flatMap (fun (r : Nat) =>
    let s := d.span (row0 + r).toNat (col0 + c.1).toNat c.2
    if c.2 = 0 then [] else [(s.1, s.2.1)])

/-- The ring of a subscription on a core; every slot is FREE before the first request. -/
def Core.ring (k : Core) (launch stage sub : Nat) (b : Subscription) : Ring :=
  (k.rings.find? (fun r => r.launch == launch && r.stage == stage && r.sub == sub)).getD
    { launch := launch, stage := stage, sub := sub, slots := List.replicate b.nslots RingSlot.idle, pending := [] }

/-- A ring changed. -/
def Core.setRing (k : Core) (r : Ring) : Core :=
  { k with rings := k.rings.filter (fun q => !(q.launch == r.launch && q.stage == r.stage && q.sub == r.sub)) ++ [r] }

/-- A slot of a ring, changed. -/
def Ring.setSlot (r : Ring) (n : Nat) (x : RingSlot) : Ring := { r with slots := r.slots.set n x }

/-- A slot's request put behind those of its ring that were issued before it (R182). -/
def Ring.ask (r : Ring) (n : Nat) : Ring := { r with pending := r.pending ++ [n] }

/-- The oldest request of a ring has been performed. -/
def Ring.served (r : Ring) : Ring := { r with pending := r.pending.tail }

/-- A subscription's tensor as a request finds it: a global descriptor whose tiles fit their slots, its pages translated. -/
def State.withTile (s : State) (b : Subscription) (row0 col0 : Int) (a : Access) (f : State → TDesc → State) : State :=
  s.engineTdesc false b.tdesc (fun s d =>
    if d.loc ∨ b.slotb < b.trows * b.rowGranules d.w * 16 then s.faultNow 0x03 0
    else s.engineRanges false a (tileRanges d b row0 col0) (fun s => f s d))

/-- SUBSCR (R424). -/
def execSubscr (rd rs1 rs2 : BitVec 5) (s : State) : Out :=
  s.vword (.subscr rd rs1 rs2) (fun s =>
    let sub := s.capA.toNat
    let st := s.myStep
    match (s.stageOf st).subs[sub]? with
    | none => s.faultNow 0x11 0
    | some b =>
      let r := s.core.ring st.launch st.stage sub b
      let row0 := toSigned 32 s.capB.toNat
      let col0 := toSigned 32 (s.capB.toNat / 2 ^ 32)
      match r.slots.findIdx? (fun x => x.st == .free) with
      | none => (s.putX rd (BitVec.allOnes 64)).wordDone
      | some n =>
        if !s.core.localOk false (b.ring + n * b.slotb) b.slotb then s.faultNow 0x14 (b.ring + n * b.slotb)
        else if b.bar ≠ 0xFFFFFFFF ∧ !s.core.localOk false b.bar 32 then s.faultNow 0x14 b.bar
        else
        let claim (s : State) (d : Option TDesc) : State :=
          let r := r.setSlot n { RingSlot.idle with st := .filling, row0 := row0, col0 := col0, tdesc := d, pc := s.wordPc, cell := s.strand.cell }
          ((s.modHere (·.setRing (if d.isSome then r.ask n else r))).putX rd (BitVec.ofNat 64 n)).wordDone
        if b.pull then claim s none
        else
          s.withTile b row0 col0 .load (fun s d =>
            claim (s.later .stevedorePushFill { Input.none with core := s.here, slot := st.launch, addr := st.stage, n := sub, queue := n })
              (some d)))

/-- The granules of a ring slot. -/
def slotGranules (b : Subscription) (n : Nat) : List Nat := granulesOf (b.ring + n * b.slotb) b.slotb

/-- SUBREL (R425). -/
def execSubrel (rs1 rs2 : BitVec 5) (s : State) : Out :=
  s.vword (.subrel rs1 rs2) (fun s =>
    let sub := s.capA.toNat
    let n := s.capB.toNat
    let st := s.myStep
    match (s.stageOf st).subs[sub]? with
    | none => s.faultNow 0x11 0
    | some b =>
      let r := s.core.ring st.launch st.stage sub b
      match r.slots[n]? with
      | none => s.faultNow 0x11 0
      | some x =>
        if b.pull then
          if x.st = .filling then
            s.withTile b x.row0 x.col0 .store (fun s d =>
              let r := r.setSlot n { x with st := .draining, tdesc := some d, io := EngineIo.none, pc := s.wordPc, cell := s.strand.cell }
              ((s.modHere (·.setRing (r.ask n))).later .stevedorePullDrain
                { Input.none with core := s.here, slot := st.launch, addr := st.stage, n := sub, queue := n }).wordDone)
          else s.faultNow 0x11 0
        else if x.st = .ready then
          (s.modHere (fun k => (k.setRing (r.setSlot n { x with st := .free })).setEmpty (slotGranules b n))).wordDone
        else if x.st = .filling then (s.modHere (·.setRing (r.setSlot n { x with marked := true }))).wordDone
        else s.faultNow 0x11 0)

/-- The subscription that a stevedore's request belongs to, its ring and its slot. -/
def State.request? (s : State) (i : Input) : Option (Subscription × Ring × RingSlot) :=
  match (tget (s.harbour (dieOf i.core)).launches i.slot).bind (fun l => (l.stages.getD i.addr Stage.none).subs[i.n]?) with
  | none => none
  | some b =>
    let r := (s.getCore i.core).ring i.slot i.addr i.n b
    (r.slots[i.queue]?).map (fun x => (b, r, x))

/-- A stevedore's credit to the barrier of a subscription: one arrival and SLOTB bytes, with those not delivered. -/
def State.slotCredit (s : State) (core : Nat) (b : Subscription) (err : Nat) : State :=
  if b.bar = 0xFFFFFFFF then s
  else s.modCore core (·.barCredit b.bar (BitVec.ofNat 64 (2 ^ 63 + b.slotb)) err)

/-- The request of a ring that comes next is served, once the oldest has been performed (R182). -/
def State.nextRequest (s : State) (core : Nat) (r : Ring) : State :=
  match r.served.due core with
  | some p => s.later p.2.1.what p.2.1.inp
  | none => s

/-- STEVEDORE_PUSH_FILL (R181, R183): a stevedore writes a tile into its slot, row by row, each granule full as it lands; bytes homed on a peer
are fetched from there first. It waits for the ring's earlier requests (R182). Operands: core,
slot (the launch slot), addr (the stage), n (the subscription), queue (the ring slot). -/
def execStevedorePushFill (s : State) : Out :=
  let i := s.inp
  .next
    (let s := s.park
    match s.request? i with
    | none => s
    | some (b, r, x) =>
      match x.st, x.tdesc with
      | .filling, some d =>
        let asid := (s.getCore i.core).asid.toNat
        let key := ringKey i.slot i.addr i.n i.queue
        let reads := tileRanges d b x.row0 x.col0
        let needs := s.peerNeeds i.core asid x.io.got reads
        if r.pending.head? ≠ some i.queue || s.engineBusy i.core x.cell key then s
        else if !needs.isEmpty then s.askAll i.core x.cell key asid needs
        else
        let s := s.countRanges i.core asid reads
        let c := tileClip d.cols x.col0 b.tcols
        let g := b.rowGranules d.w
        let base := b.ring + i.queue * b.slotb
        let rowsIn := tileRowsIn d.rows x.row0 b.trows
        let (s, err) := (List.range b.trows).foldl (fun (acc : State × Nat) row =>
          let at_ := base + row * g * 16
          let e := if rowsIn.contains row ∧ c.2 ≠ 0 then acc.1.readRow i.core asid x.io.got d (x.row0 + row).toNat (x.col0 + c.1).toNat c.2
            else (0, [])
          let bad := (e.2.map (fun p => (at_ + (c.1 + p.1) * d.w / 8) / 16)).eraseDups
          let s := acc.1.modCore i.core (fun k =>
            let k := k.locWrite at_ (bytesOf (16 * g) (e.1 * 2 ^ (c.1 * d.w)))
            { k with locPoison := bad.foldl ninsert k.locPoison })
          (s.fill i.core (granulesOf at_ (16 * g)), acc.2 + ceilDiv (e.2.length * d.w) 8)) (s, 0)
        let s := s.modCore i.core (fun k =>
          if x.marked then (k.setRing (r.served.setSlot i.queue { x with st := .free, marked := false })).setEmpty (slotGranules b i.queue)
          else k.setRing (r.served.setSlot i.queue { x with st := .ready }))
        (s.slotCredit i.core b err).nextRequest i.core r
      | _, _ => s)

/-- A slot of a ring on a core, changed. -/
def Core.modSlot (k : Core) (launch stage sub slot : Nat) (f : RingSlot → RingSlot) : Core :=
  { k with rings := k.rings.map (fun q =>
    if q.launch = launch ∧ q.stage = stage ∧ q.sub = sub then { q with slots := q.slots.mapIdx (fun n x => if n = slot then f x else x) } else q) }

/-- STEVEDORE_PULL_DRAIN (R182, R183): a stevedore writes a slot's tile into the tensor; once those writes have performed, at peers too, BAR is
credited and the slot is FREE with its granules empty. A write that was refused is a notice for the step that gave the slot back (R263, R264). It
waits for the ring's earlier requests (R182). Operands as for a push. -/
def execStevedorePullDrain (s : State) : Out :=
  let i := s.inp
  .next
    (let s := s.park
    match s.request? i with
    | none => s
    | some (b, r, x) =>
      match x.st, x.tdesc with
      | .draining, some d =>
        let k := s.getCore i.core
        let asid := k.asid.toNat
        let key := ringKey i.slot i.addr i.n i.queue
        let needs := if d.isF4 ∧ !x.io.written then s.peerNeeds i.core asid x.io.got (tileRanges d b x.row0 x.col0) else []
        if r.pending.head? ≠ some i.queue || s.engineBusy i.core x.cell key then s
        else if !needs.isEmpty then s.askAll i.core x.cell key asid needs
        else
        let c := tileClip d.cols x.col0 b.tcols
        let g := b.rowGranules d.w
        let base := b.ring + i.queue * b.slotb
        let (s, l) := (if c.2 = 0 ∨ x.io.written then [] else tileRowsIn d.rows x.row0 b.trows).foldl (fun (acc : State × Lost) row =>
          let at_ := base + row * g * 16
          let bits := mload k.loc at_ (16 * g) / 2 ^ (c.1 * d.w) % 2 ^ (c.2 * d.w)
          let bad := (List.range c.2).filterMap (fun e =>
            if k.locPoison.contains ((at_ + (c.1 + e) * d.w / 8) / 16) then some (e, 0x40) else none)
          acc.1.deliver i.core x.cell key asid x.io.got false (d.bitAddr (x.row0 + row).toNat (x.col0 + c.1).toNat) c.2 d.w bits
            (fun e => at_ + (c.1 + e) * d.w / 8) bad acc.2)
          (s, Lost.none)
        let io := { x.io with
          written := true
          lost := x.io.lost + ceilDiv l.bits 8
          cause := if x.io.cause = 0 then l.cause else x.io.cause
          faddr := if x.io.cause = 0 then l.faddr else x.io.faddr }
        if !x.io.written ∧ s.engineBusy i.core x.cell key then
          s.modCore i.core (·.modSlot i.slot i.addr i.n i.queue (fun x => { x with io := io }))
        else
          let s := s.modCore i.core (fun k =>
            (k.setRing (r.served.setSlot i.queue { x with st := .free })).setEmpty (slotGranules b i.queue))
          let s := (s.slotCredit i.core b io.lost).nextRequest i.core r
          if io.cause = 0 then s else s.notice i.core x.cell io.cause x.pc io.faddr 0
      | _, _ => s)

/-! LAUNCH by a strand (R426). -/

/-- A record queued for a harbourmaster (R58, R97): none where its 64 entries are full. -/
def State.submitRecord (s : State) (die pa : Nat) (byDevice : Bool) (who : Option Nat) : Option State :=
  if 64 ≤ (s.harbour die).submit.length then none
  else
    some ((s.modHarbour die (fun h => { h with submit := h.submit ++ [(pa, byDevice, who)] })).later .hmTakeRecord { Input.none with die := die })

/-- LAUNCH (R426), a release at DIE scope: the strand's stores perform first. -/
def execDeviceLaunch (rd rs1 : BitVec 5) (s : State) : Out :=
  s.vword (.deviceLaunch rd rs1) (fun s => s.afterStores fun s =>
    let a := s.capA.toNat
    if a % 512 ≠ 0 then s.faultNow 0x11 a
    else
      match s.find s.here .load a 512 with
      | (s, .miss va) => s.missConvoy va
      | (s, .prot c va) => s.faultNow c va
      | (s, .ok [.here pa _ _ _ _]) =>
        let s := s.countRead (pa + 10) 2
        match s.readPhys (pa + 10) 2 with
        | .error c => s.faultNow c a
        | .ok v =>
          let die := dieOf s.here
          if v / 256 ≠ s.core.ctx.getD 64 ∨ (List.range 4).any (fun d => d != die && v.testBit d) then (s.putX rd 2).wordDone
          else
            match s.submitRecord die pa true none with
            | none => (s.putX rd 1).wordDone
            | some s => (s.putX rd 0).wordDone
      | (s, _) => s.faultNow 0x11 a)

end Sys2Proof.Machine
end

