-- ==== Sys2Proof/Machine/Accept.lean ====
section
/-!
DEFINITION. Taking a launch record (spec 05 R97-R105): every check with the offset that a refusal reports, and the launch it gives.
-/

namespace Sys2Proof.Machine

open Sys2Proof

/-! Reading under a context's ASID (R98). -/

/-- The physical pieces of a range under an ASID whose leaves pass a test; none where a page is missing or fails it. -/
def State.hmPieces (s : State) (asid : Nat) (ok : BitVec 64 → Bool) : Nat → Nat → Nat → Option (List Piece)
  | 0, _, _ => some []
  | fuel + 1, va, n =>
    if n = 0 then some []
    else if 2 ^ 57 ≤ va then none
    else
      let len := min n (0x10000 - va % 0x10000)
      match s.walk asid va with
      | .leaf l e =>
        if !ok e then none
        else
          let pa := leafAddr e + va % pageSize l
          let p : Piece := if leafClass e = 3 then .host (0x1000 + leafHnode e) pa len
            else .here pa len (leafClass e) (2 ^ (8 + leafSegl e)) (leafAddr e)
          (s.hmPieces asid ok fuel (va + len) (n - len)).map (p :: ·)
      | _ => none

/-- `n` bytes that a launch record names, read with R; none where they cannot be read or translated. -/
def State.hmRead (s : State) (asid va n : Nat) : Option Nat :=
  (s.hmPieces asid leafR (n / 0x10000 + 2) va n).bind (fun ps => (s.readPieces ps).toOption)

/-- The tables that a launch record names, by address and length: its parameter block, and each stage's live sets and subscriptions. -/
def recordTables (v : Nat) : List (Nat × Nat) :=
  (fieldAt v 16 8, 128) :: (List.range (min 8 (fieldAt v 5 1))).flatMap (fun i =>
    let o := 128 + 40 * i
    [(fieldAt v (o + 8) 8, 256), (fieldAt v (o + 16) 8, 32 * min 16 (fieldAt v (o + 32) 1))])

/-- What the memory controllers count as a launch record's tables are read (R15). -/
def State.countTables (s : State) (v : Nat) : State :=
  match tget s.contexts (fieldAt v 11 1) with
  | none => s
  | some x =>
    (recordTables v).foldl (fun s r =>
      match s.hmPieces x.asid.toNat leafR (r.2 / 0x10000 + 2) r.1 r.2 with
      | some ps => s.countPieces ps
      | none => s) s

/-- Whether a range translates to ordinary pages with R and W. -/
def State.hmWritable (s : State) (asid va n : Nat) : Bool :=
  (s.hmPieces asid (fun e => leafR e && leafW e && decide (leafClass e = 0)) (n / 0x10000 + 2) va n).isSome

/-! Units (R103, R105). -/

/-- The unit of a domain that a core belongs to, by number. -/
def unitKey (dom core : Nat) : Nat := if dom = 4 then core / 128 else if dom = 3 then core / 8 else if dom = 2 then core / 2 else core

/-- A parent's cores grouped into the units of a domain, in ascending physical order. -/
def groupsOf (cores : List Nat) (dom : Nat) : List (List Nat) :=
  if 5 ≤ dom then [cores]
  else ((cores.map (unitKey dom)).eraseDups).map (fun u => cores.filter (fun c => unitKey dom c == u))

/-- The cores of the dies of a mask. -/
def coresOf (mask : Nat) : List Nat := (bitsSet 4 mask).flatMap (fun d => (List.range 128).map (128 * d + ·))

/-- The units at the innermost CORE or GANG level: mixed-radix number, and cores. -/
def unitsFrom (modidx : Nat) : List Level → List (Nat × List Nat) → List (Nat × List Nat)
  | [], us => us
  | l :: r, us =>
    if l.domain = 0 then unitsFrom modidx r us
    else if l.domain = 6 then unitsFrom modidx r (us.map (fun u => (u.1 * l.extent + modidx, u.2)))
    else
      unitsFrom modidx r (us.flatMap (fun u =>
        ((groupsOf u.2 l.domain).take l.extent).mapIdx (fun j g => (u.1 * l.extent + j, g))))

/-- The logical cores of a launch and the physical core of each (R105). -/
def Launch.units (l : Launch) : List (Nat × Nat) :=
  (unitsFrom l.modidx l.levels [(0, coresOf l.diemask)]).map (fun u => (u.1, u.2.headD 0))

/-- NCORE (R105). -/
def Launch.ncore (l : Launch) : Nat := ((l.levels.filter (fun v => decide (v.domain ≠ 0))).map (·.extent)).foldl (· * ·) 1

/-- The physical core of a logical one. -/
def Launch.place (l : Launch) (lcore : Nat) : Option Nat := (l.units.find? (fun u => u.1 == lcore)).map (·.2)

/-- The STRAND-level limit of started steps per logical core (R103). -/
def Launch.limit (l : Launch) : Nat := ((l.levels.find? (fun v => decide (v.domain = 0))).map (·.extent)).getD 16

/-! Checks. Each gives the offsets of the fields that it finds wrong. -/

/-- An offset where a condition fails. -/
def need (ok : Bool) (off : Nat) : List Nat := if ok then [] else [off]

/-- The lowest field of an entry that must be zero and is not: fields by offset, with their sizes. -/
def mustBeZero (v base : Nat) (fields : List (Nat × Nat)) : List Nat :=
  ((fields.find? (fun f => decide (fieldAt v (base + f.1) f.2 ≠ 0))).map (fun f => [base + f.1])).getD []

/-- The minimum SCOPE under a domain (R104). -/
def minScope (dom : Nat) : Nat :=
  if dom = 6 then 5 else if dom = 5 then 4 else if dom = 4 then 3 else if dom = 3 ∨ dom = 2 then 2 else if dom = 1 then 1 else 0

/-- The level entries in use. -/
def levelsOf (v nlev : Nat) : List Level :=
  (List.range (min nlev 8)).map (fun i =>
    { extent := fieldAt v (64 + 8 * i) 4, domain := fieldAt v (68 + 8 * i) 1, scope := fieldAt v (69 + 8 * i) 1 })

/-- The level entries' own fields (R100). -/
def levelFields (v nlev : Nat) : List Nat :=
  (List.range 8).flatMap (fun i =>
    let o := 64 + 8 * i
    if nlev ≤ i then mustBeZero v o [(0, 4), (4, 1), (5, 1), (6, 2)]
    else need (fieldAt v (o + 4) 1 ≤ 6) (o + 4) ++ need (fieldAt v (o + 5) 1 ≤ 5) (o + 5) ++ need (fieldAt v (o + 6) 2 = 0) (o + 6))

/-- Units of a level's domain within one unit of the level above (R103). -/
def unitCount (ls : List Level) (mask i : Nat) : Nat :=
  let above := unitsFrom 0 (ls.take i) [(0, coresOf mask)]
  (groupsOf ((above.map (·.2)).headD []) (ls.getD i { extent := 0, domain := 0, scope := 0 }).domain).length

/-- The rules of the hierarchy (R103, R104, R126). An EXTENT above the number of units is reported at EXTENT's offset, though the check reads DIEMASK
too (DESIGN CHOICE, log 52). -/
def hierarchy (ls : List Level) (gang : Bool) (mask modidx : Nat) : List Nat :=
  let n := ls.length
  let inner := if (ls.getLastD { extent := 0, domain := 0, scope := 0 }).domain = 0 then n - 2 else n - 1
  let innerDom := (ls.getD inner { extent := 0, domain := 0, scope := 0 }).domain
  let anyDomain := ls.findIdx? (fun l => l.domain == 6)
  need ((innerDom == 1 || innerDom == 2) && decide (inner < n)) (68 + 8 * inner)
    ++ (ls.mapIdx (fun i l =>
      let o := 64 + 8 * i
      let above := if i = 0 then (if anyDomain.isSome then 6 else 5) else (ls.getD (i - 1) l).domain
      need (i == 0 || decide (l.domain < above)) (o - 4)
        ++ need (l.domain ≠ 0 || i + 1 == n) (o + 4)
        ++ need (l.domain ≠ 2 || gang) 6
        ++ need (l.domain ≠ 1 || !gang) 6
        ++ need (minScope above ≤ l.scope) (if i = 0 then (match anyDomain with
          | some j => min (o + 5) (68 + 8 * j)
          | none => o + 5) else o - 4)
        ++ (if l.domain = 0 then need (1 ≤ l.extent ∧ l.extent ≤ 64) o
          else if l.domain = 6 then need (1 ≤ l.extent ∧ l.extent ≤ 4096 ∧ modidx < l.extent) o
          else if l.domain = 5 then need (l.extent = 1) o
          else need (1 ≤ l.extent ∧ (6 < l.domain ∨ l.extent ≤ unitCount ls mask i)) o))).flatten
    ++ need (anyDomain.isSome || modidx == 0) 464

/-- A live-set table of 256 bytes (R135); none where a reserved bit is set. -/
def liveSetsOf (t : Nat) : Option (List LiveSet) :=
  (List.range 16).mapM (fun i =>
    let o := 16 * i
    if fieldAt t o 4 % 2 = 1 ∨ fieldAt t (o + 8) 1 % 2 = 1 ∨ fieldAt t (o + 9) 7 ≠ 0 then none
    else
      some { sregs := BitVec.ofNat 32 (fieldAt t o 4), vregs := BitVec.ofNat 32 (fieldAt t (o + 4) 4), mregs := BitVec.ofNat 8 (fieldAt t (o + 8) 1) })

/-- A subscription table (R180); none where a field is out of range. `top` is the mooring area's base. -/
def subsOf (t n top : Nat) : Option (List Subscription) :=
  (List.range n).mapM (fun i =>
    let f (off k : Nat) : Nat := fieldAt t (32 * i + off) k
    if 2 ^ 57 ≤ f 0 8 ∨ f 8 4 % 64 ≠ 0 ∨ top < f 8 4 + f 12 2 * f 16 4 ∨ f 12 2 < 2 ∨ 64 < f 12 2 ∨ 1 < f 14 1 ∨ f 15 1 ≠ 0
        ∨ f 16 4 = 0 ∨ f 16 4 % 64 ≠ 0 ∨ 262144 < f 16 4 ∨ f 20 2 = 0 ∨ 4096 < f 20 2 ∨ f 22 2 = 0
        ∨ (f 24 4 ≠ 0xFFFFFFFF ∧ (f 24 4 % 32 ≠ 0 ∨ top < f 24 4 + 32)) ∨ f 28 4 ≠ 0 then none
    else
      some { tdesc := f 0 8, ring := f 8 4, nslots := f 12 2, pull := decide (f 14 1 = 1), slotb := f 16 4, trows := f 20 2
             tcols := f 22 2, bar := f 24 4 })

/-- A stage entry (R101) with its tables: the offsets wrong, and the stage. -/
def State.stageEntry (s : State) (v nst i top : Nat) (asid : Option Nat) : List Nat × Stage :=
  let o := 128 + 40 * i
  if nst ≤ i then
    (mustBeZero v o [(0, 8), (8, 8), (16, 8), (24, 2), (26, 1), (27, 1), (28, 4), (32, 1), (33, 7)], Stage.none)
  else
    let f (off k : Nat) : Nat := fieldAt v (o + off) k
    let nsub := f 32 1
    let live := asid.bind (fun a => (s.hmRead a (f 8 8) 256).bind liveSetsOf)
    let subs := asid.bind (fun a => if nsub = 0 then some [] else (s.hmRead a (f 16 8) (32 * nsub)).bind (fun t => subsOf t nsub top))
    (need (f 0 8 % 4 = 0) o ++ need (f 8 8 % 64 = 0) (o + 8) ++ need (nsub ≠ 0 || f 16 8 == 0) (o + 16)
      ++ need (1 ≤ f 24 2 ∧ f 24 2 ≤ 4096) (o + 24) ++ need (f 26 1 ≤ 7) (o + 26) ++ need (1 ≤ f 27 1) (o + 27)
      ++ need (nsub ≤ 16) (o + 32) ++ need (f 33 7 = 0) (o + 33)
      ++ need (live.isSome || asid.isNone) (o + 8) ++ need (subs.isSome || asid.isNone || decide (16 < nsub)) (o + 16),
      { entry := f 0 8, live := live.getD [], subs := subs.getD [], qdepth := f 24 2, prio := f 26 1, weight := f 27 1
        budget := f 28 4, lstab := f 8 8, subtab := f 16 8 })

/-- The parameter block (R109): its loops and CHUNK, where it is in range. -/
def paramBlock (t : Nat) : Option (List (Nat × Int × Int) × Nat) :=
  let n := fieldAt t 4 1
  let ok (k : Nat) : Bool :=
    let c := fieldAt t (8 + 4 * k) 4
    if k < n then decide (1 ≤ c) && decide (c ≤ 2 ^ 24) else decide (c = 0)
  if fieldAt t 0 4 = 1 ∧ 1 ≤ n ∧ n ≤ 6 ∧ fieldAt t 5 1 = 0 ∧ 1 ≤ fieldAt t 6 2 ∧ (List.range 6).all ok then
    some ((List.range n).map (fun k => (fieldAt t (8 + 4 * k) 4, toSigned 32 (fieldAt t (32 + 4 * k) 4), toSigned 32 (fieldAt t (56 + 4 * k) 4))),
      fieldAt t 6 2)
  else none

/-- A record of 512 bytes checked (R98): the offsets wrong, and the launch that it describes. A MODIDX that is not 0 without a DOMAIN level is reported
at its own offset, 464 (DESIGN CHOICE, log 52). -/
def State.checkRecord (s : State) (pa v : Nat) (byDevice : Bool) (who : Option Nat) : List Nat × Launch :=
  let f (off k : Nat) : Nat := fieldAt v off k
  let gang := (f 6 1).testBit 1
  let ctx := match tget s.contexts (f 11 1) with
    | some c => if c.destroying ∨ 63 < f 11 1 then none else some c
    | none => none
  let asid := ctx.map (·.asid.toNat)
  let ls := levelsOf v (f 4 1)
  let moor := f 7 1
  let top := 0x300000 - 0x10000 * (if moor = 0 then 8 else moor)
  let stages := (List.range 8).map (fun i => s.stageEntry v (f 5 1) i top asid)
  let block := asid.bind (fun a => (s.hmRead a (f 16 8) 128).bind paramBlock)
  let l : Launch :=
    { st := .active, record := pa, ctx := f 11 1, asid := asid.getD 0, det := (f 6 1).testBit 0, gang := gang, moor := moor
      vlcapl := f 8 1, lpartreq := f 9 1, diemask := f 10 1, hbint := f 12 4, topb := f 16 8, qarea := f 24 8, ovfBase := f 32 8
      ovfSize := f 40 4, donef := f 48 8, levels := ls, stages := (stages.map (·.2)).take (f 5 1), seed0 := BitVec.ofNat 64 (f 448 8)
      seed1 := BitVec.ofNat 64 (f 456 8), modidx := f 464 4, loops := (block.map (·.1)).getD [], chunk := (block.map (·.2)).getD 1
      walked := 0, queues := List.replicate (f 5 1) { entries := [], placed := 0, stepno := [], waits := [] }, faulted := 0
      byDevice := byDevice, who := who, cores := [], chunks := [], progress := s.time.toNat }
  let spans := (bitsSet 4 (f 10 1)).all (fun d => s.hmWritable l.asid (l.qarea + d * l.qspan) l.qspan)
  let depths := l.stages.all (fun g => decide (1 ≤ g.qdepth ∧ g.qdepth ≤ 4096))
  (need (f 0 4 = 1) 0 ++ need (1 ≤ f 4 1 ∧ f 4 1 ≤ 8) 4 ++ need (1 ≤ f 5 1 ∧ f 5 1 ≤ 8) 5 ++ need (f 6 1 ≤ 3) 6
    ++ need (!gang || (f 9 1 != 2 && f 9 1 != 3)) 6 ++ need (moor = 0 ∨ (2 ≤ moor ∧ moor ≤ 16)) 7
    ++ need (f 8 1 = 0 ∨ (5 ≤ f 8 1 ∧ f 8 1 ≤ 13)) 8 ++ need (f 9 1 ≤ 3) 9 ++ need (1 ≤ f 10 1 ∧ f 10 1 ≤ 15) 10 ++ need ctx.isSome 11
    ++ need (f 16 8 % 128 = 0) 16 ++ need (f 24 8 % 4096 = 0) 24 ++ need (f 32 8 % 0x10000 = 0) 32
    ++ need (f 32 8 ≠ 0 || f 40 4 == 0) 32 ++ need (f 44 4 = 0) 44 ++ need (f 48 8 % 16 = 0) 48 ++ need (f 56 8 = 0) 56
    ++ levelFields v (f 4 1) ++ (if !ls.isEmpty then hierarchy ls gang (f 10 1 % 16) (f 464 4) else [])
    ++ (stages.flatMap (·.1)) ++ need (f 468 44 = 0) 468
    ++ need (block.isSome || ctx.isNone) 16
    ++ need (ctx.isNone || !depths || decide (f 24 8 % 4096 ≠ 0) || spans) 24
    ++ need (ctx.isNone || f 48 8 == 0 || decide (f 48 8 % 16 ≠ 0) || s.hmWritable l.asid l.donef 16) 48, l)

end Sys2Proof.Machine
end

