-- ==== Sys2Proof/Machine/Harbour.lean ====
section
/-!
DEFINITION. The harbourmaster (spec 05): taking records, configuring cores, the walker, granting strand slots, pre-emption, the end of
a launch and its completion entry.
-/

namespace Sys2Proof.Machine

open Sys2Proof

/-! Records to launches (R97, R98, R102). -/

/-- Whether a core holds a resident strand. -/
def State.resident (s : State) (c : Nat) : Bool := !(s.getCore c).slots.isEmpty || (s.acting && s.here == c)

/-- Whether a core has the configuration that a launch asks for, for its context. -/
def Core.suits (k : Core) (l : Launch) : Bool :=
  decide (k.ctx = some l.ctx) && (l.moor == 0 || k.moor == l.moor) && (l.vlcapl == 0 || k.vlcap.toNat == l.vlcapl)
    && (l.lpartreq == 0 || k.lpart.toNat == l.lpartreq || l.gang) && k.gangEn == l.gang && k.detm == l.det

/-- The other core of a core's gang pair (R126). -/
def partnerOf (c : Nat) : Nat := if c % 2 = 0 then c + 1 else c - 1

/-- Whether the harbourmaster may configure a core for a launch (R102): running, with no resident strand and no record of another
launch; for another context, with no engine command unfinished either. -/
def State.idleFor (s : State) (c die slot : Nat) (l : Launch) : Bool :=
  let k := s.getCore c
  decide (k.cstate = .running) && !s.resident c
    && k.records.all (fun r => (k.step r.cell).launch == slot && (k.step r.cell).die == die)
    && (decide (k.ctx = some l.ctx) ||
      (k.records.isEmpty && k.mat.isEmpty && k.copies.isEmpty && k.streams.isEmpty && k.xforms.isEmpty && k.heldRels.isEmpty))

/-- Whether a core may be configured for a launch (R102, R126): itself, and its partner where either is of a gang, which the launch makes or
ends. -/
def State.mayConfigure (s : State) (c die slot : Nat) (l : Launch) : Bool :=
  s.idleFor c die slot l
    && (!(l.gang || (s.getCore c).gangEn) || s.idleFor (partnerOf c) die slot l)

/-- Whether a core takes steps of a launch: configured for it and still so, or free to be configured (R102). -/
def State.serves (s : State) (c die slot : Nat) (l : Launch) : Bool :=
  (l.cores.contains c && (s.getCore c).suits l) || s.mayConfigure c die slot l

/-- A core for another context than the one that last held it (R158, R400): local memory, operand memory and the accumulator store
zero, every granule empty, no binding. -/
def Core.wipe (k : Core) : Core :=
  { k with
    loc := []
    full := []
    locPoison := []
    opMem := []
    opPoison := []
    tags := []
    acc := []
    accBad := []
    binds := []
    bindBad := false
    bindOver := false
    rings := []
    granuleWaits := [] }

/-- A core configured for a launch (R102). A core new to the context takes the context's own settings first (R66); a field of 0 keeps
what is there. -/
def Core.configure (k : Core) (l : Launch) (x : Context) : Core :=
  let k := if k.lastCtx = some l.ctx then k else k.wipe
  let k := if k.ctx = some l.ctx then k else { k with vlcap := x.vlcap, lpart := x.lpart, home := if x.home.isEmpty then k.home else x.home, tlb := [] }
  { k with
    ctx := some l.ctx
    lastCtx := some l.ctx
    asid := BitVec.ofNat 16 l.asid
    moor := if l.moor = 0 then k.moor else l.moor
    vlcap := if l.vlcapl = 0 then k.vlcap else BitVec.ofNat 4 l.vlcapl
    lpart := if l.gang then 1 else if l.lpartreq = 0 then k.lpart else BitVec.ofNat 2 l.lpartreq
    gangEn := l.gang
    detm := l.det }

/-- A core, and in a gang its partner, configured where that may be done; a gang that it leaves is no gang any more (R126). -/
def State.configureCore (s : State) (c die slot : Nat) : State :=
  match tget (s.harbour die).launches slot with
  | none => s
  | some l =>
    match tget s.contexts l.ctx with
    | none => s
    | some x =>
      if x.swapped.contains die ∨ (l.cores.contains c ∧ (s.getCore c).suits l) ∨ !s.mayConfigure c die slot l then s
      else
        let ganged := (s.getCore c).gangEn
        let s := s.modLaunch die slot (fun l => { l with cores := ninsert l.cores c })
        let s := s.modCore c (·.configure l x)
        if l.gang then s.modCore (partnerOf c) (·.configure l x)
        else if ganged then s.modCore (partnerOf c) (fun k => { k with gangEn := false })
        else s

/-- LAUNCH_CORE_CONFIGURE (R102): the harbourmaster brings a core to a launch's configuration; one that it may not configure yet is tried again.
Operands: core, die, n (the launch slot). -/
def execLaunchCoreConfigure (s : State) : Out :=
  let i := s.inp
  .next
    (let s := (s.park).configureCore i.core i.die i.n
    match tget (s.harbour i.die).launches i.n with
    | some l => if l.st = .active ∧ !l.cores.contains i.core then s.later .launchCoreConfigure i else s
    | none => s)

/-- The lowest free launch slot of 16. -/
def Harbour.freeSlot (h : Harbour) : Option Nat := (List.range 16).find? (fun n => (tget h.launches n).isNone)

/-- HM_TAKE_RECORD (R97, R98): the harbourmaster takes the record at the head of its submission queue, refuses it or starts its launch;
with no launch slot free it takes none. Operand: die. -/
def execHmTakeRecord (s : State) : Out :=
  let d := s.inp.die
  .next
    (let s := s.park
    let h := s.harbour d
    match h.submit, h.freeSlot with
    | (pa, dev, who) :: rest, some slot =>
      let s := (s.modHarbour d (fun h => { h with submit := rest })).countRead pa 512
      let s := s.countTables (s.peek pa 512)
      let (bad, l) : List Nat × Launch :=
        match s.readPhys pa 512 with
        | .error _ => ([0xFFFF], { (s.checkRecord pa 0 dev who).2 with donef := 0 })
        | .ok v => s.checkRecord pa v dev who
      let put (l : Launch) (s : State) : State := s.modHarbour d (fun h => { h with launches := tset h.launches slot l })
      match bad.min? with
      | some off =>
        let s := put { l with st := .refused off } s
        let s := match (if dev ∧ l.donef ≠ 0 ∧ l.donef % 16 = 0 then s.physOf l.asid l.donef else none) with
          | some f => (s.futResolve f none).1
          | none => s
        s.later .hmCompletionWrite { Input.none with die := d, n := slot }
      | none =>
        let s := put l s
        let s := if l.det then s.modHarbour d (fun h => { h with last := Vector.replicate 8 127 }) else s
        let mine := (l.units.map (·.2)).filter (fun c => dieOf c == d)
        let s := mine.foldl (fun s c => s.later .launchCoreConfigure { Input.none with core := c, die := d, n := slot }) s
        s.later .walkerStep { Input.none with die := d, n := slot }
    | _, _ => s)

/-! The walker (R109, R110). -/

/-- Steps of a launch's walk. -/
def Launch.total (l : Launch) : Nat := (l.loops.map (·.1)).foldl (· * ·) 1

/-- The indices of step `n`, loop 0 outermost (R110). -/
def walkIndices : List (Nat × Int × Int) → Nat → List Nat
  | [], _ => []
  | (_, step, start) :: r, n =>
    let inner := (r.map (·.1)).foldl (· * ·) 1
    wrapN 32 (start + (n / inner : Nat) * step) :: walkIndices r (n % inner)

/-- WALKER_STEP (R110): the walker produces the next step of a launch and enters it in stage 0's queue when its logical core lies on the
die; it stops at a full queue. Operands: die, n (the launch slot). -/
def execWalkerStep (s : State) : Out :=
  let d := s.inp.die
  let slot := s.inp.n
  .next
    (let s := s.park
    match tget (s.harbour d).launches slot with
    | none => s
    | some l =>
      if l.st ≠ .active ∨ l.total ≤ l.walked ∨ l.full 0 then s
      else
        let n := l.walked
        let lcore := n / max l.chunk 1 % max l.ncore 1
        let on := (l.place lcore).any (fun c => dieOf c == d)
        let idx := walkIndices l.loops n
        let head := (idx ++ List.replicate (6 - idx.length) 0).flatMap (bytesOf 4) ++ bytesOf 8 l.topb
        let s := if on then s.pushEntry d slot 0 head lcore else s
        let s := s.modLaunch d slot (fun l => { l with walked := n + 1 })
        if l.total ≤ n + 1 then s.later .launchEnd { Input.none with die := d, n := slot }
        else s.later .walkerStep { Input.none with die := d, n := slot })

/-! Readiness (R111). -/

/-- 1,024 cycles of the arithmetic clock, in nanoseconds. -/
def ageNs : Nat := 820

/-- QUEUE_AGE_READY (R111): a queue whose oldest entry has waited 1,024 cycles is ready. Operands: die, n (the launch slot), queue (the
stage). -/
def execQueueAgeReady (s : State) : Out :=
  let i := s.inp
  .next
    (match tget (s.harbour i.die).launches i.n with
    | none => s
    | some l =>
      let q := l.queue i.queue
      match q.entries with
      | [] => s
      | e :: r =>
        if e.aged then s
        else if s.time.toNat - e.since < ageNs then s.later .queueAgeReady i
        else s.modLaunch i.die i.n (fun l => { l with queues := l.queues.set i.queue { q with entries := { e with aged := true } :: r } }))

/-- Whether a stage's queue is ready and not back-pressured. -/
def Launch.queueReady (l : Launch) (st : Nat) : Bool :=
  let q := l.queue st
  (decide ((l.stages.getD st Stage.none).weight ≤ q.entries.length) || (q.entries.head?).any (·.aged))
    && !(decide (st + 1 < l.stages.length) && l.full (st + 1))

/-- Started steps of a logical core of a launch, over the die's cores. -/
def State.startedOf (s : State) (d slot lcore : Nat) : Nat :=
  (s.cores.map (fun p => (p.2.steps.filter (fun q => q.2.live && q.2.die == d && q.2.launch == slot && q.2.lcore == lcore)).length)).sum

/-- The oldest entry of a queue that is eligible for a core (R111, R112). -/
def State.eligible (s : State) (d slot : Nat) (l : Launch) (st c : Nat) : Option QEntry :=
  let k := s.getCore c
  if 64 ≤ (k.steps.filter (fun p => p.2.live)).length ∨ l.st ≠ .active then none
  else if (tget s.contexts l.ctx).all (fun x => x.swapped.contains d) then none
  else if !s.serves c d slot l then none
  else
    let us := l.units
    (l.queue st).entries.find? (fun e =>
      (if l.det then us.contains (e.lcore, c) else us.any (fun u => u.2 == c)) && decide (s.startedOf d slot e.lcore < l.limit))

/-- The candidate queues of a priority for a core, by queue number: launch slot, launch, stage and entry. -/
def State.candidates (s : State) (c p : Nat) : List (Nat × Launch × Nat × QEntry) :=
  let d := dieOf c
  (s.harbour d).launches.flatMap (fun x =>
    (List.range x.2.stages.length).filterMap (fun st =>
      if (x.2.stages.getD st Stage.none).prio = p ∧ x.2.queueReady st then
        (s.eligible d x.1 x.2 st c).map (fun e => (x.1, x.2, st, e))
      else none))

/-! Grants (R112, R123-R125). -/

/-- The strands of a sequencer. -/
def Core.seqStrands (k : Core) (b : Bool) : List (Nat × Strand) := k.slots.filter (fun p => slotIsB p.1 == b)

/-- Whether the context that a core holds is being swapped out there: it is granted no slot (R267). -/
def State.barred (s : State) (c : Nat) : Bool :=
  ((s.getCore c).ctx.bind (tget s.contexts ·)).any (fun x => x.swapped.contains (dieOf c))

/-- Whether a sequencer of a core has an empty filling slot (R123, R125, R126). -/
def Core.fillable (k : Core) (c : Nat) (b : Bool) : Bool :=
  decide (k.cstate = .running) && decide (k.power = .p0 ∨ k.power = .p1) && k.takes b (c % 2 = 1) && decide ((k.seqStrands b).length < 2)

/-- The slot that the next strand of a sequencer takes. -/
def Core.nextSlot (k : Core) (b : Bool) : Nat :=
  let lo := if b then 2 else 0
  if (tget k.slots lo).isSome then lo + 1 else lo

/-- A strand put into a sequencer's filling slot; it runs at once when no other does (R124). -/
def State.place (s : State) (c : Nat) (b : Bool) (st : Strand) : State :=
  s.modCore c (fun k =>
    let st := { st with granted := k.grants }
    let k := { k with slots := tset k.slots (k.nextSlot b) st, grants := k.grants + 1, power := .p0 }
    k.promote b)

/-- The context of a core shows progress of a launch (R85 rung 2). -/
def State.progress (s : State) (st : Step) : State := s.modLaunch st.die st.launch (fun l => { l with progress := s.time.toNat })

/-- A record as its own blocks hold it when it is read for its relaunch, and whether they are damaged (R142, R273). -/
def State.readBlocks (s : State) (c : Nat) (r : Record) : Record × Bool :=
  let k := s.getCore c
  if r.spilled then s.readSpill k r else (r, k.locBad (k.moorBase + 0x2000 + 64 * r.block) r.length)

/-- A record that cannot be relaunched goes to the fault queue (R270, R273). -/
def State.unfit (s : State) (c : Nat) (r : Record) (t : TrapBlock) : State :=
  let n := (s.getCore c).dseq
  ((s.dropRecord c r).queueFault c (s.ctxOf c)
    { r with kind := .fault, lsidx := 0, trap := { t with when_ := s.time.toNat, rescyc := ((s.getCore c).step r.cell).rescyc } }).modCore c
    (·.rekey r.dseq n)

/-- A ready record relaunched in a sequencer (R144, R262, R136): its slot takes what its deposit number held; or, its blocks damaged, it goes
to the fault queue with cause 0x40 (R273), or, mismatched, with cause 0x01 (R270). The answer says whether the slot was taken. -/
def State.relaunch (s : State) (c : Nat) (b : Bool) (old : Record) : State × Bool :=
  let k := s.getCore c
  let (r, damaged) := s.readBlocks c old
  let s := if old.spilled then s.countSpill k old else s
  if damaged || old.damaged then (s.unfit c old { old.trap with cause := 0x40, image := true }, false)
  else if 2 ^ r.vlenbl ≠ k.vlenb ∨ r.isa ≠ 3 then (s.unfit c r { r.trap with cause := 0x01, mismatch := true }, false)
  else
    let sl := k.nextSlot b
    let st := s.strandOf c r
    let st := { st with wait := match tget k.awaiting r.dseq with
      | some (node, q) => AnswerWait.packet node q
      | none => .none }
    let s := s.modCore c (fun k => { k.dropRecord r.dseq with
      answers := match tget k.answers r.dseq with
        | some a => tset (tdel k.answers r.dseq) (answerKey sl) a
        | none => k.answers
      awaiting := tdel k.awaiting r.dseq })
    ((s.place c b st).progress (k.step r.cell), true)

/-- The lowest descriptor cell of a core that no started step holds (R108). -/
def Core.freeCell (k : Core) : Nat :=
  ((List.range 64).find? (fun n => !k.steps.any (fun p => p.2.live && decide (cellIndex p.1 = n)))).getD 0

/-- A step's descriptor read from its queue entry into its cell, a sector that is uncorrectable as poisoned granules (R15, R108). -/
def Core.putDescriptor (k : Core) (addr : Nat) (bs : List Byte) (bad : List Nat) : Core :=
  let k := k.locWrite addr bs
  { k with locPoison := bad.foldl (fun l g => ninsert l (addr / 16 + g)) k.locPoison }

/-- A new step started from a queue entry (R108): its descriptor in a cell, s3 its address, the strand at the stage's ENTRY. The answer says
whether the slot was taken. -/
def State.startStep (s : State) (c : Nat) (b : Bool) (slot : Nat) (l : Launch) (st : Nat) (e : QEntry) : State × Bool :=
  let d := dieOf c
  let s := s.configureCore c d slot
  let k := s.getCore c
  if !(k.suits l) ∨ !(k.fillable c b) then (s, false)
  else
    let cell := k.freeCell + 64 * k.started
    let (bs, bad, s) : List Byte × List Nat × State := match s.physOf l.asid (l.qbase d st + 64 * e.place) with
      | some pa => (mbytes s.mem pa 64, (List.range 4).filter (fun g => s.bad (pa + 16 * g) 16), s.countRead pa 64)
      | none => (List.replicate 64 0, [], s)
    let stepno := valueOf (bs.drop 56)
    let step : Step :=
      { Step.fresh with live := true, launch := slot, die := d, stage := st, lcore := e.lcore, stepno := stepno, strands := 1 }
    let addr := k.cellAddr cell
    let s := s.modCore c (fun k => { k.putDescriptor addr bs bad with steps := tset k.steps cell step, started := k.started + 1 })
    let q := l.queue st
    let s := s.modLaunch d slot (fun l => { l with queues := l.queues.set st { q with entries := q.entries.erase e } })
    let fresh := { Strand.fresh with
      pc := BitVec.ofNat 64 (l.stages.getD st Stage.none).entry
      regs := { Regs.fresh with xs := Regs.fresh.xs.set 3 (BitVec.ofNat 64 addr) }
      cell := cell }
    let s := (s.place c b fresh).progress step
    let s := s.servePushes d slot st 4096
    let s := if st = 0 then s.later .walkerStep { Input.none with die := d, n := slot } else s
    (s.ageing d slot st, true)

/-- The ready records of a priority, each tried until one takes the slot. -/
def State.tryReady (s : State) (c : Nat) (b : Bool) : List Nat → State × Bool
  | [] => (s, false)
  | q :: r =>
    match (s.getCore c).record q with
    | none => s.tryReady c b r
    | some x =>
      match s.relaunch c b x with
      | (s, true) => (s, true)
      | (s, false) => s.tryReady c b r

/-- R112 for one sequencer, from a priority upward: at most one grant. -/
def State.grantFrom (s : State) (c : Nat) (b : Bool) : Nat → Nat → State × Bool
  | 0, _ => (s, false)
  | fuel + 1, p =>
    match s.tryReady c b ((tget (s.getCore c).order p).getD []) with
    | (s, true) => (s, true)
    | (s, false) =>
      let cs := s.candidates c p
      let last := ((s.harbour (dieOf c)).last.toList.getD p 127)
      let num (x : Nat × Launch × Nat × QEntry) : Nat := 8 * x.1 + x.2.2.1
      let best (xs : List (Nat × Launch × Nat × QEntry)) : Option (Nat × Launch × Nat × QEntry) :=
        xs.foldl (fun a x => match a with
          | some y => if num x < num y then some x else some y
          | none => some x) none
      match (best (cs.filter (fun x => decide (last < num x)))).orElse (fun _ => best cs) with
      | some (slot, l, st, e) =>
        (match s.startStep c b slot l st e with
        | (s, true) => (s.modHarbour (dieOf c) (fun h => { h with last := h.last.set (p % 8) (8 * slot + st) (Nat.mod_lt _ (by decide)) }), true)
        | r => r)
      | none => s.grantFrom c b fuel (p + 1)

/-- Whether some queue of the die has an entry for a core, at any priority. -/
def State.hasCandidate (s : State) (c : Nat) : Bool :=
  (s.harbour (dieOf c)).launches.any (fun (x : Nat × Launch) =>
    (List.range x.2.stages.length).any (fun st =>
      x.2.queueReady st && decide ((x.2.stages.getD st Stage.none).prio < 8) && (s.eligible (dieOf c) x.1 x.2 st c).isSome))

/-- Whether a grant would find something for a core: a free slot, and a ready record or a candidate. -/
def State.grantableCore (s : State) (c : Nat) (k : Core) : Bool :=
  (k.fillable c false || k.fillable c true) && !s.dieSleep.contains (dieOf c) &&
    (k.order.any (fun p => !p.2.isEmpty) || s.hasCandidate c) && !s.barred c

def State.grantable (s : State) (c : Nat) : Bool := s.grantableCore c (s.getCore c)

/-- STRAND_GRANT (R112, R123): a core's free strand slots are offered, sequencer A first, then B; at most one grant each. Operand: core. -/
def execStrandGrant (s : State) : Out :=
  let c := s.inp.core
  .next
    (let s := s.park
    if !s.grantable c then s
    else
      let s := if (s.getCore c).fillable c false then (s.grantFrom c false 8 0).1 else s
      if (s.getCore c).fillable c true then (s.grantFrom c true 8 0).1 else s)

/-! Pre-emption (R114). -/

/-- The strand that gives way for a candidate of priority `p`: the greatest PRIO above it, among equals the one granted last. -/
def State.victim (s : State) (c p : Nat) : Option Nat :=
  let k := s.getCore c
  let pr (st : Strand) : Nat := (s.stageOf (k.step st.cell)).prio
  ((k.slots.filter (fun x => decide (p < pr x.2))).foldl (fun (a : Option (Nat × Strand)) x =>
    match a with
    | some y => if pr y.2 < pr x.2 ∨ (pr y.2 = pr x.2 ∧ y.2.granted ≤ x.2.granted) then some x else some y
    | none => some x) none).map (·.1)

/-- A strand that the harbourmaster has decided against: from here its cycles are no longer its step's (R115). -/
def Core.markLeaving (k : Core) (sl : Nat) : Core :=
  { k with slots := k.slots.map (fun x => if x.1 = sl then (x.1, { x.2 with leaving := true }) else x) }

/-- PREEMPT_DECISION (R114): with a record or an eligible entry waiting for a core that has no free slot, one strand of a stage of lower
priority is forced to leave; while one is leaving no other is chosen. Operand: core. -/
def execPreemptDecision (s : State) : Out :=
  let c := s.inp.core
  .next
    (let s := s.park
    let k := s.getCore c
    if k.cstate ≠ .running ∨ k.fillable c false ∨ k.fillable c true ∨ s.barred c ∨ k.slots.any (fun x => x.2.leaving) then s
    else
      match (List.range 8).find? (fun p => !((tget k.order p).getD []).isEmpty || !(s.candidates c p).isEmpty) with
      | none => s
      | some p =>
        match s.victim c p with
        | some sl =>
          let granted := ((tget k.slots sl).map (·.granted)).getD 0
          (s.modCore c (·.markLeaving sl)).soon .forcedLeave { Input.none with core := c, slot := sl, addr := granted }
        | none => s)

/-! The forced leave (R114, R266, R132, R435). -/

/-- The head matrix command of the strand in hand performs some more units and stops before a row boundary (R408). -/
def State.stopMatrix (s : State) (units : Nat) : State :=
  match s.nextMat s.here with
  | some m =>
    if m.slot == some s.slot && m.drain.isNone && (match decode m.word with
        | .ok (.mma _) | .ok (.mmaS _) => true
        | _ => false) then
      let (k, u) := m.runUnits (min units (m.units - m.start - 1)) s.core m.start
      let (ks, row) := if u = 0 then (0, 0) else m.at_ u
      { s with core := { k with mat := k.mat.map (fun n => if n.order = m.order then { n with mkstep := ks, mrow := row } else n) } }
    else s
  | none => s

/-- A filling strand's record put back unchanged, at the head of its priority, in the blocks that it has kept (R267). -/
def State.putBack (s : State) (c : Nat) (r : Record) : State :=
  s.modCore c (fun k => { k with
    records := k.records ++ [r]
    order := tset k.order r.prio (r.dseq :: (tget k.order r.prio).getD []) })

/-- The record of a strand stopped by force (R257, R266), with its trap block filled in, and the state with its commands withdrawn
(R399) and its convoy split (R435). -/
def State.stopStrand (s : State) (kind : Kind) (t : TrapBlock) (units : Nat) : Record × State :=
  let s := s.stopMatrix units
  let (rest, s) := s.splitConvoy
  let (es, stop, s) := s.withdraw
  let (fword, estart, ms, ks, row) : Nat × Nat × Bool × Nat × Nat :=
    match stop, s.strand.resume with
    | some (ks, row), r => ((r.map (·.1)).getD 0, (r.map (·.2.1)).getD 0, true, ks, row)
    | none, r => r.getD (0, 0, false, 0, 0)
  let t := { t with fword := if t.cause = 0 then 0 else fword, estart := estart, mstop := ms, mkstep := ks, mrow := row }
  ({ s.fullRecord kind s.strand.pc t (es ++ rest ++ s.strand.queue) with ready := false }, s)

/-- The strand in hand leaves by force: its PREEMPT record is ready at once (R266), with the matrix commands of R399, what is left of a
split convoy (R435) and the queued convoys. A strand in its filling slot returns to its record (R267); one whose record waits
at a future's home leaves with REGP set (R133); an answer still due is held for the record (R379). -/
def State.forceOut (s : State) (units : Nat) : State :=
  let core := s.here
  let sl := s.slot
  let held := s.heldAnswer
  if !s.strand.running ∧ s.strand.src.isSome then
    match s.strand.src with
    | some r =>
      let w := s.strand.wait
      (s.vacate.putBack core r).modCore core (·.holdFor sl r.dseq held w)
    | none => s
  else
    match s.strand.wait with
    | .registration _ key =>
      (((s.modHere (·.modRecord key (fun r => { r with regp := true }))).firm core key).detach).vacate
    | w =>
      let (r, s) := s.stopStrand .preempt TrapBlock.none units
      let ctx := s.ctxOf core
      let s := s.vacate
      let n := (s.getCore core).dseq
      match s.deposit core r with
      | none => (s.overflowed core ctx r).modCore core (·.holdFor sl n held w)
      | some (s, r) => s.modCore core (fun k => (k.holdFor sl r.dseq held w).makeReady r.dseq)

/-- A parity error strikes a queued convoy (R271, R272): the strand traps when its turn comes. -/
def Strand.strike (st : Strand) (n : Nat) : Strand :=
  { st with queue := st.queue.mapIdx (fun i e => if i = n then { e with damaged := true } else e) }

/-- FORCED_LEAVE (R114, R266): a strand leaves at a vector-instruction boundary; where its convoy cannot stop yet, the convoy goes on first.
A strand that has left by itself meanwhile needs none (R115). With ok false, what comes is a parity error in a convoy of its queue, and the
forced leave is the trap that follows at that convoy (R272, log 75). Operands: core, slot, addr (the grant that put the strand there), n (the
units that its matrix command performs before it stops; the convoy's place in the queue). -/
def execForcedLeave (s : State) : Out :=
  let i := s.inp
  .next
    (let s := s.park
    if (tget (s.getCore i.core).slots i.slot).all (fun st => decide (st.granted ≠ i.addr)) then s
    else
      let s := s.focus i.core i.slot
      if !i.ok then { s with strand := s.strand.strike i.n }
      else if s.core.mayStop s.slot s.strand then s.forceOut i.n
      else { (s.later .forcedLeave i) with strand := { s.strand with leaving := true }, turn := 4 })

/-- Waits of a resident strand that the hardware bounds at 512 cycles: the strand is forced out where the one it is in has lasted so long (R120,
R132). -/
def State.timeOut (s : State) (i : Input) (what : Instr) : State :=
  let s := s.park
  match tget (s.getCore i.core).slots i.slot with
  | none => s
  | some st =>
    if st.granted ≠ i.addr ∨ st.waiting.isNone then s
    else if !st.waited s.time.toNat then s.later what i
    else
      let s := s.focus i.core i.slot
      if s.core.mayStop s.slot s.strand then s.forceOut i.n else { s.later what i with turn := 4 }

/-- SCOREBOARD_TIMEOUT (R120). Operands: core, slot, addr (the grant), n. -/
def execScoreboardTimeout (s : State) : Out := .next (s.timeOut s.inp .scoreboardTimeout)

/-- HAZARD_TIMEOUT (R132). Operands: core, slot, addr (the grant), n. -/
def execHazardTimeout (s : State) : Out := .next (s.timeOut s.inp .hazardTimeout)

/-- CONVOY_SPLIT (R435): a convoy whose later word has waited 512 cycles is split before that word, and the strand leaves. Operands: core,
slot, addr (the grant), n. -/
def execConvoySplit (s : State) : Out := .next (s.timeOut s.inp .convoySplit)

/-! The end of a launch (R116, R117). -/

/-- Whether a step of a core belongs to a launch of a die and has not ended. -/
def Core.ofLaunch (k : Core) (cell d slot : Nat) : Bool := (k.step cell).live && (k.step cell).die == d && (k.step cell).launch == slot

/-- Whether a launch holds nothing more on a die: no step started, no record, no waiting push, every queue empty, the walk done. -/
def State.launchDone (s : State) (d slot : Nat) (l : Launch) : Bool :=
  decide (l.total ≤ l.walked) && l.queues.all (fun q => q.entries.isEmpty && q.waits.isEmpty)
    && s.cores.all (fun p => p.2.steps.all (fun q => !p.2.ofLaunch q.1 d slot))
    && s.contexts.all (fun x => x.2.saved.all (fun p => p.2.steps.all (fun q => !p.2.ofLaunch q.1 d slot)))

/-- The launches of the other dies of the mask that the same submission started, each with its die, slot and launch. -/
def State.twins (s : State) (d : Nat) (l : Launch) : List (Nat × Nat × Launch) :=
  ((bitsSet 4 l.diemask).filter (fun e => e != d)).filterMap (fun e =>
    ((s.harbour e).launches.find? (fun p => p.2.twinOf l)).map (fun p => (e, p.1, p.2)))

/-- LAUNCH_END (R116): a launch that holds nothing more on a die ends there; a write that its steps have still on their way is not waited for
(R336). Its completion entry is due, with DONEF only when the last die of its mask has resolved it with the sum of the faulted counts. Operands: die,
n (the launch slot). -/
def execLaunchEnd (s : State) : Out :=
  let d := s.inp.die
  let slot := s.inp.n
  .next
    (let s := s.park
    match tget (s.harbour d).launches slot with
    | none => s
    | some l =>
      if l.st ≠ .active ∨ !s.launchDone d slot l then s
      else
        let tw := s.twins d l
        let last := tw.length + 1 = (bitsSet 4 l.diemask).length ∧ tw.all (fun t => decide (t.2.2.st = .ended))
        let sum := l.faulted + (tw.map (·.2.2.faulted)).sum
        let s := s.modLaunch d slot (fun l => { l with st := .ended })
        let s := { s with cores := s.cores.map (fun p =>
          if dieOf p.1 = d then (p.1, { p.2 with rings := p.2.rings.filter (fun r => r.launch != slot) }) else p) }
        let entry (s : State) (e n : Nat) : State := s.later .hmCompletionWrite { Input.none with die := e, n := n }
        if l.donef = 0 then entry s d slot
        else if !last then s
        else
          let s := match s.physOf l.asid l.donef with
            | some f => (s.futResolve f (some (BitVec.ofNat 64 sum))).1
            | none => s
          entry (tw.foldl (fun s t => entry s t.1 t.2.1) s) d slot)

/-- HM_COMPLETION_WRITE (R117): the completion entry of a launch that ended or was refused is written when the queue has room, and its
slot is free. Operands: die, n (the launch slot). -/
def execHmCompletionWrite (s : State) : Out :=
  let d := s.inp.die
  let slot := s.inp.n
  .next
    (let s := s.park
    match tget (s.harbour d).launches slot with
    | none => s
    | some l =>
      if l.st = .active then s
      else if 64 ≤ (s.harbour d).done.length then
        s.modHarbour d (fun h => { h with pending := if h.pending.contains slot then h.pending else h.pending ++ [slot] })
      else
        let (off, status) := match l.st with
          | .refused off => (off, 2)
          | _ => (0, 0)
        let e : HmDone := { slot := slot, record := l.record, faulted := l.faulted, offset := off, status := status, byDevice := l.byDevice, who := l.who }
        ((s.modHarbour d (fun h => { h with
          launches := tdel h.launches slot
          done := h.done ++ [e]
          pending := nremove h.pending slot })).later .hmcqpop { Input.none with die := d }).later .hmTakeRecord { Input.none with die := d })

end Sys2Proof.Machine
end

