-- ==== Sys2Proof/Machine/Hart.lean ====
section
/-!
DEFINITION. The command processors and the management core as RISC-V harts (R54): privilege, standard control and status registers,
exceptions and interrupts, physical memory protection, Sv57.
-/

namespace Sys2Proof.Machine

open Sys2Proof

/-! Fields. -/

/-- A word with `w` bits from `lo` replaced. -/
def withField (v : Word) (lo w x : Nat) : Word := BitVec.ofNat 64 (setField v.toNat lo w x)

/-- A word with the bits of a mask taken from another. -/
def withMask (v new mask : Word) : Word := (v &&& ~~~ mask) ||| (new &&& mask)

def RvMode.code : RvMode → Nat
  | .u => 0
  | .s => 1
  | .m => 3

def rvModeOf (n : Nat) : RvMode := if n = 0 then .u else if n = 1 then .s else .m

/-- mstatus and its view sstatus: the fields that a write sets. -/
def mstatusMask : Word := 0x00000000007E79AA#64
def sstatusMask : Word := 0x00000000000C6122#64

/-! Exceptions and interrupts. -/

/-- Where a trap of a vector register goes: the base, or with mode 1 and an interrupt the base and four bytes a cause. -/
def vectorOf (tvec : Word) (int : Bool) (cause : Nat) : Word :=
  let base := tvec &&& ~~~ 3#64
  if int ∧ tvec.getLsbD 0 then base + BitVec.ofNat 64 (4 * cause) else base

/-- A hart takes an exception or an interrupt, in S mode where it is delegated and the hart is not in M mode. -/
def Rv.trap (r : Rv) (int : Bool) (cause : Nat) (tval : Word) : Rv :=
  let code : Word := BitVec.ofNat 64 (cause + bit int * 2 ^ 63)
  if r.mode ≠ .m ∧ (if int then r.mideleg else r.medeleg).getLsbD cause then
    { r with
      mode := .s
      sepc := r.pc
      scause := code
      stval := tval
      pc := vectorOf r.stvec int cause
      mstatus := withField (withField (withField r.mstatus 5 1 (bit (r.mstatus.getLsbD 1))) 1 1 0) 8 1 r.mode.code }
  else
    { r with
      mode := .m
      mepc := r.pc
      mcause := code
      mtval := tval
      pc := vectorOf r.mtvec int cause
      mstatus := withField (withField (withField r.mstatus 7 1 (bit (r.mstatus.getLsbD 3))) 3 1 0) 11 2 r.mode.code }

/-- MRET and SRET, where the mode may run them. -/
def Rv.mret (r : Rv) : Option Rv :=
  if r.mode ≠ .m then none
  else
    let back := rvModeOf (bitsN r.mstatus.toNat 12 11)
    let st := withField (withField (withField r.mstatus 3 1 (bit (r.mstatus.getLsbD 7))) 7 1 1) 11 2 0
    some { r with mode := back, pc := r.mepc, mstatus := if back = .m then st else withField st 17 1 0 }

def Rv.sret (r : Rv) : Option Rv :=
  if r.mode = .u ∨ (r.mode = .s ∧ r.mstatus.getLsbD 22) then none
  else
    let st := withField (withField (withField (withField r.mstatus 1 1 (bit (r.mstatus.getLsbD 5))) 5 1 1) 8 1 0) 17 1 0
    some { r with mode := if r.mstatus.getLsbD 8 then .s else .u, pc := r.sepc, mstatus := st }

/-- Whether the machine external interrupt is taken now: pending, enabled in mie, and the mode it goes to is a higher one or has its enable
bit set. -/
def Rv.interruptible (r : Rv) (pending : Bool) : Bool :=
  pending && r.mie.getLsbD 11 &&
    (if r.mideleg.getLsbD 11 then r.mode == .u || (r.mode == .s && r.mstatus.getLsbD 1)
    else r.mode != .m || r.mstatus.getLsbD 3)

/-! Control and status registers. -/

/-- Whether a mode may access a CSR (the privilege in bits 9:8; a write to a read-only one, in bits 11:10, is none). -/
def Rv.mayAccess (r : Rv) (idx : Nat) (write : Bool) : Bool :=
  decide (bitsN idx 9 8 ≤ r.mode.code) && !(write && decide (bitsN idx 11 10 = 3))
    && !(decide (idx = 0x180) && decide (r.mode = .s) && r.mstatus.getLsbD 20)
    && !(decide (1 ≤ idx ∧ idx ≤ 3) && decide (bitsN r.mstatus.toNat 14 13 = 0))
    && (decide (idx < 0xC00 ∨ 0xC1F < idx) || decide (r.mode = .m)
      || (r.mcounteren.getLsbD (idx - 0xC00) && (decide (r.mode = .s) || r.scounteren.getLsbD (idx - 0xC00))))

/-- mstatus as it reads: SXL and UXL 64 bits, SD when FS is dirty. -/
def Rv.status (r : Rv) : Nat :=
  r.mstatus.toNat + 2 * 2 ^ 32 + 2 * 2 ^ 34 + (if bitsN r.mstatus.toNat 14 13 = 3 then 2 ^ 63 else 0)

/-- The address register of a PMP entry as it reads with a granularity of 4 KiB. -/
def Rv.pmpRead (r : Rv) (j : Nat) : Nat :=
  let a := (r.pmpaddr.toList.getD j 0).toNat
  if bitsN ((r.pmpcfg.toList.getD j 0).toNat) 4 3 = 3 then a / 512 * 512 + 511 else a / 1024 * 1024

/-- A standard CSR read (R54), by hart and TIME, with the external interrupt pending or not; none where there is no such register. -/
def Rv.read (r : Rv) (h time : Nat) (pending : Bool) (idx : Nat) : Option Nat :=
  let ip := if pending then 2 ^ 11 else 0
  let cfg (lo : Nat) : Nat := ((List.range 8).map (fun j => (r.pmpcfg.toList.getD (lo + j) 0).toNat * 256 ^ j)).sum
  if idx = 0x001 then some (r.fcsr.toNat % 32)
  else if idx = 0x002 then some (r.fcsr.toNat / 32)
  else if idx = 0x003 then some r.fcsr.toNat
  else if idx = 0x100 then some (r.status &&& (sstatusMask.toNat + 3 * 2 ^ 32 + 2 ^ 63))
  else if idx = 0x104 then some (r.mie &&& r.mideleg).toNat
  else if idx = 0x105 then some r.stvec.toNat
  else if idx = 0x106 then some r.scounteren.toNat
  else if idx = 0x140 then some r.sscratch.toNat
  else if idx = 0x141 then some r.sepc.toNat
  else if idx = 0x142 then some r.scause.toNat
  else if idx = 0x143 then some r.stval.toNat
  else if idx = 0x144 then some (ip &&& r.mideleg.toNat)
  else if idx = 0x180 then some r.satp.toNat
  else if idx = 0x300 then some r.status
  else if idx = 0x301 then some (2 * 2 ^ 62 + 0x14112D)
  else if idx = 0x302 then some r.medeleg.toNat
  else if idx = 0x303 then some r.mideleg.toNat
  else if idx = 0x304 then some r.mie.toNat
  else if idx = 0x305 then some r.mtvec.toNat
  else if idx = 0x306 then some r.mcounteren.toNat
  else if idx = 0x340 then some r.mscratch.toNat
  else if idx = 0x341 then some r.mepc.toNat
  else if idx = 0x342 then some r.mcause.toNat
  else if idx = 0x343 then some r.mtval.toNat
  else if idx = 0x344 then some ip
  else if idx = 0x3A0 then some (cfg 0)
  else if idx = 0x3A2 then some (cfg 8)
  else if 0x3B0 ≤ idx ∧ idx ≤ 0x3BF then some (r.pmpRead (idx - 0x3B0))
  else if idx = 0xB00 ∨ idx = 0xC00 then some ((2 * time + r.mcycle.toNat) % 2 ^ 64)
  else if idx = 0xB02 ∨ idx = 0xC02 then some r.minstret.toNat
  else if idx = 0xC01 then some time
  else if idx = 0xF12 then some 0x8000000000000B05
  else if idx = 0xF13 then some 3
  else if idx = 0xF14 then some h
  else if idx = 0xF11 ∨ idx = 0xF15 ∨ idx = 0x10A ∨ idx = 0x30A ∨ idx = 0x320 ∨ (0x323 ≤ idx ∧ idx ≤ 0x33F) ∨ (0xB03 ≤ idx ∧ idx ≤ 0xB1F)
      ∨ (0xC03 ≤ idx ∧ idx ≤ 0xC1F) ∨ idx = 0x3A4 ∨ idx = 0x3A6 ∨ (0x3A8 ≤ idx ∧ idx ≤ 0x3AE ∧ idx % 2 = 0) ∨ (0x3C0 ≤ idx ∧ idx ≤ 0x3EF) then some 0
  else none

/-- mstatus with the floating-point state dirty. -/
def Rv.dirtyF (r : Rv) : Rv := { r with mstatus := withField r.mstatus 13 2 3 }

/-- A PMP configuration byte written: a locked entry, a four-byte range and a write-only one leave it as it was. -/
def pmpByte (old : BitVec 8) (v : Nat) : BitVec 8 :=
  let v := v % 256
  if old.getLsbD 7 ∨ bitsN v 4 3 = 2 ∨ bitsN v 1 0 = 2 then old else BitVec.ofNat 8 (v &&& 0x9F)

/-- A standard CSR written (R54). A write of a satp mode other than Bare and Sv57 leaves satp unchanged. -/
def Rv.write (r : Rv) (time idx : Nat) (v : Word) : Rv :=
  let cfg (lo : Nat) : Rv :=
    { r with pmpcfg := r.pmpcfg.mapIdx (fun j b => if lo ≤ j ∧ j < lo + 8 then pmpByte b (v.toNat / 256 ^ (j - lo)) else b) }
  let status (mask : Word) : Rv :=
    { r with mstatus := withMask r.mstatus v (if bitsN v.toNat 12 11 = 2 then mask &&& ~~~ 0x1800#64 else mask) }
  if idx = 0x001 then { r.dirtyF with fcsr := BitVec.ofNat 8 (r.fcsr.toNat / 32 * 32 + v.toNat % 32) }
  else if idx = 0x002 then { r.dirtyF with fcsr := BitVec.ofNat 8 (v.toNat % 8 * 32 + r.fcsr.toNat % 32) }
  else if idx = 0x003 then { r.dirtyF with fcsr := BitVec.ofNat 8 v.toNat }
  else if idx = 0x100 then status sstatusMask
  else if idx = 0x104 then { r with mie := withMask r.mie v (r.mideleg &&& 0x800#64) }
  else if idx = 0x105 then { r with stvec := v &&& ~~~ 2#64 }
  else if idx = 0x106 then { r with scounteren := BitVec.ofNat 32 v.toNat }
  else if idx = 0x140 then { r with sscratch := v }
  else if idx = 0x141 then { r with sepc := v &&& ~~~ 1#64 }
  else if idx = 0x142 then { r with scause := v }
  else if idx = 0x143 then { r with stval := v }
  else if idx = 0x180 then (if bitsN v.toNat 63 60 = 0 ∨ bitsN v.toNat 63 60 = 10 then { r with satp := v } else r)
  else if idx = 0x300 then status mstatusMask
  else if idx = 0x302 then { r with medeleg := v &&& 0xB3FF#64 }
  else if idx = 0x303 then { r with mideleg := v &&& 0x800#64 }
  else if idx = 0x304 then { r with mie := v &&& 0x800#64 }
  else if idx = 0x305 then { r with mtvec := v &&& ~~~ 2#64 }
  else if idx = 0x306 then { r with mcounteren := BitVec.ofNat 32 v.toNat }
  else if idx = 0x340 then { r with mscratch := v }
  else if idx = 0x341 then { r with mepc := v &&& ~~~ 1#64 }
  else if idx = 0x342 then { r with mcause := v }
  else if idx = 0x343 then { r with mtval := v }
  else if idx = 0x3A0 then cfg 0
  else if idx = 0x3A2 then cfg 8
  else if 0x3B0 ≤ idx ∧ idx ≤ 0x3BF then
    let j := idx - 0x3B0
    let locked (k : Nat) : Bool := (r.pmpcfg.toList.getD k 0).getLsbD 7
    if locked j ∨ (locked (j + 1) ∧ bitsN ((r.pmpcfg.toList.getD (j + 1) 0).toNat) 4 3 = 1) then r
    else { r with pmpaddr := r.pmpaddr.mapIdx (fun k a => if k = j then BitVec.ofNat 64 (v.toNat % 2 ^ 54) else a) }
  else if idx = 0xB00 then { r with mcycle := v - BitVec.ofNat 64 (2 * time) }
  else if idx = 0xB02 then { r with minstret := v }
  else r

/-! Physical memory protection and translation. -/

/-- What a hart does at an address. -/
inductive RvAccess where
  | fetch | load | store
  deriving DecidableEq, Repr

/-- The exceptions of an access: page fault, and access fault. -/
def RvAccess.pageFault : RvAccess → Nat
  | .fetch => 12
  | .load => 13
  | .store => 15
def RvAccess.accessFault : RvAccess → Nat
  | .fetch => 1
  | .load => 5
  | .store => 7

/-- The exception of an access that is not aligned. -/
def RvAccess.misaligned : RvAccess → Nat
  | .fetch => 0
  | .load => 4
  | .store => 6

/-- The ones at the low end of a number, by fuel. -/
def lowOnes : Nat → Nat → Nat
  | 0, _ => 0
  | f + 1, v => if v % 2 = 1 then lowOnes f (v / 2) + 1 else 0

/-- The bytes that a PMP entry covers: base and size; size 0 for an entry that is off. -/
def Rv.pmpRange (r : Rv) (j : Nat) : Nat × Nat :=
  let a := (r.pmpaddr.toList.getD j 0).toNat
  let kind := bitsN ((r.pmpcfg.toList.getD j 0).toNat) 4 3
  if kind = 1 then
    let lo := if j = 0 then 0 else (r.pmpaddr.toList.getD (j - 1) 0).toNat / 1024 * 4096
    (lo, a / 1024 * 4096 - lo)
  else if kind = 3 then
    let n := lowOnes 54 (a / 512 * 512 + 511)
    (a / 2 ^ (n + 1) * 2 ^ (n + 3), 2 ^ (n + 3))
  else (0, 0)

/-- Whether PMP lets a mode access bytes: by the lowest-numbered entry that covers any of them, which must cover all; with no entry, M mode
alone. -/
def Rv.pmpOk (r : Rv) (mode : RvMode) (a : RvAccess) (pa n : Nat) : Bool :=
  let hit (j : Nat) : Bool := let p := r.pmpRange j; decide (pa < p.1 + p.2) && decide (p.1 < pa + n)
  match (List.range 16).find? hit with
  | none => decide (mode = .m)
  | some j =>
    let p := r.pmpRange j
    let c := r.pmpcfg.toList.getD j 0
    let allowed := match a with
      | .load => c.getLsbD 0
      | .store => c.getLsbD 1
      | .fetch => c.getLsbD 2
    decide (p.1 ≤ pa) && decide (pa + n ≤ p.1 + p.2) && (allowed || (decide (mode = .m) && !c.getLsbD 7))

/-- Whether a leaf entry of Sv57 lets a mode access its page. -/
def Rv.leafOk (r : Rv) (mode : RvMode) (a : RvAccess) (e : BitVec 64) : Bool :=
  (if mode = .u then e.getLsbD 4 else !e.getLsbD 4 || (r.mstatus.getLsbD 18 && decide (a ≠ .fetch)))
    && (match a with
      | .fetch => e.getLsbD 3
      | .load => e.getLsbD 1 || (r.mstatus.getLsbD 19 && e.getLsbD 3)
      | .store => e.getLsbD 2 && e.getLsbD 7)
    && e.getLsbD 6

/-- The walk of Sv57 from the table of a level: the physical address, or the exception. -/
def Rv.walk (r : Rv) (s : State) (mode : RvMode) (a : RvAccess) (va : Nat) : Nat → Nat → Except Nat Nat
  | level, table =>
    let at_ := table + 8 * (va / 2 ^ (12 + 9 * level) % 512)
    if !r.pmpOk .s .load at_ 8 ∨ s.bad at_ 8 then .error a.accessFault
    else
      let e := BitVec.ofNat 64 (mload s.mem at_ 8)
      let ppn := bitsN e.toNat 53 10
      if !e.getLsbD 0 ∨ (!e.getLsbD 1 ∧ e.getLsbD 2) ∨ bitsN e.toNat 63 54 ≠ 0 then .error a.pageFault
      else if e.getLsbD 1 ∨ e.getLsbD 3 then
        if !r.leafOk mode a e ∨ ppn % 2 ^ (9 * level) ≠ 0 then .error a.pageFault
        else .ok ((ppn * 4096 + va % 2 ^ (12 + 9 * level)) % 2 ^ 52)
      else
        match level with
        | 0 => .error a.pageFault
        | l + 1 => r.walk s mode a va l (ppn * 4096)

/-- Where an access of a hart goes (R54): Bare, or Sv57 below M mode, then PMP. The mode of a load or store under MPRV is MPP's. -/
def Rv.translate (r : Rv) (s : State) (a : RvAccess) (va n : Nat) : Except Nat Nat :=
  let mode := if a ≠ .fetch ∧ r.mstatus.getLsbD 17 then rvModeOf (bitsN r.mstatus.toNat 12 11) else r.mode
  let pa : Except Nat Nat :=
    if mode = .m ∨ bitsN r.satp.toNat 63 60 = 0 then (if va < 2 ^ 52 then .ok va else .error a.accessFault)
    else if va / 2 ^ 56 ≠ 0 ∧ va / 2 ^ 56 ≠ 255 then .error a.pageFault
    else r.walk s mode a va 4 (bitsN r.satp.toNat 43 0 * 4096)
  match pa with
  | .ok pa => if r.pmpOk mode a pa n then .ok pa else .error a.accessFault
  | .error c => .error c

/-! A hart's instruction. -/

/-- A hart's standard state changed. -/
def State.modRv (s : State) (h : Nat) (f : Rv → Rv) : State := s.modHart h (fun t => { t with rv := f t.rv })

/-- An instruction of a hart retires. -/
def Rv.retire (r : Rv) : Rv := { r with pc := r.pc + 4, minstret := r.minstret + 1 }

/-- A value written to an integer register; x0 stays zero. -/
def Rv.setX (r : Rv) (n v : Nat) : Rv :=
  if n % 32 = 0 then r else { r with xs := r.xs.set (n % 32) (BitVec.ofNat 64 v) (Nat.mod_lt _ (by decide)) }

/-- An illegal-instruction exception of a hart. -/
def State.rvIllegal (s : State) (h : Nat) : State := s.modRv h (fun r => r.trap false 2 0)

/-- A Brodauri CSR, which only M mode reaches (R57): from another mode an illegal-instruction exception. -/
def State.inMachineMode (s : State) (h : Nat) (f : State → State) : State :=
  if (s.hart h).rv.mode = .m then f s else s.rvIllegal h

end Sys2Proof.Machine
end

