-- ==== Sys2Proof/Machine/Riscv.lean ====
section
/-!
DEFINITION. The instructions of a hart (R54): RV64IMAFDC with Zicsr and Zifencei, as the public RISC-V specification gives them (log 72). What an
instruction does is computed from the hart's registers alone; accesses to memory and to control and status registers are named for the machine to
make.
-/

namespace Sys2Proof.Machine

open Sys2Proof

/-! Compressed instructions: each is another spelling of a 32-bit one. -/

/-- The 32-bit words of the base formats. -/
def rvI (op f3 rd rs1 imm : Nat) : Nat := op + rd * 2 ^ 7 + f3 * 2 ^ 12 + rs1 * 2 ^ 15 + imm % 2 ^ 12 * 2 ^ 20
def rvR (op f3 f7 rd rs1 rs2 : Nat) : Nat := op + rd * 2 ^ 7 + f3 * 2 ^ 12 + rs1 * 2 ^ 15 + rs2 * 2 ^ 20 + f7 * 2 ^ 25
def rvS (op f3 rs1 rs2 imm : Nat) : Nat :=
  op + imm % 32 * 2 ^ 7 + f3 * 2 ^ 12 + rs1 * 2 ^ 15 + rs2 * 2 ^ 20 + imm / 32 % 128 * 2 ^ 25
def rvB (f3 rs1 rs2 imm : Nat) : Nat :=
  0x63 + bitsN imm 11 11 * 2 ^ 7 + bitsN imm 4 1 * 2 ^ 8 + f3 * 2 ^ 12 + rs1 * 2 ^ 15 + rs2 * 2 ^ 20 + bitsN imm 10 5 * 2 ^ 25 + bitsN imm 12 12 * 2 ^ 31
def rvJ (rd imm : Nat) : Nat :=
  0x6F + rd * 2 ^ 7 + bitsN imm 19 12 * 2 ^ 12 + bitsN imm 11 11 * 2 ^ 20 + bitsN imm 10 1 * 2 ^ 21 + bitsN imm 20 20 * 2 ^ 31

/-- A field of `n` bits read as signed, in a wider field of `w` bits. -/
def rvSigned (n w v : Nat) : Nat := wrapN w (toSigned n v)

/-- A compressed instruction of quadrant 0 as its 32-bit word. -/
def rvc0 (w : Nat) : Option Nat :=
  let b := bitsN w
  let rd := 8 + b 4 2
  let rs := 8 + b 9 7
  let u4 := b 12 10 * 8 + b 6 6 * 4 + b 5 5 * 64
  let u8 := b 12 10 * 8 + b 6 5 * 64
  match b 15 13 with
  | 0 =>
    let imm := b 12 11 * 16 + b 10 7 * 64 + b 6 6 * 4 + b 5 5 * 8
    if imm = 0 then none else some (rvI 0x13 0 rd 2 imm)
  | 1 => some (rvI 0x07 3 rd rs u8)
  | 2 => some (rvI 0x03 2 rd rs u4)
  | 3 => some (rvI 0x03 3 rd rs u8)
  | 5 => some (rvS 0x27 3 rs rd u8)
  | 6 => some (rvS 0x23 2 rs rd u4)
  | 7 => some (rvS 0x23 3 rs rd u8)
  | _ => none

/-- One of quadrant 1. -/
def rvc1 (w : Nat) : Option Nat :=
  let b := bitsN w
  let rd := b 11 7
  let rp := 8 + b 9 7
  let rq := 8 + b 4 2
  let imm := rvSigned 6 12 (b 12 12 * 32 + b 6 2)
  let j := rvSigned 12 21 (b 12 12 * 2 ^ 11 + b 11 11 * 16 + b 10 9 * 256 + b 8 8 * 1024 + b 7 7 * 64 + b 6 6 * 128 + b 5 3 * 2 + b 2 2 * 32)
  let br := rvSigned 9 13 (b 12 12 * 256 + b 11 10 * 8 + b 6 5 * 64 + b 4 3 * 2 + b 2 2 * 32)
  match b 15 13 with
  | 0 => some (rvI 0x13 0 rd rd imm)
  | 1 => if rd = 0 then none else some (rvI 0x1B 0 rd rd imm)
  | 2 => some (rvI 0x13 0 rd 0 imm)
  | 3 =>
    if b 12 12 = 0 ∧ b 6 2 = 0 then none
    else if rd = 2 then
      some (rvI 0x13 0 2 2 (rvSigned 10 12 (b 12 12 * 512 + b 6 6 * 16 + b 5 5 * 64 + b 4 3 * 128 + b 2 2 * 32)))
    else some (0x37 + rd * 2 ^ 7 + rvSigned 6 20 (b 12 12 * 32 + b 6 2) * 2 ^ 12)
  | 4 =>
    match b 11 10 with
    | 0 => some (rvI 0x13 5 rp rp (b 12 12 * 32 + b 6 2))
    | 1 => some (rvI 0x13 5 rp rp (0x400 + b 12 12 * 32 + b 6 2))
    | 2 => some (rvI 0x13 7 rp rp imm)
    | _ =>
      match b 12 12, b 6 5 with
      | 0, 0 => some (rvR 0x33 0 0x20 rp rp rq)
      | 0, 1 => some (rvR 0x33 4 0 rp rp rq)
      | 0, 2 => some (rvR 0x33 6 0 rp rp rq)
      | 0, _ => some (rvR 0x33 7 0 rp rp rq)
      | _, 0 => some (rvR 0x3B 0 0x20 rp rp rq)
      | _, 1 => some (rvR 0x3B 0 0 rp rp rq)
      | _, _ => none
  | 5 => some (rvJ 0 j)
  | 6 => some (rvB 0 rp 0 br)
  | _ => some (rvB 1 rp 0 br)

/-- One of quadrant 2. -/
def rvc2 (w : Nat) : Option Nat :=
  let b := bitsN w
  let rd := b 11 7
  let rs := b 6 2
  let u4 := b 12 12 * 32 + b 6 4 * 4 + b 3 2 * 64
  let u8 := b 12 12 * 32 + b 6 5 * 8 + b 4 2 * 64
  match b 15 13 with
  | 0 => some (rvI 0x13 1 rd rd (b 12 12 * 32 + b 6 2))
  | 1 => some (rvI 0x07 3 rd 2 u8)
  | 2 => if rd = 0 then none else some (rvI 0x03 2 rd 2 u4)
  | 3 => if rd = 0 then none else some (rvI 0x03 3 rd 2 u8)
  | 4 =>
    if b 12 12 = 0 then
      (if rs ≠ 0 then some (rvR 0x33 0 0 rd 0 rs) else if rd = 0 then none else some (rvI 0x67 0 0 rd 0))
    else if rs ≠ 0 then some (rvR 0x33 0 0 rd rd rs)
    else if rd = 0 then some 0x00100073
    else some (rvI 0x67 0 1 rd 0)
  | 5 => some (rvS 0x27 3 2 rs (b 12 10 * 8 + b 9 7 * 64))
  | 6 => some (rvS 0x23 2 2 rs (b 12 9 * 4 + b 8 7 * 64))
  | _ => some (rvS 0x23 3 2 rs (b 12 10 * 8 + b 9 7 * 64))

/-- A 16-bit instruction as the 32-bit one that it stands for. -/
def rvExpand (w : Nat) : Option Nat :=
  match w % 4 with
  | 0 => rvc0 w
  | 1 => rvc1 w
  | 2 => rvc2 w
  | _ => none

/-! Integer arithmetic. -/

/-- The low 32 bits of a value, sign-extended. -/
def rvWord (v : Nat) : Nat := wrapN 64 (toSigned 32 v)

/-- Quotient and remainder of signed numbers, toward zero; a divisor of 0 gives −1 and the dividend. -/
def rvDiv (a b : Int) : Int := if b = 0 then -1 else a.tdiv b
def rvRem (a b : Int) : Int := if b = 0 then a else a.tmod b

/-- An operation of the OP rows on 64-bit values, by funct7 and funct3. -/
def rvAlu (f7 f3 a b : Nat) : Option Nat :=
  let x := toSigned 64 a
  let y := toSigned 64 b
  match f7, f3 with
  | 0, 0 => some (a + b)
  | 0x20, 0 => some (wrapN 64 (x - y))
  | 0, 1 => some (a * 2 ^ (b % 64))
  | 0, 2 => some (bit (decide (x < y)))
  | 0, 3 => some (bit (decide (a < b)))
  | 0, 4 => some (a ^^^ b)
  | 0, 5 => some (a / 2 ^ (b % 64))
  | 0x20, 5 => some (wrapN 64 (x / 2 ^ (b % 64)))
  | 0, 6 => some (a ||| b)
  | 0, 7 => some (a &&& b)
  | 1, 0 => some (wrapN 64 (x * y))
  | 1, 1 => some (wrapN 64 (x * y / 2 ^ 64))
  | 1, 2 => some (wrapN 64 (x * (b : Int) / 2 ^ 64))
  | 1, 3 => some (a * b / 2 ^ 64)
  | 1, 4 => some (wrapN 64 (rvDiv x y))
  | 1, 5 => some (if b = 0 then 2 ^ 64 - 1 else a / b)
  | 1, 6 => some (wrapN 64 (rvRem x y))
  | 1, 7 => some (if b = 0 then a else a % b)
  | _, _ => none

/-- An operation of the OP-32 rows. -/
def rvAluW (f7 f3 a b : Nat) : Option Nat :=
  let x := toSigned 32 a
  let y := toSigned 32 b
  let u := a % 2 ^ 32
  let v := b % 2 ^ 32
  match f7, f3 with
  | 0, 0 => some (rvWord (a + b))
  | 0x20, 0 => some (wrapN 64 (toSigned 32 (wrapN 32 (x - y))))
  | 0, 1 => some (rvWord (a * 2 ^ (b % 32)))
  | 0, 5 => some (rvWord (u / 2 ^ (b % 32)))
  | 0x20, 5 => some (wrapN 64 (x / 2 ^ (b % 32)))
  | 1, 0 => some (rvWord (wrapN 32 (x * y)))
  | 1, 4 => some (rvWord (wrapN 32 (rvDiv x y)))
  | 1, 5 => some (rvWord (if v = 0 then 2 ^ 32 - 1 else u / v))
  | 1, 6 => some (rvWord (wrapN 32 (rvRem x y)))
  | 1, 7 => some (rvWord (if v = 0 then u else u % v))
  | _, _ => none

/-- Whether a branch is taken, by funct3. -/
def rvTaken (f3 a b : Nat) : Option Bool :=
  match f3 with
  | 0 => some (a == b)
  | 1 => some (a != b)
  | 4 => some (decide (toSigned 64 a < toSigned 64 b))
  | 5 => some (decide (toSigned 64 b ≤ toSigned 64 a))
  | 6 => some (decide (a < b))
  | 7 => some (decide (b ≤ a))
  | _ => none

/-- What an AMO of `n` bytes stores, from the value there and the register's, by funct5. -/
def rvAmo (f5 n old v : Nat) : Option Nat :=
  let x := toSigned (8 * n) old
  let y := toSigned (8 * n) v
  match f5 with
  | 0 => some ((old + v) % 2 ^ (8 * n))
  | 1 => some v
  | 4 => some (old ^^^ v)
  | 8 => some (old ||| v)
  | 12 => some (old &&& v)
  | 16 => some (if y < x then v else old)
  | 20 => some (if x < y then v else old)
  | 24 => some (min old v)
  | 28 => some (max old v)
  | _ => none

/-! Floating-point arithmetic. -/

/-- The format of a funct7's low two bits: single or double. -/
def rvFmt (f : Nat) : Option Fmt := if f = 0 then some fFP32 else if f = 1 then some fFP64 else none

/-- A floating-point register as a value of a format: a single is boxed in ones, or reads as the canonical NaN. -/
def Rv.fBits (r : Rv) (f : Fmt) (n : Nat) : Nat :=
  let v := (r.fs.toList.getD (n % 32) 0).toNat
  if f.width = 64 then v else if v / 2 ^ 32 = 2 ^ 32 - 1 then v % 2 ^ 32 else f.qnan
def Rv.f (r : Rv) (f : Fmt) (n : Nat) : FV := f.decode (r.fBits f n)

/-- A value of a format written to a floating-point register. -/
def Rv.setF (r : Rv) (f : Fmt) (n v : Nat) : Rv :=
  { r.dirtyF with
    fs := r.fs.set (n % 32) (BitVec.ofNat 64 (if f.width = 64 then v else (2 ^ 32 - 1) * 2 ^ 32 + v % 2 ^ 32)) (Nat.mod_lt _ (by decide)) }

/-- The bit of a flag in fflags. -/
def rvFlag : Flag → Nat
  | .nv => 16
  | .dz => 8
  | .of => 4
  | .uf => 2
  | .nx => 1

/-- Flags raised in fcsr. -/
def Rv.raise (r : Rv) (fs : List Flag) : Rv :=
  if fs.isEmpty then r else { r.dirtyF with fcsr := BitVec.ofNat 8 (fs.foldl (fun a x => a ||| rvFlag x) r.fcsr.toNat) }

/-- The rounding mode of an instruction: its own, or fcsr's; none for the reserved ones. -/
def Rv.rm (r : Rv) (rm : Nat) : Option Mode :=
  let m := if rm = 7 then r.fcsr.toNat / 32 else rm
  match m with
  | 0 => some .ne
  | 1 => some .tz
  | 2 => some .dn
  | 3 => some .up
  | 4 => some .mm
  | _ => none

/-- An exact result rounded into a register. -/
def Rv.putExact (r : Rv) (f : Fmt) (m : Mode) (rd : Nat) (x : Exact) : Rv := let q := x.into f m; (r.setF f rd q.1).raise q.2

/-- A value converted to an integer of `w` bits: out of range and NaN give the nearest bound, with NV. -/
def rvToInt (m : Mode) (w : Nat) (signed : Bool) (x : FV) : Int × List Flag :=
  let lo : Int := if signed then -(2 ^ (w - 1)) else 0
  let hi : Int := if signed then 2 ^ (w - 1) - 1 else 2 ^ w - 1
  match x with
  | .nan _ => (hi, [.nv])
  | .inf n => (if n then lo else hi, [.nv])
  | .fin n k e =>
    let q := roundShift m n k (-e)
    let v := signedM n q.1
    if v < lo then (lo, [.nv]) else if hi < v then (hi, [.nv]) else (v, if q.2 then [.nx] else [])

/-- The class of a value, as FCLASS numbers them. -/
def rvClass (f : Fmt) (x : FV) : Nat :=
  match x with
  | .nan true => 2 ^ 8
  | .nan false => 2 ^ 9
  | .inf true => 2 ^ 0
  | .inf false => 2 ^ 7
  | .fin n m _ =>
    if m = 0 then (if n then 2 ^ 3 else 2 ^ 4)
    else if m < 2 ^ f.mb then (if n then 2 ^ 2 else 2 ^ 5)
    else if n then 2 ^ 1 else 2 ^ 6

/-- A fused multiply-add of three registers, by the opcode's two bits: +ab+c, +ab−c, −ab+c, −ab−c. -/
def Rv.fma (r : Rv) (f : Fmt) (m : Mode) (kind rd a b c : Nat) : Rv :=
  let x := r.f f a
  let z := r.f f c
  r.putExact f m rd (fmaFV m (if 2 ≤ kind then x.negate else x) (r.f f b) (if kind % 2 = 1 then z.negate else z))

/-- FMIN and FMAX. -/
def Rv.fpick (r : Rv) (f : Fmt) (larger : Bool) (rd a b : Nat) : Rv :=
  let v := match pickFV larger (r.f f a) (r.f f b) with
    | some true => r.fBits f a
    | some false => r.fBits f b
    | none => f.qnan
  (r.setF f rd v).raise (snanFlag [r.f f a, r.f f b])

/-- FLE, FLT and FEQ, by funct3: the value, and NV for a NaN where the comparison signals it. -/
def rvCompare (f3 : Nat) (x y : FV) : Option (Bool × List Flag) :=
  let nan := x.isNan || y.isNan
  let c := cmpFV x y
  match f3 with
  | 0 => some (!nan && decide (c ≤ 0), if nan then [.nv] else [])
  | 1 => some (!nan && decide (c < 0), if nan then [.nv] else [])
  | 2 => some (!nan && decide (c = 0), snanFlag [x, y])
  | _ => none

/-- The sign-injected bits of a value: the sign of the other, its opposite, or their exclusive or. -/
def rvSign (f : Fmt) (f3 x y : Nat) : Option Nat :=
  let top := 2 ^ (f.width - 1)
  let sx := x / top % 2
  let sy := y / top % 2
  match f3 with
  | 0 => some (x % top + sy * top)
  | 1 => some (x % top + (1 - sy) * top)
  | 2 => some (x % top + (sx + sy) % 2 * top)
  | _ => none

/-- An instruction of the OP-FP row. -/
def Rv.opFp (r : Rv) (w : Nat) : Option Rv :=
  let rd := bitsN w 11 7
  let f3 := bitsN w 14 12
  let a := bitsN w 19 15
  let b := bitsN w 24 20
  let x64 := (r.xs.toList.getD a 0).toNat
  match rvFmt (bitsN w 26 25) with
  | none => none
  | some f =>
    let x := r.f f a
    let y := r.f f b
    let rounded (g : Mode → Rv) : Option Rv := (r.rm f3).map g
    match bitsN w 31 27 with
    | 0 => rounded (fun m => r.putExact f m rd (addFV m x y))
    | 1 => rounded (fun m => r.putExact f m rd (addFV m x y.negate))
    | 2 => rounded (fun m => r.putExact f m rd (mulFV x y))
    | 3 => rounded (fun m => r.putExact f m rd (divFV x y))
    | 11 => if b = 0 then rounded (fun m => r.putExact f m rd (sqrtFV x)) else none
    | 4 => (rvSign f f3 (r.fBits f a) (r.fBits f b)).map (r.setF f rd)
    | 5 => if f3 < 2 then some (r.fpick f (decide (f3 = 1)) rd a b) else none
    | 8 =>
      if b + bitsN w 26 25 = 1 then
        let g := if b = 0 then fFP32 else fFP64
        rounded (fun m => let q := floatToFloat f m false (r.f g a); (r.setF f rd q.1).raise q.2)
      else none
    | 20 => (rvCompare f3 x y).map (fun p => (r.setX rd (bit p.1)).raise p.2)
    | 24 =>
      if b < 4 then
        rounded (fun m =>
          let q := rvToInt m (if b < 2 then 32 else 64) (decide (b % 2 = 0)) x
          (r.setX rd (if b < 2 then rvWord (wrapN 32 q.1) else wrapN 64 q.1)).raise q.2)
      else none
    | 26 =>
      if b < 4 then
        rounded (fun m =>
          let v : Int := if b = 0 then toSigned 32 x64 else if b = 1 then ((x64 % 2 ^ 32 : Nat) : Int) else if b = 2 then toSigned 64 x64 else (x64 : Int)
          let q := intToFloat f m false v
          (r.setF f rd q.1).raise q.2)
      else none
    | 28 =>
      if b ≠ 0 then none
      else if f3 = 0 then
        let v := (r.fs.toList.getD a 0).toNat
        some (r.setX rd (if f.width = 64 then v else rvWord v))
      else if f3 = 1 then some (r.setX rd (rvClass f x))
      else none
    | 30 => if b = 0 ∧ f3 = 0 then some (r.setF f rd x64) else none
    | _ => none

/-! One instruction. -/

/-- What an instruction of a hart does: its registers after it, still at its own pc; an access that the machine makes; a change of privilege. -/
inductive RvDo where
  | regs (r : Rv)
  | jump (r : Rv) (pc : Nat)
  /-- A CSR read into a register and, where there is a value, written, its bits set or its bits cleared (kind 1, 2, 3). -/
  | csr (rd idx kind v : Nat) (write : Bool)
  | load (rd va n : Nat) (signed fp : Bool)
  | store (va n v : Nat)
  | lr (rd va n : Nat)
  | sc (rd va n v : Nat)
  | amo (rd va n f5 v : Nat)
  | fence
  | sfence
  | wfi
  | mret
  | sret
  | ecall
  | ebreak
  | illegal
  deriving DecidableEq, Repr

/-- An integer register. -/
def Rv.x (r : Rv) (n : Nat) : Nat := (r.xs.toList.getD (n % 32) 0).toNat

/-- SYSTEM instructions. -/
def Rv.system (r : Rv) (w : Nat) : RvDo :=
  let rd := bitsN w 11 7
  let a := bitsN w 19 15
  let idx := bitsN w 31 20
  let f3 := bitsN w 14 12
  if f3 = 0 then
    if w = 0x00000073 then .ecall
    else if w = 0x00100073 then .ebreak
    else if w = 0x10200073 then .sret
    else if w = 0x30200073 then .mret
    else if w = 0x10500073 then .wfi
    else if bitsN w 31 25 = 9 ∧ rd = 0 then .sfence
    else .illegal
  else if f3 = 4 then .illegal
  else .csr rd idx (f3 % 4) (if 4 < f3 then a else r.x a) (decide (f3 % 4 = 1) || decide (a ≠ 0))

/-- What a 32-bit instruction does, at a hart whose instruction takes `len` bytes. -/
def Rv.does (r : Rv) (w len : Nat) : RvDo :=
  let rd := bitsN w 11 7
  let f3 := bitsN w 14 12
  let f7 := bitsN w 31 25
  let a := r.x (bitsN w 19 15)
  let b := r.x (bitsN w 24 20)
  let pc := r.pc.toNat
  let imm := wrapN 64 (toSigned 12 (bitsN w 31 20))
  let simm := wrapN 64 (toSigned 12 (bitsN w 31 25 * 32 + rd))
  let bimm := wrapN 64 (toSigned 13 (bitsN w 31 31 * 2 ^ 12 + bitsN w 7 7 * 2 ^ 11 + bitsN w 30 25 * 32 + bitsN w 11 8 * 2))
  let jimm := wrapN 64 (toSigned 21 (bitsN w 31 31 * 2 ^ 20 + bitsN w 19 12 * 2 ^ 12 + bitsN w 20 20 * 2 ^ 11 + bitsN w 30 21 * 2))
  let at_ (off : Nat) : Nat := (a + off) % 2 ^ 64
  let put (v : Option Nat) : RvDo := match v with
    | some v => .regs (r.setX rd v)
    | none => .illegal
  let fp (d : RvDo) : RvDo := if bitsN r.mstatus.toNat 14 13 = 0 then .illegal else d
  match w % 128 with
  | 0x37 => put (some (wrapN 64 (toSigned 32 (bitsN w 31 12 * 4096))))
  | 0x17 => put (some (pc + wrapN 64 (toSigned 32 (bitsN w 31 12 * 4096))))
  | 0x6F => .jump (r.setX rd (pc + len)) (pc + jimm)
  | 0x67 => if f3 = 0 then .jump (r.setX rd (pc + len)) ((a + imm) / 2 * 2) else .illegal
  | 0x63 =>
    match rvTaken f3 a b with
    | some true => .jump r (pc + bimm)
    | some false => .regs r
    | none => .illegal
  | 0x03 => if f3 = 7 then .illegal else .load rd (at_ imm) (2 ^ (f3 % 4)) (decide (f3 < 4)) false
  | 0x23 => if 4 ≤ f3 then .illegal else .store (at_ simm) (2 ^ f3) b
  | 0x13 =>
    put (if f3 = 1 then (if bitsN w 31 26 = 0 then rvAlu 0 1 a (bitsN w 25 20) else none)
      else if f3 = 5 then
        (if bitsN w 31 26 = 0 then rvAlu 0 5 a (bitsN w 25 20) else if bitsN w 31 26 = 0x10 then rvAlu 0x20 5 a (bitsN w 25 20) else none)
      else rvAlu 0 f3 a imm)
  | 0x1B =>
    put (if f3 = 0 then rvAluW 0 0 a imm
      else if f3 = 1 ∧ f7 = 0 then rvAluW 0 1 a (bitsN w 24 20)
      else if f3 = 5 ∧ (f7 = 0 ∨ f7 = 0x20) then rvAluW f7 5 a (bitsN w 24 20)
      else none)
  | 0x33 => put (rvAlu f7 f3 a b)
  | 0x3B => put (rvAluW f7 f3 a b)
  | 0x0F => if f3 < 2 then .fence else .illegal
  | 0x73 => r.system w
  | 0x2F =>
    let f5 := bitsN w 31 27
    let n := 2 ^ f3
    if f3 ≠ 2 ∧ f3 ≠ 3 then .illegal
    else if f5 = 2 then (if bitsN w 24 20 = 0 then .lr rd a n else .illegal)
    else if f5 = 3 then .sc rd a n b
    else if (rvAmo f5 n 0 0).isSome then .amo rd a n f5 b
    else .illegal
  | 0x07 => fp (if f3 = 2 ∨ f3 = 3 then .load rd (at_ imm) (2 ^ f3) false true else .illegal)
  | 0x27 => fp (if f3 = 2 ∨ f3 = 3 then .store (at_ simm) (2 ^ f3) (r.fs.toList.getD (bitsN w 24 20) 0).toNat else .illegal)
  | 0x43 | 0x47 | 0x4B | 0x4F =>
    fp (match rvFmt (bitsN w 26 25), r.rm f3 with
      | some f, some m => .regs (r.fma f m (bitsN w 3 2) rd (bitsN w 19 15) (bitsN w 24 20) (bitsN w 31 27))
      | _, _ => .illegal)
  | 0x53 =>
    fp (match r.opFp w with
      | some r => .regs r
      | none => .illegal)
  | _ => .illegal

/-- Registers after an instruction of `len` bytes that retires. -/
def Rv.retireBy (r : Rv) (len : Nat) : Rv := { r with pc := r.pc + BitVec.ofNat 64 len, minstret := r.minstret + 1 }

/-- The result of a load in its register: extended, or boxed in a floating-point one. -/
def Rv.loaded (r : Rv) (rd n : Nat) (signed fp : Bool) (v : Nat) : Rv :=
  if fp then r.setF (if n = 8 then fFP64 else fFP32) rd v else r.setX rd (if signed then wrapN 64 (toSigned (8 * n) v) else v)

end Sys2Proof.Machine
end

