-- ==== Sys2Proof/Machine/Swap.lean ====
section
/-!
DEFINITION. The fault queue's upkeep, BFLTACT, the end of a step by a kill, and swapping a context out and in (spec 03, 11).
-/

namespace Sys2Proof.Machine

open Sys2Proof

/-! Commands that complete (R64, R65). -/

/-- Started commands that a test selects have their work done: their completions are due on their queues. -/
def State.completeCmds (s : State) (p : Nat → Started → Bool) (status : Nat) (result : Started → Nat) : State :=
  s.queues.foldl (fun (s : State) (q : Nat × HostQueue) =>
    let mine := q.2.started.filter (p q.1)
    if mine.isEmpty then s
    else
      let t : HostQueue :=
        { q.2 with
          started := q.2.started.filter (fun c => !(p q.1 c))
          ready := q.2.ready ++ mine.map (fun c => { cid := c.cid, sqhd := c.sqhd, status := status, result := BitVec.ofNat 64 (result c) }) }
      ({ s with queues := tset s.queues q.1 t }).later .commandCompletion { Input.none with queue := q.1 }) s

/-- A queue changed, if it exists. -/
def State.modQueue (s : State) (n : Nat) (f : HostQueue → HostQueue) : State :=
  match tget s.queues n with
  | none => s
  | some q => { s with queues := tset s.queues n (f q) }

/-- The fault record at an address reported to the host (R59, R86): on the queue of the LAUNCH that started its step (`who`), with that LAUNCH's
CID, else on queue 0 with CID 0; none while queue 0 is not bound. -/
def State.forward (s : State) (who : Option Nat) (a : Nat) : Option State :=
  let mine (c : Started) : Bool := decide (who = some c.uid)
  let post (s : State) (n cid : Nat) : State :=
    (s.modQueue n (fun q => { q with
      ready := q.ready ++ [{ cid := cid, sqhd := q.sqHead, status := 7, result := BitVec.ofNat 64 a }] })).later .commandCompletion
      { Input.none with queue := n }
  match s.queues.findSome? (fun q => (q.2.started.find? mine).map (fun c => (q.1, c.cid))) with
  | some (n, cid) => some (post s n cid)
  | none => if s.mbx.admen then some (post s 0 0) else none

/-! Records that go (R59, R66). -/

/-- The records of every core and every saved copy that wait on the object at a physical address: context, core and record. -/
def State.waitersAt (s : State) (pa : Nat) : List (Nat × Nat × Record) :=
  s.cores.flatMap (fun p => (p.2.records.filter (s.waitsOn · pa)).map (fun r => (p.2.ctx.getD 64, p.1, r)))
    ++ s.contexts.flatMap (fun x => x.2.saved.flatMap (fun p => (p.2.records.filter (s.waitsOn · pa)).map (fun r => (x.1, p.1, r))))

/-- A reference taken out of a future's list (R148), wherever the record registered after it lies: that record, or the future, points at the one
before it. -/
def State.unlinkFut (s : State) (pa ref before : Nat) : State :=
  let w := s.peek pa 8
  if futSt w ≠ 1 then s
  else
    let s := ((s.waitersAt pa).filter (fun p => decide (p.2.2.next = ref))).foldl (fun s p =>
      s.modCtxCore p.1 p.2.1 (·.modRecord p.2.2.dseq (fun x => { x with next := before }))) s
    let s := { s with fabric := { s.fabric with
      foreign := s.fabric.foreign.map (fun (e : Nat × Nat) => if e.2 % 2 ^ 48 = ref then (e.1, e.2 / 2 ^ 48 * 2 ^ 48 + before) else e) } }
    let s := { s with engineWaits := s.engineWaits.map (fun (e : EngineWait) => if e.before = ref then ({ e with before := before } : EngineWait) else e) }
    let head := if futHead w = ref then before else futHead w
    s.merge pa 8 (futWord (if head = 0 then 0 else 1) (futCount w - 1) head)

/-- The same in the list of an object of a core's local memory, whose head is the word at `a`. -/
def Core.unlinkLocal (k : Core) (a ref before : Nat) (p : WaitOn → Bool) : Core :=
  let w := mload k.loc a 8
  if futSt w ≠ 1 then k
  else
    let k := { k with records := k.records.map (fun (x : Record) => if p x.on ∧ x.next = ref then { x with next := before } else x) }
    let head := if futHead w = ref then before else futHead w
    k.locWrite a (bytesOf 8 (futWord (if head = 0 then 0 else 1) (futCount w - 1) head))

/-- A record's reference withdrawn from a future at another module, or from its pager future there (R42, R148; a byte 4 and the reference, log 12). -/
def State.withdrawRef (s : State) (node asid addr ref : Nat) : State :=
  (s.request node opPager asid addr (bytesOf 1 4 ++ bytesOf 8 ref) .nothing).2

/-- A record of a context's core taken out of the list of the object that it waits on. -/
def State.unlink (s : State) (ctx c : Nat) (r : Record) : State :=
  let ref := r.ref s.fabric.node c
  match r.on with
  | .future va _ _ =>
    let home := (s.ctxCore ctx c).homeNode s.fabric.node va
    if home ≠ s.fabric.node then s.withdrawRef home r.trap.asid va ref
    else
      (match s.physOf r.trap.asid va with
      | some pa => s.unlinkFut pa ref r.next
      | none => s)
  | .peerPager node pa => s.withdrawRef node r.trap.asid pa ref
  | .pager pa => s.unlinkFut pa ref r.next
  | .barrier a _ => s.modCtxCore ctx c (·.unlinkLocal (a + 24) ref r.next (·.isBarrier a))
  | .msg a _ _ => s.modCtxCore ctx c (·.unlinkLocal (a + 16) ref r.next (·.isMsg a))
  | _ => s

/-- Every record of a step on a core discarded; a held one no longer counts in HELD (R255). -/
def State.discardRecords (s : State) (ctx c cell : Nat) : State :=
  ((s.getCore c).records.filter (fun r => r.cell == cell)).foldl (fun s r =>
    let s := if r.held then s.countHeld ctx false else s
    (s.dropRecord c r).modCore c (fun k => { k with awaiting := tdel k.awaiting r.dseq, answers := tdel k.answers r.dseq })) s

/-- The fault records in a context's ring that belong to a step of a core, no longer pending. -/
def State.forgetFaults (s : State) (ctx c cell : Nat) : State :=
  s.modContext ctx (fun x => { x with
    pendingFaults := x.pendingFaults.filter (fun p => !(p.2.1 == c && p.2.2.cell == cell && !p.2.2.trap.killed && p.2.2.stepAddr != 0)) })

/-- The cores of a context, swapped out or not, with a record that waits for room in the ring (R255). -/
def State.heldOf (s : State) (ctx : Nat) (x : Context) : List Nat :=
  (s.cores.filter (fun k => decide (k.2.ctx = some ctx) && k.2.records.any (·.held))).map (·.1)
    ++ (x.saved.filter (fun p => p.2.records.any (·.held))).map (·.1)

/-- The hart's summary bits for a context, once it has no unserviced record (R57). -/
def State.lowerFault (s : State) (ctx : Nat) : State :=
  match tget s.contexts ctx with
  | none => s
  | some x =>
    let s := s.park
    let bit : BitVec 64 := BitVec.ofNat 64 (2 ^ (ctx % 64))
    let held := s.heldOf ctx x
    let cores := x.pendingFaults.map (·.2.1) ++ held
    let pager := (x.pendingFaults.filter (fun p => decide (p.2.2.trap.cause = 0x10))).map (·.2.1)
    { s with harts := s.harts.mapIdx (fun (h : Nat) (t : Hart) =>
      { t with
        fltCtx := if cores.any (fun c => hartOf c == h) then t.fltCtx else t.fltCtx &&& ~~~ bit
        pagerCtx := if pager.any (fun c => hartOf c == h) then t.pagerCtx else t.pagerCtx &&& ~~~ bit }) }

/-- A core without the strands of a step and the matrix commands attached to them. -/
def Core.evict (k : Core) (cell : Nat) : Core :=
  let gone := (k.slots.filter (fun p => p.2.cell == cell)).map (·.1)
  let attached (m : MatCmd) : Bool := m.cell == cell && m.drain.isNone && m.slot.any (gone.contains ·)
  let its (r : Region) : Bool := r.engine == engMatrix && k.mat.any (fun m => m.order == r.id && attached m)
  let k := { k with
    slots := k.slots.filter (fun p => p.2.cell != cell)
    mat := (k.mat.filter (fun m => !attached m)).map (fun (m : MatCmd) => if m.slot.any (gone.contains ·) then { m with slot := none } else m)
    board := k.board.filter (fun r => !its r)
    gboard := k.gboard.filter (fun r => !its r)
    answers := gone.foldl (fun t sl => tdel t (answerKey sl)) k.answers }
  (k.promote false).promote true

/-- A step ended by a kill (R59, R117, R264): its strands leave with nothing kept, the commands attached to them go, its records are
discarded, it counts in its launch's FAULTED. -/
def State.killStep (s : State) (ctx c cell : Nat) : State :=
  let s := s.park
  let s := ((s.ctxCore ctx c).records.filter (fun r => r.cell == cell)).foldl (fun s r => s.unlink ctx c r) s
  (s.onCtxCore ctx c (fun s =>
    let k := s.getCore c
    let st := k.step cell
    if !st.live then s
    else
      let dseqs := (k.records.filter (fun r => r.cell == cell)).map (·.dseq)
      let lost := ((((tget s.contexts ctx).map (·.pendingFaults)).getD []).filter (fun p => p.2.1 == c && p.2.2.cell == cell)).map (·.2.2.dseq)
      let s := ((s.setCore c (k.evict cell)).discardRecords ctx c cell).forgetFaults ctx c cell
      let s := s.modCore c (fun k => { k with
        awaiting := k.awaiting.filter (fun p => !lost.contains p.1), answers := k.answers.filter (fun p => !lost.contains p.1) })
      let s := s.modLaunch st.die st.launch (fun l => { l with
        queues := l.queues.map (fun q => { q with waits := q.waits.filter (fun w => !(w.core == c && dseqs.contains w.dseq)) }) })
      let s := s.modCore c (fun k => k.modStep cell (fun st => { st with strands := 1 }))
      s.strandGone c cell true)).lowerFault ctx

/-! The ring's consumer (R253, R254). -/

/-- QHEAD moved past the entries at the ring's head that nothing waits on any more, byte 0 of each written to zero. -/
def State.drainRing (s : State) (ctx : Nat) : Nat → State
  | 0 => s
  | fuel + 1 =>
    match tget s.contexts ctx with
    | none => s
    | some x =>
      let size := 2 ^ x.fqLog2
      let head := s.peek x.fqBase 8
      let a := x.fqBase + 64 + 64 * (head % size)
      let kind := s.peek a 1
      let len := s.peek (a + 4) 4
      if head = s.peek (x.fqBase + 8) 8 ∨ kind = 0 ∨ (tget x.pendingFaults a).isSome ∨ len = 0 then s
      else ((s.poke a 1 0).poke x.fqBase 8 (head + ceilDiv len 64)).drainRing ctx fuel

/-- A fault record of a context taken from its ring. -/
def State.serviced (s : State) (ctx a : Nat) : State :=
  let s := s.modContext ctx (fun x => { x with pendingFaults := tdel x.pendingFaults a })
  (s.lowerFault ctx).drainRing ctx 4096

/-- A record that was queued already killed is not pending: the ring's new entries beyond `before` are reported to the host at once (R86), or
logged while queue 0 is not bound. `who` is the command that started the step's launch. -/
def State.reportKilled (s : State) (ctx : Nat) (who : Option Nat) (before : Table (Nat × Record)) : State :=
  let now := ((tget s.contexts ctx).map (·.pendingFaults)).getD []
  match now.find? (fun p => p.2.2.trap.killed && (tget before p.1).isNone) with
  | none => s
  | some p =>
    let s := (s.modContext ctx (fun x => { x with pendingFaults := tdel x.pendingFaults p.1 })).lowerFault ctx
    (s.forward who p.1).getD (s.logError 59 p.1)

/-- FAULT_QUEUE_RETRY (R255): a held record is appended when the ring has room. Operands: core, n (DSEQ), queue (one more than the command that
started the launch of a step that the kill has taken, else 0). -/
def execFaultQueueRetry (s : State) : Out :=
  let i := s.inp
  .next
    (let s := s.park
    match (s.coreCopies i.core).findSome? (fun p => ((p.2.record i.n).filter (·.held)).map (fun r => (p.1, r))) with
    | none => s
    | some (ctx, r) =>
      let before := ((tget s.contexts ctx).map (·.pendingFaults)).getD []
      match s.ringAppend i.core ctx { r with held := false, length := r.fullLength } with
      | none => s.later .faultQueueRetry i
      | some s =>
        let s := s.reportKilled ctx (if i.queue = 0 then none else some (i.queue - 1)) before
        (s.countHeld ctx false).onCtxCore ctx i.core (fun s => s.dropRecord i.core r))

/-! BFLTACT (R58-R60, R256, R264, R270, R273). -/

/-- The pending fault record at an address: its context, core and itself. -/
def State.faultAtAddr (s : State) (a : Nat) : Option (Nat × Nat × Record) :=
  s.contexts.findSome? (fun x => (tget x.2.pendingFaults a).map (fun p => (x.1, p.1, p.2)))

/-- A BFLTACT write refused (R60). -/
def State.refuseHart (s : State) (hart : Nat) : State := s.modHart hart (fun h => { h with ref := true })

/-- BFLTACT_RESUME (R256, R59): a notice is discarded; any other record goes back to the mooring area of the core that deposited it and is
ready. A record queued already killed, or with a damaged image, is refused. Operands: hart, addr. -/
def execBfltactResume (s : State) : Out :=
  let i := s.inp
  let a := i.addr &&& (2 ^ 52 - 64)
  .next
    (s.inMachineMode i.hart (fun s =>
      match s.faultAtAddr a with
      | none => s.refuseHart i.hart
      | some (ctx, c, r) =>
        if r.trap.killed ∨ r.trap.image then s.refuseHart i.hart
        else
          let bs := mbytes s.mem a r.length
          let s := s.serviced ctx a
          if r.trap.async then s
          else
            let r := r.ofBytes bs
            s.onCtxCore ctx c (fun s =>
              let n := (s.getCore c).dseq
              match s.deposit c { r with ready := false, on := .nothing, spilled := false } with
              | some (s, _) => s.modCore c (fun k => (k.rekey r.dseq n).makeReady n)
              | none => (s.overflowed c ctx r).modCore c (·.rekey r.dseq n))))

/-- BFLTACT_KILL (R256, R59, R264): the record's step ends; a notice of a step that has ended is discarded. Operands: hart, addr. -/
def execBfltactKill (s : State) : Out :=
  let i := s.inp
  let a := i.addr &&& (2 ^ 52 - 64)
  .next
    (s.inMachineMode i.hart (fun s =>
      match s.faultAtAddr a with
      | none => s.refuseHart i.hart
      | some (ctx, c, r) =>
        if r.trap.killed then s.refuseHart i.hart
        else
          let s := s.serviced ctx a
          if r.stepAddr = 0 then s
          else (s.killStep ctx c r.cell).drainRing ctx 4096))

/-! Swapping out and in (R266-R269). -/

/-- The cores that hold a context. -/
def State.coresHolding (s : State) (ctx : Nat) : List Nat := (s.cores.filter (fun p => decide (p.2.ctx = some ctx))).map (·.1)

/-- Where Cesis lays a context's save areas: 2 GiB for its 512 cores (R253, R268; the place is log 73's). -/
def saveBaseOf (ctx : Nat) : Nat := 0x9D80000000 + 0x80000000 * ctx

/-- SAVEBASE written before a context's first swap-out (R253). -/
def State.giveSave (s : State) (ctx : Nat) : State :=
  match tget s.contexts ctx with
  | none => s
  | some x => if s.peek (x.fqBase + 16) 8 = 0 then s.poke (x.fqBase + 16) 8 (saveBaseOf ctx) else s

/-- A context leaves the cores of some dies: no grant there, and each core's save is due, in its save areas (R253). -/
def State.swapOut (s : State) (ctx : Nat) (dies : List Nat) : State :=
  let s := s.giveSave ctx
  let s := s.modContext ctx (fun x => { x with swapped := dies.foldl ninsert x.swapped })
  ((s.coresHolding ctx).filter (fun c => dies.contains (dieOf c))).foldl (fun s c =>
    s.later .contextSave { Input.none with core := c, n := ctx }) s

/-- PREEMPT of a context is done when no core of it is still to be saved. -/
def State.swapDone (s : State) (ctx : Nat) : State :=
  if (s.coresHolding ctx).isEmpty then s.completeCmds (fun _ c => c.opc == 0x21 && c.ctx == ctx) 0 (fun _ => 0) else s

/-- PREEMPT and RESUME of a context that is gone complete with 0x0002 (R67). -/
def State.ctxGone (s : State) (ctx : Nat) : State :=
  s.completeCmds (fun _ c => (c.opc == 0x21 || c.opc == 0x22) && c.ctx == ctx) 2 (fun _ => 0)

/-- PREEMPT (R267): a context is taken off its cores, on every die for the host's command, on one die for the machine's own. Operands: n
(the context), ok (the host's command), die, addr (the priority floor). -/
def execPreempt (s : State) : Out :=
  let i := s.inp
  .next
    (let s := s.park
    if (tget s.contexts i.n).isNone then s.ctxGone i.n
    else
      let s := if i.ok then s.modContext i.n (fun x => { x with floor := i.addr }) else s
      (s.swapOut i.n (if i.ok then [0, 1, 2, 3] else [i.die])).swapDone i.n)

/-- The signals that the inbox holds for a core's resident context applied, in arrival order (R51-R53); others stay. -/
def Core.takeInbox (k : Core) : Core :=
  let mine := k.inbox.filter (fun g => decide (g.asid = k.asid.toNat))
  let k := mine.foldl (fun k g => if k.barOk g.laddr then k.barCredit g.laddr g.credit g.err else k) k
  { k with
    inbox := k.inbox.filter (fun g => decide (g.asid ≠ k.asid.toNat))
    power := if mine.isEmpty then k.power else .p0 }

/-- The operand slots that the steps of a core have claimed. -/
def Core.claimed (k : Core) : BitVec 32 := k.steps.foldl (fun (a : BitVec 32) (p : Nat × Step) => a ||| p.2.slots) 0

/-- A pair of the bind table in the save header, and what of it stands beside the overflow state (R268; the layout is log 73's): base and length in
units of 64 bytes, the bollard in units of 8 bytes; in the second its upper bits, its kind and that the pair is there. -/
def Bind.low (b : Bind) : Nat := b.base / 64 % 2 ^ 51 + 2 ^ 51 * (b.len / 64 % 2 ^ 27) + 2 ^ 78 * (b.bollard / 8 % 2 ^ 50)
def Bind.high (b : Bind) : Nat := b.bollard / 8 / 2 ^ 50 % 16 + 16 * bit b.loc + 32

/-- The pair that a save header holds. -/
def bindFrom (low high : Nat) : Option Bind :=
  if high.testBit 5 then
    some { base := 64 * (low % 2 ^ 51), len := 64 * (low / 2 ^ 51 % 2 ^ 27), loc := high.testBit 4
           bollard := 8 * (low / 2 ^ 78 % 2 ^ 50 + 2 ^ 50 * (high % 16)) }
  else none

/-- The bytes of a save area before local memory (R268): the save header. -/
def Core.saveHeader (k : Core) (c logs : Nat) : List Byte :=
  padTo 4096
    (bytesOf 8 k.vlcap.toNat ++ bytesOf 8 k.lpart.toNat ++ bytesOf 8 (bit k.detm) ++ bytesOf 8 (bit k.gangEn + 2 * (c % 2)) ++ bytesOf 8 3
      ++ bytesOf 4 k.claimed.toNat
      ++ (List.range 32).flatMap (fun n =>
        bytesOf 16 ((k.binds[n]?.map Bind.low).getD 0))
      ++ bytesOf 1 (bit k.bindOver) ++ (List.range 32).flatMap (fun n => bytesOf 1 ((k.binds[n]?.map Bind.high).getD 0)) ++ bytesOf 4 logs)

/-- Where the bind table lies in the save header, and the bytes that it and its overflow state take (R268). -/
def bindsAt : Nat := 44
def bindsLen : Nat := 545

/-- A step's entry of the claim table (R400). -/
def Step.claimBytes (st : Step) : List Byte :=
  bytesOf 4 st.slots.toNat ++ bytesOf 1 st.bands.toNat ++ bytesOf 1 0 ++ bytesOf 2 st.tm ++ bytesOf 2 st.tn ++ bytesOf 2 st.tk
    ++ bytesOf 6 st.mmark ++ bytesOf 6 st.smark ++ bytesOf 6 st.xmark ++ bytesOf 2 0 ++ st.nextId.toList.flatMap (bytesOf 6)

/-- The control page (R140; its layout is log 73's): by priority the first and last of the ready order, the granule waits, blocks in use, the
deposit counter. -/
def Core.controlPage (k : Core) (node c : Nat) : List Byte :=
  let ref (q : Nat) : Nat := ((k.record q).map (·.ref node c)).getD 0
  let waits := ((k.granuleWaits.map (·.1)).eraseDups.take 128).map (fun g => (g, (k.granuleWaits.find? (fun w => w.1 == g)).map (·.2)))
  (List.range 8).flatMap (fun p =>
      let l := (tget k.order p).getD []
      bytesOf 8 ((l.head?.map ref).getD 0) ++ bytesOf 8 ((l.getLast?.map ref).getD 0))
    ++ padTo 2048 (waits.flatMap (fun w => bytesOf 8 w.1 ++ bytesOf 8 ((w.2.map ref).getD 0)))
    ++ bytesOf 8 ((k.usedBlocks.map (·.2)).sum) ++ bytesOf 8 k.dseq

/-- Where the mooring area's records and claim table lie in local memory (R140). -/
def Core.recordsAt (k : Core) : Nat := k.moorBase + 0x2000
def claimsAt : Nat := 0x2FE000

/-- The mooring area of a core as bytes put at its place in an image of local memory (R140): control page, record blocks, claim table. -/
def State.putMooring (s : State) (a c : Nat) (k : Core) : State :=
  let s := s.put (a + k.moorBase) (k.controlPage s.fabric.node c)
  let s := (k.records.filter (fun r => !r.spilled && decide (r.block < 2 ^ 24))).foldl (fun s r => s.put (a + k.recordsAt + 64 * r.block) r.bytes) s
  k.steps.foldl (fun s p => s.put (a + claimsAt + 128 * cellIndex p.1) p.2.claimBytes) s

/-- Cells of a memory put at another place. -/
def State.putCells (s : State) (a : Nat) (m : Mem) : State := m.foldl (fun s b => s.put (a + b.1) [b.2]) s

/-- The operand slots of a mask, by number. -/
def slotsOf (mask : BitVec 32) : List Nat := bitsSet 32 mask.toNat

/-- Sectors of a save area marked poisoned: damaged data is saved as it is (R271). -/
def State.spoil (s : State) (gs : List Nat) : State := { s with poison := gs.foldl ninsert s.poison }

/-- The save area written (R268): header, local memory with the mooring area, full/empty bits, the claimed operand slots, accumulator store. -/
def State.writeSave (s : State) (base c : Nat) (k : Core) (logs : Nat) : State :=
  let a := base + c * 0x400000
  let s := (s.clear a 0x307000).put a (k.saveHeader c logs)
  let s := (s.putCells (a + 0x1000) k.loc).putMooring (a + 0x1000) c k
  let s := s.put (a + 0x301000) (bytesOf 0x6000 (k.full.foldl (fun n g => n ||| 2 ^ g) 0))
  let s := (slotsOf k.claimed).foldl (fun s j =>
    (s.clear (a + 0x307000 + 0x4000 * j) 0x4000).putCells (a + 0x307000)
      (k.opMem.filter (fun b => decide (0x4000 * j ≤ b.1) && decide (b.1 < 0x4000 * (j + 1))))) s
  let s := k.acc.foldl (fun s p => s.put (a + 0x387000 + 4 * p.1) (bytesOf 4 p.2.toNat)) (s.clear (a + 0x387000) 0x40000)
  let s := if k.bindBad then s.spoil [(a + bindsAt) / 16 + 1] else s
  ((s.spoil (k.locPoison.map ((a + 0x1000) / 16 + ·))).spoil (k.accBad.map (fun i => (a + 0x387000) / 16 + i / 4))).spoil
    (k.opPoison.map (fun b => (a + 0x307000 + b) / 16))

/-- A core once its context has left it (R267 step 6). -/
def Core.left (k : Core) (asid : Nat) : Core :=
  { Core.reset with
    cstate := k.cstate, cerrVal := k.cerrVal, cerrBusy := k.cerrBusy, vlcap := k.vlcap, lpart := k.lpart, detm := k.detm
    gangEn := k.gangEn, home := k.home, cycle := k.cycle, power := k.power, lastCtx := k.lastCtx, loc := k.loc, full := k.full
    locPoison := k.locPoison, opMem := k.opMem, opPoison := k.opPoison, tags := k.tags, acc := k.acc, accBad := k.accBad, grants := k.grants, moor := k.moor, accepted := k.accepted
    pagers := k.pagers, pagerOrder := k.pagerOrder, inbox := k.inbox, dseq := k.dseq, started := k.started, halted := k.halted
    invalidating := k.invalidating
    tlb := k.tlb.filter (fun t => t.asid != asid)
    chains := k.chains.filter (fun e => e.asid != asid) }

/-- The next step that settles a core before its save: a resident strand's forced leave, an engine's command, a stevedore's slot, a held
write. -/
def State.unsettled (s : State) (c : Nat) : Option Todo :=
  let k := s.getCore c
  let todo (what : Instr) (inp : Input) : Todo := { what := what, inp := inp }
  match k.slots with
  | (sl, st) :: _ => some (todo .forcedLeave { Input.none with core := c, slot := sl, addr := st.granted })
  | [] =>
    match k.mat, k.copies, k.streams, k.xforms, k.heldRels with
    | _ :: _, _, _, _, _ => some (todo .matrixCommandFinish { Input.none with core := c })
    | [], j :: _, _, _, _ =>
      some (todo .copyTransferComplete { Input.none with core := c, slot := j.cell, queue := j.chan, n := j.id })
    | [], [], j :: _, _, _ => some (todo .streamEnd { Input.none with core := c, queue := j.port })
    | [], [], [], j :: _, _ => some (todo .transformPerform { Input.none with core := c, slot := j.cell, n := j.num })
    | [], [], [], [], _ :: _ => some (todo .heldReleaseWrite { Input.none with core := c })
    | [], [], [], [], [] =>
      k.rings.findSome? (fun r => (r.due c).map (fun p => p.2.1))

/-- CONTEXT_SAVE (R267, R268): a core's strands leave, its engines and tile slots settle, the signals that its inbox holds are applied (R53), then
the save engine writes the save area and the core is free. Operands: core, n (the context). -/
def execContextSave (s : State) : Out :=
  let i := s.inp
  .next
    (let s := s.park
    let k := s.getCore i.core
    match tget s.contexts i.n with
    | none => s.ctxGone i.n
    | some x =>
      if k.ctx ≠ some i.n ∨ !x.swapped.contains (dieOf i.core) then s.swapDone i.n
      else
        match s.unsettled i.core with
        | some t => (s.later .contextSave i).hurryTodo t
        | none =>
          let base := s.peek (x.fqBase + 16) 8
          let k := k.takeInbox
          let logs := ((tget x.siglog i.core).getD []).length
          let s := if base = 0 then s else s.writeSave base i.core k logs
          let s := s.modContext i.n (fun x => { x with saved := tset x.saved i.core { k with ctx := none } })
          (s.setCore i.core (k.left x.asid.toNat)).swapDone i.n)

/-- The cells of memory that lie in a range, from its start. -/
def mslice (m : Mem) (a n : Nat) : Mem := (m.filter (fun b => decide (a ≤ b.1) && decide (b.1 < a + n))).map (fun b => (b.1 - a, b.2))

/-- The sectors of a range that are poisoned, from its start. -/
def State.spoiltIn (s : State) (a n : Nat) : List Nat :=
  (s.poison.filter (fun g => decide (a ≤ 16 * g) && decide (16 * g < a + n))).map (fun g => g - a / 16)

/-- A saved core as its save area reads back (R269): local memory with its full and empty bits, the records in it, the claimed operand slots, the
accumulator store and the bind table; a sector that is uncorrectable comes back poisoned, one of the full and empty bits in the granules that it
holds the bits of. -/
def State.readSave (s : State) (a : Nat) (k : Core) : Core :=
  let at_ := a + 0x1000
  let own (x : Nat) : Bool := decide (x < k.moorBase) || (decide (k.moorBase + 0x1000 ≤ x) && decide (x < k.recordsAt))
  let accAt := a + 0x387000
  { k with
    loc := (mslice s.mem at_ 0x300000).filter (fun b => own b.1)
    full := (mslice s.mem (a + 0x301000) 0x6000).flatMap (fun b => (bitsSet 8 b.2.toNat).map (8 * b.1 + ·))
    locPoison := ((s.spoiltIn (a + 0x301000) 0x6000).flatMap (fun g => (List.range 128).map (128 * g + ·))).foldl ninsert (s.spoiltIn at_ 0x300000)
    records := k.records.map (fun r =>
      if r.spilled ∨ 2 ^ 24 ≤ r.block then r else r.ofBytes (mbytes s.mem (at_ + k.recordsAt + 64 * r.block) r.length))
    opMem := (mslice s.mem (a + 0x307000) 0x80000).filter (fun b => k.claimed.getLsbD (b.1 / 0x4000))
    opPoison := ((s.spoiltIn (a + 0x307000) 0x80000).filter (fun g => k.claimed.getLsbD (g / 0x400))).flatMap (fun g => (List.range 16).map (16 * g + ·))
    acc := (((mslice s.mem accAt 0x40000).map (fun b => b.1 / 4)).eraseDups).map (fun i => (i, BitVec.ofNat 32 (mload s.mem (accAt + 4 * i) 4)))
    accBad := (s.spoiltIn accAt 0x40000).flatMap (fun g => (List.range 4).map (4 * g + ·))
    binds := (List.range 32).filterMap (fun n =>
      bindFrom (mload s.mem (a + bindsAt + 16 * n) 16) (mload s.mem (a + bindsAt + 513 + n) 1))
    bindOver := mload s.mem (a + bindsAt + 512) 1 = 1
    bindBad := s.poison.any (fun g => decide (a + bindsAt < 16 * g + 16) && decide (16 * g < a + bindsAt + bindsLen)) }

/-- A saved core back in its place (R269): the memories, bits, claims, records and orders as saved, what the core itself has kept; an operand slot
that no step claims holds what the core holds there, or zero where another context was there since (R400). -/
def Core.restored (k real : Core) (ctx : Nat) (asid : BitVec 16) (home : Table HomeEntry) : Core :=
  let free (b : Nat) : Bool := decide (real.lastCtx = some ctx) && !k.claimed.getLsbD (b / 0x4000)
  { k with
    cstate := real.cstate, cerrVal := real.cerrVal, cerrBusy := real.cerrBusy, vlcap := real.vlcap, lpart := real.lpart
    detm := real.detm, gangEn := real.gangEn, cycle := real.cycle, power := real.power, grants := real.grants, pagers := real.pagers
    pagerOrder := real.pagerOrder, inbox := real.inbox, tlb := real.tlb, chains := real.chains, halted := real.halted
    accepted := max k.accepted real.accepted, started := max k.started real.started, dseq := max k.dseq real.dseq, slots := []
    invalidating := real.invalidating
    ctx := some ctx, lastCtx := some ctx, asid := asid, home := home
    opMem := (real.opMem.filter (fun b => free b.1)).foldl (fun m b => mstore m b.1 [b.2]) k.opMem
    opPoison := (real.opPoison.filter free).foldl ninsert k.opPoison }

/-- One core of a context restored, then its pending signals in arrival order, then what came while it was out (R269, R146). -/
def State.restoreCore (s : State) (ctx c : Nat) (x : Context) (k : Core) : State :=
  let k := match s.saveArea ctx c with
    | some a => s.readSave a k
    | none => k
  let s := s.setCore c (k.restored (s.getCore c) ctx x.asid x.home)
  let s := ((tget x.siglog c).getD []).foldl (fun s (g : Signal) =>
    s.modCore c (fun k => if k.barOk g.laddr then k.barCredit g.laddr g.credit g.err else k)) s
  let s := s.modContext ctx (fun x => { x with saved := tdel x.saved c, siglog := tdel x.siglog c })
  let k := s.getCore c
  let s := ((k.granuleWaits.map (·.1)).eraseDups).foldl (fun s g => if k.full.contains g then s.releaseGranule c g else s) s
  let d := dieOf c
  (s.harbour d).launches.foldl (fun s p => (List.range p.2.stages.length).foldl (fun s st => s.servePushes d p.1 st 4096) s) s

/-- The best priority of a context's launches on a die (R85 rung 2). -/
def State.bestPrio (s : State) (d ctx : Nat) : Nat :=
  (((s.harbour d).launches.filter (fun l => l.2.ctx == ctx)).flatMap (fun l => l.2.stages.map (·.prio))).foldl min 7

/-- Whether a core has nothing of another context to do at a priority as high (R85 rung 2): a context that rung 2 took off goes behind it. -/
def State.yields (s : State) (c ctx : Nat) : Bool :=
  (List.range (s.bestPrio (dieOf c) ctx + 1)).all (fun p => (s.candidates c p).isEmpty)

/-- RESUME (R269): every saved core of a context is restored to the core it was saved from, as those are free; the machine's own resume of
rung 2 does the same behind the other contexts of its priority. Operands: n (the context), ok (the host's command). -/
def execResume (s : State) : Out :=
  let i := s.inp
  .next
    (let s := s.park
    match tget s.contexts i.n with
    | none => s.ctxGone i.n
    | some x =>
      if !(s.coresHolding i.n).all (fun c => !x.swapped.contains (dieOf c)) then s.later .resume i
      else
        let free (s : State) (c : Nat) : Bool :=
          !s.resident c && (s.getCore c).records.isEmpty && (s.unsettled c).isNone && decide ((s.getCore c).cstate = .running)
            && (i.ok || s.yields c i.n)
        let s := x.saved.foldl (fun s p => if free s p.1 then s.restoreCore i.n p.1 x p.2 else s) s
        if (tget s.contexts i.n).all (fun x => x.saved.isEmpty) then
          (s.modContext i.n (fun x => { x with swapped := [] })).completeCmds (fun _ c => c.opc == 0x22 && c.ctx == i.n) 0 (fun _ => 0)
        else s.later .resume i)

end Sys2Proof.Machine
end

