-- ==== Sys2Proof/Machine/Command.lean ====
section
/-!
DEFINITION. The command processors (spec 03): the command mailbox, host queues, submission entries and completions, the commands on
queues, apertures, contexts, home maps, launches and page tables.
-/

namespace Sys2Proof.Machine

open Sys2Proof

/-! Parameters and completion of a command (R64-R67). -/

/-- A parameter P0-P5 of the command in progress. -/
def State.param (s : State) (k : Nat) : Nat := valueOf ((s.inp.bytes.drop (8 * k)).take 8)

/-- The bits `hi` to `lo` set. -/
def maskOf (hi lo : Nat) : Nat := 2 ^ (hi + 1) - 2 ^ lo

/-- Whether every parameter is zero outside its mask; a parameter with no mask is zero (R67). -/
def State.paramsOk (s : State) (ms : List Nat) : Bool :=
  (List.range 6).all (fun k => decide (s.param k = s.param k &&& ms.getD k 0))

/-- The command in progress has its work done: its completion is due (R65). -/
def State.finish (s : State) (status result : Nat) : State :=
  let i := s.inp
  match tget s.queues i.queue with
  | none => s
  | some q =>
    match q.started.find? (fun c => c.uid == i.n) with
    | none => s
    | some c =>
      let t : HostQueue :=
        { q with
          started := q.started.erase c
          ready := q.ready ++ [{ cid := c.cid, sqhd := c.sqhd, status := status, result := BitVec.ofNat 64 result }] }
      ({ s with queues := tset s.queues i.queue t }).later .commandCompletion { Input.none with queue := i.queue }

/-- The command's own entry among the started ones, changed. -/
def State.modStarted (s : State) (f : Started → Started) : State :=
  let i := s.inp
  match tget s.queues i.queue with
  | none => s
  | some q =>
    match q.started.find? (fun c => c.uid == i.n) with
    | none => s
    | some c => { s with queues := tset s.queues i.queue { q with started := q.started.map (fun d => if d = c then f d else d) } }

/-- The number of entries of a queue's rings. -/
def HostQueue.size (q : HostQueue) : Nat := 2 ^ q.log2

/-- Whether the completion ring has no slot that the host has released (R65). -/
def HostQueue.full (q : HostQueue) : Bool := decide ((q.cqTail + 1) % q.size = q.cqHead)

/-- A queue with both rings empty (R62). -/
def HostQueue.fresh (sq cq log2 notNode notAddr : Nat) (notData : Word) : HostQueue where
  sq := sq
  cq := cq
  log2 := log2
  sqHead := 0
  sqTail := 0
  cqTail := 0
  cqHead := 0
  phase := true
  stopped := false
  notNode := notNode
  notAddr := notAddr
  notData := notData
  started := []
  ready := []
  fenced := none
  deleting := false

/-! Starting commands (R65, R66). -/

/-- The commands by opcode, and whether each is an admin command (R66, R78). PREEMPT and RESUME have rows of their own. -/
def commandOf (opc : Nat) : Option (Instr × Bool) :=
  if opc = 0x01 then some (.createQueue, true)
  else if opc = 0x02 then some (.deleteQueue, true)
  else if opc = 0x03 then some (.openAperture, true)
  else if opc = 0x04 then some (.closeAperture, true)
  else if opc = 0x10 then some (.createContext, false)
  else if opc = 0x11 then some (.destroyContext, false)
  else if opc = 0x12 then some (.setHomeMap, false)
  else if opc = 0x20 then some (.launch, false)
  else if opc = 0x21 then some (.preempt, false)
  else if opc = 0x22 then some (.resume, false)
  else if opc = 0x30 then some (.map, false)
  else if opc = 0x31 then some (.unmap, false)
  else if opc = 0x32 then some (.freePage, false)
  else if opc = 0x40 then some (.readManifest, false)
  else if opc = 0x50 then some (.fwStage, true)
  else if opc = 0x51 then some (.fwActivate, true)
  else if opc = 0x52 then some (.fwCommit, true)
  else if opc = 0x53 then some (.fwQuery, true)
  else if opc = 0x60 then some (.debugUnlock, true)
  else if opc = 0x61 then some (.lifecycle, true)
  else if opc = 0x62 then some (.measureExtend, true)
  else if opc = 0x63 then some (.ownerSet, true)
  else none

/-- The status that a submission entry completes with at once, or 0: a reserved field (R65), the opcode, an admin command on another
queue, a context that does not exist (R66, R67). -/
def State.entryStatus (s : State) (queue v : Nat) : Nat :=
  let opc := v % 2 ^ 16
  let ctxw := v / 2 ^ 64 % 2 ^ 64
  if v / 2 ^ 33 % 2 ^ 31 ≠ 0 ∨ ctxw / 64 ≠ 0 then 2
  else
    match commandOf opc with
    | none => 1
    | some (what, admin) =>
      if admin ∧ queue ≠ 0 then 3
      else if !admin ∧ what ≠ .createContext ∧ (tget s.contexts ctxw).isNone then 2
      else 0

/-- An entry of 64 bytes starts on a queue. Its SQHD is `sqhd`. -/
def State.startEntry (s : State) (queue v sqhd : Nat) : State :=
  let opc := v % 2 ^ 16
  let cid := v / 2 ^ 16 % 2 ^ 16
  let ctx := v / 2 ^ 64 % 64
  let c : Started :=
    { uid := s.cmdSeq, cid := cid, opc := opc, sqhd := sqhd, ctx := ctx, record := 0, dies := [], faulted := 0, refusal := none, resubmit := [] }
  let s := s.modQueue queue (fun q => { q with started := q.started ++ [c] })
  let inp := { Input.none with queue := queue, n := s.cmdSeq, slot := ctx, bytes := bytesOf 48 (v / 2 ^ 128) }
  let s := { s with inp := inp, cmdSeq := s.cmdSeq + 1 }
  let status := s.entryStatus queue v
  if status ≠ 0 then s.finish status 0
  else
    match commandOf opc with
    | none => s
    | some (what, _) =>
      if what = .preempt then
        if !s.paramsOk [7] then s.finish 2 0
        else s.soon .preempt { Input.none with n := ctx, ok := true, addr := s.param 0 }
      else if what = .resume then
        if !s.paramsOk [] then s.finish 2 0 else s.soon .resume { Input.none with n := ctx }
      else s.soon what inp

/-- Where a hart's handover block lies, in HBM that Cesis reserves (log 11). -/
def handoverAt (h : Nat) : Nat := 0x000000BF00000000 + 4096 * h

/-- A queue's 64 bytes of a handover block (R83; the widths are log 70's). -/
def HostQueue.handover (q : HostQueue) (n : Nat) : List Byte :=
  padTo 64
    (bytesOf 4 n ++ bytesOf 4 q.sqHead ++ bytesOf 4 q.sqTail ++ bytesOf 4 q.cqTail ++ bytesOf 4 q.cqHead ++ bytesOf 4 (bit q.phase)
      ++ bytesOf 8 q.notNode ++ bytesOf 8 q.notAddr ++ bytesOf 8 q.notData.toNat)

/-- Where a hart's table of started and parked commands lies, and the table of contexts, apertures and home maps (R83; log 71). -/
def cmdTabAt (h : Nat) : Nat := 0x000000BF00010000 + 0x4000 * h
def ctxTabAt : Nat := 0x000000BF00080000

/-- A hart's started and parked commands as its table lists them, 32 bytes each (log 71): the started ones of each queue, then the entry that waits
for its fence, with its own CID, opcode and context. -/
def State.cmdTab (s : State) (h : Nat) : List Byte :=
  (s.queues.filter (fun q => decide (q.1 % 8 = h))).flatMap (fun q =>
    q.2.started.flatMap (fun c =>
      bytesOf 2 q.1 ++ bytesOf 2 c.cid ++ bytesOf 2 c.opc ++ bytesOf 2 c.sqhd ++ bytesOf 8 c.ctx ++ bytesOf 8 c.record ++ bytesOf 8 c.faulted)
    ++ (match q.2.fenced with
      | some bs =>
        let v := valueOf bs
        bytesOf 2 q.1 ++ bytesOf 2 (v / 2 ^ 16) ++ bytesOf 2 v ++ bytesOf 2 q.2.sqHead ++ bytesOf 8 (v / 2 ^ 64) ++ bytesOf 16 0
      | none => []))

/-- The first 64 bytes of a handover block (R83). -/
def State.handoverHead (s : State) (h version state : Nat) : List Byte :=
  ascii "HANDOVER" ++ bytesOf 4 1 ++ bytesOf 4 h ++ bytesOf 8 s.fw.version ++ bytesOf 8 version ++ bytesOf 8 state
    ++ bytesOf 8 s.time.toNat ++ bytesOf 8 (cmdTabAt h) ++ bytesOf 8 ctxTabAt

/-- A home map entry as its 16 bytes (R68). -/
def HomeEntry.value (e : HomeEntry) : Nat := e.node * 2 ^ 111 + e.count * 2 ^ 83 + e.first * 2 ^ 56

/-- The table of contexts, apertures and home maps that a handover block names: 64 bytes a context, 32 an aperture, 16 a home map entry (R83;
log 71). -/
def State.ctxTab (s : State) : List Byte :=
  let ctx := (List.range 64).flatMap (fun n => padTo 64 (match tget s.contexts n with
    | some x => bytesOf 2 1 ++ bytesOf 2 x.asid.toNat ++ bytesOf 4 x.fqLog2 ++ bytesOf 8 x.fqBase ++ bytesOf 1 x.vlcap.toNat ++ bytesOf 1 x.lpart.toNat
        ++ bytesOf 1 (bit x.detm) ++ bytesOf 1 (bit x.gang) ++ bytesOf 4 x.floor
    | none => []))
  let aps := (List.range 16).flatMap (fun n => padTo 32 (match tget s.apertures n with
    | some a => bytesOf 8 a.base ++ bytesOf 8 a.len ++ bytesOf 4 a.node ++ bytesOf 4 (bit a.rw)
    | none => []))
  ctx ++ aps

/-- The fault-queue read cursors of a handover block, and the end of it: FLTCUR and IRQEN (R83). -/
def State.handoverTail (s : State) (h : Nat) : List Byte :=
  (List.range 64).flatMap (fun n =>
    bytesOf 8 (match tget s.contexts n with
      | some x => s.peek x.fqBase 8
      | none => 0))
    ++ bytesOf 8 (s.hart h).irqEn.toNat

/-- A hart's tables written where its block names them (R83). -/
def State.putTables (s : State) (h : Nat) : State :=
  let s := (s.put (cmdTabAt h) (s.cmdTab h)).put ctxTabAt s.ctxTab
  s.contexts.foldl (fun (s : State) (p : Nat × Context) =>
    s.put (ctxTabAt + 0x10000 + 0x1000 * p.1) (p.2.home.flatMap (fun e => bytesOf 16 e.2.value))) s

/-- A command boundary (R87): the hart that serves a queue rewrites its block's head and end, the queue's entry and its tables; during a swap the
blocks are the handover's (R80). -/
def State.boundary (s : State) (n : Nat) : State :=
  let h := n % 8
  let t := s.hart h
  if s.mbx.swap then s
  else
    let s := s.put (handoverAt h) (s.handoverHead h t.image t.handover)
    let s := s.put (handoverAt h + 64 + 64 * (n / 8)) (match tget s.queues n with
      | some q => q.handover n
      | none => List.replicate 64 0)
    (s.put (handoverAt h + 576) (s.handoverTail h)).putTables h

/-- Whether a command processor has something to fetch or start on a queue (R62, R65, R69, R82). -/
def State.servable (s : State) (n : Nat) (q : HostQueue) : Bool :=
  !(q.stopped || q.deleting || s.mbx.swap || (decide (n = 0) && s.mbx.unbinding) || q.full || s.haltDies.contains (n % 8 / 2))
    && (match q.fenced with
      | some _ => q.started.isEmpty && q.ready.isEmpty
      | none => decide (q.sqHead ≠ q.sqTail))

/-- The queue whose turn it is of those a hart serves: the first after the one it served last that has something (R72). -/
def State.turnQueue (s : State) (h : Nat) : Option (Nat × HostQueue) :=
  (List.range 8).findSome? (fun k =>
    let n := h + 8 * (((s.hart h).served + 1 + k) % 8)
    (tget s.queues n).bind (fun q => if s.servable n q then some (n, q) else none))

/-- SUBMISSION_FETCH (R65, R72): a command processor gives the next of its eight queues, round-robin, one turn: it reads the next doorbelled
entry once and starts its command; an entry with FENCE waits until every earlier command of the queue has completed. Operand: queue (any of
the eight). -/
def execSubmissionFetch (s : State) : Out :=
  let h := s.inp.queue % 8
  .next
    (let s := s.park
    match s.turnQueue h with
    | none => s
    | some (n, q) =>
      let s := s.modHart h (fun t => { t with served := n / 8 })
      let again (s : State) : State :=
        let s := s.boundary n
        if (s.turnQueue h).isSome then s.later .submissionFetch { Input.none with queue := n } else s
      match q.fenced with
      | some bs => again ((s.modQueue n (fun q => { q with fenced := none })).startEntry n (valueOf bs) q.sqHead)
      | none =>
        let a := q.sq + 64 * q.sqHead
        let head := (q.sqHead + 1) % q.size
        let s := s.modQueue n (fun q => { q with sqHead := head })
        match s.readPhys a 64 with
        | .error _ =>
          again (((s.logError 65 a).modQueue n (fun q =>
            { q with ready := q.ready ++ [{ cid := 0, sqhd := head, status := 0x0D, result := 0 }] })).later .commandCompletion
              { Input.none with queue := n })
        | .ok v =>
          let s := s.countRead a 64
          let bad := decide (s.entryStatus n v = 2 ∧ v / 2 ^ 33 % 2 ^ 31 ≠ 0)
          if (v / 2 ^ 32).testBit 0 ∧ !bad ∧ !(q.started.isEmpty && q.ready.isEmpty) then
            again (s.modQueue n (fun q => { q with fenced := some (bytesOf 64 v) }))
          else again (s.startEntry n v head))

/-- A completion entry's 16 bytes (R64). -/
def Completion.bytes (c : Completion) (phase : Bool) : List Byte :=
  bytesOf 2 c.cid ++ bytesOf 2 c.sqhd ++ bytesOf 2 c.status ++ bytesOf 1 (bit phase) ++ bytesOf 1 0 ++ bytesOf 8 c.result.toNat

/-- One completion written into a queue's next slot, and the notify write sent (R65); a write that fails stops the queue. A notify write that finds
no route is logged and the queue goes on (DESIGN CHOICE, log 54); an adapter that answers with errors still takes it. -/
def State.writeCompletion (s : State) (n : Nat) (q : HostQueue) (c : Completion) : State :=
  match s.writePhys (q.cq + 16 * q.cqTail) (c.bytes q.phase) with
  | .error _ =>
    let s := (s.modQueue n (fun q => { q with stopped := true, ready := [] })).logError 65 (q.cq + 16 * q.cqTail)
    { s with mbx := { s.mbx with qerr := s.mbx.qerr ||| BitVec.ofNat 64 (2 ^ n) } }
  | .ok s =>
    let tail := (q.cqTail + 1) % q.size
    let s := s.modQueue n (fun q => { q with cqTail := tail, phase := if tail = 0 then !q.phase else q.phase })
    if q.notAddr = 0 then s
    else if !s.fabric.reaches q.notNode then s.logError 43 q.notAddr
    else { s with hostMem := tset s.hostMem q.notNode (mstore ((tget s.hostMem q.notNode).getD []) q.notAddr (bytesOf 8 q.notData.toNat)) }

/-- Cesis forwards a pending fault record to the host, which later has it resumed or killed; while queue 0 is not bound it kills the step with
ACT 01 and logs the record instead (R59). -/
def State.forwardPending (s : State) (a : Nat) : State :=
  match s.faultAtAddr a with
  | none => s
  | some (ctx, c, r) =>
    match s.forward ((s.launchOf ((s.ctxCore ctx c).step r.cell)).bind (·.who)) a with
    | some s => s
    | none => (s.soon .bfltactKill { Input.none with hart := hartOf c, addr := a }).logError 59 a

/-- COMMAND_COMPLETION (R65, R59): the oldest completion of a queue whose work is done is written where the host has released a slot; a stopped
queue's are discarded. With an address, Cesis forwards the fault record there. Operands: queue, addr (a fault record, or 0). -/
def execCommandCompletion (s : State) : Out :=
  let n := s.inp.queue
  .next
    (let s := s.park
    if s.inp.addr ≠ 0 then s.forwardPending s.inp.addr
    else
    match tget s.queues n with
    | none => s
    | some q =>
      match q.ready with
      | [] => s
      | c :: r =>
        if q.stopped then s.modQueue n (fun q => { q with ready := [] })
        else if q.full then s
        else
          let s := (s.modQueue n (fun q => { q with ready := r })).writeCompletion n q c
          let s := if r.isEmpty then s else s.later .commandCompletion { Input.none with queue := n }
          (s.boundary n).later .submissionFetch { Input.none with queue := n })

/-! The command mailbox (R61-R63). -/

/-- The mailbox region. -/
def mbxBase : Nat := 0x000FFFFFFFFF0000

/-- The row that a mailbox write is: a doorbell, ADMCTL, or a plain register write; `slot` 1 says that it comes from the input queue. -/
def mbxTodo (w : MbxWrite) : Todo :=
  let i := { Input.none with addr := mbxBase + w.off, data := w.data, slot := 1 }
  if w.off = 0x48 then
    { what := if w.data.getLsbD 0 then .admctlBind else .admctlUnbind, inp := i }
  else if 0x1000 ≤ w.off ∧ w.off < 0x1400 then
    { what := if w.off % 16 = 0 then .sqdb else .cqdb
      inp := { i with queue := (w.off - 0x1000) / 16, n := w.data.toNat % 4096 } }
  else { what := .registerWrite, inp := i }

/-- The steps of the work list that serve the input queue. -/
def Todo.ofMbx (t : Todo) : Bool :=
  decide (t.inp.slot = 1) && (match t.what with
    | .admctlBind | .admctlUnbind | .sqdb | .cqdb | .registerWrite => true
    | _ => false)

/-- A write of the input queue is served: it leaves the queue. -/
def State.served (s : State) : State :=
  if s.inp.slot = 1 then { s with mbx := { s.mbx with input := s.mbx.input.drop 1 } } else s

/-- SWAP rises: the input queue is not served (R63, R82). -/
def State.pauseMbx (s : State) : State :=
  { s with mbx := { s.mbx with swap := true }, work := s.work.filter (fun t => !t.ofMbx) }

/-- SWAP clears: the input queue is served in arrival order, and every queue is looked at again. -/
def State.resumeMbx (s : State) : State :=
  let s := { s with
    mbx := { s.mbx with swap := false }
    work := s.work ++ s.mbx.input.map mbxTodo }
  s.queues.foldl (fun (s : State) (q : Nat × HostQueue) => s.later .submissionFetch { Input.none with queue := q.1 }) s

/-- A write reaches the mailbox: queued, or not where the input queue is full (R63). -/
def State.mbxArrive (s : State) (w : MbxWrite) : Option State :=
  if 256 ≤ s.mbx.input.length then none
  else
    let s := { s with mbx := { s.mbx with input := s.mbx.input ++ [w] } }
    some (if s.mbx.swap then s else { s with work := s.work ++ [mbxTodo w] })

/-- A doorbell rejected (R62). -/
def State.rejectDoorbell (s : State) (n : Nat) : State :=
  { s with mbx := { s.mbx with qerr := s.mbx.qerr ||| BitVec.ofNat 64 (2 ^ (n % 64)) } }

/-- SQDB (R62). Operands: queue, n (the new tail). -/
def execSqdb (s : State) : Out :=
  let i := s.inp
  .next
    (let s := s.served
    match tget s.queues i.queue with
    | none => s.rejectDoorbell i.queue
    | some q =>
      if q.size ≤ i.n then s.rejectDoorbell i.queue
      else (s.modQueue i.queue (fun q => { q with sqTail := i.n })).later .submissionFetch { Input.none with queue := i.queue })

/-- CQDB (R62, R65): completion slots are released. Operands: queue, n (the new head). -/
def execCqdb (s : State) : Out :=
  let i := s.inp
  .next
    (let s := s.served
    match tget s.queues i.queue with
    | none => s.rejectDoorbell i.queue
    | some q =>
      if q.size ≤ i.n then s.rejectDoorbell i.queue
      else
        ((s.modQueue i.queue (fun q => { q with cqHead := i.n })).later .commandCompletion { Input.none with queue := i.queue }).later
          .submissionFetch { Input.none with queue := i.queue })

/-- ADMCTL_BIND (R62): Cesis latches the six registers, queue 0 exists with both rings empty and ADMEN is 1; ignored while READY is 0 or
ADMEN is 1. -/
def execAdmctlBind (s : State) : Out :=
  .next
    (let s := s.served
    let m := s.mbx
    if !m.ready ∨ m.admen then s
    else
      { s with
        mbx := { m with admen := true, unbinding := false }
        queues := tset s.queues 0 (HostQueue.fresh m.admsq m.admcq m.admsize m.admnotn m.admnota m.admnotd) })

/-- ADMCTL_UNBIND (R62): nothing more is fetched from queue 0. -/
def execAdmctlUnbind (s : State) : Out :=
  .next
    (let s := s.served
    if !s.mbx.admen then s
    else ({ s with mbx := { s.mbx with unbinding := true } }).later .adminQueueUnbindDone Input.none)

/-- ADMIN_QUEUE_UNBIND_DONE (R62): once every started admin command has completed, ADMEN is 0 and queue 0 is gone. -/
def execAdminQueueUnbindDone (s : State) : Out :=
  .next
    (if !s.mbx.unbinding then s
    else if (tget s.queues 0).all (fun q => q.started.isEmpty && q.ready.isEmpty) then
      { s with mbx := { s.mbx with admen := false, unbinding := false }, queues := tdel s.queues 0 }
    else s.later .adminQueueUnbindDone Input.none)

/-- A mailbox register read (R61). -/
def State.readMbx (s : State) (off : Nat) : Nat :=
  let m := s.mbx
  if off = 0x00 then 3 * 65536 + s.fabric.node % 8192
  else if off = 0x08 then bit m.ready + 2 * bit m.swap + 4 * bit m.halt + 8 * bit m.admen
  else if off = 0x10 then m.admsq
  else if off = 0x18 then m.admcq
  else if off = 0x20 then m.admsize
  else if off = 0x28 then m.qerr.toNat
  else if off = 0x30 then m.admnotn
  else if off = 0x38 then m.admnota
  else if off = 0x40 then m.admnotd.toNat
  else 0

/-- A plain mailbox register written (R61, R62). -/
def Mailbox.write (m : Mailbox) (off : Nat) (d : Word) : Mailbox :=
  let v := d.toNat
  if off = 0x28 then { m with qerr := m.qerr &&& ~~~ d }
  else if m.admen then m
  else if off = 0x10 then { m with admsq := v &&& maskOf 51 12 }
  else if off = 0x18 then { m with admcq := v &&& maskOf 51 12 }
  else if off = 0x20 then { m with admsize := if 6 ≤ v % 16 ∧ v % 16 ≤ 12 then v % 16 else 6 }
  else if off = 0x30 then { m with admnotn := v % 8192 }
  else if off = 0x38 then { m with admnota := v &&& maskOf 51 3 }
  else if off = 0x40 then { m with admnotd := d }
  else m

/-! Brodauri CSRs and the compute control port (R57, R58, R68-R71). -/

/-- BMBXPEND: queues with doorbelled entries not yet fetched (R57). -/
def State.bmbxpend (s : State) : Nat :=
  (s.queues.map (fun q => if q.2.sqHead ≠ q.2.sqTail then 2 ^ q.1 else 0)).sum

/-- BIRQPEND of a hart (R57, R255): a record held for ring space counts as a waiting one, on a core that holds its context or not. -/
def State.birqpend (s : State) (h : Nat) : Nat :=
  let t := s.hart h
  let waits (p : Nat → Bool) : Bool :=
    s.contexts.any (fun x => x.2.pendingFaults.any (fun f => hartOf f.2.1 == h && p f.2.2.trap.cause))
  let holds (p : Nat × Core) : Bool := hartOf p.1 == h && p.2.records.any (·.held)
  let held := s.park.cores.any holds || s.contexts.any (fun x => x.2.saved.any holds)
  bit (s.queues.any (fun q => decide (q.1 % 8 = h) && decide (q.2.sqHead ≠ q.2.sqTail))) + 2 * bit (waits (· != 0x10) || held)
    + 4 * bit (waits (· == 0x10)) + 8 * bit (!(s.harbour (h / 2)).done.isEmpty) + 16 * bit t.wdw + 32 * bit (!s.log.isEmpty)

/-- A Brodauri CSR read in M mode (R57); an index that is not listed is an illegal-instruction exception of the hart. -/
def State.readCsr (s : State) (h idx : Nat) : Option Nat :=
  let t := s.hart h
  if idx = 0x7C0 then some (if h = 8 then 256 else 4 * (h / 2) + h % 2)
  else if idx = 0x7C1 then some s.bmbxpend
  else if idx = 0x7C2 then some t.irqEn.toNat
  else if idx = 0x7C3 then some (s.birqpend h)
  else if idx = 0x7C4 then some t.fltCtx.toNat
  else if idx = 0x7C6 then some (64 - (s.harbour (h / 2)).submit.length + 65536 * bit t.ref + 131072 * bit t.dbl)
  else if idx = 0x7CA then some 0x000FFFFFFF000000
  else if idx = 0x7CB then some mbxBase
  else if idx = 0x7C5 ∨ (0x7C7 ≤ idx ∧ idx ≤ 0x7C9) then some 0
  else none

/-- A home map entry from its 16 bytes (R68). -/
def homeEntryOf (v : Nat) : HomeEntry where
  first := bitsN v 82 56
  count := bitsN v 110 83
  node := bitsN v 123 111

/-- The base of the compute control port, and a core's page. -/
def portBase : Nat := 0x000FFFFFFF000000

/-- A privileged register written through the port: the core, or none where the value is forbidden (R297, R70). -/
def State.writePriv (s : State) (c idx v : Nat) : Option Core :=
  let k := s.getCore c
  let partner := s.getCore (if c % 2 = 0 then c + 1 else c - 1)
  if idx = 0 then (if 5 ≤ v % 16 ∧ v % 16 ≤ 13 then some { k with vlcap := BitVec.ofNat 4 v } else none)
  else if idx = 1 then (if v % 4 = 0 then none else some { k with lpart := BitVec.ofNat 2 v })
  else if idx = 2 then some { k with detm := decide (v % 2 = 1) }
  else if idx = 3 then some { k with asid := BitVec.ofNat 16 v }
  else if idx = 5 then
    (if v % 2 = 1 ∧ (k.lpart ≠ 1 ∨ partner.lpart ≠ 1) then none else some { k with gangEn := decide (v % 2 = 1) })
  else some k

/-- A privileged register as it reads (R297). -/
def Core.priv (k : Core) (idx : Nat) (odd : Bool) : Nat :=
  if idx = 0 then k.vlcap.toNat
  else if idx = 1 then k.lpart.toNat
  else if idx = 2 then bit k.detm
  else if idx = 3 then k.asid.toNat
  else if idx = 4 then 3
  else if idx = 5 then bit k.gangEn + 2 * bit odd
  else 0

def CoreSt.code : CoreSt → Nat
  | .running => 0
  | .quiescing => 1
  | .quiesced => 2
  | .inReset => 3

/-- A read of a core's page of the control port (R68): an offset that the table does not list, and CCMD, read as zero (R6). -/
def State.readPort (s : State) (c off : Nat) : Nat :=
  let k := s.getCore c
  if off % 8 ≠ 0 then 0
  else if off ≤ 0x28 then k.priv (off / 8) (c % 2 == 1)
  else if off = 0x100 then k.cstate.code
  else if off = 0x110 then bit k.cerrBusy + 2 * bit k.cerrVal
  else if 0x1000 ≤ off ∧ off < 0x2000 then
    ((tget k.home ((off - 0x1000) / 16)).getD { first := 0, count := 0, node := 0 }).value / 2 ^ (64 * (off % 16 / 8)) % 2 ^ 64
  else 0

/-- The harbourmaster completion registers of the four dies (R117). -/
def hmBase : Nat := 0x000FFFFFFF400000

/-- A read of a die's completion registers (R117): the head entry and the number of entries; HMCQPOP and unlisted offsets read as zero. -/
def State.readHm (s : State) (d off : Nat) : Nat :=
  let q := (s.harbour d).done
  if off = 0x00 then (q.head?.map (·.record)).getD 0
  else if off = 0x08 then (q.head?.map (fun e => e.faulted % 2 ^ 32 * 2 ^ 32 + e.offset % 2 ^ 16 * 2 ^ 16 + e.status % 2 ^ 16)).getD 0
  else if off = 0x18 then q.length
  else 0

/-- A write to a core's page of the control port (R68-R70). -/
def State.writePort (s : State) (c off : Nat) (d : Word) : State :=
  let k := s.getCore c
  let v := d.toNat
  if off = 0x110 then
    s.setCore c { k with cerrVal := k.cerrVal && !d.getLsbD 1, cerrBusy := k.cerrBusy && !d.getLsbD 0 }
  else if off % 8 = 0 ∧ off ≤ 0x28 then
    if off = 0x20 then s
    else if k.cstate ≠ .quiesced then s.setCore c { k with cerrBusy := true }
    else
      match s.writePriv c (off / 8) v with
      | some k => s.setCore c k
      | none => s.setCore c { k with cerrVal := true }
  else if off % 8 = 0 ∧ 0x1000 ≤ off ∧ off < 0x2000 then
    if k.cstate ≠ .quiesced then s.setCore c { k with cerrBusy := true }
    else
      let e := (off - 0x1000) / 16
      let old := ((tget k.home e).getD { first := 0, count := 0, node := 0 }).value
      let new := if off % 16 = 0 then old / 2 ^ 64 * 2 ^ 64 + v else old % 2 ^ 64 + v * 2 ^ 64
      s.setCore c { k with home := tset k.home e (homeEntryOf new) }
  else s

/-- The manifest register block (R92). -/
def manifestBase : Nat := 0x000FFFFFFFFE0000

/-- The core whose control port page an address lies in, with the offset. -/
def portPlace (pa : Nat) : Option (Nat × Nat) :=
  if portBase ≤ pa ∧ pa < portBase + 0x400000 then some ((pa - portBase) / 0x2000, (pa - portBase) % 0x2000) else none

/-- The register windows, which have no memory behind them (R163). -/
def inWindow (pa : Nat) : Bool :=
  (portPlace pa).isSome || (decide (hmBase ≤ pa) && decide (pa < hmBase + 0x4000))
    || (decide (mbxBase ≤ pa) && decide (pa < mbxBase + 0x10000)) || (decide (manifestBase ≤ pa) && decide (pa < manifestBase + 0x1000))

/-- A hart's read of physical bytes (R55, R61, R68, R92, R117): a register window, whose registers are read as aligned 8 bytes (R61; log 70), or
memory at its home. -/
def State.hartRead (s : State) (pa n : Nat) (manifest : List Byte) : Except Nat Nat :=
  if manifestBase ≤ pa ∧ pa + n ≤ manifestBase + 0x1000 then .ok (valueOf ((manifest.drop (pa - manifestBase)).take n))
  else if inWindow pa ∧ (n ≠ 8 ∨ pa % 8 ≠ 0) then .error 0x40
  else
    match portPlace pa with
    | some (c, off) => .ok (s.park.readPort c off)
    | none =>
      if hmBase ≤ pa ∧ pa < hmBase + 0x4000 then .ok (s.readHm ((pa - hmBase) / 0x1000) ((pa - hmBase) % 0x1000))
      else if mbxBase ≤ pa ∧ pa < mbxBase + 0x10000 then .ok (s.readMbx (pa - mbxBase))
      else s.readPhys pa n

/-! The order of accesses to a core's page (R71). -/

/-- Whether a TLBINV of a core's page has still to complete. -/
def State.pageHeld (s : State) (c : Nat) : Bool := (s.getCore c).invalidating.isSome

/-- An access to a core's page that reached the port after a TLBINV waits for it. -/
def State.holdPort (s : State) (c : Nat) (what : Instr) (inp : Input) : State := { s with portHeld := s.portHeld ++ [(c, { what := what, inp := inp })] }

/-- The accesses that wait for a core's page made, in the order they reached the port. -/
def State.releasePort (s : State) (c : Nat) : State :=
  { s with
    agenda := (s.portHeld.filter (fun e => e.1 == c)).map (·.2) ++ s.agenda
    portHeld := s.portHeld.filter (fun e => e.1 != c) }

/-- CCMD, by its OP (R68): the row that performs it; other values are ignored. -/
def ccmdTodo (c : Nat) (d : Word) : Option Todo :=
  let i := { Input.none with core := c, n := bitsN d.toNat 31 16 }
  match d.toNat % 8 with
  | 1 => some { what := .ccmdQuiesce, inp := i }
  | 2 => some { what := .ccmdResume, inp := i }
  | 3 => some { what := .ccmdReset, inp := i }
  | 4 => some { what := .ccmdTlbinv, inp := i }
  | 5 => some { what := .ccmdFlushChainCache, inp := i }
  | _ => none

/-- A write of aligned 8 bytes to a physical register of a window with no memory behind it (R61, R68, R117): none where the address is in no
window. -/
def State.windowWrite (s : State) (pa : Nat) (d : Word) : Option State :=
  if inWindow pa ∧ pa % 8 ≠ 0 then some s
  else
    match portPlace pa with
    | some (c, off) =>
      some
        (if s.pageHeld c then s.holdPort c .registerWrite { Input.none with addr := pa, data := d }
        else if off = 0x108 then (match ccmdTodo c d with
          | some t => s.soon t.what t.inp
          | none => s)
        else s.writePort c off d)
    | none =>
      if hmBase ≤ pa ∧ pa < hmBase + 0x4000 then
        some (if (pa - hmBase) % 0x1000 = 0x10 then s.soon .hmcqpop { Input.none with die := (pa - hmBase) / 0x1000 } else s)
      else if mbxBase ≤ pa ∧ pa < mbxBase + 0x10000 then
        some
          (let t := mbxTodo { off := pa - mbxBase, data := d }
          if t.what = .registerWrite then { s with mbx := s.mbx.write (pa - mbxBase) d } else s.soon t.what { t.inp with slot := 0 })
      else if manifestBase ≤ pa ∧ pa < manifestBase + 0x1000 then some s
      else none

/-- The row that a write to a Brodauri CSR is, where it has one (R57); BFLTACT with ACT 10 or 11 is refused. -/
def State.csrWriteRow (s : State) (h idx : Nat) (d : Word) : State :=
  let i := { Input.none with hart := h, addr := d.toNat, data := d }
  if idx = 0x7C2 then s.modHart h (fun t => { t with irqEn := BitVec.ofNat 6 d.toNat })
  else if idx = 0x7C5 then s.soon .bhmsub i
  else if idx = 0x7C6 then s.modHart h (fun t => { t with dbl := t.dbl && !d.getLsbD 17, ref := t.ref && !d.getLsbD 16 })
  else if idx = 0x7C7 then s.soon (if d.getLsbD 0 then .bfresaFault else .bfresaResolve) i
  else if idx = 0x7C8 then
    (if d.getLsbD 1 then s.refuseHart h else s.soon (if d.getLsbD 0 then .bfltactKill else .bfltactResume) i)
  else if idx = 0x7C9 then s.soon .bwdkick i
  else s

/-- A CSR read by a hart in its mode: a standard one (R54), or in M mode a Brodauri one (R57); none is an illegal-instruction exception. -/
def State.hartCsr (s : State) (h idx : Nat) (write : Bool) : Option Nat :=
  let r := (s.hart h).rv
  if !r.mayAccess idx write then none
  else if 0x7C0 ≤ idx ∧ idx ≤ 0x7FF then s.readCsr h idx
  else r.read h s.time.toNat (decide (s.birqpend h &&& (s.hart h).irqEn.toNat ≠ 0)) idx

/-- A hart writes a CSR (R54, R57). -/
def State.hartCsrPut (s : State) (h idx : Nat) (d : Word) : State :=
  if 0x7C0 ≤ idx ∧ idx ≤ 0x7FF then s.csrWriteRow h idx d else s.modRv h (fun r => r.write s.time.toNat idx d)

/-- Where Cesis keeps the group table (R48; the place and the layout are log 71's): a group takes 16 KiB, the number of its members in 8 bytes, then
each member's node in 2. -/
def groupTab : Nat := 0xBDEDC00000

/-- The members of a group as its table lists them, 4,096 at most. -/
def State.groupFrom (s : State) (g : Nat) : List Nat :=
  let a := groupTab + 0x4000 * g
  (List.range (min 4096 (s.peek a 8))).map (fun j => s.peek (a + 8 + 2 * j) 2)

/-- The routers take a group's members after a store to its table. -/
def State.noteGroup (s : State) (pa : Nat) : State :=
  if groupTab ≤ pa ∧ pa < groupTab + 0x400000 then
    let g := (pa - groupTab) / 0x4000
    { s with fabric := { s.fabric with groups := tset s.fabric.groups g (s.groupFrom g) } }
  else s

/-- A hart's store to physical bytes (R55): a register window, of aligned 8 bytes, or memory at its home, where it may be the group table; an error
where they refuse. -/
def State.hartWrite (s : State) (pa n : Nat) (d : Word) : Except Nat State :=
  if manifestBase ≤ pa ∧ pa + n ≤ manifestBase + 0x1000 then .ok s
  else if inWindow pa ∧ (n ≠ 8 ∨ pa % 8 ≠ 0) then .error 0x40
  else
    match s.windowWrite pa d with
    | some s => .ok s
    | none => (s.writePhys pa (bytesOf n d.toNat)).map (fun s => s.noteGroup pa)

/-! A hart's instruction performed (R54, R55, R163; log 72). -/

/-- Whether BIRQPEND raises the machine external interrupt of a hart (R54, R57). -/
def State.irqLine (s : State) (h : Nat) : Bool := decide (s.birqpend h &&& (s.hart h).irqEn.toNat ≠ 0)

/-- What an instruction does to a hart, of `len` bytes, with the access that it makes: a misaligned one and one that is refused are exceptions, and one
to a core's page waits for a TLBINV of it (R71). -/
def State.rvPerform (s : State) (h len : Nat) (manifest : List Byte) (d : RvDo) : State :=
  let i := s.inp
  let r := (s.hart h).rv
  let done (s : State) (f : Rv → Rv) : State := s.modRv h (fun r => (f r).retireBy len)
  let fault (s : State) (cause va : Nat) : State := s.modRv h (fun r => r.trap false cause (BitVec.ofNat 64 va))
  let word (n v : Nat) : Nat := wrapN 64 (toSigned (8 * n) v)
  let at_ (a : RvAccess) (va n : Nat) (f : Nat → Except Nat State) : State :=
    if va % n ≠ 0 then fault s a.misaligned va
    else
      match r.translate s a va n with
      | .error c => fault s c va
      | .ok pa =>
        match (portPlace pa).filter (fun p => s.pageHeld p.1) with
        | some (c, _) => s.holdPort c .registerWrite i
        | none =>
          match f pa with
          | .ok s => s
          | .error _ => fault s a.accessFault va
  match d with
  | .regs q => s.modRv h (fun _ => q.retireBy len)
  | .jump q pc => s.modRv h (fun _ => { q.retireBy len with pc := BitVec.ofNat 64 pc })
  | .csr rd idx kind v write =>
    match s.hartCsr h idx write with
    | none => s.rvIllegal h
    | some old =>
      let s := done s (fun r => r.setX rd old)
      if !write then s
      else
        let o : Word := BitVec.ofNat 64 old
        let v : Word := BitVec.ofNat 64 v
        s.hartCsrPut h idx (if kind = 1 then v else if kind = 2 then o ||| v else o &&& ~~~ v)
  | .load rd va n signed fp =>
    at_ .load va n (fun pa => (s.hartRead pa n manifest).map (fun v => done (s.countRead pa n) (fun r => r.loaded rd n signed fp v)))
  | .store va n v => at_ .store va n (fun pa => (s.hartWrite pa n (BitVec.ofNat 64 v)).map (fun s => done s id))
  | .lr rd va n =>
    at_ .load va n (fun pa =>
      if inWindow pa then .error 0x40
      else (s.readPhys pa n).map (fun v =>
        done { s.countRead pa n with reservations := tset s.reservations h (pa / 64) } (fun r => r.setX rd (word n v))))
  | .sc rd va n v =>
    at_ .store va n (fun pa =>
      let t := { s with reservations := tdel s.reservations h }
      if inWindow pa then .error 0x40
      else if tget s.reservations h = some (pa / 64) then
        (t.hartWrite pa n (BitVec.ofNat 64 v)).map (fun s => done s (fun r => r.setX rd 0))
      else .ok (done t (fun r => r.setX rd 1)))
  | .amo rd va n f5 v =>
    at_ .store va n (fun pa =>
      (s.atomicPhys pa n (fun old => (rvAmo f5 n old (v % 2 ^ (8 * n))).getD old)).map (fun p =>
        done (p.2.noteGroup pa) (fun r => r.setX rd (word n p.1))))
  | .fence => done s id
  | .sfence => if r.mode = .u ∨ (r.mode = .s ∧ r.mstatus.getLsbD 20) then s.rvIllegal h else done s id
  | .wfi => if r.mode = .u ∨ (r.mode = .s ∧ r.mstatus.getLsbD 21) then s.rvIllegal h else done s id
  | .mret => (match r.mret with
    | some q => s.modRv h (fun _ => { q with minstret := q.minstret + 1 })
    | none => s.rvIllegal h)
  | .sret => (match r.sret with
    | some q => s.modRv h (fun _ => { q with minstret := q.minstret + 1 })
    | none => s.rvIllegal h)
  | .ecall => fault s (8 + r.mode.code) 0
  | .ebreak => fault s 3 r.pc.toNat
  | .illegal => s.rvIllegal h

/-- Two bytes fetched by a hart: them, or the exception. -/
def State.rvHalf (s : State) (h va : Nat) : Except Nat (Nat × State) :=
  match (s.hart h).rv.translate s .fetch va 2 with
  | .error c => .error c
  | .ok pa => if s.bad pa 2 then .error RvAccess.fetch.accessFault else .ok (s.peek pa 2, s.countRead pa 2)

/-- The instruction at a hart's pc: what it does and its bytes, or the exception and its address. -/
def State.rvFetch (s : State) (h : Nat) : Except (Nat × Nat) (RvDo × Nat × State) :=
  let r := (s.hart h).rv
  let pc := r.pc.toNat
  match s.rvHalf h pc with
  | .error c => .error (c, pc)
  | .ok (lo, s) =>
    if lo % 4 ≠ 3 then .ok (((rvExpand lo).map (fun w => r.does w 2)).getD .illegal, 2, s)
    else
      match s.rvHalf h ((pc + 2) % 2 ^ 64) with
      | .error c => .error (c, (pc + 2) % 2 ^ 64)
      | .ok (hi, s) => .ok (r.does (lo + 65536 * hi) 4, 4, s)

/-- An event that is an instruction of a hart given by its kind (log 72): 1-3 a CSR read, with bits set, with bits cleared; 4 a load (with ok false
its value is sign-extended) and 5 a store; 6 FENCE, 7 MRET, 8 SRET, 9 ECALL; 11 LR, 12 SC and 13 an AMO. -/
def rvEvent (i : Input) : RvDo :=
  let n := if i.core = 0 then 8 else i.core
  let v := i.data.toNat
  match i.n with
  | 1 => .csr i.queue i.addr 2 0 false
  | 2 => .csr i.queue i.addr 2 v true
  | 3 => .csr i.queue i.addr 3 v true
  | 4 => .load i.queue i.addr n (!i.ok) false
  | 5 => .store i.addr n v
  | 6 => .fence
  | 7 => .mret
  | 8 => .sret
  | 9 => .ecall
  | 11 => .lr i.queue i.addr n
  | 12 => .sc i.queue i.addr n v
  | _ => .amo i.queue i.addr n i.die v

/-- A hart goes on (R54, R55; log 72): with kind 14 its interrupt is taken, where it may be, or the instruction at its pc is fetched and performed; with
kind 10 the interrupt alone; any other kind gives the instruction. A hart with an access that waits at the compute control port waits itself, and one
on a die that sleeps fetches nothing. Operands of the event: hart, n (the kind), addr (the CSR's index, or the virtual address), queue (rd), core
(bytes), data, ok, die (an AMO's funct5). -/
def State.hartStep (s : State) (manifest : List Byte) : State :=
  let i := s.inp
  let h := i.hart % 9
  let stop := (s.hart h).rv.interruptible (s.irqLine h)
  match s.portHeld.find? (fun e => e.2.what == .registerWrite && e.2.inp.n != 0 && e.2.inp.hart % 9 == h) with
  | some (c, _) => s.holdPort c .registerWrite i
  | none =>
    if i.n = 10 then (if stop then s.modRv h (fun r => r.trap true 11 0) else s)
    else if i.n ≠ 14 then s.rvPerform h 4 manifest (rvEvent i)
    else if s.power = .off ∨ s.dieSleep.contains (h / 2) then s
    else if stop then s.modRv h (fun r => r.trap true 11 0)
    else
      match s.rvFetch h with
      | .error (c, va) => s.modRv h (fun r => r.trap false c (BitVec.ofNat 64 va))
      | .ok (d, len, s) => s.rvPerform h len manifest d

/-- BHMSUB (R58). Operands: hart, addr. -/
def execBhmsub (s : State) : Out :=
  let i := s.inp
  .next
    (s.park.inMachineMode i.hart (fun s =>
      match s.submitRecord (i.hart / 2) (i.addr &&& maskOf 51 9) false none with
      | some s => s
      | none => s.refuseHart i.hart))

/-- A pager future after its resolve: empty and free, the notice of the miss no longer pending (R176). -/
def State.freePager (s : State) (pa : Nat) : State :=
  if 0xBFFFFE0000 ≤ pa ∧ pa < 0xBFFFFE0000 + 256 * 512 then
    let core := (pa - 0xBFFFFE0000) / 256
    let j := (pa - 0xBFFFFE0000) % 256 / 16
    let s := s.put pa (List.replicate 16 0)
    let s := s.modCore core (fun k =>
      match tget k.pagers j with
      | some u => { k with pagers := tset k.pagers j { u with inUse := false } }
      | none => k)
    s.contexts.foldl (fun (s : State) (x : Nat × Context) =>
      (x.2.pendingFaults.filter (fun p => decide (p.2.2.trap.cause = 0x10) && decide (p.2.2.trap.fut = pa))).foldl
        (fun s p => s.serviced x.1 p.1) s) s
  else s

/-- BFRESA (R58): FRES on the future, or a faulting resolve; one resolved or faulted before sets DBL. An address outside memory is ignored,
with neither DBL nor REF set, and a future that memory answers as uncorrectable is logged (log 70). -/
def State.bfresa (s : State) (hart addr : Nat) (value : Option Word) : State :=
  s.park.inMachineMode hart (fun s =>
    let pa := addr &&& maskOf 51 4
    if !inMemory pa 16 then s
    else if s.bad pa 16 then (s.countRead pa 16).logError 58 pa
    else
      match s.futResolve pa value with
      | (s, true) => s.freePager pa
      | (s, false) => s.modHart hart (fun h => { h with dbl := true }))

/-- BFRESA_RESOLVE (R58). Operands: hart, addr. -/
def execBfresaResolve (s : State) : Out := .next (s.bfresa s.inp.hart s.inp.addr (some 0))

/-- BFRESA_FAULT (R58). Operands: hart, addr. -/
def execBfresaFault (s : State) : Out := .next (s.bfresa s.inp.hart s.inp.addr none)

/-- BWDKICK (R57, R85). Operand: hart. -/
def execBwdkick (s : State) : Out :=
  .next (s.inMachineMode s.inp.hart (fun s => s.modHart s.inp.hart (fun h => { h with lastKick := s.time.toNat, wdw := false })))

/-- An access to a core's page that a TLBINV of the same page goes before (R71) waits; the TLBINV's own continuation does not. -/
def State.pageAccess (s : State) (what : Instr) (f : State → State) : State :=
  let s := s.park
  if s.pageHeld s.inp.core then s.holdPort s.inp.core what s.inp else f s

/-- CCMD_QUIESCE (R69): every resident strand of a core is forced to leave, then the core is quiesced; ignored in reset. Operands: core, ok
(the write itself; the machine's own continuation has false). -/
def execCcmdQuiesce (s : State) : Out :=
  let i := s.inp
  .next
    (s.pageAccess .ccmdQuiesce (fun s =>
      let k := s.getCore i.core
      match k.cstate with
      | .inReset => if i.ok then s.setCore i.core { k with cerrBusy := true } else s
      | .quiesced => s
      | .running | .quiescing =>
        if !i.ok ∧ k.cstate = .running then s
        else
          match k.slots with
          | [] => s.setCore i.core { k with cstate := .quiesced }
          | (sl, st) :: _ =>
            ((s.setCore i.core { k with cstate := .quiescing }).later .ccmdQuiesce { i with ok := false }).hurryTodo
              { what := .forcedLeave, inp := { Input.none with core := i.core, slot := sl, addr := st.granted } }))

/-- CCMD_RESUME (R69): the core runs; leaving reset, its memories are cleared and every granule is empty (R158). Operand: core. -/
def execCcmdResume (s : State) : Out :=
  let i := s.inp
  .next
    (s.pageAccess .ccmdResume (fun s =>
      let k := s.getCore i.core
      match k.cstate with
      | .inReset => s.setCore i.core { k.wipe with cstate := .running, lastCtx := none }
      | _ => s.setCore i.core { k with cstate := .running }))

/-- CCMD_RESET (R70): a quiesced core enters reset, and what its steps still held on it ends; at any other time CERR.BUSY. The privileged
registers and CERR return to their reset values and the home map stays (log 70). Operand: core. -/
def execCcmdReset (s : State) : Out :=
  let i := s.inp
  .next
    (s.pageAccess .ccmdReset (fun s =>
      let k := s.getCore i.core
      if k.cstate ≠ .quiesced then s.setCore i.core { k with cerrBusy := true }
      else
        let s := k.steps.foldl (fun (s : State) (p : Nat × Step) => s.killStep (k.ctx.getD 64) i.core p.1) s
        let k := s.getCore i.core
        s.setCore i.core { Core.reset with cycle := k.cycle, dseq := k.dseq, accepted := k.accepted, power := k.power, home := k.home
                                           pagers := k.pagers, pagerOrder := k.pagerOrder, inbox := k.inbox, started := k.started
                                           halted := k.halted }))

/-- CCMD_TLBINV (R71, R175): a core's translations of an ASID go, once no instruction holds one, PUBLISH among them; until then the core's page is held
for it. Operands: core, n (the ASID), ok (the write itself; the machine's own continuation has false). -/
def execCcmdTlbinv (s : State) : Out :=
  let i := s.inp
  .next
    (let s := s.park
    let k := s.getCore i.core
    if i.ok ∧ k.invalidating.isSome then s.holdPort i.core .ccmdTlbinv i
    else
      match (s.holdsOn i.core k i.n) <|> (s.publishHolds (fun p => p.core == i.core && p.asid == i.n)) with
      | some t => (s.setCore i.core { k with invalidating := some i.n }).comesAfter .ccmdTlbinv { i with ok := false } t
      | none => (s.setCore i.core { k with tlb := k.tlb.filter (fun t => t.asid != i.n), invalidating := none }).releasePort i.core)

/-- CCMD_FLUSH_CHAIN_CACHE (R222). Operand: core. -/
def execCcmdFlushChainCache (s : State) : Out :=
  .next (s.pageAccess .ccmdFlushChainCache (fun s => s.modCore s.inp.core (fun k => { k with chains := [] })))

/-! Queues and apertures (R66, R67). -/

/-- CREATE_QUEUE. -/
def execCreateQueue (s : State) : Out :=
  .next
    (let n := bitsN (s.param 0) 5 0
    let log2 := bitsN (s.param 0) 19 16
    if !s.paramsOk [maskOf 5 0 + maskOf 19 16, maskOf 51 12, maskOf 51 12, maskOf 12 0, maskOf 51 3, maskOf 63 0] ∨ n = 0 ∨ log2 < 6 ∨ 12 < log2
        ∨ (tget s.queues n).isSome then s.finish 2 0
    else
      let q := HostQueue.fresh (s.param 1) (s.param 2) log2 (s.param 3) (s.param 4) (BitVec.ofNat 64 (s.param 5))
      { s with queues := tset s.queues n q }.finish 0 0)

/-- DELETE_QUEUE: nothing more is fetched from the queue, and it goes when all its started commands have completed. -/
def execDeleteQueue (s : State) : Out :=
  .next
    (let n := s.param 0
    if !s.paramsOk [maskOf 5 0] ∨ n = 0 then s.finish 2 0
    else
      match tget s.queues n with
      | none => s.finish 2 0
      | some q =>
        if q.started.isEmpty ∧ q.ready.isEmpty then { s with queues := tdel s.queues n }.finish 0 0
        else (s.modQueue n (fun q => { q with deleting := true })).later .deleteQueue s.inp)

/-- The windows that no aperture may cover (R66). -/
def forbidden : List (Nat × Nat) :=
  [(portBase, 0x400000), (hmBase, 0x4000), (manifestBase, 0x1000), (mbxBase, 0x10000), (reserveLo, hbmEnd - reserveLo)]

/-- Whether two ranges share an address. -/
def rangesMeet (a n b m : Nat) : Bool := decide (a < b + m) && decide (b < a + n)

/-- OPEN_APERTURE. -/
def execOpenAperture (s : State) : Out :=
  .next
    (let idx := bitsN (s.param 0) 3 0
    let node := bitsN (s.param 0) 28 16
    let base := s.param 1
    let len := s.param 2
    if !s.paramsOk [maskOf 3 0 + maskOf 8 8 + maskOf 28 16, maskOf 51 16, maskOf 63 0] ∨ node < 0x1000 ∨ 0x11FF < node ∨ len = 0 ∨ len % 0x10000 ≠ 0
        ∨ forbidden.any (fun r => rangesMeet base len r.1 r.2)
        ∨ s.apertures.any (fun a => a.1 != idx && rangesMeet base len a.2.base a.2.len) then s.finish 2 0
    else
      { s with apertures := tset s.apertures idx { base := base, len := len, node := node, rw := (s.param 0).testBit 8 } }.finish 0 0)

/-- CLOSE_APERTURE. -/
def execCloseAperture (s : State) : Out :=
  .next
    (if !s.paramsOk [maskOf 3 0] then s.finish 2 0
    else { s with apertures := tdel s.apertures (s.param 0) }.finish 0 0)

/-! Contexts (R66, R253). -/

/-- CREATE_CONTEXT: the context exists, the fault queue's control block and ring are zero. -/
def execCreateContext (s : State) : Out :=
  .next
    (let n := s.inp.slot
    let p0 := s.param 0
    let p2 := s.param 2
    let log2 := bitsN p0 20 16
    let base := s.param 1
    let size := 64 + 64 * 2 ^ log2
    if (tget s.contexts n).isSome then s.finish 4 0
    else if !s.paramsOk [maskOf 20 0, maskOf 51 12, maskOf 3 0 + maskOf 9 8 + maskOf 16 16 + maskOf 24 24] ∨ p0 % 65536 = 0 ∨ log2 < 13 ∨ 24 < log2
        ∨ p2 % 16 < 5 ∨ 13 < p2 % 16 ∨ bitsN p2 9 8 = 0 ∨ (p2.testBit 24 ∧ bitsN p2 9 8 ≠ 1) ∨ !inMemory base size then s.finish 2 0
    else
      let x : Context :=
        { asid := BitVec.ofNat 16 p0, fqBase := base, fqLog2 := log2, vlcap := BitVec.ofNat 4 p2, lpart := BitVec.ofNat 2 (bitsN p2 9 8)
          detm := p2.testBit 16, gang := p2.testBit 24, destroying := false, swapped := [], floor := 0, home := [], saved := [], siglog := []
          pendingFaults := [] }
      { s with
        contexts := tset s.contexts n x
        mem := mclear s.mem base size
        poison := s.poison.filter (fun g => decide (16 * g + 16 ≤ base) || decide (base + size ≤ 16 * g)) }.finish 0 0)

/-- Whether a launch of a context is active or queued on any die. -/
def State.launches (s : State) (ctx : Nat) : Bool :=
  s.harbours.toList.any (fun h =>
    h.launches.any (fun l => l.2.ctx == ctx) || h.submit.any (fun r => decide (s.peek (r.1 + 11) 1 = ctx)))

/-- The live steps of a context, by core and cell, resident or saved. -/
def State.stepsOf (s : State) (ctx : Nat) : List (Nat × Nat) :=
  (s.cores.flatMap (fun p => if p.2.ctx = some ctx then (p.2.steps.filter (·.2.live)).map (fun q => (p.1, q.1)) else []))
    ++ ((tget s.contexts ctx).map (fun x => x.saved.flatMap (fun p => (p.2.steps.filter (·.2.live)).map (fun q => (p.1, q.1))))).getD []

/-- DESTROY_CONTEXT: the context refuses records, its steps are killed and its records discarded, again and again until no launch of it
is active or queued and every LAUNCH of it has completed. -/
def execDestroyContext (s : State) : Out :=
  .next
    (let n := s.inp.slot
    let i := s.inp
    if !s.paramsOk [] then s.finish 2 0
    else
      let s := (s.park).modContext n (fun x => { x with destroying := true })
      let s := (s.stepsOf n).foldl (fun s p => s.killStep n p.1 p.2) s
      let s := s.modContext n (fun x => { x with saved := [], siglog := [], swapped := [], pendingFaults := [] })
      let s := s.lowerFault n
      let busy := s.launches n || s.queues.any (fun q => q.2.started.any (fun c => c.opc == 0x20 && c.ctx == n))
      let loose := (s.coresHolding n).findSome? (fun c => s.unsettled c)
      match loose with
      | some t => (s.later .destroyContext i).hurryTodo t
      | none =>
        if busy then s.later .destroyContext i
        else
          let asid := ((tget s.contexts n).map (·.asid.toNat)).getD 0
          let s := (s.coresHolding n).foldl (fun s c => s.modCore c (·.left asid)) s
          { s with contexts := tdel s.contexts n, fronts := s.fronts.filter (fun f => f.asid != asid) }.finish 0 0)

/-- SET_HOME_MAP: the table is read, and every core of the context holds the new map. -/
def execSetHomeMap (s : State) : Out :=
  .next
    (let n := s.inp.slot
    let count := s.param 1
    if !s.paramsOk [maskOf 51 4, maskOf 8 0] ∨ count = 0 ∨ 256 < count then s.finish 2 0
    else
      let s := s.countRead (s.param 0) (16 * count)
      match s.readPhys (s.param 0) (16 * count) with
      | .error _ => s.finish 2 0
      | .ok v =>
        let home : Table HomeEntry := (List.range count).map (fun e => (e, homeEntryOf (v / 2 ^ (128 * e) % 2 ^ 128)))
        let s := (s.park).modContext n (fun x => { x with home := home })
        let s := (s.coresHolding n).foldl (fun s c => s.modCore c (fun k => { k with home := home })) s
        s.finish 0 0)

/-! Launches (R96, R117). -/

/-- A launch record's address handed to a die of a command, or the die noted for another try, with REF of the hart that wrote BHMSUB cleared (R96):
the die's hart of the side that serves the queue (log 54). -/
def State.submitTo (s : State) (rec die : Nat) : State :=
  match s.submitRecord die rec false (some s.inp.n) with
  | some s => s
  | none =>
    (s.modStarted (fun c => { c with resubmit := c.resubmit ++ [die] })).modHart (2 * die + s.inp.queue % 2) (fun h => { h with ref := false })

/-- LAUNCH (R96): the mask and the context are checked against the record, then each die of the mask, in ascending order, takes it. RESULT of a
refusal by the mask or the context is 0 (DESIGN CHOICE, log 54). -/
def execLaunch (s : State) : Out :=
  .next
    (let i := s.inp
    let rec_ := s.param 0
    let mask := s.param 1
    if !s.paramsOk [maskOf 51 9, maskOf 3 0] then s.finish 2 0
    else
      let s := s.countRead rec_ 512
      match s.readPhys (rec_ + 10) 2 with
      | .error _ => s.finish 2 0xFFFF
      | .ok v =>
        if mask = 0 ∨ v % 256 ≠ mask ∨ v / 256 ≠ i.slot then s.finish 2 0
        else
          let dies := bitsSet 4 mask
          let s := s.modStarted (fun c => { c with record := rec_, dies := dies })
          let s := dies.foldl (fun s d => s.submitTo rec_ d) s
          if (tget s.queues i.queue).any (fun q => q.started.any (fun c => c.uid == i.n && !c.resubmit.isEmpty)) then
            s.later .launchResubmit { Input.none with queue := i.queue, n := i.n }
          else s)

/-- LAUNCH_RESUBMIT (R96): the dies whose queues were full are tried again. Operands: queue, n (which of the started commands). -/
def execLaunchResubmit (s : State) : Out :=
  .next
    (let i := s.inp
    match (tget s.queues i.queue).bind (fun q => q.started.find? (fun c => c.uid == i.n)) with
    | none => s
    | some c =>
      let s := s.modStarted (fun c => { c with resubmit := [] })
      let s := c.resubmit.foldl (fun s d => s.submitTo c.record d) s
      if (tget s.queues i.queue).any (fun q => q.started.any (fun c => c.uid == i.n && !c.resubmit.isEmpty)) then s.later .launchResubmit i else s)

/-- One die's report to the LAUNCH that submitted the record there: with the last one the command's work is done (R96, R116). -/
def State.report (s : State) (d : Nat) (e : HmDone) : State :=
  let mine (c : Started) : Bool := decide (e.who = some c.uid) && c.dies.contains d
  match s.queues.findSome? (fun q => (q.2.started.find? mine).map (fun c => (q.1, c))) with
  | none => s
  | some (n, c) =>
    let c' : Started :=
      { c with
        dies := nremove c.dies d
        faulted := c.faulted + e.faulted
        refusal := if c.refusal.isSome ∨ e.status = 0 then c.refusal else some e.offset }
    let s := s.modQueue n (fun q => { q with started := q.started.map (fun x => if x = c then c' else x) })
    if c'.dies.isEmpty then
      s.completeCmds (fun q x => q == n && x == c') (if c'.refusal.isSome then 2 else 0) (fun _ => c'.refusal.getD c'.faulted)
    else s

/-- HMCQPOP (R117): the head entry of a die's completion queue goes, and Cesis counts the die's report for its LAUNCH; an entry of a
strand's LAUNCH has no command. A completion that waited for room is written. Operand: die. -/
def execHmcqpop (s : State) : Out :=
  let d := s.inp.die
  .next
    (match (s.harbour d).done with
    | [] => s
    | e :: r =>
      let s := s.modHarbour d (fun h => { h with done := r })
      let s := if e.byDevice then s else s.report d e
      match (s.harbour d).pending with
      | p :: _ => s.later .hmCompletionWrite { Input.none with die := d, n := p }
      | [] => s)

/-! Page tables (R67, R171-R175, R206). -/

/-- A table from the pool (log 11): its address, zeroed; none when the pool is used up. -/
def State.newTable (s : State) (size : Nat) : Option (Nat × State) :=
  let a := roundUp s.ptPool size
  if 0x000000BF00000000 < a + size then none
  else some (a, { s with ptPool := a + size, mem := mclear s.mem a size })

/-- The size of a table of a level. -/
def tableSize (level : Nat) : Nat := if level = 3 then 0x200000 else if level = 0 then 256 else 4096

/-- The root table of an ASID, made where there is none. -/
def State.rootTable (s : State) (asid : Nat) : Option (Nat × State) :=
  let d := s.peek (reserveLo + 8 * asid) 8
  if d % 2 = 1 then some (bitsN d 51 21 * 0x200000, s)
  else (s.newTable (tableSize 3)).map (fun p => (p.1, p.2.poke (reserveLo + 8 * asid) 8 (p.1 + 1)))

/-- The place of an address's entry at a level, tables made on the way. -/
def State.entryPlace (s : State) (va target : Nat) : Nat → Nat → Option (Nat × State)
  | 0, table => some (table + 8 * levelIndex 0 va, s)
  | l + 1, table =>
    let pa := table + 8 * levelIndex (l + 1) va
    if l + 1 = target then some (pa, s)
    else
      let e := BitVec.ofNat 64 (s.peek pa 8)
      if leafV e then s.entryPlace va target l (leafNext e)
      else
        match s.newTable (tableSize l) with
        | none => none
        | some (a, s) => (s.poke pa 8 (a + 1)).entryPlace va target l a

/-- Whether a table of a level holds a leaf. -/
def hasLeaf (m : Mem) : Nat → Nat → Bool
  | level, table =>
    (List.range (tableSize level / 8)).any (fun i =>
      let e := BitVec.ofNat 64 (mload m (table + 8 * i) 8)
      leafV e && (leafLeaf e || (match level with
        | 0 => false
        | l + 1 => hasLeaf m l (leafNext e))))

/-- What an address has at a page size's level. -/
inductive Slot where
  | empty
  /-- A leaf of the page size: its place and its entry. -/
  | leaf (pa : Nat) (e : BitVec 64)
  /-- A leaf of another page size, above or below. -/
  | other
  deriving DecidableEq, Repr

def slotFrom (m : Mem) (va target : Nat) : Nat → Nat → Slot
  | level, table =>
    let pa := table + 8 * levelIndex level va
    let e := BitVec.ofNat 64 (mload m pa 8)
    if !leafV e then .empty
    else if level = target then
      if leafLeaf e then .leaf pa e
      else match level with
        | 0 => .empty
        | l + 1 => if hasLeaf m l (leafNext e) then .other else .empty
    else if leafLeaf e then .other
    else
      match level with
      | 0 => .empty
      | l + 1 => slotFrom m va target l (leafNext e)

def State.slotAt (s : State) (asid va level : Nat) : Slot :=
  let d := s.peek (reserveLo + 8 * asid) 8
  if d % 2 = 0 then .empty else slotFrom s.mem va level 3 (bitsN d 51 21 * 0x200000)

/-- The launches' held translations: whether an active launch of an ASID holds one in a range (R106). -/
def State.heldByLaunch (s : State) (asid va n : Nat) : Bool :=
  (List.range 4).any (fun d => (s.harbour d).launches.any (fun p =>
    let l := p.2
    decide (l.asid = asid) && decide (l.st = .active) &&
      (rangesMeet va n (l.qarea + d * l.qspan) l.qspan || (l.donef != 0 && rangesMeet va n l.donef 16))))

/-- The level of a page size code. -/
def sizeLevel (code : Nat) : Nat := code

/-- Replicas of the lines of a physical range gone. -/
def State.dropReplicas (s : State) (pa n : Nat) : State :=
  { s with replicas := s.replicas.filter (fun r => decide (128 * r.2 + 128 ≤ pa) || decide (pa + n ≤ 128 * r.2)) }

/-- Append units of a page open, with tail 0 and every written bit clear (R168). -/
def State.openUnits (s : State) (pa n : Nat) : State :=
  { s with units := s.units.filter (fun u => decide (u.1 < pa) || decide (pa + n ≤ u.1)) }

/-- Every translation of an ASID invalidated. -/
def State.invalidate (s : State) (asid : Nat) : State :=
  s.allCores (fun k => { k with tlb := k.tlb.filter (fun t => t.asid != asid) })

/-- One leaf written: an old page's replicas go, an append page's units are open. -/
def State.mapOne (s : State) (asid va level : Nat) (e : BitVec 64) : Option State :=
  let size := pageSize level
  match s.rootTable asid with
  | none => none
  | some (root, s) =>
    match s.entryPlace va level 3 root with
    | none => none
    | some (pa, s) =>
      let old := BitVec.ofNat 64 (s.peek pa 8)
      let s := if leafV old && leafLeaf old then s.dropReplicas (leafAddr old) size else s
      let s := s.poke pa 8 e.toNat
      let s := if leafClass e = 3 then s else s.dropReplicas (leafAddr e) size
      some (if leafClass e = 1 then s.openUnits (leafAddr e) size else s)

/-- The pages of a MAP written in ascending order; none when the pool is used up. -/
def State.mapAll (s : State) (asid va level : Nat) (e : BitVec 64) : Nat → Option State
  | 0 => some s
  | n + 1 =>
    (s.mapOne asid va level e).bind (fun s => s.mapAll asid (va + pageSize level) level (e + BitVec.ofNat 64 (pageSize level)) n)

/-- A command that has waited acts on its context if that still exists; else it completes with 0x0002 and has no effect (R67). -/
def State.inContext (s : State) (f : State → State) : State := if (tget s.contexts s.inp.slot).isNone then s.finish 2 0 else f s

/-- The ASID that the command's context has. -/
def State.cmdAsid (s : State) : Nat := ((tget s.contexts s.inp.slot).map (·.asid.toNat)).getD 0

/-- MAP (R67): refused whole (so, by the model's choice, is a host range that runs past 2^52, log 70), or every leaf written and the old translations invalidated, once no access holds one. -/
def execMap (s : State) : Out :=
  .next
    (s.inContext fun s =>
    let i := s.inp
    let va := s.param 0
    let pa := s.param 1
    let count := s.param 2
    let p3 := s.param 3
    let level := sizeLevel (p3 % 4)
    let size := pageSize level
    let e := BitVec.ofNat 64 (3 + bitsN p3 3 2 * 4 + bitsN p3 6 4 * 16 + bitsN p3 11 8 * 256 + pa + bitsN p3 24 16 * 2 ^ 52)
    let host := decide (bitsN p3 3 2 = 3)
    let asid := s.cmdAsid
    let total := count * size
    if !s.paramsOk [maskOf 56 16, maskOf 51 16, maskOf 31 0, maskOf 6 0 + maskOf 11 8 + maskOf 24 16] ∨ count = 0 ∨ p3 % 4 = 3 ∨ leafBad level e
        ∨ (bitsN p3 3 2 = 2 ∧ hbmEnd ≤ pa) ∨ va % size ≠ 0 ∨ 2 ^ 57 < va + total ∨ 2 ^ 52 < pa + total
        ∨ (!host ∧ (pa % size ≠ 0 ∨ !mappable pa total))
        ∨ (List.range count).any (fun j => decide (s.slotAt asid (va + j * size) level = .other)) then s.finish 2 0
    else
      match s.park.holdsAny asid with
      | some t => s.park.comesAfter .map i t
      | none =>
        let s := s.park
        if s.heldByLaunch asid va total ∧ (List.range count).any (fun j => decide (s.slotAt asid (va + j * size) level ≠ .empty)) then s.later .map i
        else
          match s.mapAll asid va level e count with
          | none => s.finish 5 0
          | some s => (s.invalidate asid).finish 0 0)

/-- UNMAP (R67): the mapped pages of a range go, once no access and no launch holds a translation of them (R106, R175). -/
def execUnmap (s : State) : Out :=
  .next
    (s.inContext fun s =>
    let i := s.inp
    let va := s.param 0
    let count := s.param 2
    let p3 := s.param 3
    let level := sizeLevel (p3 % 4)
    let size := pageSize level
    let asid := s.cmdAsid
    if !s.paramsOk [maskOf 56 16, 0, maskOf 31 0, maskOf 1 0] ∨ p3 = 3 ∨ va % size ≠ 0 ∨ 2 ^ 57 < va + count * size
        ∨ (List.range count).any (fun j => decide (s.slotAt asid (va + j * size) level = .other)) then s.finish 2 0
    else
      match s.park.holdsAny asid with
      | some t => s.park.comesAfter .unmap i t
      | none =>
        let s := s.park
        if s.heldByLaunch asid va (count * size) then s.later .unmap i
        else
          let s := (List.range count).foldl (fun (s : State) j =>
            match s.slotAt asid (va + j * size) level with
            | .leaf pa e => (s.dropReplicas (leafAddr e) size).poke pa 8 0
            | _ => s) s
          (s.invalidate asid).finish 0 0)

/-- FREE_PAGE (R168, R206): every unit of an append page is open and empty, its pending seal futures are faulted, its replicas go. -/
def execFreePage (s : State) : Out :=
  .next
    (s.inContext fun s =>
    let i := s.inp
    let va := s.param 0
    let asid := s.cmdAsid
    if !s.paramsOk [maskOf 56 16] then s.finish 2 0
    else
      match s.walk asid va with
      | .leaf 0 e =>
        if leafClass e ≠ 1 then s.finish 2 0
        else
          match s.park.holdsAny asid with
          | some t => s.park.comesAfter .freePage i t
          | none =>
            let s := s.park
            let pa := leafAddr e
            let mine := s.units.filter (fun u => decide (pa ≤ u.1) && decide (u.1 < pa + 0x10000))
            let s := (s.openUnits pa 0x10000).dropReplicas pa 0x10000
            let s := mine.foldl (fun (s : State) (u : Nat × AppUnit) =>
              u.2.futs.foldl (fun s f => s.resolveLoc f.1 none f.2.1 f.2.2.1 f.2.2.2) s) s
            (s.invalidate asid).finish 0 0
      | _ => s.finish 2 0)

end Sys2Proof.Machine
end

