-- ==== Sys2Proof/Machine/Window.lean ====
section
/-!
DEFINITION. How a target answers a request packet: the replay windows (R44-R47), and whom the module answers (R36).
-/

namespace Sys2Proof.Machine

open Sys2Proof

/-- What performing a request gives: an answer, or a refusal that the source tries again (R45). -/
inductive Reply where
  | now (s : State) (op addr : Nat) (data : List Byte)
  | retry
  deriving DecidableEq, Repr

/-- An error answer: its code in the first data byte (R33); seven bytes more hold what else it says (log 12). -/
def errReply (s : State) (code : Nat) : Reply := .now s opError 0 (bytesOf 1 code)

/-- An acknowledgement. -/
def ackReply (s : State) : Reply := .now s opAck 0 []

/-- Sequence number order, modulo 2^48 (R44). -/
def seqBefore (a b : Nat) : Bool :=
  decide ((b + 2 ^ 48 - a) % 2 ^ 48 ≠ 0) && decide ((b + 2 ^ 48 - a) % 2 ^ 48 < 2 ^ 47)

/-- The lowest number of a window. -/
def lowestSeq (w : List WinEntry) : Option Nat :=
  w.foldl (fun a e => match a with
    | some q => some (if seqBefore e.sseq q then e.sseq else q)
    | none => some e.sseq) none

/-- A window with an entry: the 4,096 highest numbers stay (R46). -/
def enterWindow (w : List WinEntry) (e : WinEntry) : List WinEntry :=
  let w := w.filter (fun x => x.sseq != e.sseq) ++ [e]
  if w.length ≤ 4096 then w
  else
    match lowestSeq w with
    | some q => w.filter (fun x => x.sseq != q)
    | none => w

/-- The window of a source. -/
def State.windowOf (s : State) (src : Nat) : List WinEntry := (tget s.fabric.windows src).getD []

/-- Where the replay windows lie: 288 MiB of HBM, 64 KiB for each of the 4,608 sources (R46; the place is log 71's). -/
def winBase : Nat := 0xBDEE000000

/-- The 16 bytes of an entry (R46; the layout is log 71's). -/
def WinEntry.bytes (e : WinEntry) : List Byte :=
  bytesOf 6 e.sseq
    ++ bytesOf 1 ((match e.st with
      | .inProgress => 1
      | .done => 2
      | .retryLater => 3) + 4 * e.op)
    ++ bytesOf 1 (min 8 e.resp.length) ++ bytesOf 8 (valueOf (e.resp.take 8))

/-- An answer entered in the source's window, at the link endpoint and in HBM, and sent: the entry holds its first 8 bytes, or the address that a
pager-service answer names (R46; log 12). -/
def State.answer (s : State) (q : Packet) (st : WinSt) (op addr : Nat) (data : List Byte) : State :=
  let e : WinEntry := { sseq := q.sseq, st := st, op := op, resp := if op = opPager then bytesOf 8 addr else data.take 8 }
  ({ s with
    mem := mstore s.mem (winBase + 0x10000 * (q.src % 4608) + 16 * (q.sseq % 4096)) e.bytes
    fabric := { s.fabric with windows := tset s.fabric.windows q.src (enterWindow (s.windowOf q.src) e) } }).respond q op addr data

/-- A response given again from its entry (R46): a management answer on the request's channel. -/
def State.respondAgain (s : State) (q : Packet) (e : WinEntry) : State :=
  if e.op = opPager then s.respond q opPager (valueOf e.resp) [] else s.respond q e.op (if q.op = opManagement then q.addr else 0) e.resp

/-- A request at its target (R46): performed and entered, answered again from the window, performed again when it is a read, or dropped. -/
def State.takeIn (s : State) (q : Packet) (perform : State → Reply) : State :=
  let go (s : State) : State :=
    match perform s with
    | .now s op addr data => s.answer q .done op addr data
    | .retry => s.answer q .retryLater opRetryLater 0 []
  let w := s.windowOf q.src
  match w.find? (fun e => e.sseq == q.sseq) with
  | some e =>
    match e.st with
    | .inProgress => s
    | .done => if q.op = opRead then go s else s.respondAgain q e
    | .retryLater => go s
  | none =>
    if w.length < 4096 then go s
    else
      match lowestSeq w with
      | some l => if seqBefore l q.sseq then go s else s
      | none => go s

/-- Whether every earlier request of the source has been performed, as far as its window reaches (R37): each number from the lowest on is there and
done. -/
def State.earlierDone (s : State) (q : Packet) : Bool :=
  let w := s.windowOf q.src
  match lowestSeq w with
  | none => true
  | some l =>
    !seqBefore l q.sseq
      || decide ((w.filter (fun e => decide (e.st = .done) && seqBefore e.sseq q.sseq)).length = (q.sseq + 2 ^ 48 - l) % 2 ^ 48)

/-- Whether a packet is a request under ASID 0 from a host adapter that the enumeration reported (R36). -/
def State.fromHost (s : State) (q : Packet) : Bool := q.asid == 0 && (tget s.fabric.adapters q.src).isSome

/-- A request under ASID 0 that the module does not perform (R36): an error answer, logged. -/
def State.refuseHostReq (s : State) (q : Packet) : Reply := errReply (s.logError 36 q.addr) 0x11

/-- The aperture through which an adapter reaches a range. -/
def State.apertureFor (s : State) (node a n : Nat) : Option Aperture :=
  (s.apertures.find? (fun p => p.2.node == node && decide (p.2.base ≤ a) && decide (a + n ≤ p.2.base + p.2.len))).map (·.2)

end Sys2Proof.Machine
end

