-- ==== Sys2Proof/Machine/Firmware.lean ====
section
/-!
DEFINITION. Cesis firmware, resets, the watchdog ladder, security and attestation (spec 04).
-/

namespace Sys2Proof.Machine

open Sys2Proof

/-! Images, tokens, measurements, the manifest (R75, R76, R90-R92). -/

/-- The key of a header or token against a fuse (R76, R90): the hash matches, the key is not revoked, the signature over bytes 0-1023
verifies. -/
def keyOk (bs : List Byte) (hash : Nat) (revoked : Bool) : Bool :=
  decide (Config.sha512 ((bs.drop 512).take 512) = hash) && !revoked && Config.pssVerify (fld bs 512 512) (bs.take 1024) (fld bs 1024 512)

/-- What R75 and R76 find of an image: 0, or the status 0x0008 or 0x0009 (R79). Where `binding` is false, key revocation and the
anti-rollback counter are not enforced (R88). -/
def imageStatus (fw : Firmware) (bs : List Byte) (binding : Bool) : Nat :=
  let body := bs.drop 1536
  let key := fld bs 40 1
  if bs.length < 1536 ∨ bs.take 8 ≠ ascii "CESIS-G5" ∨ fld bs 8 4 ≠ 1 ∨ 64 < fld bs 12 4 ∨ fld bs 24 8 ≠ body.length ∨ body.length % 4096 ≠ 0
      ∨ 32 * 1048576 - 1536 < body.length ∨ 3 < key ∨ fld bs 41 23 ≠ 0 ∨ fld bs 128 384 ≠ 0
      ∨ !keyOk bs (fw.keyFuse.toList.getD key 0) (binding && fw.keyRevoked.toList.getD key false)
      ∨ Config.sha512 body ≠ fld bs 64 64 then 8
  else if binding ∧ fld bs 12 4 < fw.counter then 9
  else 0

/-- Whether the lifecycle state enforces image verification (R89), and whether rollback and revocation bind at boot (R88). -/
def Firmware.enforced (fw : Firmware) : Bool := decide (fw.lifecycle ≠ .manufacture)
def Firmware.bound (fw : Firmware) : Bool := decide (fw.lifecycle = .production ∨ fw.lifecycle = .rma)

def Lifecycle.code : Lifecycle → Nat
  | .manufacture => 0
  | .provisioned => 1
  | .production => 2
  | .rma => 3

def Debug.code : Debug → Nat
  | .off => 0
  | .observe => 1
  | .invasive => 2

/-- The higher of two debug modes. -/
def Debug.max (a b : Debug) : Debug := if a.code < b.code then b else a

/-- The codes of the slot states in FW_QUERY's RESULT, of which R78 gives the places alone: DESIGN CHOICE, in the order in which R74 names them (log
57). -/
def SlotSt.code : SlotSt → Nat
  | .empty => 0
  | .staged => 1
  | .good => 2
  | .failed => 3

/-- The current owner-key hash: the highest row blown (R90). -/
def Firmware.owner (fw : Firmware) : Option Nat := fw.ownerRows.getLast?

/-- The slot that ACTIVE selects, the other, and a slot changed. -/
def Firmware.slot (fw : Firmware) (b : Bool) : FwSlot := if b then fw.slotB else fw.slotA
def Firmware.setSlot (fw : Firmware) (b : Bool) (x : FwSlot) : Firmware := if b then { fw with slotB := x } else { fw with slotA := x }

/-- A measurement extended (R91). -/
def Firmware.extend (fw : Firmware) (n : Nat) (digest : List Byte) : Firmware :=
  let n := n % 8
  let old := fw.meas.toList.getD n 0
  { fw with meas := fw.meas.set n (Config.sha512 (bytesOf 64 old ++ digest)) (Nat.mod_lt _ (by decide)) }

/-- MEAS3's extension: lifecycle, debug mode and counter (R91). -/
def Firmware.extendMode (fw : Firmware) : Firmware :=
  fw.extend 3 (bytesOf 1 fw.lifecycle.code ++ bytesOf 1 (Debug.code fw.debug) ++ bytesOf 1 fw.counter)

/-- A token checked in full (R90): its kind, its target, and a signer among those allowed. -/
def tokenOk (fw : Firmware) (time : Nat) (bs : List Byte) (kind target : Nat) (signers : List Nat) : Bool :=
  let signer := fld bs 10 1
  bs.take 8 == ascii "G5TOKEN1" && decide (fld bs 8 1 = kind) && decide (fld bs 9 1 = target) && signers.contains signer
    && decide (fld bs 11 5 = 0) && decide (fld bs 136 376 = 0) && decide (fld bs 16 16 = fw.serial) && decide (fld bs 32 32 = fw.nonce)
    && decide (time ≤ fld bs 64 8) && (kind == 3 || decide (fld bs 72 64 = 0))
    && (if signer = 0 then keyOk bs (fw.keyFuse.toList.getD 0 0) (fw.keyRevoked.toList.getD 0 false)
      else match fw.owner with
        | some h => keyOk bs h false
        | none => false)

/-- Where the harts have the image of a slot in memory, 32 MiB for each, and where they enter it (R77, R80; the place is log 11's). -/
def imageAt (b : Bool) : Nat := 0xBF40000000 + (if b then 0x2000000 else 0)
def Firmware.entry (fw : Firmware) (b : Bool) : Nat := imageAt b + fld (fw.slot b).image 32 8

/-- A slot's body loaded where the harts have it. -/
def State.loadImage (s : State) (b : Bool) : State := s.put (imageAt b) ((s.fw.slot b).image.drop 1536)

/-- A hart jumps to ENTRY of a slot's image (R80). -/
def State.enterImage (s : State) (h : Nat) (b : Bool) : State := s.modRv h (fun r => { r with pc := BitVec.ofNat 64 (s.fw.entry b) })

/-- A hart that begins again, in M mode at ENTRY of the image that ACTIVE names. -/
def Firmware.start (fw : Firmware) : Rv := { Rv.reset with pc := BitVec.ofNat 64 (fw.entry fw.activeB) }

/-- Bytes read at a physical address, if memory can give them. -/
def State.physBytes (s : State) (a n : Nat) : Option (List Byte) := (s.readPhys a n).toOption.map (bytesOf n)

/-- A token at an address checked. -/
def State.tokenAt (s : State) (a kind target : Nat) (signers : List Nat) : Bool :=
  match s.physBytes a 1536 with
  | some bs => tokenOk s.fw s.time.toNat bs kind target signers
  | none => false

/-- The width code of a link direction (R92 LINKW). -/
def laneCode (n : Nat) : Nat := if n = 0 then 0 else if n = 1 then 1 else if n = 2 then 2 else 3

def CxlSt.code : CxlSt → Nat
  | .absent => 0
  | .up => 1
  | .unusable => 2
  | .viral => 3

/-- The manifest register block: its 4 KiB (R92). Link n has bits 4n to 4n + 3 of LINKW, transmit in the low two (log 70). -/
def State.manifest (s : State) : List Byte :=
  let fw := s.fw
  let links := ((List.range 32).map (fun n =>
    match tget s.fabric.links n with
    | some l =>
      let lanes (k : Nat) : Nat := laneCode (if l.low then min 1 k else k)
      (lanes l.txLanes + 4 * lanes l.rxLanes) * 16 ^ n
    | none => 0)).sum
  let upTo (n : Nat) (bs : List Byte) : List Byte := padTo n bs
  let b := bytesOf 4 1 ++ bytesOf 1 fw.lifecycle.code ++ bytesOf 1 fw.debugHigh.code ++ bytesOf 1 (bit fw.activeB)
  let b := upTo 0x08 b ++ bytesOf 4 3 ++ bytesOf 4 fw.counter ++ bytesOf 8 fw.version ++ bytesOf 4 fw.svn ++ bytesOf 4 fw.swaps
    ++ bytesOf 2 s.fabric.node
  let b := upTo 0x28 b ++ bytesOf 8 s.time.toNat ++ bytesOf 1 (bit s.clkFail)
  let b := upTo 0x38 b ++ bytesOf 16 links
  let b := upTo 0x48 b ++ s.cxl.toList.flatMap (fun c => bytesOf 1 c.code)
  let b := upTo 0x50 b ++ s.hbmce.toList.flatMap (bytesOf 4) ++ s.hbmue.toList.flatMap (bytesOf 4) ++ s.wdCount.toList.flatMap (bytesOf 4)
    ++ bytesOf 8 3
  let b := upTo 0xD0 b ++ bytesOf 32 fw.nonce
  let b := upTo 0x100 b ++ fw.meas.toList.flatMap (bytesOf 64) ++ bytesOf 64 fw.certHash ++ bytesOf 64 (fw.owner.getD 0)
  upTo 4096 b

/-- REGISTER_WRITE (R6, R54, R55): a write to a register with no row of its own takes effect under its access code. Operands: addr (a physical
address of a register window, or a CSR's index), hart, data, slot (1 for a write of the mailbox's input queue); with n other than 0 it is the
instruction of a hart that `hartStep` describes. A CSR that the hart may not write in its mode, or that is not there, is an illegal-instruction
exception. -/
def execRegisterWrite (s : State) : Out :=
  let i := s.inp
  .next
    (if i.n ≠ 0 then s.park.hartStep s.manifest
    else
      let s := s.park.served
      if i.addr < 0x1000 then
        (match s.hartCsr i.hart i.addr true with
        | none => s.rvIllegal i.hart
        | some _ => s.hartCsrPut i.hart i.addr i.data)
      else (s.windowWrite i.addr i.data).getD s)

/-- READ_MANIFEST (R92, R93): the block as one snapshot. -/
def execReadManifest (s : State) : Out :=
  .next
    (if !s.paramsOk [maskOf 51 12] then s.finish 2 0
    else
      match s.writePhys (s.param 0) s.manifest with
      | .ok s => s.finish 0 0
      | .error _ => s.finish 2 0)

/-! Resets (R77, R87-R89, R91). -/

/-- Every started command of the queues that a test selects is completed with a status. -/
def State.abort (s : State) (p : Nat → Bool) (status : Nat) : State := s.completeCmds (fun q _ => p q) status (fun _ => 0)

/-- The completions that wait on a queue written while the ring has room. -/
def State.flushQueue (s : State) (n : Nat) : Nat → State
  | 0 => s
  | fuel + 1 =>
    match tget s.queues n with
    | none => s
    | some q =>
      match q.ready with
      | [] => s
      | c :: r => if q.stopped ∨ q.full then s else ((s.modQueue n (fun q => { q with ready := r })).writeCompletion n q c).flushQueue n fuel

/-- The firmware state that a module reset leaves: debug mode OFF, but for a pending one, a new nonce, and the measurements zero until the boot
sets them, MEAS2 to MEAS7 for good (R88, R89, R91, log 70). -/
def Firmware.afterReset (fw : Firmware) (draw : Nat) : Firmware :=
  { fw with
    swaps := 0, nonce := Config.nonce draw % 2 ^ 256, debug := fw.pendingDebug, debugHigh := fw.pendingDebug, pendingDebug := .off
    meas := Vector.replicate 8 0, activating := none, swapAt := 0, written := [], taken := [], committing := none, debugOut := [], recovery := false, staging := false, rcvyLen := 0, rcvyBytes := [], bootAt := 0, spdm := []
    idKey := match fw.idKey with
      | .locked => if fw.pendingDebug = .invasive then .locked else .usable
      | .usable => if fw.pendingDebug = .invasive ∧ fw.lifecycle = .production then .locked else .usable
      | k => k }

/-- Whether an activation is past its first step: SWAP reads 1, or the management core swaps itself (R80 steps 2-4). -/
def State.swapping (s : State) : Bool := s.fw.activating.isSome && (s.mbx.swap || decide (8 ≤ s.fw.taken.length))

/-- The slot that a swap goes to: the one ACTIVE does not select. -/
def Firmware.other (fw : Firmware) : FwSlot := fw.slot (!fw.activeB)

/-- The slot of an activation that failed. -/
def Firmware.failOther (fw : Firmware) : Firmware := fw.setSlot (!fw.activeB) { fw.other with st := .failed }

/-- The module reset (R87): started commands complete with 0x0006, an activation past its first step has failed (R81), queues go, HBM is kept,
everything else is as after reset, the boot is due. -/
def State.moduleReset (s : State) : State :=
  let s := s.park.abort (fun _ => true) 6
  let s := if s.swapping then { s with fw := s.fw.failOther } else s
  let s := s.queues.foldl (fun (s : State) (q : Nat × HostQueue) => s.flushQueue q.1 8192) s
  let (d, s) := s.draw
  ({ State.reset with
    agenda := s.agenda, clock := s.clock, ahead := s.ahead, draws := s.draws, inp := s.inp, mem := s.mem, poison := s.poison, soft := s.soft, units := s.units
    expanders := s.expanders, cxlSilent := s.cxlSilent, hostMem := s.hostMem, cmdSeq := s.cmdSeq, ptPool := s.ptPool, fw := s.fw.afterReset d, wdCount := s.wdCount, clkFail := s.clkFail
    fabric := { s.fabric with out := [], mcasts := [], splits := [] } })

/-- The counters of a watchdog rung raised (R92 WDCOUNT). -/
def State.countRung (s : State) (rung : Nat) : State :=
  let i := (rung - 1) % 5
  { s with wdCount := s.wdCount.set i (s.wdCount.toList.getD i 0 + 1) (Nat.mod_lt _ (by decide)) }

/-- MODULE_RESET (R85 rung 5, R87): 100 ms without a kick of the management core, which does not count while P4 has its clocks stopped, reported
first; with ok false, the reset input. -/
def execModuleReset (s : State) : Out :=
  .next
    (if !s.inp.ok then s.moduleReset
    else if (s.hart 8).power ≠ .p0 ∨ s.time.toNat < (s.hart 8).lastKick + 100000000 then s
    else
      let s := s.countRung 5
      let data := bytesOf 2 s.fabric.node ++ bytesOf 8 s.time.toNat ++ s.wdCount.toList.flatMap (bytesOf 4)
      (s.request s.fw.reportNode opManagement 0 2 data .nothing).2.moduleReset)

/-- A boot attempt fails (R77): after three in a row the slot is FAILED and the other one boots; with none left, recovery. -/
def State.bootFail (s : State) : State :=
  let fw := s.fw
  let b := fw.activeB
  let x := fw.slot b
  let dead (y : FwSlot) : Bool := decide (y.st = .failed ∨ y.st = .empty)
  let s := s.logError 77 0
  let fw := { fw with bootAt := s.time.toNat }
  if x.fails + 1 < 3 then ({ s with fw := fw.setSlot b { x with fails := x.fails + 1 } }).later .boot Input.none
  else
    let fw := fw.setSlot b { x with fails := 0, st := .failed }
    if dead (fw.slot (!b)) then { s with fw := { fw with recovery := true } }
    else ({ s with fw := { fw with activeB := !b } }).later .boot Input.none

/-- What a port trains to with what is attached (R16): up without the parts that the module does not support, unusable where the rest cannot
carry CXL.mem. -/
def trainPort : Option Expander → CxlSt × (Nat × Nat)
  | none => (.absent, (0, 0))
  | some e =>
    match [16, 8].find? (fun w => e.widths.contains w), [64, 32].find? (fun r => e.rates.contains r) with
    | some w, some r => if e.type3 ∧ e.mem ∧ e.flit256 ∧ e.direct then (.up, (w, r)) else (.unusable, (0, 0))
    | _, _ => (.unusable, (0, 0))

/-- The CXL ports enumerated, at boot only (R16); a port that is unusable is logged. -/
def State.enumerate (s : State) : State :=
  let s := { s with cxl := s.expanders.map (fun e => (trainPort e).1), cxlTrained := s.expanders.map (fun e => (trainPort e).2) }
  ((List.range 4).filter (fun p => s.cxl.toList.getD p .absent == .unusable)).foldl (fun s p => s.logError 16 p) s

/-- BOOT (R16, R77, R69, R87, R91): the ROM sets MEAS0, verifies the slot that ACTIVE names and loads it into all nine harts; MEAS1 and MEAS3 are
set, the CXL ports are enumerated, the report node is configured, every core runs, READY rises. -/
def execBoot (s : State) : Out :=
  .next
    (let s := s.park
    let s := if s.power = .off then { s with power := .on, time := 0 } else s
    let fw := s.fw
    let x := fw.slot fw.activeB
    let found := imageStatus fw x.image fw.bound
    let rom := fw.meas.set 0 Config.romDigest
    if s.mbx.ready then s
    else if x.st = .empty ∨ x.st = .failed ∨ x.image.length < 1536 ∨ (fw.enforced ∧ found ≠ 0) then
      { s with fw := { fw with meas := rom } }.bootFail
    else
      let s := if found ≠ 0 then s.logError 76 0 else s
      let version := fld x.image 16 8
      let fw := { fw.setSlot fw.activeB { x with fails := 0 } with
        version := version, svn := fld x.image 12 4, meas := rom.set 1 (Config.sha512 x.image), recovery := false, reportNode := s.fabric.report }
      let now := s.time.toNat
      { s.loadImage fw.activeB with
        fw := fw.extendMode
        harts := s.harts.map (fun (h : Hart) => { h with image := version, lastKick := now, wdw := false, handover := 0, rv := fw.start })
        mbx := { s.mbx with ready := true }
        cores := (List.range 512).map (fun c => (c, { (s.getCore c).wipe with cstate := .running, lastCtx := none })) }.enumerate)

/-- BOOT_TIMEOUT (R77): READY has not risen 5 s after power-good. -/
def execBootTimeout (s : State) : Out :=
  .next (if s.mbx.ready ∨ s.fw.recovery ∨ s.power = .off ∨ s.time.toNat < s.fw.bootAt + 5000000000 then s else s.bootFail)

/-- POWER_LOSS (R26, R74): OFF keeps the fuses and the firmware slots only; what is attached to the module stays attached. -/
def execPowerLoss (s : State) : Out :=
  .next
    (let s := s.park
    let (d, s) := s.draw
    { State.reset with
      agenda := s.agenda, work := [], clock := s.clock, ahead := s.ahead, draws := s.draws, inp := s.inp, hostMem := s.hostMem, power := .off
      expanders := s.expanders, cxlSilent := s.cxlSilent, cmdSeq := s.cmdSeq
      fw := { ({ s.fw with pendingDebug := .off }).afterReset d with version := 0, svn := 0, reportNode := 0 } })

/-! Firmware commands (R78-R84). -/

/-- Whether FW_ACTIVATE or FW_COMMIT runs (R78). -/
def State.fwBusy (s : State) : Bool := s.fw.activating.isSome || s.fw.committing.isSome

/-- FW_STAGE (R79): the image is written to the slot that ACTIVE does not select, and verified there. -/
def execFwStage (s : State) : Out :=
  .next
    (let b := decide (s.param 2 = 1)
    let n := s.param 1
    if s.fwBusy then s.finish 0x0C 0
    else if !s.paramsOk [maskOf 63 0, maskOf 63 0, 1] ∨ b = s.fw.activeB ∨ n = 0 ∨ 32 * 1048576 < n then s.finish 2 0
    else
      match s.physBytes (s.param 0) n with
      | none => (s.countRead (s.param 0) n).finish 2 0
      | some bs =>
        let s := s.countRead (s.param 0) n
        let found := imageStatus s.fw bs true
        let s := if found ≠ 0 then s.logError 76 0 else s
        if s.fw.enforced ∧ found ≠ 0 then { s with fw := s.fw.setSlot b FwSlot.blank }.finish found 0
        else { s with fw := s.fw.setSlot b { st := .staged, image := bs, fails := 0 } }.finish 0 0)

/-- FW_ACTIVATE (R80): the command starts, and while commands go on the STAGED slot is verified again and loaded; with ok false that is done, and
SWAP rises and each command processor's handover is due. Operands: the command's, ok. -/
def execFwActivate (s : State) : Out :=
  .next
    (let i := s.inp
    let x := s.fw.other
    if i.ok then
      (if s.fwBusy then s.finish 0x0C 0
      else if !s.paramsOk [] ∨ x.st ≠ .staged then s.finish 2 0
      else { s with fw := { s.fw with activating := some (i.queue, i.n), written := [], taken := [] } }.later .fwActivate { i with ok := false })
    else if s.fw.activating ≠ some (i.queue, i.n) ∨ s.mbx.swap then s
    else if s.fw.enforced ∧ imageStatus s.fw x.image true ≠ 0 then
      { s with fw := { s.fw.failOther with activating := none } }.finish 0x0A 0
    else
      let s := ({ s with fw := { s.fw with swapAt := s.time.toNat } }.loadImage (!s.fw.activeB)).pauseMbx
      (List.range 8).foldl (fun s h => s.later .cpHandover { Input.none with hart := h }) s)

/-- The command of the activation in progress completes. -/
def State.endActivate (s : State) (status : Nat) : State :=
  match s.fw.activating with
  | none => s
  | some (q, n) =>
    let i := s.inp
    let s := ({ s with inp := { i with queue := q, n := n }, fw := { s.fw with activating := none, written := [], taken := [] } }).finish status 0
    { s with inp := i }

/-- A hart's handover block (R83). -/
def State.handoverBlock (s : State) (h version state : Nat) : List Byte :=
  let queues := ((List.range 8).map (fun k =>
    match (if h < 8 then tget s.queues (h + 8 * k) else none) with
    | some q => q.handover (h + 8 * k)
    | none => List.replicate 64 0)).flatten
  padTo 4096 (s.handoverHead h version state ++ queues ++ s.handoverTail h)

/-- CP_HANDOVER (R80, R83): a hart's old image writes its handover block and tables with STATE 0 and jumps to the new image's ENTRY; then, in a second step,
the new image writes STATE 1. With the eighth command processor SWAP clears and the management core swaps itself the same way; then ACTIVE names
the slot, which reads GOOD, MEAS2 is extended and the command completes. Operand: hart. -/
def execCpHandover (s : State) : Out :=
  .next
    (let h := s.inp.hart
    let x := s.fw.other
    let version := fld x.image 16 8
    if 8 < h ∨ !s.swapping ∨ s.fw.taken.contains h ∨ (h = 8 ∧ s.mbx.swap) then s
    else if !s.fw.written.contains h then
      let s := ((s.put (handoverAt h) (s.handoverBlock h version 0)).putTables h).enterImage h (!s.fw.activeB)
      ({ s with fw := { s.fw with written := ninsert s.fw.written h } }).later .cpHandover { Input.none with hart := h }
    else
      let s := s.poke (handoverAt h + 32) 8 1
      let s := s.modHart h (fun t => { t with handover := 1, image := version, lastKick := s.time.toNat, wdw := false })
      let s := { s with fw := { s.fw with taken := ninsert s.fw.taken h } }
      if h = 8 then
        let b := !s.fw.activeB
        let fw := (s.fw.setSlot b { x with st := .good }).extend 2 (bytesOf 64 (Config.sha512 x.image))
        ({ s with fw := { fw with activeB := b, version := version, svn := fld x.image 12 4, swaps := fw.swaps + 1 } }).endActivate 0
      else if s.fw.taken.length < 8 then s
      else s.resumeMbx.later .cpHandover { Input.none with hart := 8 })

/-- An activation that fails (R81): every hart is back on the previous image, one that had left it at its ENTRY, with STATE 2, which restarts its 10 ms timer (R87), the slot is
FAILED, SWAP clears. -/
def State.failSwap (s : State) : State :=
  if !s.swapping then s
  else
    let s := (List.range 8).foldl (fun (s : State) h =>
      let s := if s.fw.written.contains h then s.enterImage h s.fw.activeB else s
      (s.poke (handoverAt h + 32) 8 2).modHart h (fun t => { t with handover := 2, image := s.fw.version, lastKick := s.time.toNat })) s
    (({ s with fw := s.fw.failOther }).resumeMbx).endActivate 0x0A

/-- SWAP_TIMEOUT (R81): a command processor has not written STATE 1 within 180 µs of SWAP rising. -/
def execSwapTimeout (s : State) : Out :=
  .next (if !s.swapping ∨ !s.mbx.swap ∨ s.time.toNat < s.fw.swapAt + 180000 then s else s.failSwap)

/-- FW_COMMIT (R84): one fuse is blown at a time until the counter, of 64 fuses at most, has reached the running image's SVN; a loss of power
between two leaves it where it stands. With ok false it is the command's own continuation. -/
def execFwCommit (s : State) : Out :=
  .next
    (let i := s.inp
    let fw := s.fw
    if i.ok ∧ s.fwBusy then s.finish 0x0C 0
    else if i.ok ∧ !s.paramsOk [] then s.finish 2 0
    else if !i.ok ∧ fw.committing ≠ some (i.queue, i.n) then s
    else if fw.counter < min 64 fw.svn then
      { s with fw := { fw with counter := fw.counter + 1, committing := some (i.queue, i.n) } }.later .fwCommit { i with ok := false }
    else { s with fw := { fw with committing := none } }.finish 0 fw.counter)

/-- The result of FW_QUERY (R78). -/
def Firmware.query (fw : Firmware) : Nat := fw.slotA.st.code + 256 * fw.slotB.st.code + 65536 * bit fw.activeB + 2 ^ 24 * (fw.counter % 256)

/-- FW_QUERY (R78). -/
def execFwQuery (s : State) : Out := .next (if !s.paramsOk [] then s.finish 2 0 else s.finish 0 s.fw.query)

/-! Lifecycle, debug, owner, measurements (R88-R91). -/

/-- A core whose SRAM is zeroised: its memories, registers, records, steps and tables; its control registers are no SRAM. -/
def Core.zeroised (k : Core) : Core :=
  { Core.reset with
    cstate := k.cstate, cerrVal := k.cerrVal, cerrBusy := k.cerrBusy, vlcap := k.vlcap, lpart := k.lpart, detm := k.detm, asid := k.asid
    gangEn := k.gangEn, home := k.home, cycle := k.cycle, power := k.power, ctx := k.ctx, dseq := k.dseq, accepted := k.accepted, moor := k.moor }

/-- HBM and all SRAM zeroised (R88, R89): the memory of the stacks, with what contexts have there of cores, signals and fault records, the cores, the
slices and the harbourmasters' queues. CXL memory is neither. -/
def State.zeroise (s : State) : State :=
  let s := s.park
  { s with
    mem := mclear s.mem 0 hbmEnd
    poison := s.poison.filter (fun g => decide (hbmEnd ≤ 16 * g))
    soft := s.soft.filter (fun g => decide (hbmEnd ≤ 16 * g))
    units := s.units.filter (fun u => decide (hbmEnd ≤ u.1))
    replicas := []
    homeOps := []
    publishes := []
    fronts := []
    fabric := { s.fabric with groups := [] }
    harbours := Vector.replicate 4 Harbour.reset
    contexts := s.contexts.map (fun x =>
      (x.1, { x.2 with saved := x.2.saved.map (fun p => (p.1, p.2.zeroised)), siglog := [], pendingFaults := [] }))
    cores := s.cores.map (fun p => (p.1, p.2.zeroised)) }

/-- DEBUG_UNLOCK (R88-R90). -/
def execDebugUnlock (s : State) : Out :=
  .next
    (let t1 := s.param 0
    let mode := s.param 1
    let t2 := s.param 2
    let fw := s.fw
    if !s.paramsOk [maskOf 63 0, 3, maskOf 63 0] ∨ mode = 0 ∨ mode = 3 then s.finish 2 0
    else
      let m : Debug := if mode = 1 then .observe else .invasive
      let s := if fw.lifecycle = .provisioned ∨ fw.lifecycle = .production then s.countRead t1 1536 else s
      let s := if fw.lifecycle = .production ∧ mode = 2 then s.countRead t2 1536 else s
      let ok : Bool := match fw.lifecycle with
        | .manufacture | .rma => true
        | .provisioned => s.tokenAt t1 1 mode [0]
        | .production => if mode = 1 then s.tokenAt t1 1 1 [0, 1] else s.tokenAt t1 1 2 [0] && s.tokenAt t2 1 2 [1]
      if !ok then s.finish 0x0B 0
      else if fw.lifecycle = .production ∧ mode = 2 then
        (({ s with fw := { fw with pendingDebug := .invasive } }.finish 0 0).zeroise).moduleReset
      else
        let fw := { fw with
          debug := m
          debugHigh := fw.debugHigh.max m
          idKey := if mode = 2 ∧ fw.lifecycle = Lifecycle.provisioned then .locked else fw.idKey }
        { s with fw := fw.extendMode }.finish 0 0)

/-- LIFECYCLE (R88). -/
def execLifecycle (s : State) : Out :=
  .next
    (let target := s.param 0
    let tok := s.param 1
    if !s.paramsOk [3, maskOf 63 0] then s.finish 2 0
    else
      match s.fw.lifecycle with
      | .manufacture =>
        if target ≠ 1 then s.finish 2 0
        else
          let (d, s) := s.draw
          let key : IdKey := if s.fw.debug = .invasive then .locked else .usable
          { s with fw := { s.fw with lifecycle := .provisioned, idKey := key, certHash := Config.certHash d % 2 ^ 512 } }.finish 0 0
      | .provisioned =>
        if target ≠ 2 then s.finish 2 0
        else
          let s := s.countRead tok 1536
          if !s.tokenAt tok 2 2 [0] then s.finish 0x0B 0
          else { s with fw := { s.fw with lifecycle := .production } }.finish 0 0
      | .production =>
        if target ≠ 3 then s.finish 2 0
        else
          let s := s.countRead tok 1536
          if !s.tokenAt tok 2 3 [0] then s.finish 0x0B 0
          else
          let s := s.zeroise
          let fw := { s.fw with lifecycle := .rma, idKey := .destroyed, slotA := FwSlot.blank, slotB := FwSlot.blank }
          { s with fw := fw }.finish 0 0
      | .rma => s.finish 2 0)

/-- MEASURE_EXTEND (R91). -/
def execMeasureExtend (s : State) : Out :=
  .next
    (let n := s.param 0
    if !s.paramsOk [7, maskOf 63 0] ∨ n < 4 then s.finish 2 0
    else
      let s := s.countRead (s.param 1) 64
      match s.physBytes (s.param 1) 64 with
      | none => s.finish 2 0
      | some bs => { s with fw := s.fw.extend n bs }.finish 0 0)

/-- OWNER_SET (R90). -/
def execOwnerSet (s : State) : Out :=
  .next
    (let fw := s.fw
    if !s.paramsOk [maskOf 63 0, maskOf 63 0] ∨ fw.lifecycle = .manufacture ∨ fw.lifecycle = .rma then s.finish 2 0
    else if 4 ≤ fw.ownerRows.length then s.finish 5 0
    else
      let s := (s.countRead (s.param 0) 1536).countRead (s.param 1) 512
      match s.physBytes (s.param 0) 1536, s.physBytes (s.param 1) 512 with
      | some tok, some key =>
        let h := Config.sha512 key
        if tokenOk fw s.time.toNat tok 3 0 [0, 1] ∧ fld tok 72 64 = h then
          { s with fw := { fw with ownerRows := fw.ownerRows ++ [h] } }.finish 0 0
        else s.finish 0x0B 0
      | _, _ => s.finish 0x0B 0)

/-! The watchdog ladder (R85-R87). -/

/-- STEP_BUDGET_EXPIRY (R85 rung 1, R86): a step whose resident cycles have reached its stage's budget is killed; its strand's record is
queued killed, with cause 0x50, and reported; a convoy in execution goes on first. Operands: core, slot (the descriptor cell), n (units that
its matrix command performs before it stops). -/
def execStepBudgetExpiry (s : State) : Out :=
  let i := s.inp
  let c := i.core
  let cell := i.slot
  .next
    (let s := s.park
    let k := s.getCore c
    let st := k.step cell
    let budget := (s.stageOf st).budget
    if !st.live ∨ budget = 0 ∨ st.rescyc < budget then s
    else
      match (k.slots.find? (fun p => p.2.cell == cell && p.2.running)).orElse (fun _ => k.slots.find? (fun p => p.2.cell == cell)) with
      | none => s
      | some (sl, _) =>
        let s := s.focus c sl
        if !s.core.mayStop s.slot s.strand then { s with turn := 4 }
        else
        let ctx := k.ctx.getD 64
        let (r, s) := s.stopStrand .fault { TrapBlock.none with cause := 0x50, killed := true } i.n
        let who := (s.launchOf st).bind (·.who)
        let s := s.park.killStep ctx c cell
        let before := ((tget s.contexts ctx).map (·.pendingFaults)).getD []
        let s := (s.queueFault c ctx r who).countRung 1
        s.reportKilled ctx who before)

/-- The heartbeat interval of a launch in nanoseconds (R99). -/
def Launch.beat (l : Launch) : Nat := (if l.hbint = 0 then 100000 else l.hbint) * 1000

/-- HEARTBEAT_EXPIRY (R85 rung 2): a context with steps outstanding on a die, resident there, and no progress for its interval is pre-empted there and queued
again, behind every context of its priority. Operands: die, n (the context). -/
def execHeartbeatExpiry (s : State) : Out :=
  let d := s.inp.die
  let n := s.inp.n
  .next
    (let s := s.park
    let ls := ((s.harbour d).launches.filter (fun p => p.2.ctx == n && decide (p.2.st = .active))).map (·.2)
    let steps := (s.coresHolding n).any (fun c => dieOf c == d && (s.getCore c).steps.any (·.2.live))
    let late := ls.all (fun l => decide (l.progress + l.beat ≤ s.time.toNat))
    if (tget s.contexts n).isNone ∨ ls.isEmpty ∨ !steps ∨ !late then s
    else ((((s.logError 85 n).countRung 2).swapOut n [d]).swapDone n).later .resume { Input.none with n := n, die := d, ok := false })

/-- WATCHDOG_WARNING (R85): 5 ms without a kick raises WDW on a hart, whose die is awake. Operand: hart. -/
def execWatchdogWarning (s : State) : Out :=
  let h := s.inp.hart % 8
  .next
    (if s.dieSleep.contains (h / 2) ∨ s.time.toNat < (s.hart h).lastKick + 5000000 then s else s.modHart h (fun t => { t with wdw := true }))

/-- WARM_RESTART (R85 rung 3, R87): 10 ms without a kick restarts a hart from its image in memory, its queues kept; the second miss within
1 s of a restart is rung 4. A hart that is mid-swap, or on a die in P3, is exempt. The restarted hart begins again in M mode at the image's ENTRY. Operand: hart. -/
def execWarmRestart (s : State) : Out :=
  let h := s.inp.hart % 8
  .next
    (let t := s.hart h
    let now := s.time.toNat
    if s.dieSleep.contains (h / 2) ∨ now < t.lastKick + 10000000 ∨ (s.mbx.swap ∧ !s.fw.taken.contains h) then s
    else
      let again := decide (t.restarts ≠ 0) && decide (now ≤ t.restartAt + 1000000000)
      if again ∧ 2 ≤ t.restarts then s.soon .dieReset { Input.none with die := h / 2 }
      else
        let s := s.countRung 3
        let s := s.modHart h (fun t => { t with restarts := if again then t.restarts + 1 else 1, restartAt := now, lastKick := now, wdw := false, rv := s.fw.start })
        s.queues.foldl (fun (s : State) (q : Nat × HostQueue) =>
          if q.1 % 8 = h then (s.later .submissionFetch { Input.none with queue := q.1 }).later .commandCompletion { Input.none with queue := q.1 }
          else s) s)

/-- A core of a die as its reset leaves it: its steps killed, the core in reset, its privileged registers, CERR and home map at their reset
values (log 70). Signals that its inbox held are dropped (R51, R87). -/
def State.resetCore (s : State) (c : Nat) : State :=
  let k := s.getCore c
  let s := k.steps.foldl (fun (s : State) (p : Nat × Step) => s.killStep (k.ctx.getD 64) c p.1) s
  let k := s.getCore c
  s.setCore c { Core.reset with cycle := k.cycle, dseq := k.dseq, accepted := k.accepted, pagers := k.pagers, pagerOrder := k.pagerOrder, started := k.started, halted := k.halted }

/-- The copies of a die's cores that contexts have saved, gone with the steps in them (R87, R98). -/
def State.dropSaved (s : State) (d : Nat) : State :=
  let of_ (x : Nat × Context) : List (Nat × Nat × Nat) :=
    (x.2.saved.filter (fun p => dieOf p.1 == d)).flatMap (fun p => (p.2.steps.filter (·.2.live)).map (fun q => (x.1, p.1, q.1)))
  let s := (s.contexts.flatMap of_).foldl (fun s t => s.killStep t.1 t.2.1 t.2.2) s
  { s with contexts := s.contexts.map (fun x =>
    (x.1, { x.2 with saved := x.2.saved.filter (fun p => dieOf p.1 != d), siglog := x.2.siglog.filter (fun p => dieOf p.1 != d) })) }

/-- DIE_RESET (R85 rung 4, R73, R87, R98): every step on the die is killed, started commands of its queues complete with 0x0006, an activation past
its first step has failed, the harbourmaster's submission queue and launches are discarded, HALT reads 1; then, with ok false, Cesis resumes every
core and the die serves again. Operands: die, ok. -/
def execDieReset (s : State) : Out :=
  let d := s.inp.die % 4
  .next
    (let s := s.park
    let mine := (List.range 128).map (128 * d + ·)
    if s.inp.ok then
      let s := s.countRung 4
      let s := (mine.foldl (fun s c => s.resetCore c) s).dropSaved d
      let s := (s.abort (fun q => q % 8 / 2 == d) 6).failSwap
      let s := if d = 0 then { s with fw := { s.fw with activating := none, committing := none } } else s
      let s := { s with
        mbx := { s.mbx with halt := true }
        haltDies := ninsert s.haltDies d
        replicas := s.replicas.filter (fun r => r.die != d)
        dieSleep := nremove s.dieSleep d }
      let s := mine.foldl (fun s c => s.releasePort c) s
      (s.modHarbour d (fun _ => Harbour.reset)).later .dieReset { s.inp with ok := false }
    else
      let s := mine.foldl (fun s c => s.modCore c (fun k => if k.cstate = .inReset then { k.wipe with cstate := .running } else k)) s
      let now := s.time.toNat
      let up (t : Hart) : Hart := { t with restarts := 0, lastKick := now, wdw := false, rv := s.fw.start }
      let left := nremove s.haltDies d
      let s := { s with mbx := { s.mbx with halt := !left.isEmpty }, haltDies := left }
      let s := (s.modHart (2 * d) up).modHart (2 * d + 1) up
      s.queues.foldl (fun (s : State) (q : Nat × HostQueue) =>
        if q.1 % 8 / 2 = d then s.later .submissionFetch { Input.none with queue := q.1 } else s) s)

end Sys2Proof.Machine
end

