-- ==== Sys2Proof/Machine/Requests.lean ====
section
/-!
DEFINITION. Packets that arrive (spec 01, 02): requests performed at this module, and responses to its own requests.
-/

namespace Sys2Proof.Machine

open Sys2Proof

/-- A packet is acted on while the module is awake; in P4 it waits at the port and wakes the module, die 0 and core 0 of it (R28, log 70). -/
def State.whenAwake (s : State) (what : Instr) (f : State → State) : State :=
  let s := s.park
  if s.power = .p4 then (s.soon what s.inp).soon .coreWake Input.none else f s

/-! Translation at the home (R42). -/

/-- The pieces of a request's range by this module's own tables for its ASID. -/
def State.homeFind (s : State) (asid : Nat) (a : Access) : Nat → Nat → Nat → Found
  | 0, _, _ => .ok []
  | fuel + 1, va, n =>
    if n = 0 then .ok []
    else if 2 ^ 57 ≤ va then .prot 0x11 va
    else
      let len := min n (0x10000 - va % 0x10000)
      match s.walk asid va with
      | .miss => .miss va
      | .bad => .prot 0x11 va
      | .dead => .prot 0x40 va
      | .leaf l e =>
        if !admits a e then .prot 0x11 va
        else
          let pa := leafAddr e + va % pageSize l
          let p : Piece := if leafClass e = 3 then .host (0x1000 + leafHnode e) pa len
            else .here pa len (leafClass e) (2 ^ (8 + leafSegl e)) (leafAddr e)
          match s.homeFind asid a fuel (va + len) (n - len) with
          | .ok ps => .ok (p :: ps)
          | r => r

/-- The pager future of this module that another module's access waits on: one of core 0's, with its fault record in the queue of the
context that has the ASID (R42, R176). -/
def State.homeMiss (s : State) (asid va : Nat) : Nat × State :=
  let k := s.getCore 0
  let page := va / 0x10000
  let use (j : Nat) : PagerUse := (tget k.pagers j).getD { inUse := false, asid := 0, page := 0, order := 0 }
  match (List.range 16).find? (fun j => (use j).inUse && (use j).asid == asid && (use j).page == page) with
  | some j => (pagerAddr 0 j, s)
  | none =>
    match (List.range 16).find? (fun j => !(use j).inUse) with
    | some j =>
      let s := s.setCore 0
        { k with
          pagers := tset k.pagers j { inUse := true, asid := asid, page := page, order := k.pagerOrder }
          pagerOrder := k.pagerOrder + 1 }
      let r : Record :=
        { s.blankRecord .fault 0 with
          seqB := false, det := false, cell := 0, stepAddr := 0, regs := Regs.fresh, vlenbl := Nat.log2 k.vlenb, prio := 0
          trap := { TrapBlock.none with
            cause := 0x10, async := true, faddr := BitVec.ofNat 64 va, asid := asid, when_ := s.time.toNat, fut := pagerAddr 0 j } }
      (pagerAddr 0 j,
        match s.contexts.find? (fun p => p.2.asid.toNat == asid) with
        | some (n, _) => s.queueFault 0 n r
        | none => s)
    | none =>
      let j := (List.range 16).foldl (fun b i => if (use i).order < (use b).order then i else b) 0
      (pagerAddr 0 j, s)

/-- A peer's request: its range translated here, a miss answered with a pager future, a refusal with its cause (R42, R163). -/
def State.homeAccess (s : State) (q : Packet) (a : Access) (n : Nat) (f : State → List Piece → Reply) : Reply :=
  if q.asid = 0 then s.refuseHostReq q
  else
    let s := s.countWalk q.asid q.addr
    match s.homeFind q.asid a (n / 0x10000 + 2) q.addr n with
    | .miss va =>
      let (pa, s) := s.homeMiss q.asid va
      .now s opPager pa []
    | .prot c _ => errReply s c
    | .ok ps => f s ps

/-- The data bytes of a packet as numbers of 8 bytes. -/
def Packet.word (q : Packet) (k : Nat) : Nat := valueOf ((q.data.drop (8 * k)).take 8)

/-! Requests (R33, R36, R37, R46, R434). -/

/-- Whether a range lies in the mailbox region. -/
def inMbx (a : Nat) : Bool := decide (mbxBase ≤ a) && decide (a < mbxBase + 0x10000)

/-- READ_REQUEST (R32, R36, R46, R434). Operand: pkt; its first 8 data bytes hold the count, at most the 1,024 that a packet carries, and
for an acquire 2^32 more: one is answered by a page of the ordinary or host class alone (R382, log 12). -/
def execReadRequest (s : State) : Out :=
  let q := s.inp.pkt
  let n := q.word 0 % pktAcquire
  .next
    (s.whenAwake .readRequest (fun s => s.takeIn q (fun s =>
      if s.fromHost q then
        if inMbx q.addr then
          if n = 8 ∧ q.addr % 8 = 0 then .now s opData 0 (bytesOf 8 (s.readMbx (q.addr - mbxBase))) else errReply s 0x11
        else
          match s.apertureFor q.src q.addr n with
          | none => s.refuseHostReq q
          | some _ =>
            if 1024 < n then errReply s 0x11
            else
            let s := s.countRead q.addr n
            match s.readPhys q.addr n with
            | .ok v => .now s opData 0 (bytesOf n v)
            | .error c => errReply (s.logError 434 q.addr) c
      else if q.asid = 0 then s.refuseHostReq q
      else if 1024 < n then errReply s 0x11
      else
        s.homeAccess q .load n (fun s ps =>
          if pktAcquire ≤ q.word 0 ∧ !ps.all ordinaryOrHost then errReply s 0x11
          else
          match (s.countPieces ps).readPieces ps with
          | .ok v => .now (s.countPieces ps) opData 0 (bytesOf n v)
          | .error c => errReply (s.countPieces ps) c))))

/-- A host's write to the mailbox region: an aligned 8-byte write, queued, or tried again where the input queue is full (R61, R63) or an earlier request
of the adapter has not yet been performed (R37). -/
def State.mbxReply (s : State) (q : Packet) : Reply :=
  if q.data.length ≠ 8 ∨ q.addr % 8 ≠ 0 then errReply s 0x11
  else if !s.earlierDone q then .retry
  else
    match s.mbxArrive { off := q.addr - mbxBase, data := BitVec.ofNat 64 (valueOf q.data) } with
    | some s => ackReply s
    | none => .retry

/-- MAILBOX_WRITE (R61, R63, R37). Operand: pkt. -/
def execMailboxWrite (s : State) : Out :=
  let q := s.inp.pkt
  .next
    (s.whenAwake .mailboxWrite (fun s => s.takeIn q (fun s =>
      if !s.fromHost q ∨ !inMbx q.addr then s.refuseHostReq q else s.mbxReply q)))

/-- A piece cut for the check of R203: bytes of append units of a packet that holds more than one element, at sectors; any other piece
stays whole (log 12). -/
def Piece.cuts (total : Nat) : Piece → List Piece
  | .here pa n cls unit page =>
    if cls = 1 ∧ 8 < total then
      (sectorsOf pa n).map (fun g => .here (max pa (16 * g)) (min (pa + n) (16 * g + 16) - max pa (16 * g)) cls unit page)
    else [.here pa n cls unit page]
  | p => [p]

/-- Pieces written in order, each for itself: the state, the bytes refused, and the first cause or 0. -/
def State.writeEach (s : State) (bs : List Byte) : List Piece → State × Nat × Nat
  | [] => (s, 0, 0)
  | p :: r =>
    match s.writePiece (bs.take p.size) p with
    | .ok s => s.writeEach (bs.drop p.size) r
    | .error c =>
      let (s, n, _) := s.writeEach (bs.drop p.size) r
      (s, n + p.size, c)

/-- WRITE_REQUEST (R36, R37, R46, R203, R434): an error answer to a peer holds its cause, and in seven bytes more how many bytes were
refused (log 12). Operand: pkt. -/
def execWriteRequest (s : State) : Out :=
  let q := s.inp.pkt
  .next
    (s.whenAwake .writeRequest (fun s => s.takeIn q (fun s =>
      if s.fromHost q then
        if inMbx q.addr then s.mbxReply q
        else
          match s.apertureFor q.src q.addr q.data.length with
          | none => s.refuseHostReq q
          | some a =>
            if !a.rw then s.refuseHostReq q
            else
              match s.writePhys q.addr q.data with
              | .ok s => ackReply s
              | .error c => errReply (s.logError 434 q.addr) c
      else
        s.homeAccess q .store q.data.length (fun s ps =>
          match s.writeEach q.data (ps.flatMap (Piece.cuts q.data.length)) with
          | (s, 0, _) => ackReply s
          | (s, n, c) => .now s opError 0 (bytesOf 1 c ++ bytesOf 7 n)))))

/-- A future named in a packet, by its address and its home node; 0 for none. -/
def State.packetFut (s : State) (asid va node : Nat) : Option Nat :=
  if va = 0 then none
  else if node ≠ s.fabric.node then some ((node + 1) * 2 ^ 60 + va)
  else s.physOf asid va

/-- A released word's write at its home (R382): a page of the ordinary or host class takes it. -/
def State.releaseReply (s : State) (q : Packet) (n v : Nat) : Reply :=
  s.homeAccess q .store n (fun s ps =>
    match ps with
    | [p] =>
      if !ordinaryOrHost p then errReply s 0x11
      else
        (match s.writePiece (bytesOf n v) p with
        | .ok s => ackReply s
        | .error c => errReply s c)
    | _ => errReply s 0x11)

/-- An atomic packet performed at its home (R188, R209), by the code in its first 8 data bytes: an AOP of R289, the same of a reduction, which an
ordinary page alone takes (R377), or a registration, resolve, seal, publication or release (log 12). -/
def State.atomicReply (s : State) (q : Packet) : Reply :=
  let code := q.word 0
  if code = pktRegister then
    s.homeAccess q .object 16 (fun s ps =>
      match ps with
      | [.here pa _ _ _ _] =>
        let w := s.peek pa 8
        let t := s.countRead pa 16
        if s.bad pa 16 then errReply t 0x40
        else if futSt w = 2 then .now t opData 0 (bytesOf 8 (s.peek (pa + 8) 8))
        else if futSt w = 3 then errReply t 0x11
        else
          let (old, s) := s.futRegister pa (q.word 1) (q.asid + 2 ^ 16 * q.addr)
          .now s opAck 0 (bytesOf 8 old)
      | _ => errReply s 0x11)
  else if code = pktResolve then
    s.homeAccess q .object 16 (fun s ps =>
      match ps with
      | [.here pa _ _ _ _] =>
        if s.bad pa 16 then errReply (s.countRead pa 16) 0x40
        else
          match s.futResolve pa (if q.word 2 = 0 then some (BitVec.ofNat 64 (q.word 1)) else none) with
          | (s, true) => ackReply s
          | (s, false) => .now s opError 0 (bytesOf 1 0x30 ++ bytesOf 7 pa)
      | _ => errReply s 0x11)
  else if code = pktSeal then
    s.homeAccess q .append 1 (fun s ps =>
      match ps with
      | [.here pa _ _ unit _] =>
        if s.portDown pa then errReply s 0x40
        else
          let (t, s) := s.unitSeal (pa / unit * unit) unit (s.packetFut q.asid (q.word 1) (q.word 2))
            (foreignCore q.src q.asid (q.word 3 % 512)) (q.word 3 / 512) (BitVec.ofNat 64 (q.word 4))
          .now s opData 0 (bytesOf 8 t)
      | _ => errReply s 0x11)
  else if code = pktPublish then
    s.homeAccess q .object 32 (fun s ps =>
      match ps with
      | [.here pa _ _ _ _] =>
        ackReply (s.publishAt
          { pa := pa, asid := q.asid, fut := s.packetFut q.asid (q.word 1) (q.word 2), core := foreignCore q.src q.asid (q.word 3 % 512)
            cell := q.word 3 / 512, pc := BitVec.ofNat 64 (q.word 4) })
      | _ => errReply s 0x11)
  else if code = pktRelease then s.releaseReply q (q.word 1 % 16) (q.word 2)
  else
    match aopOf (code % pktReduce) with
    | none =>
      if q.asid = 0 ∧ (!s.fromHost q ∨ (s.apertureFor q.src q.addr 1).isNone) then s.refuseHostReq q else errReply s 0x11
    | some (op, n) =>
      let x := q.word 1 % 2 ^ (8 * n)
      let e := q.word 2 % 2 ^ (8 * n)
      if s.fromHost q then
        match s.apertureFor q.src q.addr n with
        | none => s.refuseHostReq q
        | some a =>
          if !a.rw then s.refuseHostReq q
          else if q.addr % n ≠ 0 then errReply s 0x11
          else
            match s.atomicPhys q.addr n (fun old => op.apply n old x e) with
            | .ok (old, s) => .now s opData 0 (bytesOf 8 old)
            | .error c => errReply s c
      else if q.asid ≠ 0 ∧ q.addr % n ≠ 0 then errReply s 0x11
      else
        s.homeAccess q (if code < pktReduce then .atomic else .reduce) n (fun s ps =>
          match ps with
          | [.here pa _ _ _ _] =>
            (match s.atomicPhys pa n (fun old => op.apply n old x e) with
            | .ok (old, s) => .now s opData 0 (bytesOf 8 old)
            | .error c => errReply s c)
          | [.host node ha _] =>
            (match s.atomicHost node ha n (fun old => op.apply n old x e) with
            | .ok (old, s) => .now s opData 0 (bytesOf 8 old)
            | .error c => errReply s c)
          | _ => errReply s 0x11)

/-- ATOMIC_REQUEST (R46, R188). Operand: pkt. -/
def execAtomicRequest (s : State) : Out :=
  let q := s.inp.pkt
  .next (s.whenAwake .atomicRequest (fun s => s.takeIn q (fun s => s.atomicReply q)))

/-- APPEND_RESERVATION (R202). Operand: pkt; its first 8 data bytes hold the count. -/
def execAppendReservation (s : State) : Out :=
  let q := s.inp.pkt
  .next
    (s.whenAwake .appendReservation (fun s => s.takeIn q (fun s =>
      s.homeAccess q .append 1 (fun s ps =>
        match ps with
        | [.here pa _ _ unit _] =>
          if s.portDown pa then errReply s 0x40
          else
            let (v, s) := s.unitAppend (pa / unit * unit) unit (q.word 0)
            .now s opData 0 (bytesOf 8 v)
        | _ => errReply s 0x11))))

/-- A message or multicast is acted on once the core that it names has woken (R28). -/
def State.coreAwake (s : State) (core : Nat) (what : Instr) (f : State → State) : State :=
  if core < 512 ∧ s.asleep core then (s.soon what s.inp).soon .coreWake { Input.none with core := core } else f s

/-- MESSAGE_APPEND (R162, R36). Operand: pkt; ADDR holds the core and the queue's address, the data is the message. -/
def execMessageAppend (s : State) : Out :=
  let q := s.inp.pkt
  .next
    (s.whenAwake .messageAppend (fun s => s.coreAwake (q.addr / 2 ^ 22) .messageAppend (fun s => s.takeIn q (fun s =>
      if q.asid = 0 then s.refuseHostReq q
      else
      match s.appendMsg (q.addr / 2 ^ 22) (q.addr % 2 ^ 22) q.asid q.data with
      | .ok (n, s) => .now s opData 0 (bytesOf 8 n)
      | .error c => errReply s c))))

/-- SIGNAL_ARRIVAL (R51, R36). Operand: pkt; data: the core, the credit, undelivered bytes. -/
def execSignalArrival (s : State) : Out :=
  let q := s.inp.pkt
  .next
    (s.whenAwake .signalArrival (fun s => s.takeIn q (fun s =>
      if q.asid = 0 then s.refuseHostReq q
      else
      match s.deliverSignal (q.word 0) q.asid q.addr (BitVec.ofNat 64 (q.word 1)) (q.word 2) with
      | .applied s => ackReply s
      | .error c => errReply s c
      | .later => .retry)))

/-- MULTICAST_MESSAGE (R49, R50): a member appends the message and acknowledges to the source; multicasts are not retransmitted. Operand:
pkt. -/
def execMulticastMessage (s : State) : Out :=
  let q := s.inp.pkt
  .next
    (s.whenAwake .multicastMessage (fun s =>
      if !((tget s.fabric.groups q.dst).getD []).contains s.fabric.node then s
      else if q.asid = 0 then (s.logError 36 q.addr).respond q opError 0 (bytesOf 1 0x11)
      else s.coreAwake (q.addr / 2 ^ 22) .multicastMessage (fun s =>
        match s.appendMsg (q.addr / 2 ^ 22) (q.addr % 2 ^ 22) q.asid q.data with
        | .ok (_, s) => s.respond q opAck 0 []
        | .error c => s.respond q opError 0 (bytesOf 1 c))))

/-- RESERVED_OP (R33): an error answer, whose code 0x11 is the model's (log 70), logged; nothing changes. Operand: pkt. -/
def execReservedOp (s : State) : Out :=
  let q := s.inp.pkt
  .next (s.whenAwake .reservedOp (fun s => (s.logError 33 q.op).respond q opError 0 (bytesOf 1 0x11)))

/-- What a class-7 packet does (R31, R40; the layout is log 71's): its first data byte names this node, the link that leads to a node, an
adapter's report of its completer role, an adapter that has become unable to do atomics, an absent node, a node that is back, the node of the
watchdog report, or an adapter that answers reads and writes with errors; any other value only is acknowledged. Bytes 2-3 hold the node, byte 4 the link or the role. -/
def Fabric.maintain (f : Fabric) (bs : List Byte) : Fabric :=
  let node := fld bs 2 2 % 8192
  let arg := fld bs 4 1
  match fld bs 0 1 with
  | 1 => { f with node := node }
  | 2 => { f with routes := tset f.routes node arg }
  | 3 =>
    if 0x1000 ≤ node ∧ node < 0x1200 then
      { f with adapters := tset f.adapters node (arg == 1), refusing := nremove f.refusing node, erring := nremove f.erring node }
    else f
  | 4 => { f with refusing := ninsert f.refusing node }
  | 5 => { f with absent := ninsert f.absent node }
  | 6 => { f with absent := nremove f.absent node }
  | 7 => { f with report := node }
  | 8 => { f with erring := ninsert f.erring node }
  | _ => f

/-- ROUTE_AND_LINK_MAINTENANCE (R31, R33, R40): a packet of class 7 is acted on and acknowledged. Operand: pkt. -/
def execRouteAndLinkMaintenance (s : State) : Out :=
  let q := s.inp.pkt
  .next
    (s.whenAwake .routeAndLinkMaintenance (fun s => s.takeIn q (fun s =>
      ackReply { s with fabric := s.fabric.maintain q.data })))

/-! Responses (R42, R43, R45, R47, R49). -/

/-- The outstanding request that a response answers. -/
def State.awaited (s : State) (node sseq : Nat) : Option Pending :=
  s.fabric.out.find? (fun p => p.pkt.dst == node && p.pkt.sseq == sseq && !p.parked)

/-- The next step of an engine once no request of it is outstanding. -/
def State.engineGo (s : State) (core cell key : Nat) : State :=
  if s.engineBusy core cell key then s
  else if key < 2 ^ 60 then
    s.later .copyTransferComplete { Input.none with core := core, slot := cell, queue := key / 2 ^ 48, n := key % 2 ^ 48 }
  else if key < 2 ^ 61 then
    match (s.getCore core).streams.find? (fun j => j.cell == cell && 2 ^ 60 + j.num == key) with
    | some j => s.later .streamEnd { Input.none with core := core, queue := j.port }
    | none => s
  else if 2 ^ 62 ≤ key then s
  else
    let i := { Input.none with core := core, slot := bitsN key 43 40, addr := bitsN key 34 32, n := bitsN key 19 16, queue := bitsN key 5 0 }
    match (((s.getCore core).rings.find? (fun r => r.launch == i.slot && r.stage == i.addr && r.sub == i.n)).bind (fun r => r.slots[i.queue]?)).filter
        (fun x => x.cell == cell) with
    | some x => s.later (if x.st = .filling then Instr.stevedorePushFill else Instr.stevedorePullDrain) i
    | none => s

/-- An engine's traffic record changed. -/
def State.modIo (s : State) (core cell key : Nat) (f : EngineIo → EngineIo) : State :=
  s.modCore core (fun k => { k with
    copies := k.copies.map (fun j => if j.cell = cell ∧ j.chan * 2 ^ 48 + j.id = key then { j with io := f j.io } else j)
    streams := k.streams.map (fun j => if j.cell = cell ∧ 2 ^ 60 + j.num = key then { j with io := f j.io } else j)
    mat := k.mat.map (fun m => if m.cell = cell ∧ matKey m.order = key then { m with io := f m.io } else m)
    rings := k.rings.map (fun r => { r with slots := r.slots.mapIdx (fun n x =>
      if x.cell = cell ∧ ringKey r.launch r.stage r.sub n = key then { x with io := f x.io } else x) }) })

/-- A record of a load or a registration that becomes a FAULT record waiting on another module's pager future, to execute its word again
(R42, R375). -/
def State.waitPeer (s : State) (ctx core : Nat) (old new : Record) (node pa : Nat) : State :=
  s.onCtxCore ctx core (fun s => (s.dropRecord core old).hangOnPeer core { new with trap := { new.trap with fut := pa } } node pa)

/-- What a request was sent for completed: with data, or with a cause (R43, R45); `fut` is the future that a failure of cause 0x30 names. -/
def State.completeFor (s : State) (p : Pending) (ok : Bool) (op cause fut : Nat) (data : List Byte) : State :=
  let node := p.pkt.dst
  match p.purpose with
  | .answer ctx core =>
    s.soon .answerArrival
      { Input.none with
        core := core, slot := ctx, queue := node, n := p.pkt.sseq, ok := ok, addr := cause
        data := BitVec.ofNat 64 (if ok then valueOf (data.take 8) else fut) }
  | .fetch ctx core =>
    s.soon .answerArrival
      { Input.none with
        core := core, slot := ctx, queue := node, n := p.pkt.sseq, ok := ok, addr := if ok then p.pkt.addr else cause, bytes := data
        data := BitVec.ofNat 64 fut }
  | .load ctx core dseq key =>
    s.soon .loadDataReturn { Input.none with core := core, slot := ctx, n := dseq, queue := key, bytes := data, ok := ok, addr := cause }
  | .register ctx core dseq =>
    let i := { Input.none with core := core, slot := ctx, n := dseq }
    if !ok then s.soon .registrationAnswer { i with ok := false, queue := cause }
    else if op = opData then s.soon .registrationAnswer { i with ok := false, queue := 0, data := BitVec.ofNat 64 (valueOf (data.take 8)) }
    else
      (s.modCtxCore ctx core (fun k => k.modRecord dseq (fun r => { r with next := valueOf (data.take 8) }))).soon .registrationAnswer i
  | .write core cell pc => if ok then s else s.notice core cell cause pc p.pkt.addr fut
  | .message core cell pc => if ok then s else s.notice core cell cause pc p.pkt.addr fut
  | .credit core cell pc => if ok ∨ cause = 0x42 then s else s.notice core cell cause pc p.pkt.addr fut
  | .engine core cell key =>
    let first (io : EngineIo) : EngineIo := if io.cause = 0 then { io with cause := cause, faddr := p.pkt.addr } else io
    let s :=
      if p.pkt.op = opRead then
        s.modIo core cell key (fun io =>
          { (if ok then io else first io) with got := io.got ++ [(node, p.pkt.addr, if ok then some data else none)] })
      else if ok then s
      else
        let n := if data.length < 8 then p.pkt.data.length else fld data 1 7
        s.modIo core cell key (fun io => { first io with lost := io.lost + n })
    s.engineGo core cell key
  | .parked _ _ | .nothing => s

/-! Accesses that wait on a pager future of their home (R42, R378, R416). -/

/-- The reference that stands for an access with no record in the list of its home's pager future: this node, the home and the request's number (log
77). -/
def parkRef (node dst sseq : Nat) : Nat := 3 * 2 ^ 46 + node % 2 ^ 13 * 2 ^ 33 + dst % 2 ^ 13 * 2 ^ 20 + sseq % 2 ^ 20

/-- The access that waits under a number, or under a reference. -/
def State.parkedAs (s : State) (node sseq : Nat) : Option Pending :=
  s.fabric.out.find? (fun p => p.parked && p.pkt.dst == node && p.pkt.sseq == sseq)
def State.parkedBy (s : State) (ref : Nat) : Option Pending :=
  s.fabric.out.find? (fun p => p.parked && parkRef s.fabric.node p.pkt.dst p.pkt.sseq == ref)

/-- An access waits on a pager future of its home, and is registered there. -/
def State.parkPeer (s : State) (p : Pending) (pa : Nat) : State :=
  let s := s.settled p
  let s := { s with fabric := { s.fabric with out := s.fabric.out ++ [{ p with out := false, later := false, parked := true }] } }
  (s.request p.pkt.dst opPager p.pkt.asid pa (bytesOf 1 2 ++ bytesOf 8 (parkRef s.fabric.node p.pkt.dst p.pkt.sseq))
    (.parked p.pkt.dst p.pkt.sseq)).2

/-- The access goes out again once the future is resolved; one whose future is faulted, or cannot be reached, fails. -/
def State.unpark (s : State) (p : Pending) (cause : Nat) : State :=
  let s := { s with fabric := { s.fabric with out := s.fabric.out.erase p } }
  if cause ≠ 0 then s.completeFor p false opError cause 0 []
  else
    let q := p.pkt
    (s.request q.dst q.op q.asid q.addr q.data p.purpose).2

/-- A request completed (R47): it is outstanding no more. The registration of an access that waits leaves that waiting, or lets it go on. -/
def State.complete (s : State) (p : Pending) (ok : Bool) (op cause fut : Nat) (data : List Byte) : State :=
  let s := s.settled p
  match p.purpose with
  | .parked node sseq =>
    match s.parkedAs node sseq with
    | none => s
    | some w => if !ok then s.unpark w cause else if op = opData then s.unpark w 0 else s
  | _ => s.completeFor p ok op cause fut data

/-- A home's pager future in answer to a request (R42): an answer-waiting word, a record and an access that no strand waits for wait on it. -/
def State.completePager (s : State) (p : Pending) (pa : Nat) : State :=
  let node := p.pkt.dst
  match p.purpose with
  | .answer ctx core | .fetch ctx core =>
    (s.settled p).soon .answerArrival
      { Input.none with core := core, slot := ctx, queue := node, n := p.pkt.sseq, ok := false, addr := 0x10, data := BitVec.ofNat 64 pa }
  | .load ctx core dseq key =>
    let s := (s.settled p).park
    match (s.ctxCore ctx core).record dseq with
    | none => s
    | some r =>
      match r.on with
      | .load job =>
        match job.elems.find? (fun e => e.key == key) with
        | some e => s.waitPeer ctx core r (loadFault s (s.ctxCore ctx core) job e 0x10 r) node pa
        | none => s
      | _ => s
  | .register ctx core dseq =>
    let s := (s.settled p).park
    match (s.ctxCore ctx core).record dseq with
    | none => s
    | some r =>
      match r.on with
      | .future va _ fpc =>
        match (s.getCore core).waitingSlot (.registration s.fabric.node dseq) with
        | some sl =>
          let s := s.focus core sl
          ({ s with strand := { s.strand with wait := .none } }.dropRecord core r).peerPager node pa va
        | none => s.waitPeer ctx core r (futureFault s (s.ctxCore ctx core) 0x10 va fpc r) node pa
      | _ => s
  | _ => s.parkPeer p pa

/-- RESPONSE_WITH_DATA (R47): it completes its request, or is discarded. Operand: pkt. -/
def execResponseWithData (s : State) : Out :=
  let q := s.inp.pkt
  .next
    (s.whenAwake .responseWithData (fun s =>
      match s.awaited q.src q.sseq with
      | some p => s.complete p true opData 0 0 q.data
      | none => s))

/-- A member of a multicast has answered or cannot be reached (R49). -/
def State.mcastAnswer (s : State) (q : Packet) (cause : Nat) : State :=
  match s.fabric.mcasts.find? (fun m => m.sseq == q.sseq && m.waiting.contains q.src) with
  | none => s
  | some m =>
    let left := nremove m.waiting q.src
    let f := s.fabric
    let mcasts := if left.isEmpty then f.mcasts.erase m else f.mcasts.map (fun x => if x = m then { m with waiting := left } else x)
    let s := { s with fabric := { f with mcasts := mcasts } }
    if cause = 0 then s else s.notice m.core m.cell cause m.pc 0 0

/-- ACKNOWLEDGEMENT (R47, R49). Operand: pkt. -/
def execAcknowledgement (s : State) : Out :=
  let q := s.inp.pkt
  .next
    (s.whenAwake .acknowledgement (fun s =>
      match s.awaited q.src q.sseq with
      | some p => s.complete p true opAck 0 0 q.data
      | none => s.mcastAnswer q 0))

/-- ERROR_RESPONSE (R42, R43): the first data byte is the cause; a no-route answer's is 0x40. Operand: pkt. -/
def execErrorResponse (s : State) : Out :=
  let q := s.inp.pkt
  let cause := valueOf (q.data.take 1)
  .next
    (s.whenAwake .errorResponse (fun s =>
      match s.awaited q.src q.sseq with
      | some p => s.complete p false opError cause (if p.pkt.op = opWrite then 0 else fld q.data 1 7) q.data
      | none => s.mcastAnswer q cause))

/-- The record of this module that a reference names and that waits on the future of another module, or its pager future, at an address there (R42,
R148). -/
def State.waiterOf (s : State) (ref node addr : Nat) : Option (Nat × Nat × Record) :=
  let core := bitsN ref 32 24
  (s.coreCopies core).findSome? (fun c =>
    (c.2.records.find? (fun r => r.block == bitsN ref 23 0 && r.spilled == (bitsN ref 47 46 == 2) && (match r.on with
      | .future va _ _ => va == addr && c.2.homeNode s.fabric.node va == node
      | .peerPager n pa => pa == addr && n == node
      | _ => false))).map (fun r => (c.1, core, r)))

/-- A relaunch notice from another module (R42, R148): the reference, whether its future was resolved, the value. A record whose registration has not
been answered takes it later (R133, R431); an access with no record goes out again. -/
def State.relaunchFrom (s : State) (q : Packet) (ref : Nat) (ok : Bool) (value : Word) : Reply :=
  if refIsAccess ref then
    match s.parkedBy ref with
    | some p => ackReply (s.unpark p (if ok then 0 else 0x11))
    | none => ackReply s
  else
    match s.waiterOf ref q.src q.addr with
    | none => ackReply s
    | some (ctx, core, r) =>
      if r.regp ∨ 2 ^ 48 ≤ r.dseq then .retry
      else ackReply (s.later .waiterReady { Input.none with core := core, slot := ctx, n := r.dseq, data := value, ok := ok })

/-- A reference of another module withdrawn from the list of a future or of a pager future here (R148): its record is gone. -/
def State.withdrawReply (s : State) (q : Packet) (ref : Nat) : Reply :=
  match tget s.fabric.foreign ref with
  | none => ackReply s
  | some f =>
    match (if pagerAddr 0 0 ≤ q.addr ∧ q.addr < hbmEnd then some q.addr else s.physOf q.asid q.addr) with
    | none => ackReply s
    | some pa =>
      let s := s.park.unlinkFut pa ref (f % 2 ^ 48)
      ackReply { s with fabric := { s.fabric with foreign := tdel s.fabric.foreign ref } }

/-- The registration of another module's record on a pager future of this one (R42): the old head, or data where the future is no longer in
use. -/
def State.registerPager (s : State) (q : Packet) (ref : Nat) : Reply :=
  let core := (q.addr - pagerAddr 0 0) / 256
  let j := q.addr % 256 / 16
  if q.addr < pagerAddr 0 0 ∨ 511 < core ∨ !(tget (s.getCore core).pagers j).any (·.inUse) then .now s opData 0 (bytesOf 8 0)
  else
    let (old, s) := s.futRegister q.addr ref (q.asid + 2 ^ 16 * q.addr)
    .now s opAck 0 (bytesOf 8 old)

/-- A request in class 5 (R42, R204), by its first byte (log 12): 0 and 1 a relaunch, of a resolved and of a faulted future; 2 a registration on
a pager future; 3 a notice; 4 a reference withdrawn. -/
def State.pagerRequest (s : State) (q : Packet) : Reply :=
  let d := q.data
  if q.asid = 0 then s.refuseHostReq q
  else
    match fld d 0 1 with
    | 0 => s.relaunchFrom q (fld d 1 8) true (BitVec.ofNat 64 (fld d 9 8))
    | 1 => s.relaunchFrom q (fld d 1 8) false 0
    | 2 => s.registerPager q (fld d 1 8)
    | 3 =>
      ackReply (s.postNotice (fld d 2 2 % 512) (fld d 4 8)
        { TrapBlock.none with
          cause := fld d 1 1, fpc := BitVec.ofNat 64 (fld d 12 8), faddr := BitVec.ofNat 64 (fld d 20 8), fut := fld d 28 8 })
    | 4 => s.withdrawReply q (fld d 1 8)
    | _ => errReply s 0x11

/-- PAGER_SERVICE (R42): a response, which has no data, names a pager future of the home; a request is acted on. Operand: pkt. -/
def execPagerService (s : State) : Out :=
  let q := s.inp.pkt
  .next
    (s.whenAwake .pagerService (fun s =>
      if q.data.isEmpty then
        match s.awaited q.src q.sseq with
        | some p => s.completePager p q.addr
        | none => s
      else s.takeIn q (fun s => s.pagerRequest q)))

/-- RETRY_LATER_RESPONSE (R45). Operand: pkt. -/
def execRetryLaterResponse (s : State) : Out :=
  let q := s.inp.pkt
  .next
    (s.whenAwake .retryLaterResponse (fun s =>
      match s.awaited q.src q.sseq with
      | none => s
      | some p =>
        let f := s.fabric
        let p' : Pending := { p with later := true, sentAt := s.time.toNat }
        ({ s with fabric := { f with out := f.out.map (fun x => if x = p then p' else x) } }).later .retryLaterResend
          { Input.none with queue := q.src, n := q.sseq }))

/-- A request sent again with RTX, and with RETRY after a retry-later answer, which a later resend keeps (R45, log 70). -/
def State.resend (s : State) (p : Pending) (resends : Nat) (retry : Bool) : State :=
  let f := s.fabric
  let pkt := { p.pkt with rtx := true, retry := p.pkt.retry || retry }
  let p' : Pending := { p with pkt := pkt, resends := resends, sentAt := s.time.toNat, later := false }
  ({ s with fabric := { f with out := f.out.map (fun x => if x = p then p' else x) } }).emit pkt

/-- RETRY_LATER_RESEND (R45): 2 µs after the answer. Operands: queue (the node), n (the sequence number). -/
def execRetryLaterResend (s : State) : Out :=
  let i := s.inp
  .next
    (match s.awaited i.queue i.n with
    | none => s
    | some p =>
      if !p.later then s
      else if s.time.toNat < p.sentAt + 2000 then s.later .retryLaterResend i
      else s.resend p p.resends true)

/-- A request in a stevedore's queue struck by a parity error (R271): it completes as uncorrectable and is never issued again. A slot that was being
filled holds poison and counts in full as not delivered; of one that was being drained nothing more is written. Operands as for the request. -/
def State.strikeRing (s : State) (i : Input) : State :=
  let s := s.park
  match s.request? i with
  | none => s
  | some (b, r, x) =>
    if !r.pending.contains i.queue then s
    else
      let key := ringKey i.slot i.addr i.n i.queue
      let fab := s.fabric
      let s := { s with fabric := { fab with out := fab.out.filter (fun p => match p.purpose with
        | .engine c cell k => !(c == i.core && cell == x.cell && k == key)
        | _ => true) } }
      let gs := slotGranules b i.queue
      let r' := { r with pending := r.pending.erase i.queue }
      let s :=
        if x.st = .filling ∧ !x.marked then
          (s.modCore i.core (fun k => { k.setRing (r'.setSlot i.queue { x with st := .ready }) with locPoison := gs.foldl ninsert k.locPoison })).fill
            i.core gs
        else s.modCore i.core (fun k => (k.setRing (r'.setSlot i.queue { x with st := .free, marked := false })).setEmpty gs)
      let s := s.slotCredit i.core b b.slotb
      let s := if r.pending.head? = some i.queue then s.nextRequest i.core r else s
      if x.st = .draining then
        s.notice i.core x.cell 0x40 x.pc (((x.tdesc.map (fun d => d.bitAddr x.row0.toNat x.col0.toNat / 8)).getD 0)) 0
      else s

/-- What the device does with an error of its on-die storage (R271): a corrected one is an entry of the error log, and a struck request completes as
uncorrectable. -/
def State.strike (s : State) : StorageError → State
  | .corrected die storage => s.logError 271 (die + 4 * storage)
  | .request node sseq =>
    match s.awaited node sseq with
    | none => s
    | some p => s.park.complete p false opError 0x40 0 []
  | .stevedore core launch stage sub slot =>
    s.strikeRing { Input.none with core := core, slot := launch, addr := stage, n := sub, queue := slot }

/-- RETRANSMIT_TIMEOUT (R45): 100 µs without a response; the ninth time the request completes as uncorrectable. Operands: queue (the node), n
(the sequence number). -/
def execRetransmitTimeout (s : State) : Out :=
  let i := s.inp
  .next
    (match s.awaited i.queue i.n with
    | none => s
    | some p =>
      if p.later ∨ !p.out ∨ s.time.toNat < p.sentAt + 100000 then s.later .retransmitTimeout i
      else if p.resends < 8 then (s.resend p (p.resends + 1) false).later .retransmitTimeout i
      else s.park.complete p false opError 0x40 0 [])

/-! CXL and the scrubber (R14-R17). -/

/-- CXL_READ_TIMEOUT (R17): a device does not answer the reads of a sector, so that 2 ms after the first of them every read of it, whoever
makes it, completes as uncorrectable, until the device answers again. Operands: addr (physical), n (TIME of that read), ok (not: the device
answers again). -/
def execCxlReadTimeout (s : State) : Out :=
  let i := s.inp
  let g := i.addr / 16
  .next
    (if (cxlPort i.addr).isNone then s
    else if !i.ok then { s with cxlSilent := nremove s.cxlSilent g }
    else if s.time.toNat < i.n + 2000000 then s.later .cxlReadTimeout i
    else { s with cxlSilent := ninsert s.cxlSilent g })

/-- CXL_VIRAL (R17): the port is down until the module is reset. Operand: n (the port). -/
def execCxlViral (s : State) : Out :=
  .next { s with cxl := s.cxl.set (s.inp.n % 4) .viral (Nat.mod_lt _ (by decide)) }

/-- PATROL_SCRUB (R14, R15): the scrubber reads a stack, rewrites corrected sectors, and logs poisoned ones. Operand: n (the stack). -/
def execPatrolScrub (s : State) : Out :=
  let n := s.inp.n % 12
  .next
    (let mine (g : Nat) : Bool := decide (16 * g < hbmEnd) && decide (stackOf (16 * g) = n)
    let ce := (s.soft.filter mine).length
    let ue := s.poison.filter mine
    let s := { s with
      soft := s.soft.filter (fun g => !mine g)
      hbmce := s.hbmce.set n (s.hbmce.toList.getD n 0 + ce) (Nat.mod_lt _ (by decide))
      hbmue := s.hbmue.set n (s.hbmue.toList.getD n 0 + ue.length) (Nat.mod_lt _ (by decide)) }
    ue.foldl (fun s g => s.logError 15 (16 * g)) s)

/-! Management packets (R94, R95). -/

/-- An answer on the recovery channel: the status, and for QUERY the result. -/
def rcvyReply (s : State) (status : Nat) (result : Option Nat) : Reply :=
  .now s opData 1 (bytesOf 2 status ++ (match result with
    | some r => bytesOf 6 0 ++ bytesOf 8 r
    | none => []))

/-- A recovery packet (R95): refused outside recovery, and with a header that is not of its type. -/
def State.rcvy (s : State) (what : Instr) (type : Nat) (f : State → Packet → Reply) : State :=
  let q := s.inp.pkt
  s.whenAwake what (fun s => s.takeIn q (fun s =>
    if !s.fw.recovery then rcvyReply s 0x0C none
    else if q.data.take 4 ≠ ascii "RCVY" ∨ fld q.data 4 1 ≠ type ∨ 1 < fld q.data 5 1 ∨ fld q.data 6 2 ≠ 0 then rcvyReply s 2 none
    else f s q))

/-- RCVY_BEGIN (R95). Operand: pkt. -/
def execRcvyBegin (s : State) : Out :=
  .next (s.rcvy .rcvyBegin 1 (fun s q =>
    let n := fld q.data 8 8
    if s.fw.staging ∧ s.fw.rcvyNode ≠ q.src then rcvyReply s 0x0C none
    else if n < 1536 ∨ (n - 1536) % 4096 ≠ 0 ∨ 32 * 1048576 < n then rcvyReply s 2 none
    else
      let b := decide (fld q.data 5 1 = 1)
      let fw := s.fw.setSlot b FwSlot.blank
      rcvyReply { s with fw := { fw with staging := true, rcvySlotB := b, rcvyNode := q.src, rcvyLen := n, rcvyBytes := [] } } 0 none))

/-- RCVY_DATA (R95). DESIGN CHOICE (log 62): bytes past the recorded length, DATA or END without a BEGIN, a wrong MAGIC and non-zero reserved bytes are
answered with 0x0002, and DATA and END are taken from any node. Operand: pkt. -/
def execRcvyData (s : State) : Out :=
  .next (s.rcvy .rcvyData 2 (fun s q =>
    let off := fld q.data 8 8
    let bs := q.data.drop 16
    let have_ := s.fw.rcvyBytes.length
    if off < have_ ∧ s.fw.staging then rcvyReply s 0 none
    else if !s.fw.staging ∨ have_ < off ∨ bs.isEmpty ∨ 1008 < bs.length ∨ s.fw.rcvyLen < have_ + bs.length then rcvyReply s 2 none
    else rcvyReply { s with fw := { s.fw with rcvyBytes := s.fw.rcvyBytes ++ bs } } 0 none))

/-- RCVY_END (R95): the image is verified; on success the answer goes out, then a module reset boots it. Operand: pkt. -/
def execRcvyEnd (s : State) : Out :=
  .next
    (let t := s.rcvy .rcvyEnd 3 (fun s q =>
      let fw := s.fw
      if fld q.data 8 8 ≠ 0 ∨ !fw.staging ∨ fw.rcvyBytes.length < fw.rcvyLen then rcvyReply s 2 none
      else
        let found := imageStatus fw fw.rcvyBytes true
        if fw.enforced ∧ found ≠ 0 then rcvyReply { s with fw := { fw with staging := false, rcvyBytes := [], rcvyLen := 0 } } found none
        else
          let b := fw.rcvySlotB
          let fw := { (fw.setSlot b { st := .staged, image := fw.rcvyBytes, fails := 0 }) with activeB := b, staging := false, rcvyBytes := [], rcvyLen := 0 }
          rcvyReply { s with fw := { fw with recovery := false } } 0 none)
    if s.fw.recovery ∧ !t.fw.recovery then t.moduleReset else t)

/-- RCVY_QUERY (R95). Operand: pkt. -/
def execRcvyQuery (s : State) : Out :=
  .next (s.rcvy .rcvyQuery 4 (fun s q => if fld q.data 8 8 ≠ 0 then rcvyReply s 2 none else rcvyReply s 0 (some s.fw.query)))

/-- What an SPDM response to a supported message reports (R94): the request; for digests and certificate the certificate's hash; for a challenge
the measurements; for measurements indices 1-8 MEAS0-MEAS7 and index 9 the manifest's first 256 bytes; none for a message not supported. -/
def State.spdmContent (s : State) (msg : List Byte) : Option (List Byte) :=
  let code := fld msg 1 1
  if code = 0x84 ∨ code = 0xE1 ∨ code = 0xE3 then some msg
  else if code = 0x81 ∨ code = 0x82 then some (msg ++ bytesOf 64 s.fw.certHash)
  else if code = 0x83 then some (msg ++ s.fw.meas.toList.flatMap (bytesOf 64))
  else if code = 0xE0 then some (msg ++ s.fw.meas.toList.flatMap (bytesOf 64) ++ s.manifest.take 256)
  else none

/-- Whether an SPDM request asks for a signature: CHALLENGE, and GET_MEASUREMENTS with bit 0 of its first parameter (log 62). -/
def spdmSigned (msg : List Byte) : Bool :=
  decide (fld msg 1 1 = 0x83) || (decide (fld msg 1 1 = 0xE0) && (fld msg 2 1).testBit 0)

/-- Whether an SPDM request names a certificate slot other than 0, the only one (R94; where it is named is the standard's, log 62). -/
def spdmSlotBad (msg : List Byte) : Bool :=
  let code := fld msg 1 1
  if code = 0x82 ∨ code = 0x83 then decide (fld msg 2 1 % 16 ≠ 0)
  else decide (code = 0xE0) && (fld msg 2 1).testBit 0 && decide (fld msg 36 1 % 16 ≠ 0)

/-- An SPDM error of the standard: its code (InvalidRequest 1, Busy 3, Unspecified 5, UnsupportedRequest 7, LargeResponse 15). -/
def spdmError (code : Nat) (msg : List Byte) (d : Nat) : List Byte :=
  (Config.spdmBytes 0x7F (bytesOf 1 code ++ msg.take 2) d).take 1024

/-- Whether the management core is in its own swap step (R94). -/
def State.spdmBusy (s : State) : Bool := s.fw.activating.isSome && s.fw.written.contains 8

/-- The response to an SPDM message, for a draw (R94): Busy in the management core's own swap step; an error where the message is not supported, names
another certificate slot, or asks for a signature and the identity key is absent, locked or destroyed. -/
def State.spdmResponse (s : State) (msg : List Byte) (d : Nat) : List Byte :=
  if s.spdmBusy then spdmError 3 msg d
  else
    match s.spdmContent msg with
    | none => spdmError 7 msg d
    | some bs =>
      if spdmSlotBad msg then spdmError 1 msg d
      else if spdmSigned msg ∧ s.fw.idKey ≠ .usable then spdmError 5 msg d else Config.spdmBytes (fld msg 1 1) bs d

/-- A response sent; one over 1,024 bytes is kept for CHUNK_GET (R94). -/
def State.spdmReply (s : State) (msg bs : List Byte) (d : Nat) : Reply :=
  if bs.length ≤ 1024 then .now s opData 0 bs
  else .now { s with fw := { s.fw with spdm := bs } } opData 0 (spdmError 15 msg d)

/-- An SPDM request on channel 0 answered (R94). -/
def State.spdm (s : State) (what : Instr) : State :=
  let q := s.inp.pkt
  s.whenAwake what (fun s => s.takeIn q (fun s =>
    let (d, s) := s.draw
    s.spdmReply q.data (s.spdmResponse q.data d) d))

/-- GET_VERSION (R94). Operand: pkt. -/
def execGetVersion (s : State) : Out := .next (s.spdm .getVersion)
/-- GET_CAPABILITIES (R94). Operand: pkt. -/
def execGetCapabilities (s : State) : Out := .next (s.spdm .getCapabilities)
/-- NEGOTIATE_ALGORITHMS (R94), and every message that the responder does not support. Operand: pkt. -/
def execNegotiateAlgorithms (s : State) : Out := .next (s.spdm .negotiateAlgorithms)
/-- GET_DIGESTS (R94). Operand: pkt. -/
def execGetDigests (s : State) : Out := .next (s.spdm .getDigests)
/-- GET_CERTIFICATE (R94). Operand: pkt. -/
def execGetCertificate (s : State) : Out := .next (s.spdm .getCertificate)
/-- CHALLENGE (R94). Operand: pkt. -/
def execChallenge (s : State) : Out := .next (s.spdm .challenge)
/-- GET_MEASUREMENTS (R94). Operand: pkt. -/
def execGetMeasurements (s : State) : Out := .next (s.spdm .getMeasurements)

/-- The data of a CHUNK_SEND, and whether it is the first and the last chunk (R94; the layout is the standard's, log 62). -/
def chunkOf (msg : List Byte) : List Byte × Bool × Bool :=
  let first := decide (fld msg 4 2 = 0)
  ((msg.drop (if first then 16 else 12)).take (fld msg 8 4), first, (fld msg 2 1).testBit 0)

/-- CHUNK_SEND (R94): a chunk of a large request is gathered, and with the last one the request is answered. Operand: pkt. -/
def execChunkSend (s : State) : Out :=
  let q := s.inp.pkt
  .next (s.whenAwake .chunkSend (fun s => s.takeIn q (fun s =>
    let (d, s) := s.draw
    if s.spdmBusy then .now s opData 0 (spdmError 3 q.data d)
    else
    let (bs, first, last) := chunkOf q.data
    let msg := if first then bs else s.fw.spdm ++ bs
    let s := { s with fw := { s.fw with spdm := if last then [] else msg } }
    if last then s.spdmReply msg (s.spdmResponse msg d) d
    else .now s opData 0 ((Config.spdmBytes 0x85 q.data d).take 1024))))

/-- CHUNK_GET (R94): the next chunk of a large response. Operand: pkt. -/
def execChunkGet (s : State) : Out :=
  let q := s.inp.pkt
  .next (s.whenAwake .chunkGet (fun s => s.takeIn q (fun s =>
    let (d, s) := s.draw
    if s.spdmBusy then .now s opData 0 (spdmError 3 q.data d)
    else .now { s with fw := { s.fw with spdm := s.fw.spdm.drop 1024 } } opData 0 (s.fw.spdm.take 1024))))

/-- RESERVED_MANAGEMENT_CHANNEL (R95): an error answer, logged. Operand: pkt. -/
def execReservedManagementChannel (s : State) : Out :=
  let q := s.inp.pkt
  .next (s.whenAwake .reservedManagementChannel (fun s => s.takeIn q (fun s => errReply (s.logError 95 q.addr) 0x11)))

end Sys2Proof.Machine
end

