-- ==== Sys2Proof/Machine/Links.lean ====
section
/-!
DEFINITION. Quayline links (spec 01, 02): flits, replay, retraining, compression, and the grant of packets; clocks, power states, and the
debug port.
-/

namespace Sys2Proof.Machine

open Sys2Proof

/-! Packets and flits as bytes (R19, R20, R32). -/

/-- A packet's header and data (R32). -/
def Packet.bytes (p : Packet) : List Byte :=
  bytesOf 2 (p.dst % 8192) ++ bytesOf 2 (p.src % 8192) ++ bytesOf 1 p.op ++ bytesOf 1 (bit p.mc + 2 * bit p.rtx + 4 * bit p.retry)
    ++ bytesOf 2 p.asid ++ bytesOf 6 p.sseq ++ bytesOf 2 p.data.length ++ bytesOf 8 (p.addr % 2 ^ 57) ++ p.data

/-- The packet that bytes hold; none where they are shorter than its header says. -/
def packetOf (bs : List Byte) : Option Packet :=
  let n := fld bs 14 2
  if bs.length < 24 + n ∨ 1024 < n then none
  else
    some
      { dst := fld bs 0 2 % 8192, src := fld bs 2 2 % 8192, op := fld bs 4 1, mc := (fld bs 5 1).testBit 0, rtx := (fld bs 5 1).testBit 1
        retry := (fld bs 5 1).testBit 2, asid := fld bs 6 2, sseq := fld bs 8 6, addr := fld bs 16 8 % 2 ^ 57, data := (bs.drop 24).take n }

/-- The row of a management packet (R94, R95): by channel, and on channels 0 and 1 by the message's code. -/
def mgmtRow (p : Packet) : Instr :=
  let code := fld p.data 1 1
  if p.addr = 1 then
    (let t := fld p.data 4 1
    if t = 1 then .rcvyBegin else if t = 2 then .rcvyData else if t = 3 then .rcvyEnd else .rcvyQuery)
  else if p.addr ≠ 0 then .reservedManagementChannel
  else if code = 0x81 then .getDigests
  else if code = 0x82 then .getCertificate
  else if code = 0x83 then .challenge
  else if code = 0x84 then .getVersion
  else if code = 0x85 then .chunkSend
  else if code = 0x86 then .chunkGet
  else if code = 0xE0 then .getMeasurements
  else if code = 0xE1 then .getCapabilities
  else .negotiateAlgorithms  -- the code of an unsupported message is answered there with an error (R94)

/-- The row that a packet is (R33). -/
def packetRow (p : Packet) : Instr :=
  if p.op = opRead then .readRequest
  else if p.op = opWrite then .writeRequest
  else if p.op = opAtomic then .atomicRequest
  else if p.op = opAppend then .appendReservation
  else if p.op = opMessage then .messageAppend
  else if p.op = opSignal then .signalArrival
  else if p.op = opMulticast then .multicastMessage
  else if p.op = opMailbox then .mailboxWrite
  else if p.op = opPager then .pagerService
  else if p.op = opManagement then mgmtRow p
  else if p.op = opRoute then .routeAndLinkMaintenance
  else if p.op = opData then .responseWithData
  else if p.op = opAck then .acknowledgement
  else if p.op = opError then .errorResponse
  else if p.op = opRetryLater then .retryLaterResponse
  else .reservedOp

/-- A link with nothing on it, as it comes up. DESIGN CHOICE (log 70): it has no credits until the far end sends some, its LSEQ starts at 0, and class 0
is granted first. -/
def Link.idle : Link where
  txLanes := 4
  rxLanes := 4
  compressing := false
  queues := []
  tx := []
  again := []
  replay := []
  going := []
  held := []
  owed := []
  wire := []
  port := []
  low := false
  lseq := 0
  rxLseq := 0
  credits := []
  rr := 7
  retraining := false
  rx := []
  askReplay := none

/-- The packet of received flits: expanded where its first flit says so (R23). -/
def packetOfFlits (fs : List Flit) : Option Packet :=
  let bs := fs.flatMap (·.payload)
  if (fs.head?).any (·.cmp) then (Config.zeroRunDecode bs).bind packetOf else packetOf bs

/-- The 128 bytes of a flit (R19, R20): its header, its payload and the CRC over both. -/
def flitBytes (cred lseq tc cmp len ftype : Nat) (payload : List Byte) : List Byte :=
  let h := ftype + 2 ^ 8 * (len % 16) + 2 ^ 12 * cmp + 2 ^ 13 * (tc % 8) + 2 ^ 16 * (lseq % 256) + 2 ^ 24 * (cred % 256)
  let bs := bytesOf 8 h ++ padTo 112 payload
  bs ++ bytesOf 8 (Config.crc64 bs)

/-- A packet's flit as it leaves. -/
def Flit.bytes (f : Flit) : List Byte :=
  flitBytes f.cred f.lseq f.tc (bit f.cmp) f.len (if f.first then 1 else 2) f.payload

/-- Credits that became free at this end, to be returned by the next flit of their class (R20). -/
def Link.free (l : Link) (tc n : Nat) : Link := { l with owed := tset l.owed tc ((tget l.owed tc).getD 0 + n) }

/-- Whether compression is on, by the flits in the transmit queue (R23). -/
def Link.compressNow (l : Link) : Bool :=
  if 384 ≤ l.tx.length then true else if l.tx.length ≤ 128 then false else l.compressing

/-- Compression turned on or off after the transmit queue has grown or shrunk (R23). -/
def Link.settle (l : Link) : Link := { l with compressing := l.compressNow }

/-- One flit time of a transmitter (R18-R21): a flit to be sent again, else the oldest of the transmit queue with the credits owed for its
class, else a credit-only flit of the lowest class that is owed credits, else an idle flit. Each packet flit sent enters the replay
buffer. -/
def Link.sendOne (l : Link) : Link :=
  let keep (f : Flit) : List Flit := (l.replay ++ [f]).drop ((l.replay ++ [f]).length - 256)
  match l.again with
  | f :: r => { l with again := r, wire := l.wire ++ [f.bytes], replay := keep f }
  | [] =>
    match l.tx with
    | f :: r =>
      let due := min 255 ((tget l.owed f.tc).getD 0)
      let f := { f with cred := due }
      ({ l with
        tx := r
        wire := l.wire ++ [f.bytes]
        owed := tset l.owed f.tc ((tget l.owed f.tc).getD 0 - due)
        going := if f.len = 0 then l.going.drop 1 else l.going
        replay := keep f }).settle
    | [] =>
      match l.owed.find? (fun p => decide (p.2 ≠ 0)) with
      | some (tc, n) =>
        let due := min 255 n
        { l with owed := tset l.owed tc (n - due), wire := l.wire ++ [flitBytes due l.lseq tc 0 0 3 []] }
      | none => { l with wire := l.wire ++ [flitBytes 0 l.lseq 0 0 0 0 []] }

/-- Flit times that have passed on a link; none sends while the link is down or retrains. -/
def Link.send : Nat → Link → Link
  | 0, l => l
  | n + 1, l => if l.up ∧ !l.retraining then l.sendOne.send n else l

/-- What a received packet does at this module (R31, R36, R48): a packet to this module is performed; a multicast goes on to the other
branches, and is performed where this module is a member; a unicast packet to another node is forwarded, or answered with no-route where
the router knows no way to it. -/
def State.takePacket (s : State) (link : Nat) (p : Packet) : State :=
  if p.mc then
    let s := s.emitMc p (some link)
    if ((tget s.fabric.groups p.dst).getD []).contains s.fabric.node then s.soon (packetRow p) { Input.none with pkt := p } else s
  else if p.dst = s.fabric.node then s.soon (packetRow p) { Input.none with pkt := p }
  else if s.fabric.reaches p.dst then s.emit p
  else if p.op < 0x10 then s.respondFrom p.dst p opError 0 (bytesOf 1 0x40)
  else s

/-- Class-3 packets that a link keeps once credits for some of their flits have come back, oldest first (R20, R49). -/
def retireHeld : List (Packet × Nat) → Nat → List (Packet × Nat)
  | [], _ => []
  | (p, k) :: r, n => if k ≤ n then retireHeld r (n - k) else (p, k - n) :: r

/-- FLIT_RECEIVE (R20, R21): a flit of 128 bytes. A bad CRC discards it and asks for a replay; a reserved FTYPE discards it and retrains the
link; the credits of the flit's class are taken; the last flit of a packet delivers it and frees its buffer, or in P4 waits at the port with
its credits and wakes the module (R28). A flit that was received before is discarded. Operands: n (the link), bytes. -/
def execFlitReceive (s : State) : Out :=
  let i := s.inp
  .next
    (match tget s.fabric.links i.n with
    | none => s
    | some l =>
      let h := fld i.bytes 0 8
      let ftype := bitsN h 3 0
      let tc := bitsN h 15 13
      let lseq := bitsN h 23 16
      let credit (l : Link) : Link := { l with
        credits := tset l.credits tc ((tget l.credits tc).getD 0 + bitsN h 31 24)
        held := if tc = 3 then retireHeld l.held (bitsN h 31 24) else l.held }
      if i.bytes.length ≠ 128 ∨ Config.crc64 (i.bytes.take 120) ≠ fld i.bytes 120 8 then
        s.modLink i.n (fun l => { l with askReplay := some l.rxLseq })
      else if 3 < ftype then (s.modLink i.n (fun l => { l with retraining := true })).later .linkRetrainDone { Input.none with n := i.n }
      else if ftype = 0 ∨ ftype = 3 then s.modLink i.n credit
      else if lseq ≠ l.rxLseq then s
      else
        let f : Flit :=
          { cred := bitsN h 31 24, tc := tc, cmp := h.testBit 12, len := bitsN h 11 8, lseq := lseq, first := decide (ftype = 1)
            payload := (i.bytes.drop 8).take 112 }
        let fs := if f.first then [f] else l.rx ++ [f]
        let s := s.modLink i.n (fun l =>
          { credit l with rxLseq := (lseq + 1) % 256, askReplay := none, rx := if f.len = 0 then [] else fs })
        if f.len ≠ 0 then s
        else
          match packetOfFlits fs with
          | none => (s.modLink i.n (·.free tc fs.length)).logError 21 i.n
          | some p =>
            if s.power = .p4 then
              (s.modLink i.n (fun l => { l with port := l.port ++ [(fs.length, p)] })).later .coreWake Input.none
            else (s.modLink i.n (·.free tc fs.length)).takePacket i.n p)

/-- The packets that the ports held in P4, taken once the module is awake, those of a port in the order in which they arrived (R28, R37, R50). -/
def State.takePorts (s : State) : State :=
  let after := s.agenda
  let take (n : Nat) (s : State) (p : Nat × Packet) : State :=
    let before := s.agenda
    let s := ({ s with agenda := [] }.modLink n (·.free (opClass p.2.op) p.1)).takePacket n p.2
    { s with agenda := before ++ s.agenda }
  let s := s.fabric.links.foldl (fun s l => l.2.port.foldl (take l.1) (s.modLink l.1 (fun l => { l with port := [], low := false })))
    { s with agenda := [] }
  { s with agenda := s.agenda ++ after }

/-- LINK_REPLAY (R21): flits of the replay buffer from a sequence number on are sent again, in order. Operands: n (the link), addr (LSEQ). -/
def execLinkReplay (s : State) : Out :=
  let i := s.inp
  .next (s.modLink i.n (fun l => { l with
    again := l.replay.dropWhile (fun f => f.lseq != i.addr) ++ l.again
    replay := l.replay.takeWhile (fun f => f.lseq != i.addr) }))

/-- LINK_RETRAIN_DONE (R21, R22): the link is trained, and the flits of its replay buffer are sent again; a link that the module has not had up
before comes up at four lanes. Operand: n (the link). -/
def execLinkRetrainDone (s : State) : Out :=
  let i := s.inp
  .next
    (match tget s.fabric.links i.n with
    | none => if i.n < 32 then { s with fabric := { s.fabric with links := tset s.fabric.links i.n Link.idle } } else s
    | some _ =>
      s.modLink i.n (fun l =>
        if l.retraining then { l with retraining := false, again := l.replay ++ l.again, replay := [] } else l))

/-- A multicast that can no longer reach members by a link (R49): this module's own reports them with cause 0x40; of another source's the
router tells the source so, each member in turn. -/
def State.mcLost (s : State) (p : Packet) (members : List Nat) : State :=
  members.foldl (fun s m =>
    let r := { Packet.empty with dst := p.src, src := m, op := opError, asid := p.asid, sseq := p.sseq, data := bytesOf 1 0x40 }
    if p.src = s.fabric.node then s.mcastAnswer r 0x40 else s.emit r) s

/-- The members of a packet's group whose way leads over a link. -/
def Fabric.membersVia (f : Fabric) (group link : Nat) : List Nat :=
  ((tget f.groups group).getD []).filter (fun m => m != f.node && f.route m == some link)

/-- A packet of a link that went down takes another link; with none, a multicast's members by it are lost, and a unicast packet is for its
source to send again (R45, R49). -/
def State.reroute (s : State) (members : List Nat) (p : Packet) : State :=
  if p.mc then
    match members.filter (fun m => s.fabric.reaches m) with
    | [] => s.mcLost p members
    | on =>
      let ls := on.foldl (fun ls m => match s.fabric.route m with
        | some n => ninsert ls n
        | none => ls) []
      let s := s.mcLost p (members.filter (fun m => !s.fabric.reaches m))
      ({ s with fabric := { s.fabric with splits := s.fabric.splits ++ [(p, ls)] } }).later .multicastSplit Input.none
  else
    match s.fabric.route p.dst with
    | some n => s.modLink n (·.enqueue p)
    | none => s

/-- LANE_LOSS (R22): a direction retrains at two lanes, else at one, else the link is down and its packets take another: those queued and in part
sent, each multicast that the next hop may not have received, and the copies that wait to take it (R49). Operands: n (the link), addr (the lanes
that can train), ok (the transmit direction). -/
def execLaneLoss (s : State) : Out :=
  let i := s.inp
  let w := if 2 ≤ i.addr then 2 else i.addr
  .next
    (match tget s.fabric.links i.n with
    | none => s
    | some l =>
      let l' : Link := if i.ok then { l with txLanes := min w l.txLanes } else { l with rxLanes := min w l.rxLanes }
      if w ≠ 0 then (s.modLink i.n (fun _ => { l' with retraining := true })).later .linkRetrainDone { Input.none with n := i.n }
      else
        let was := s.fabric
        let s := (s.modLink i.n (fun _ => { l' with queues := [], tx := [], again := [], replay := [], going := [], held := [] })).logError 22 i.n
        let waiting := (was.splits.filter (fun e => e.2.contains i.n)).map (·.1)
        let splits := (was.splits.map (fun e => (e.1, e.2.filter (· != i.n)))).filter (fun e => !e.2.isEmpty)
        let s := { s with fabric := { s.fabric with splits := splits } }
        let lost := l.going.filter (fun p => !p.mc) ++ (l.held.map (·.1)).filter (·.mc) ++ l.queues.flatMap (·.2) ++ waiting
        lost.foldl (fun (s : State) p => s.reroute (was.membersVia p.dst i.n) p) s)

/-- The payload of a packet cut into flits (R19, R20). -/
def flitsOf (tc lseq : Nat) (cmp : Bool) (bs : List Byte) : List Flit :=
  let n := ceilDiv bs.length 112
  (List.range n).map (fun k =>
    { cred := 0, tc := tc, cmp := cmp && k == 0, len := n - 1 - k, lseq := (lseq + k) % 256, first := k == 0
      payload := padTo 112 ((bs.drop (112 * k)).take 112) })

/-- The flits of a packet as a link schedules it (R23): coded only where that makes it shorter by a flit or more, and the code gives the packet
back: the coder is lossless. -/
def Link.schedule (l : Link) (p : Packet) : List Flit :=
  let bs := p.bytes
  let code := Config.zeroRunEncode bs
  let small := l.compressNow && decide (ceilDiv code.length 112 < ceilDiv bs.length 112)
    && packetOfFlits (flitsOf (opClass p.op) l.lseq true code) == some p
  if small then flitsOf (opClass p.op) l.lseq true code else flitsOf (opClass p.op) l.lseq false bs

/-- PACKET_SCHEDULE (R18-R23, R34): `addr` flit times pass on a link; then its transmitter grants one whole packet, round-robin over the classes
whose packet has its credits, and schedules its flits. Operands: n (the link), addr. -/
def execPacketSchedule (s : State) : Out :=
  let i := s.inp
  .next
    (match tget s.fabric.links i.n with
    | none => s
    | some l =>
      let l := Link.send i.addr l
      let s := s.modLink i.n (fun _ => l)
      let ready (c : Nat) : Option (Nat × Packet × List Packet) :=
        match tget l.queues c with
        | some (p :: r) =>
          if (l.schedule p).length ≤ (tget l.credits c).getD 0 ∧ l.tx.length + (l.schedule p).length ≤ 512 then some (c, p, r) else none
        | _ => none
      if l.retraining ∨ !l.up then s
      else
        match (List.range 8).findSome? (fun k => ready ((l.rr + 1 + k) % 8)) with
        | none => s
        | some (c, p, r) =>
          let fs := l.schedule p
          s.modLink i.n (fun l => Link.settle { l with
            queues := tset l.queues c r
            credits := tset l.credits c ((tget l.credits c).getD 0 - fs.length)
            tx := l.tx ++ fs
            going := l.going ++ [p]
            held := if c = 3 then l.held ++ [(p, fs.length)] else l.held
            lseq := (l.lseq + fs.length) % 256
            rr := c }))

/-- Whether a link has a credit of a class beyond what the packets in its queue will take (R48). -/
def Link.hasCredit (l : Link) (c : Nat) : Bool :=
  decide ((((tget l.queues c).getD []).map (fun p => (l.schedule p).length)).sum < (tget l.credits c).getD 0)

/-- The waiting multicast copies, oldest first, that can take every branch at once do so; a copy waits behind an older one that shares a
branch, and holds no credit while it waits (R48, R50). The result is the copies that still wait. -/
def State.advanceSplits (s : State) (held : List Nat) : List (Packet × List Nat) → State × List (Packet × List Nat)
  | [] => (s, [])
  | (p, ls) :: r =>
    let c := opClass p.op
    if ls.any (fun n => held.contains n) ∨ !ls.all (fun n => (tget s.fabric.links n).any (fun l => l.hasCredit c)) then
      let (s, r) := s.advanceSplits (held ++ ls) r
      (s, (p, ls) :: r)
    else (ls.foldl (fun (s : State) n => s.modLink n (·.enqueue p)) s).advanceSplits held r

/-- MULTICAST_SPLIT (R48): the waiting copies advance on every branch at once when each has a credit; until then a copy holds none. A copy that
the operands give joins those that wait. Operands: pkt, bytes (the links of the branches, none for no new copy). -/
def execMulticastSplit (s : State) : Out :=
  let i := s.inp
  let new : List (Packet × List Nat) := if i.bytes.isEmpty then [] else [(i.pkt, i.bytes.map (·.toNat))]
  let (t, left) := s.advanceSplits [] (s.fabric.splits ++ new)
  let t := { t with fabric := { t.fabric with splits := left } }
  .next (if left.isEmpty then t else t.later .multicastSplit Input.none)

/-! Clocks and power (R24-R28, R52). -/

/-- CLOCK_FAILOVER (R24): the spare reference is in use, and the switch is logged. -/
def execClockFailover (s : State) : Out := .next ({ s with clkFail := true }.logError 24 0)

/-- P1_ENTRY (R26): a core with no resident strand or ready record stops its clocks. Operand: core. -/
def execP1Entry (s : State) : Out :=
  let c := s.inp.core
  .next
    (let s := s.park
    let k := s.getCore c
    if k.power = .p0 ∧ k.slots.isEmpty ∧ k.order.all (fun p => p.2.isEmpty) then s.setCore c { k with power := .p1 } else s)

/-- What a core does not retain in P2 has free contents (R26): operand memory and the accumulator store. DESIGN CHOICE (log 7): the bind table,
of which R26 does not speak, is kept (R193 names only resets as clearing it). -/
def Core.forget (k : Core) (d : Nat) : Core :=
  { k with
    opMem := mstore [] 0 (bytesOf 0x80000 (Config.freeNat d))
    opPoison := []
    acc := (List.range 65536).map (fun i => (i, BitVec.ofNat 32 (Config.freeNat (d + 1) / 2 ^ (32 * i))))
    accBad := []
    tlb := []
    chains := [] }

/-- P2_ENTRY (R26): the harbourmaster power-gates a core that is in P1 with no engine work outstanding. Operand: core. -/
def execP2Entry (s : State) : Out :=
  let c := s.inp.core
  .next
    (let s := s.park
    let k := s.getCore c
    if k.power = .p1 ∧ (s.unsettled c).isNone then
      let s := { s with draws := s.draws + 2 }
      s.setCore c { k.forget (s.draws - 2) with power := .p2 }
    else s)

/-- P3_ENTRY (R26): a die sleeps. Operand: die. -/
def execP3Entry (s : State) : Out := .next { s.park with dieSleep := ninsert s.park.dieSleep (s.inp.die % 4) }

/-- P4_ENTRY (R26): every die is in P3, one lane of each link stays awake, and the management core is in P1. -/
def execP4Entry (s : State) : Out :=
  let s := s.park
  .next
    ({ s with
      dieSleep := [0, 1, 2, 3]
      power := .p4
      fabric := { s.fabric with links := s.fabric.links.map (fun (l : Nat × Link) => (l.1, { l.2 with low := true })) } }.modHart 8
      (fun h => { h with power := .p1 }))

/-- The module leaves P4 (R26, R28): the links and the management core run again, and the packets held at the ports are taken. -/
def State.leaveP4 (s : State) : State :=
  if s.power = .p4 then
    (({ s with power := .on }.modHart 8 (fun h => { h with power := .p0, lastKick := s.time.toNat }))).takePorts
  else s

/-- The held signals of a core applied in arrival order (R52); one that its context's full log refuses stays held, and those after it. -/
def State.applyHeld (s : State) (core : Nat) : List Signal → State
  | [] => s
  | g :: r =>
    match s.applySignal core g.asid g.laddr g.credit g.err with
    | .applied s => s.applyHeld core r
    | .error _ => s.applyHeld core r
    | .later => (s.modCore core (fun k => { k with inbox := g :: r })).later .coreWake { Input.none with core := core }

/-- CORE_WAKE (R26, R28, R51, R52): the module, the die and the core wake, and the held signals are applied in arrival order before any
strand runs. Operand: core. -/
def execCoreWake (s : State) : Out :=
  let c := s.inp.core
  .next
    (let s := s.park.leaveP4
    let s := { s with dieSleep := nremove s.dieSleep (dieOf c) }
    let k := s.getCore c
    (s.setCore c { k with power := .p0, inbox := [] }).applyHeld c k.inbox)

/-! The debug port (R89). -/

/-- What an access through the debug port is (log 64): a read of always-on registers or the manifest, of control state and performance counters,
of a strand's registers, of memory, of a core's local memory, operand memory or accumulator store, of a hart, of the command mailbox, or a trace of
what a core runs; a halt or its end; a write of one of those memories, or a scan into a strand's or a hart's register. -/
inductive DebugKind where
  | manifest | alwaysOn | control | registers | memory | localMem | operands | accumulators | hart | mailbox | trace
  | halt (on : Bool)
  | write | writeLocal | writeOperands | writeAccumulators | scan | scanHart
  deriving DecidableEq, Repr

/-- The kind of an access, by its code and direction. -/
def debugKind (n : Nat) (write : Bool) : Option DebugKind :=
  match n, write with
  | 0, false => some .memory
  | 1, false => some .manifest
  | 2, false => some .control
  | 3, false => some .registers
  | 4, false => some .localMem
  | 0, true => some .write
  | 3, true => some .scan
  | 4, true => some .writeLocal
  | 5, w => some (.halt w)
  | 6, false => some .operands
  | 6, true => some .writeOperands
  | 7, false => some .accumulators
  | 7, true => some .writeAccumulators
  | 8, false => some .hart
  | 8, true => some .scanHart
  | 9, false => some .mailbox
  | 10, false => some .alwaysOn
  | 11, false => some .trace
  | _, _ => none

/-- Whether an access changes something, and whether it reads what stays on while a die sleeps. -/
def DebugKind.changes : DebugKind → Bool
  | .halt _ | .write | .writeLocal | .writeOperands | .writeAccumulators | .scan | .scanHart => true
  | _ => false
def DebugKind.standing : DebugKind → Bool
  | .manifest | .alwaysOn => true
  | _ => false

/-- Whether the lifecycle state and the debug mode allow an access on a die that is awake or asleep (R89). -/
def debugAllows (l : Lifecycle) (m : Debug) (asleep : Bool) (k : DebugKind) : Bool :=
  match m with
  | .off => false
  | .observe =>
    !k.changes && (k.standing || (!asleep && (decide (l ≠ .production) || k == .control)))
  | .invasive => !asleep || k.standing || k.changes

/-- A strand's register by its number at the debug port (log 64): scalars from 0, vectors from 32, masks from 64, the pc, VL, VTYPE, SSTAT, the
exception indices, ESTART, MROW, MKSTEP. -/
def Strand.debugReg (st : Strand) (n : Nat) : List Byte :=
  if n < 32 then bytesOf 8 (st.regs.xs.toList.getD n 0).toNat
  else if n < 64 then bytesOf 8192 (st.regs.vs.toList.getD (n - 32) { bits := 0, tag := 0 }).bits.toNat
  else if n < 72 then bytesOf 1024 (st.regs.ms.toList.getD (n - 64) 0).toNat
  else if n = 72 then bytesOf 8 st.pc.toNat
  else if n = 73 then bytesOf 8 st.regs.vl
  else if n = 74 then bytesOf 8 st.regs.vtype.toNat
  else if n = 75 then bytesOf 8 st.regs.sstat.toNat
  else if n < 81 then bytesOf 8 (st.regs.eix.toList.getD (n - 76) 0).toNat
  else if n = 81 then bytesOf 8 st.regs.estart.toNat
  else if n = 82 then bytesOf 8 st.regs.mrow.toNat
  else if n = 83 then bytesOf 8 st.regs.mkstep.toNat
  else []

/-- A hart's register by its number at the debug port: integer registers from 0, floating-point ones from 32, the pc, fcsr, the mode; from 4,096 the
CSRs. -/
def State.debugHart (s : State) (h n : Nat) : List Byte :=
  let r := (s.hart h).rv
  if n < 32 then bytesOf 8 (r.xs.toList.getD n 0).toNat
  else if n < 64 then bytesOf 8 (r.fs.toList.getD (n - 32) 0).toNat
  else if n = 64 then bytesOf 8 r.pc.toNat
  else if n = 65 then bytesOf 8 r.mode.code
  else if 4096 ≤ n then
    bytesOf 8 (if 0x7C0 ≤ n - 4096 ∧ n - 4096 ≤ 0x7FF then (s.readCsr h (n - 4096)).getD 0
      else (r.read h s.time.toNat (s.irqLine h) (n - 4096)).getD 0)
  else []

/-- The always-on registers: TIME, the module's power state, the dies that sleep, a core's power state and the signals that its inbox holds (R25, R26,
R51). -/
def State.alwaysOn (s : State) (core : Nat) : List Byte :=
  let k := s.getCore core
  bytesOf 8 s.time.toNat
    ++ bytesOf 1 (match s.power with
      | .on => 0
      | .p4 => 4
      | .off => 5)
    ++ bytesOf 1 ((s.dieSleep.map (2 ^ ·)).sum)
    ++ bytesOf 1 (match k.power with
      | .p0 => 0
      | .p1 => 1
      | .p2 => 2
      | .p3 => 3
      | .p4 => 4)
    ++ bytesOf 1 k.inbox.length
    ++ k.inbox.flatMap (fun g => bytesOf 2 g.asid ++ bytesOf 4 g.laddr ++ bytesOf 8 g.credit.toNat ++ bytesOf 8 g.err)

/-- A trace of a core: its cycle, and of each resident strand the slot, the step, the address of the word at its scalar stream, and that of the word in
execution with 1, or 0 where there is none. -/
def Core.trace (k : Core) : List Byte :=
  bytesOf 8 k.cycle.toNat ++ k.slots.flatMap (fun p =>
    bytesOf 1 p.1 ++ bytesOf 8 p.2.cell ++ bytesOf 8 p.2.pc.toNat ++ bytesOf 1 (bit p.2.cv.live)
      ++ bytesOf 8 (p.2.cv.entry.cpc.toNat + 4 * p.2.cv.k))

/-- The bytes that a read through the debug port gives. -/
def State.debugRead (s : State) (k : DebugKind) (i : Input) : List Byte :=
  let c := s.getCore i.core
  match k with
  | .manifest => (s.manifest.drop i.addr).take i.queue
  | .alwaysOn => s.alwaysOn i.core
  | .control =>
    bytesOf 8 (s.readPort i.core i.addr) ++ bytesOf 8 c.cycle.toNat ++ bytesOf 8 s.time.toNat
  | .registers =>
    (match tget c.slots i.slot with
    | none => []
    | some st => st.debugReg i.addr)
  | .memory => if inMemory i.addr i.queue then mbytes s.mem i.addr i.queue else []
  | .localMem => mbytes c.loc i.addr i.queue
  | .operands => mbytes c.opMem i.addr i.queue
  | .accumulators => (List.range (i.queue / 4)).flatMap (fun j => bytesOf 4 ((tget c.acc (i.addr / 4 + j)).getD 0).toNat)
  | .hart => s.debugHart (i.hart % 9) i.addr
  | .mailbox => bytesOf 8 (s.readMbx i.addr)
  | .trace => c.trace
  | _ => []

/-- A strand's register scanned in. -/
def Strand.scan (st : Strand) (n : Nat) (bs : List Byte) : Strand :=
  let v := valueOf bs
  if n = 0 then st
  else if n < 32 then { st with regs := { st.regs with xs := st.regs.xs.mapIdx (fun j x => if j = n then BitVec.ofNat 64 v else x) } }
  else if n < 64 then
    { st with regs := { st.regs with
      vs := st.regs.vs.mapIdx (fun j r => if j = n - 32 then { bits := BitVec.ofNat 65536 v, tag := bs.length } else r) } }
  else if n < 72 then
    { st with regs := { st.regs with ms := st.regs.ms.mapIdx (fun j m => if j = n - 64 then BitVec.ofNat 8192 v else m) } }
  else if n = 72 then { st with pc := BitVec.ofNat 64 v }
  else if n = 73 then { st with regs := { st.regs with vl := v } }
  else if n = 74 then { st with regs := { st.regs with vtype := BitVec.ofNat 64 v } }
  else if n = 75 then { st with regs := { st.regs with sstat := BitVec.ofNat 64 v } }
  else if n < 81 then { st with regs := { st.regs with eix := st.regs.eix.mapIdx (fun j x => if j = n - 76 then BitVec.ofNat 64 v else x) } }
  else if n = 81 then { st with regs := { st.regs with estart := BitVec.ofNat 16 v } }
  else if n = 82 then { st with regs := { st.regs with mrow := BitVec.ofNat 7 v } }
  else if n = 83 then { st with regs := { st.regs with mkstep := BitVec.ofNat 32 v } }
  else st

/-- A hart's register scanned in. -/
def State.scanHart (s : State) (h n v : Nat) : State :=
  if n < 32 then s.modRv h (fun r => r.setX n v)
  else if n < 64 then s.modRv h (fun r => { r with fs := r.fs.mapIdx (fun j x => if j = n - 32 then BitVec.ofNat 64 v else x) })
  else if n = 64 then s.modRv h (fun r => { r with pc := BitVec.ofNat 64 v })
  else if n = 65 then s.modRv h (fun r => { r with mode := rvModeOf (v % 4) })
  else if 4096 ≤ n then s.hartCsrPut h (n - 4096) (BitVec.ofNat 64 v)
  else s

/-- A change made through the debug port. -/
def State.debugChange (s : State) (k : DebugKind) (i : Input) : State :=
  match k with
  | .halt on => s.modCore i.core (fun c => { c with halted := on })
  | .write =>
    (match s.writePhys i.addr i.bytes with
    | .ok s => s
    | .error _ => s)
  | .writeLocal => s.modCore i.core (fun c => if i.addr + i.bytes.length ≤ 0x300000 then c.locWrite i.addr i.bytes else c)
  | .writeOperands => s.modCore i.core (fun c => if i.addr + i.bytes.length ≤ 0x80000 then { c with opMem := mstore c.opMem i.addr i.bytes } else c)
  | .writeAccumulators =>
    s.modCore i.core (fun c => if i.addr + 4 ≤ 0x40000 then { c with acc := tset c.acc (i.addr / 4) (BitVec.ofNat 32 (valueOf i.bytes)) } else c)
  | .scan =>
    s.modCore i.core (fun c => { c with slots := c.slots.map (fun p => if p.1 = i.slot then (p.1, p.2.scan i.addr i.bytes) else p) })
  | .scanHart => s.scanHart (i.hart % 9) i.addr (valueOf i.bytes)
  | _ => s

/-- DEBUG_ACCESS (R89): an access through the debug port, inert where the lifecycle state and the debug mode give none. A read's bytes go out; a
write to a die in P3 or a module in P4 wakes it first. Operands: n (the kind's code), ok (a write), addr, queue (a read's length), bytes, core,
slot, hart, die. -/
def execDebugAccess (s : State) : Out :=
  let i := s.inp
  .next
    (match debugKind i.n i.ok with
    | none => s
    | some k =>
      let asleep := decide (s.power = ModPower.p4) || s.dieSleep.contains (i.die % 4)
      if !debugAllows s.fw.lifecycle s.fw.debug asleep k then s
      else
        let s := { s.park with fw := { s.fw with debugAccesses := s.fw.debugAccesses + 1 } }
        if k.changes then
          (if asleep then
            let s := s.leaveP4
            { s with dieSleep := nremove s.dieSleep (i.die % 4) }.debugChange k i
          else s.debugChange k i)
        else { s with fw := { s.fw with debugOut := s.fw.debugOut ++ s.debugRead k i } })

end Sys2Proof.Machine
end

