-- ==== Sys2Proof/Machine/Dispatch.lean ====
section
/-! DEFINITION. The dispatch: one arm per constructor of `Instr`, each a direct call of that instruction's meaning. -/

namespace Sys2Proof.Machine

open Sys2Proof

def exec (i : Instr) (s : State) : Host.Outcome State Fault Refusal :=
  match i with
  | .createQueue => Sys2Proof.Machine.execCreateQueue s
  | .deleteQueue => Sys2Proof.Machine.execDeleteQueue s
  | .openAperture => Sys2Proof.Machine.execOpenAperture s
  | .closeAperture => Sys2Proof.Machine.execCloseAperture s
  | .createContext => Sys2Proof.Machine.execCreateContext s
  | .destroyContext => Sys2Proof.Machine.execDestroyContext s
  | .setHomeMap => Sys2Proof.Machine.execSetHomeMap s
  | .launch => Sys2Proof.Machine.execLaunch s
  | .preempt => Sys2Proof.Machine.execPreempt s
  | .resume => Sys2Proof.Machine.execResume s
  | .map => Sys2Proof.Machine.execMap s
  | .unmap => Sys2Proof.Machine.execUnmap s
  | .freePage => Sys2Proof.Machine.execFreePage s
  | .readManifest => Sys2Proof.Machine.execReadManifest s
  | .fwStage => Sys2Proof.Machine.execFwStage s
  | .fwActivate => Sys2Proof.Machine.execFwActivate s
  | .fwCommit => Sys2Proof.Machine.execFwCommit s
  | .fwQuery => Sys2Proof.Machine.execFwQuery s
  | .debugUnlock => Sys2Proof.Machine.execDebugUnlock s
  | .lifecycle => Sys2Proof.Machine.execLifecycle s
  | .measureExtend => Sys2Proof.Machine.execMeasureExtend s
  | .ownerSet => Sys2Proof.Machine.execOwnerSet s
  | .submissionFetch => Sys2Proof.Machine.execSubmissionFetch s
  | .commandCompletion => Sys2Proof.Machine.execCommandCompletion s
  | .mailboxWrite => Sys2Proof.Machine.execMailboxWrite s
  | .sqdb => Sys2Proof.Machine.execSqdb s
  | .cqdb => Sys2Proof.Machine.execCqdb s
  | .admctlBind => Sys2Proof.Machine.execAdmctlBind s
  | .admctlUnbind => Sys2Proof.Machine.execAdmctlUnbind s
  | .adminQueueUnbindDone => Sys2Proof.Machine.execAdminQueueUnbindDone s
  | .registerWrite => Sys2Proof.Machine.execRegisterWrite s
  | .bhmsub => Sys2Proof.Machine.execBhmsub s
  | .bfresaResolve => Sys2Proof.Machine.execBfresaResolve s
  | .bfresaFault => Sys2Proof.Machine.execBfresaFault s
  | .bfltactResume => Sys2Proof.Machine.execBfltactResume s
  | .bfltactKill => Sys2Proof.Machine.execBfltactKill s
  | .bwdkick => Sys2Proof.Machine.execBwdkick s
  | .ccmdQuiesce => Sys2Proof.Machine.execCcmdQuiesce s
  | .ccmdResume => Sys2Proof.Machine.execCcmdResume s
  | .ccmdReset => Sys2Proof.Machine.execCcmdReset s
  | .ccmdTlbinv => Sys2Proof.Machine.execCcmdTlbinv s
  | .ccmdFlushChainCache => Sys2Proof.Machine.execCcmdFlushChainCache s
  | .hmcqpop => Sys2Proof.Machine.execHmcqpop s
  | .hmTakeRecord => Sys2Proof.Machine.execHmTakeRecord s
  | .launchResubmit => Sys2Proof.Machine.execLaunchResubmit s
  | .launchCoreConfigure => Sys2Proof.Machine.execLaunchCoreConfigure s
  | .walkerStep => Sys2Proof.Machine.execWalkerStep s
  | .queueAgeReady => Sys2Proof.Machine.execQueueAgeReady s
  | .strandGrant => Sys2Proof.Machine.execStrandGrant s
  | .preemptDecision => Sys2Proof.Machine.execPreemptDecision s
  | .forcedLeave => Sys2Proof.Machine.execForcedLeave s
  | .faultQueueRetry => Sys2Proof.Machine.execFaultQueueRetry s
  | .scoreboardTimeout => Sys2Proof.Machine.execScoreboardTimeout s
  | .hazardTimeout => Sys2Proof.Machine.execHazardTimeout s
  | .convoySplit => Sys2Proof.Machine.execConvoySplit s
  | .launchEnd => Sys2Proof.Machine.execLaunchEnd s
  | .hmCompletionWrite => Sys2Proof.Machine.execHmCompletionWrite s
  | .contextSave => Sys2Proof.Machine.execContextSave s
  | .stepBudgetExpiry => Sys2Proof.Machine.execStepBudgetExpiry s
  | .heartbeatExpiry => Sys2Proof.Machine.execHeartbeatExpiry s
  | .watchdogWarning => Sys2Proof.Machine.execWatchdogWarning s
  | .warmRestart => Sys2Proof.Machine.execWarmRestart s
  | .dieReset => Sys2Proof.Machine.execDieReset s
  | .moduleReset => Sys2Proof.Machine.execModuleReset s
  | .boot => Sys2Proof.Machine.execBoot s
  | .bootTimeout => Sys2Proof.Machine.execBootTimeout s
  | .powerLoss => Sys2Proof.Machine.execPowerLoss s
  | .cpHandover => Sys2Proof.Machine.execCpHandover s
  | .swapTimeout => Sys2Proof.Machine.execSwapTimeout s
  | .rcvyBegin => Sys2Proof.Machine.execRcvyBegin s
  | .rcvyData => Sys2Proof.Machine.execRcvyData s
  | .rcvyEnd => Sys2Proof.Machine.execRcvyEnd s
  | .rcvyQuery => Sys2Proof.Machine.execRcvyQuery s
  | .getVersion => Sys2Proof.Machine.execGetVersion s
  | .getCapabilities => Sys2Proof.Machine.execGetCapabilities s
  | .negotiateAlgorithms => Sys2Proof.Machine.execNegotiateAlgorithms s
  | .getDigests => Sys2Proof.Machine.execGetDigests s
  | .getCertificate => Sys2Proof.Machine.execGetCertificate s
  | .challenge => Sys2Proof.Machine.execChallenge s
  | .getMeasurements => Sys2Proof.Machine.execGetMeasurements s
  | .chunkSend => Sys2Proof.Machine.execChunkSend s
  | .chunkGet => Sys2Proof.Machine.execChunkGet s
  | .debugAccess => Sys2Proof.Machine.execDebugAccess s
  | .flitReceive => Sys2Proof.Machine.execFlitReceive s
  | .linkReplay => Sys2Proof.Machine.execLinkReplay s
  | .linkRetrainDone => Sys2Proof.Machine.execLinkRetrainDone s
  | .laneLoss => Sys2Proof.Machine.execLaneLoss s
  | .packetSchedule => Sys2Proof.Machine.execPacketSchedule s
  | .multicastSplit => Sys2Proof.Machine.execMulticastSplit s
  | .clockFailover => Sys2Proof.Machine.execClockFailover s
  | .readRequest => Sys2Proof.Machine.execReadRequest s
  | .writeRequest => Sys2Proof.Machine.execWriteRequest s
  | .atomicRequest => Sys2Proof.Machine.execAtomicRequest s
  | .appendReservation => Sys2Proof.Machine.execAppendReservation s
  | .messageAppend => Sys2Proof.Machine.execMessageAppend s
  | .signalArrival => Sys2Proof.Machine.execSignalArrival s
  | .multicastMessage => Sys2Proof.Machine.execMulticastMessage s
  | .pagerService => Sys2Proof.Machine.execPagerService s
  | .routeAndLinkMaintenance => Sys2Proof.Machine.execRouteAndLinkMaintenance s
  | .reservedOp => Sys2Proof.Machine.execReservedOp s
  | .responseWithData => Sys2Proof.Machine.execResponseWithData s
  | .acknowledgement => Sys2Proof.Machine.execAcknowledgement s
  | .errorResponse => Sys2Proof.Machine.execErrorResponse s
  | .retryLaterResponse => Sys2Proof.Machine.execRetryLaterResponse s
  | .retryLaterResend => Sys2Proof.Machine.execRetryLaterResend s
  | .retransmitTimeout => Sys2Proof.Machine.execRetransmitTimeout s
  | .cxlReadTimeout => Sys2Proof.Machine.execCxlReadTimeout s
  | .cxlViral => Sys2Proof.Machine.execCxlViral s
  | .patrolScrub => Sys2Proof.Machine.execPatrolScrub s
  | .p1Entry => Sys2Proof.Machine.execP1Entry s
  | .p2Entry => Sys2Proof.Machine.execP2Entry s
  | .p3Entry => Sys2Proof.Machine.execP3Entry s
  | .p4Entry => Sys2Proof.Machine.execP4Entry s
  | .coreWake => Sys2Proof.Machine.execCoreWake s
  | .loadDataReturn => Sys2Proof.Machine.execLoadDataReturn s
  | .registrationAnswer => Sys2Proof.Machine.execRegistrationAnswer s
  | .registrationTimeout => Sys2Proof.Machine.execRegistrationTimeout s
  | .futureRegistration => Sys2Proof.Machine.execFutureRegistration s
  | .futureResolution => Sys2Proof.Machine.execFutureResolution s
  | .waiterReady => Sys2Proof.Machine.execWaiterReady s
  | .answerArrival => Sys2Proof.Machine.execAnswerArrival s
  | .heldReleaseWrite => Sys2Proof.Machine.execHeldReleaseWrite s
  | .globalWritePerform => Sys2Proof.Machine.execGlobalWritePerform s
  | .globalReadPerform => Sys2Proof.Machine.execGlobalReadPerform s
  | .copyTransferComplete => Sys2Proof.Machine.execCopyTransferComplete s
  | .streamEnd => Sys2Proof.Machine.execStreamEnd s
  | .stevedorePushFill => Sys2Proof.Machine.execStevedorePushFill s
  | .stevedorePullDrain => Sys2Proof.Machine.execStevedorePullDrain s
  | .matrixCommandFinish => Sys2Proof.Machine.execMatrixCommandFinish s
  | .transformPerform => Sys2Proof.Machine.execTransformPerform s
  | .publishSwap => Sys2Proof.Machine.execPublishSwap s
  | .add rd rs1 rs2 => Sys2Proof.Machine.execAdd rd rs1 rs2 s
  | .sub rd rs1 rs2 => Sys2Proof.Machine.execSub rd rs1 rs2 s
  | .sll rd rs1 rs2 => Sys2Proof.Machine.execSll rd rs1 rs2 s
  | .slt rd rs1 rs2 => Sys2Proof.Machine.execSlt rd rs1 rs2 s
  | .sltu rd rs1 rs2 => Sys2Proof.Machine.execSltu rd rs1 rs2 s
  | .xor rd rs1 rs2 => Sys2Proof.Machine.execXor rd rs1 rs2 s
  | .srl rd rs1 rs2 => Sys2Proof.Machine.execSrl rd rs1 rs2 s
  | .sra rd rs1 rs2 => Sys2Proof.Machine.execSra rd rs1 rs2 s
  | .or rd rs1 rs2 => Sys2Proof.Machine.execOr rd rs1 rs2 s
  | .and rd rs1 rs2 => Sys2Proof.Machine.execAnd rd rs1 rs2 s
  | .mul rd rs1 rs2 => Sys2Proof.Machine.execMul rd rs1 rs2 s
  | .mulh rd rs1 rs2 => Sys2Proof.Machine.execMulh rd rs1 rs2 s
  | .mulhu rd rs1 rs2 => Sys2Proof.Machine.execMulhu rd rs1 rs2 s
  | .div rd rs1 rs2 => Sys2Proof.Machine.execDiv rd rs1 rs2 s
  | .divu rd rs1 rs2 => Sys2Proof.Machine.execDivu rd rs1 rs2 s
  | .rem rd rs1 rs2 => Sys2Proof.Machine.execRem rd rs1 rs2 s
  | .remu rd rs1 rs2 => Sys2Proof.Machine.execRemu rd rs1 rs2 s
  | .lea rd rs1 rs2 n => Sys2Proof.Machine.execLea rd rs1 rs2 n s
  | .min rd rs1 rs2 => Sys2Proof.Machine.execMin rd rs1 rs2 s
  | .max rd rs1 rs2 => Sys2Proof.Machine.execMax rd rs1 rs2 s
  | .minu rd rs1 rs2 => Sys2Proof.Machine.execMinu rd rs1 rs2 s
  | .maxu rd rs1 rs2 => Sys2Proof.Machine.execMaxu rd rs1 rs2 s
  | .clz rd rs1 => Sys2Proof.Machine.execClz rd rs1 s
  | .ctz rd rs1 => Sys2Proof.Machine.execCtz rd rs1 s
  | .popc rd rs1 => Sys2Proof.Machine.execPopc rd rs1 s
  | .addi rd rs1 imm => Sys2Proof.Machine.execAddi rd rs1 imm s
  | .slti rd rs1 imm => Sys2Proof.Machine.execSlti rd rs1 imm s
  | .sltiu rd rs1 imm => Sys2Proof.Machine.execSltiu rd rs1 imm s
  | .xori rd rs1 imm => Sys2Proof.Machine.execXori rd rs1 imm s
  | .ori rd rs1 imm => Sys2Proof.Machine.execOri rd rs1 imm s
  | .andi rd rs1 imm => Sys2Proof.Machine.execAndi rd rs1 imm s
  | .slli rd rs1 sh => Sys2Proof.Machine.execSlli rd rs1 sh s
  | .srli rd rs1 sh => Sys2Proof.Machine.execSrli rd rs1 sh s
  | .srai rd rs1 sh => Sys2Proof.Machine.execSrai rd rs1 sh s
  | .lui rd imm => Sys2Proof.Machine.execLui rd imm s
  | .addpc rd imm => Sys2Proof.Machine.execAddpc rd imm s
  | .beq rs1 rs2 imm => Sys2Proof.Machine.execBeq rs1 rs2 imm s
  | .bne rs1 rs2 imm => Sys2Proof.Machine.execBne rs1 rs2 imm s
  | .blt rs1 rs2 imm => Sys2Proof.Machine.execBlt rs1 rs2 imm s
  | .bge rs1 rs2 imm => Sys2Proof.Machine.execBge rs1 rs2 imm s
  | .bltu rs1 rs2 imm => Sys2Proof.Machine.execBltu rs1 rs2 imm s
  | .bgeu rs1 rs2 imm => Sys2Proof.Machine.execBgeu rs1 rs2 imm s
  | .jal rd imm => Sys2Proof.Machine.execJal rd imm s
  | .jalr rd rs1 imm => Sys2Proof.Machine.execJalr rd rs1 imm s
  | .ldB rd rs1 imm => Sys2Proof.Machine.execLdB rd rs1 imm s
  | .ldH rd rs1 imm => Sys2Proof.Machine.execLdH rd rs1 imm s
  | .ldW rd rs1 imm => Sys2Proof.Machine.execLdW rd rs1 imm s
  | .ldD rd rs1 imm => Sys2Proof.Machine.execLdD rd rs1 imm s
  | .ldBu rd rs1 imm => Sys2Proof.Machine.execLdBu rd rs1 imm s
  | .ldHu rd rs1 imm => Sys2Proof.Machine.execLdHu rd rs1 imm s
  | .ldWu rd rs1 imm => Sys2Proof.Machine.execLdWu rd rs1 imm s
  | .stB rs2 rs1 imm => Sys2Proof.Machine.execStB rs2 rs1 imm s
  | .stH rs2 rs1 imm => Sys2Proof.Machine.execStH rs2 rs1 imm s
  | .stW rs2 rs1 imm => Sys2Proof.Machine.execStW rs2 rs1 imm s
  | .stD rs2 rs1 imm => Sys2Proof.Machine.execStD rs2 rs1 imm s
  | .ldgLB o => Sys2Proof.Machine.execLdgLB o s
  | .ldgLH o => Sys2Proof.Machine.execLdgLH o s
  | .ldgLW o => Sys2Proof.Machine.execLdgLW o s
  | .ldgLD o => Sys2Proof.Machine.execLdgLD o s
  | .ldgLBu o => Sys2Proof.Machine.execLdgLBu o s
  | .ldgLHu o => Sys2Proof.Machine.execLdgLHu o s
  | .ldgLWu o => Sys2Proof.Machine.execLdgLWu o s
  | .stgB rs2 rs1 imm => Sys2Proof.Machine.execStgB rs2 rs1 imm s
  | .stgH rs2 rs1 imm => Sys2Proof.Machine.execStgH rs2 rs1 imm s
  | .stgW rs2 rs1 imm => Sys2Proof.Machine.execStgW rs2 rs1 imm s
  | .stgD rs2 rs1 imm => Sys2Proof.Machine.execStgD rs2 rs1 imm s
  | .fence kind scope => Sys2Proof.Machine.execFence kind scope s
  | .fenceSv => Sys2Proof.Machine.execFenceSv s
  | .fenceVs => Sys2Proof.Machine.execFenceVs s
  | .ldAcq rd rs1 wid loc scope => Sys2Proof.Machine.execLdAcq rd rs1 wid loc scope s
  | .stRel rs2 rs1 wid loc scope => Sys2Proof.Machine.execStRel rs2 rs1 wid loc scope s
  | .bind rd rs1 rs2 => Sys2Proof.Machine.execBind rd rs1 rs2 s
  | .unbind rd rs1 rs2 => Sys2Proof.Machine.execUnbind rd rs1 rs2 s
  | .fres rs1 rs2 => Sys2Proof.Machine.execFres rs1 rs2 s
  | .barinit rs1 rs2 => Sys2Proof.Machine.execBarinit rs1 rs2 s
  | .barexp rs1 rs2 => Sys2Proof.Machine.execBarexp rs1 rs2 s
  | .bararr rs1 rs2 => Sys2Proof.Machine.execBararr rs1 rs2 s
  | .waitfL o => Sys2Proof.Machine.execWaitfL o s
  | .barwL o => Sys2Proof.Machine.execBarwL o s
  | .amoAddB o => Sys2Proof.Machine.execAmoAddB o s
  | .amoAddH o => Sys2Proof.Machine.execAmoAddH o s
  | .amoAddW o => Sys2Proof.Machine.execAmoAddW o s
  | .amoAddD o => Sys2Proof.Machine.execAmoAddD o s
  | .amoSwapB o => Sys2Proof.Machine.execAmoSwapB o s
  | .amoSwapH o => Sys2Proof.Machine.execAmoSwapH o s
  | .amoSwapW o => Sys2Proof.Machine.execAmoSwapW o s
  | .amoSwapD o => Sys2Proof.Machine.execAmoSwapD o s
  | .amoCasB o => Sys2Proof.Machine.execAmoCasB o s
  | .amoCasH o => Sys2Proof.Machine.execAmoCasH o s
  | .amoCasW o => Sys2Proof.Machine.execAmoCasW o s
  | .amoCasD o => Sys2Proof.Machine.execAmoCasD o s
  | .amoAndW o => Sys2Proof.Machine.execAmoAndW o s
  | .amoAndD o => Sys2Proof.Machine.execAmoAndD o s
  | .amoOrW o => Sys2Proof.Machine.execAmoOrW o s
  | .amoOrD o => Sys2Proof.Machine.execAmoOrD o s
  | .amoXorW o => Sys2Proof.Machine.execAmoXorW o s
  | .amoXorD o => Sys2Proof.Machine.execAmoXorD o s
  | .amoMinW o => Sys2Proof.Machine.execAmoMinW o s
  | .amoMinD o => Sys2Proof.Machine.execAmoMinD o s
  | .amoMaxW o => Sys2Proof.Machine.execAmoMaxW o s
  | .amoMaxD o => Sys2Proof.Machine.execAmoMaxD o s
  | .amoAddBf16 o => Sys2Proof.Machine.execAmoAddBf16 o s
  | .amoAddF32 o => Sys2Proof.Machine.execAmoAddF32 o s
  | .amoAddF64 o => Sys2Proof.Machine.execAmoAddF64 o s
  | .amoAmaxBf16 o => Sys2Proof.Machine.execAmoAmaxBf16 o s
  | .amoAmaxF16 o => Sys2Proof.Machine.execAmoAmaxF16 o s
  | .amoAmaxF32 o => Sys2Proof.Machine.execAmoAmaxF32 o s
  | .amoAmaxF64 o => Sys2Proof.Machine.execAmoAmaxF64 o s
  | .append o => Sys2Proof.Machine.execAppend o s
  | .seal o => Sys2Proof.Machine.execSeal o s
  | .exit => Sys2Proof.Machine.execExit s
  | .csrw idx rs1 => Sys2Proof.Machine.execCsrw idx rs1 s
  | .csrs idx rs1 => Sys2Proof.Machine.execCsrs idx rs1 s
  | .csrc idx rs1 => Sys2Proof.Machine.execCsrc idx rs1 s
  | .csrr rd idx => Sys2Proof.Machine.execCsrr rd idx s
  | .fork o => Sys2Proof.Machine.execFork o s
  | .yieldL o => Sys2Proof.Machine.execYieldL o s
  | .trap code => Sys2Proof.Machine.execTrap code s
  | .msend rd rs1 rs2 len => Sys2Proof.Machine.execMsend rd rs1 rs2 len s
  | .msendMc rs1 rs2 len => Sys2Proof.Machine.execMsendMc rs1 rs2 len s
  | .signal rd rs1 rs2 => Sys2Proof.Machine.execSignal rd rs1 rs2 s
  | .mrecvL o => Sys2Proof.Machine.execMrecvL o s
  | .qpushL o => Sys2Proof.Machine.execQpushL o s
  | .cpy rd rs1 rs2 => Sys2Proof.Machine.execCpy rd rs1 rs2 s
  | .stream rd rs1 rs2 => Sys2Proof.Machine.execStream rd rs1 rs2 s
  | .xform rd rs1 rs2 => Sys2Proof.Machine.execXform rd rs1 rs2 s
  | .publish rs1 rs2 => Sys2Proof.Machine.execPublish rs1 rs2 s
  | .subscr rd rs1 rs2 => Sys2Proof.Machine.execSubscr rd rs1 rs2 s
  | .subrel rs1 rs2 => Sys2Proof.Machine.execSubrel rs1 rs2 s
  | .deviceLaunch rd rs1 => Sys2Proof.Machine.execDeviceLaunch rd rs1 s
  | .cpywaitL o => Sys2Proof.Machine.execCpywaitL o s
  | .vwaitL o => Sys2Proof.Machine.execVwaitL o s
  | .vsetvl o => Sys2Proof.Machine.execVsetvl o s
  | .vsettype o => Sys2Proof.Machine.execVsettype o s
  | .vadd o => Sys2Proof.Machine.execVadd o s
  | .vsub o => Sys2Proof.Machine.execVsub o s
  | .vmul o => Sys2Proof.Machine.execVmul o s
  | .vmulh o => Sys2Proof.Machine.execVmulh o s
  | .vmulhu o => Sys2Proof.Machine.execVmulhu o s
  | .vand o => Sys2Proof.Machine.execVand o s
  | .vor o => Sys2Proof.Machine.execVor o s
  | .vxor o => Sys2Proof.Machine.execVxor o s
  | .vsll o => Sys2Proof.Machine.execVsll o s
  | .vsrl o => Sys2Proof.Machine.execVsrl o s
  | .vsra o => Sys2Proof.Machine.execVsra o s
  | .vmin o => Sys2Proof.Machine.execVmin o s
  | .vmax o => Sys2Proof.Machine.execVmax o s
  | .vsadd o => Sys2Proof.Machine.execVsadd o s
  | .vssub o => Sys2Proof.Machine.execVssub o s
  | .vaddi o => Sys2Proof.Machine.execVaddi o s
  | .vfadd o => Sys2Proof.Machine.execVfadd o s
  | .vfsub o => Sys2Proof.Machine.execVfsub o s
  | .vfmul o => Sys2Proof.Machine.execVfmul o s
  | .vfma o => Sys2Proof.Machine.execVfma o s
  | .vfdiv o => Sys2Proof.Machine.execVfdiv o s
  | .vfsqrt o => Sys2Proof.Machine.execVfsqrt o s
  | .vfmin o => Sys2Proof.Machine.execVfmin o s
  | .vfmax o => Sys2Proof.Machine.execVfmax o s
  | .vcvt o => Sys2Proof.Machine.execVcvt o s
  | .vquant o => Sys2Proof.Machine.execVquant o s
  | .vdequant o => Sys2Proof.Machine.execVdequant o s
  | .vredsumO o => Sys2Proof.Machine.execVredsumO o s
  | .vredsumU o => Sys2Proof.Machine.execVredsumU o s
  | .vscanO o => Sys2Proof.Machine.execVscanO o s
  | .vscanF o => Sys2Proof.Machine.execVscanF o s
  | .vrand o => Sys2Proof.Machine.execVrand o s
  | .vcmpEq o => Sys2Proof.Machine.execVcmpEq o s
  | .vcmpNe o => Sys2Proof.Machine.execVcmpNe o s
  | .vcmpLt o => Sys2Proof.Machine.execVcmpLt o s
  | .vcmpLe o => Sys2Proof.Machine.execVcmpLe o s
  | .vcmpLtu o => Sys2Proof.Machine.execVcmpLtu o s
  | .vcmpLeu o => Sys2Proof.Machine.execVcmpLeu o s
  | .mand o => Sys2Proof.Machine.execMand o s
  | .mor o => Sys2Proof.Machine.execMor o s
  | .mxor o => Sys2Proof.Machine.execMxor o s
  | .mnot o => Sys2Proof.Machine.execMnot o s
  | .mpop o => Sys2Proof.Machine.execMpop o s
  | .mfirst o => Sys2Proof.Machine.execMfirst o s
  | .vredmax o => Sys2Proof.Machine.execVredmax o s
  | .vredmin o => Sys2Proof.Machine.execVredmin o s
  | .vredamax o => Sys2Proof.Machine.execVredamax o s
  | .vargmax o => Sys2Proof.Machine.execVargmax o s
  | .vperm o => Sys2Proof.Machine.execVperm o s
  | .vslideup o => Sys2Proof.Machine.execVslideup o s
  | .vslidedn o => Sys2Proof.Machine.execVslidedn o s
  | .vcompress o => Sys2Proof.Machine.execVcompress o s
  | .vexpand o => Sys2Proof.Machine.execVexpand o s
  | .vbcast o => Sys2Proof.Machine.execVbcast o s
  | .vmovsv o => Sys2Proof.Machine.execVmovsv o s
  | .vmovvs o => Sys2Proof.Machine.execVmovvs o s
  | .vgperm o => Sys2Proof.Machine.execVgperm o s
  | .vgred o => Sys2Proof.Machine.execVgred o s
  | .vcapp o => Sys2Proof.Machine.execVcapp o s
  | .vld o => Sys2Proof.Machine.execVld o s
  | .vlds o => Sys2Proof.Machine.execVlds o s
  | .vldx o => Sys2Proof.Machine.execVldx o s
  | .vldC o => Sys2Proof.Machine.execVldC o s
  | .vst o => Sys2Proof.Machine.execVst o s
  | .vsts o => Sys2Proof.Machine.execVsts o s
  | .vstx o => Sys2Proof.Machine.execVstx o s
  | .vstF o => Sys2Proof.Machine.execVstF o s
  | .vldgL o => Sys2Proof.Machine.execVldgL o s
  | .vldgxL o => Sys2Proof.Machine.execVldgxL o s
  | .vldsegL o => Sys2Proof.Machine.execVldsegL o s
  | .vstg o => Sys2Proof.Machine.execVstg o s
  | .vscatadd o => Sys2Proof.Machine.execVscatadd o s
  | .pmake o => Sys2Proof.Machine.execPmake o s
  | .ptag o => Sys2Proof.Machine.execPtag o s
  | .psub o => Sys2Proof.Machine.execPsub o s
  | .padd o => Sys2Proof.Machine.execPadd o s
  | .dadd o => Sys2Proof.Machine.execDadd o s
  | .pcvt o => Sys2Proof.Machine.execPcvt o s
  | .pdist2 o => Sys2Proof.Machine.execPdist2 o s
  | .vdmin o => Sys2Proof.Machine.execVdmin o s
  | .frhome o => Sys2Proof.Machine.execFrhome o s
  | .daddSub o => Sys2Proof.Machine.execDaddSub o s
  | .tshape o => Sys2Proof.Machine.execTshape o s
  | .tclaim o => Sys2Proof.Machine.execTclaim o s
  | .trelease o => Sys2Proof.Machine.execTrelease o s
  | .tload o => Sys2Proof.Machine.execTload o s
  | .mma o => Sys2Proof.Machine.execMma o s
  | .mmaS o => Sys2Proof.Machine.execMmaS o s
  | .mzero o => Sys2Proof.Machine.execMzero o s
  | .macc2v o => Sys2Proof.Machine.execMacc2v o s
  | .mv2acc o => Sys2Proof.Machine.execMv2acc o s
  | .macc2l o => Sys2Proof.Machine.execMacc2l o s
  | .mamax o => Sys2Proof.Machine.execMamax o s
  | .mmark o => Sys2Proof.Machine.execMmark o s
  | .illegalInstruction w => Sys2Proof.Machine.execIllegalInstruction w s
  | .granuleSetFull => Sys2Proof.Machine.execGranuleSetFull s
  | .reservedManagementChannel => Sys2Proof.Machine.execReservedManagementChannel s

end Sys2Proof.Machine
end

