-- ==== Sys2Proof/Machine/Damage.lean ====
section
/-!
DEFINITION. Which registers a word reads, and the trap of one that reads an uncorrectable error in a register (R271).
-/

namespace Sys2Proof.Machine

open Sys2Proof

/-- The scalar registers that a scalar-stream word reads; of a vector-stream word those that it captures (R258). -/
def scalarReads : Instr → List (BitVec 5)
  | .add _ a b | .sub _ a b | .sll _ a b | .slt _ a b | .sltu _ a b | .xor _ a b | .srl _ a b | .sra _ a b | .or _ a b | .and _ a b
  | .mul _ a b | .mulh _ a b | .mulhu _ a b | .div _ a b | .divu _ a b | .rem _ a b | .remu _ a b | .lea _ a b _ | .min _ a b
  | .max _ a b | .minu _ a b | .maxu _ a b | .beq a b _ | .bne a b _ | .blt a b _ | .bge a b _ | .bltu a b _ | .bgeu a b _
  | .stB a b _ | .stH a b _ | .stW a b _ | .stD a b _ | .stgB a b _ | .stgH a b _ | .stgW a b _ | .stgD a b _
  | .stRel a b _ _ _ | .fres a b | .barinit a b | .barexp a b | .bararr a b | .msend _ a b _ | .msendMc a b _ | .signal _ a b => [a, b]
  | .clz _ a | .ctz _ a | .popc _ a | .addi _ a _ | .slti _ a _ | .sltiu _ a _ | .xori _ a _ | .ori _ a _ | .andi _ a _
  | .slli _ a _ | .srli _ a _ | .srai _ a _ | .jalr _ a _ | .ldB _ a _ | .ldH _ a _ | .ldW _ a _ | .ldD _ a _ | .ldBu _ a _
  | .ldHu _ a _ | .ldWu _ a _ | .ldAcq _ a _ _ _ | .csrw _ a | .csrs _ a | .csrc _ a => [a]
  | .bind d a b | .unbind d a b => [d, a, b]
  | .ldgLB o | .ldgLH o | .ldgLW o | .ldgLD o | .ldgLBu o | .ldgLHu o | .ldgLWu o | .waitfL o | .barwL o | .qpushL o | .vwaitL o => [o.rs1]
  | .mrecvL o | .cpywaitL o => [o.rs1, o.rs2]
  | .amoCasB o | .amoCasH o | .amoCasW o | .amoCasD o => [o.rs1, o.rs2, o.rd]
  | .amoAddB o | .amoAddH o | .amoAddW o | .amoAddD o | .amoSwapB o | .amoSwapH o | .amoSwapW o | .amoSwapD o | .amoAndW o | .amoAndD o
  | .amoOrW o | .amoOrD o | .amoXorW o | .amoXorD o | .amoMinW o | .amoMinD o | .amoMaxW o | .amoMaxD o | .amoAddBf16 o
  | .amoAddF32 o | .amoAddF64 o | .amoAmaxBf16 o | .amoAmaxF16 o | .amoAmaxF32 o | .amoAmaxF64 o | .append o | .seal o => [o.rs1, o.rs2]
  | .vsetvl o => [o.vs1]
  | .vsettype o => [o.vs1, o.vs2]
  | i => (scalarA i).toList ++ (scalarB i).toList

/-- The vector registers that a vector word reads element by element below VL, and those that it may read anywhere. -/
def vectorReads : Instr → List (BitVec 5) × List (BitVec 5)
  | .vadd o | .vsub o | .vmul o | .vmulh o | .vmulhu o | .vand o | .vor o | .vxor o | .vsll o | .vsrl o | .vsra o | .vmin o | .vmax o
  | .vsadd o | .vssub o | .vfadd o | .vfsub o | .vfmul o | .vfdiv o | .vfmin o | .vfmax o | .vdequant o | .vredsumO o | .vredsumU o
  | .vredmax o | .vredmin o | .vredamax o | .vcmpEq o | .vcmpNe o | .vcmpLt o | .vcmpLe o | .vcmpLtu o | .vcmpLeu o | .psub o | .padd o
  | .dadd o | .daddSub o | .pdist2 o | .vdmin o => ([o.vs1, o.vs2], [])
  | .vfma o => ([o.vs1, o.vs2, o.vd], [])
  | .vaddi o | .vfsqrt o | .vcvt o | .vquant o | .vscanO o | .vscanF o | .vargmax o | .vrand o | .vslideup o | .vcompress o | .vexpand o
  | .vmovvs o | .pmake o | .ptag o | .pcvt o | .frhome o => ([o.vs1], [])
  | .vperm o | .vgperm o => ([o.vs2], [o.vs1])
  | .vslidedn o | .vgred o => ([], [o.vs1])
  | .vldx o | .mmaS o => ([o.vs2], [])
  | .vst o | .vsts o | .vstF o | .mv2acc o => ([o.vd], [])
  | .vstx o => ([o.vd, o.vs2], [])
  | .vldgxL o => ([o.rs2], [])
  | .vstg o => ([o.rd], [])
  | .vscatadd o => ([o.rd, o.rs2], [])
  | _ => ([], [])

/-- The mask registers that a vector word reads as operands. -/
def maskReads : Instr → List (BitVec 5)
  | .mand o | .mor o | .mxor o => [o.vs1, o.vs2]
  | .mnot o | .mpop o | .mfirst o => [o.vs1]
  | _ => []

/-- The mask that a word's msel field or VTYPE selects (R281); 0 where it takes none. -/
def State.maskOf (s : State) (i : Instr) : BitVec 3 :=
  match i with
  | .vldgL _ | .vldgxL _ | .vldsegL _ | .vstg _ | .vscatadd _ => s.lmsel
  | .macc2v o | .mv2acc o => o.msel
  | i => if isElementMajor (majF (encode i)) then (encode i).extractLsb' 12 3 else 0

/-- The elements that a vector word reads (R271, log 76): of each source its register as the strand's marks number it, the width of its elements, and
for each element of the word the source's element that it reads. A masked-off element counts as read. -/
def State.elementsRead (s : State) (i : Instr) : List (Nat × Nat × List (Nat × Nat)) :=
  let w := widthOf s.sew
  let w2 := widthOf s.sew2
  let each := (List.range s.vl).map (fun k => (k, k))
  let v (r : BitVec 5) (w : Nat) : Nat × Nat × List (Nat × Nat) := (32 + r.toNat, w, each)
  let m (r : BitVec 5) : Nat × Nat × List (Nat × Nat) := (64 + r.toNat, 1, each)
  let low (r : BitVec 5) (e : Nat × Nat → Bool) (g : Nat → Nat) : Nat × Nat × List (Nat × Nat) :=
    (32 + r.toNat, w, (each.filter e).map (fun p => (p.1, g p.1)))
  (match i with
  | .vadd o | .vsub o | .vmul o | .vfadd o | .vfsub o | .vfmul o => [v o.vs1 w2, v o.vs2 w2]
  | .vfma o => [v o.vs1 w2, v o.vs2 w2, v o.vd w]
  | .vcvt o | .vquant o => [v o.vs1 w2]
  | .vdequant o => [v o.vs1 4, (32 + o.vs2.toNat, 8, each.map (fun p => (p.1, p.1 / vtBlk s.vtype)))]
  | .vslideup o => [low o.vs1 (fun p => decide (s.capB.toNat ≤ p.1)) (· - s.capB.toNat)]
  | .vslidedn o => [low o.vs1 (fun p => decide (p.1 + s.capB.toNat < s.vlmax)) (· + s.capB.toNat)]
  | .vgred o => [low o.vs1 (fun p => decide (p.1 < s.vlmax / 2)) id, low o.vs1 (fun p => decide (p.1 < s.vlmax / 2)) (· + s.vlmax / 2)]
  | .vmovvs o => if s.capB.toNat < s.vl then [(32 + o.vs1.toNat, w, [(0, s.capB.toNat)])] else []
  | .vldsegL _ => if bitsN s.capB.toNat 8 8 = 1 then [(32 + bitsN s.capB.toNat 13 9, w, each)] else []
  | .vperm o | .vgperm o =>
    let x (k : Nat) : Nat := indexOf s.sew (elemOf (s.v o.vs2.toNat) k w)
    [v o.vs2 w, low o.vs1 (fun p => decide (x p.1 < s.vlmax)) x]
  | i => (vectorReads i).1.map (fun r => v r w) ++ (vectorReads i).2.map (fun r => (32 + r.toNat, w, (List.range s.vlmax).map (fun k => (0, k)))))
    ++ (((s.maskOf i).setWidth 5 :: maskReads i).filter (· != 0)).map m

/-- The word's elements that read a damaged unit of 8 bytes of the strand in hand. -/
def State.readers (s : State) (i : Instr) (b : Nat × Nat) : List Nat :=
  (s.elementsRead i).flatMap (fun r =>
    if r.1 = b.1 then (r.2.2.filter (fun p => decide (p.2 * r.2.1 < 64 * (b.2 + 1)) && decide (64 * b.2 < (p.2 + 1) * r.2.1))).map (·.1) else [])

/-- Whether a damaged unit of the strand in hand is among those that a vector word reads (R271). -/
def State.readsVector (s : State) (i : Instr) (b : Nat × Nat) : Bool := !(s.readers i b).isEmpty

/-- Whether a scalar-stream word that reads scalar registers has a cause of its own at decode, which comes before the reading (R290, R291). -/
def State.scalarDefect (s : State) : Instr → Bool
  | .csrw idx _ | .csrs idx _ | .csrc idx _ => decide (0x100 ≤ idx.toNat) || (s.csr idx.toNat).isNone
  | .ldAcq _ _ _ _ scope | .stRel _ _ _ _ scope => !scopeOk scope
  | .amoCasB o | .amoCasH o | .amoCasW o | .amoCasD o | .amoAddB o | .amoAddH o | .amoAddW o | .amoAddD o | .amoSwapB o | .amoSwapH o
  | .amoSwapW o | .amoSwapD o | .amoAndW o | .amoAndD o | .amoOrW o | .amoOrD o | .amoXorW o | .amoXorD o | .amoMinW o | .amoMinD o
  | .amoMaxW o | .amoMaxD o | .amoAddBf16 o | .amoAddF32 o | .amoAddF64 o | .amoAmaxBf16 o | .amoAmaxF16 o | .amoAmaxF32 o
  | .amoAmaxF64 o => !o.orderOk
  | .ldgLB o | .ldgLH o | .ldgLW o | .ldgLD o | .ldgLBu o | .ldgLHu o | .ldgLWu o | .waitfL o | .barwL o | .qpushL o | .vwaitL o
  | .mrecvL o | .cpywaitL o => decide (o.hint = 3)
  | .vsetvl o | .vsettype o => decide (o.hint = 3)
  | _ => false

/-- Whether a scalar-stream word reads a scalar register that holds an uncorrectable error (R271). -/
def State.readsScalarDamage (s : State) (i : Instr) : Bool :=
  !s.scalarDefect i && (scalarReads i).any (fun r => r != 0 && s.strand.bad.contains (r.toNat, 0))

/-- Whether a word of the strand in hand reads a register that holds an uncorrectable error (R271), having no defect that comes first (R291). -/
def State.readsDamage (s : State) (i : Instr) : Bool :=
  !s.strand.bad.isEmpty &&
    (if s.strand.cv.live then (s.defect i).isNone && s.strand.bad.any (s.readsVector i)
    else s.readsScalarDamage i)

/-- Whether a vector word would capture a damaged scalar (R258, R271). -/
def State.capturesDamage (s : State) (w : BitVec 32) : Bool :=
  !s.strand.bad.isEmpty &&
    (match decode w with
    | .ok i => (scalarReads i).any (fun r => r != 0 && s.strand.bad.contains (r.toNat, 0))
    | .error _ => false)

/-- The trap of a word that reads a damaged register (R271): cause 0x40, with the first such element of a word on registers. -/
def State.damageTrap (s : State) (i : Instr) : State :=
  if !s.strand.cv.live then s.trapScalar 0x40 0
  else
    match i with
    | .vst _ | .vsts _ | .vstF _ | .vstx _ | .vldx _ | .vldgxL _ | .vstg _ | .vscatadd _ => s.faultNow 0x40 0
    | _ => s.faultAt 0x40 (((s.strand.bad.flatMap (s.readers i)).min?).getD 0) 0

end Sys2Proof.Machine
end

