-- ==== Sys2Proof/Machine/Fetch.lean ====
section
/-!
DEFINITION. What the machine does next: time, fetching an instruction's bytes, forming a convoy (R128, R261, R291), and the order in
which the strands, the grants and the outstanding steps of the module take their turns (log 2).
-/

namespace Sys2Proof.Machine

open Sys2Proof

/-- What a step is about: a row of the table on a state, a state that follows with no row, or nothing, in OFF. -/
inductive Choice where
  | run (i : Instr) (s : State)
  | done (s : State)
  | off
  deriving DecidableEq, Repr

/-! Time (R25, R86). -/

/-- A core's CYCLE counts in P0 (R25), which a sleeping die or module is not in; a step counts resident cycles while a strand of it holds a slot
(R86, R123), but for one that a pre-emption is taking out (R115). -/
def Core.tick (k : Core) (mine : List Nat) (awake : Bool) (n : Nat) : Core :=
  let cells := mine ++ (k.slots.filter (fun (p : Nat × Strand) => !p.2.leaving)).map (fun (p : Nat × Strand) => p.2.cell)
  { k with
    cycle := if k.power = .p0 ∧ awake then k.cycle + BitVec.ofNat 64 n else k.cycle
    steps := k.steps.map (fun (p : Nat × Step) => if cells.contains p.1 then (p.1, { p.2 with rescyc := p.2.rescyc + n }) else p) }

/-- The time that a step takes, in ns and cycles: what `clock` says, else 4 and 5 (log 3). -/
def State.span (s : State) : Nat × Nat := s.clock.headD (4, 5)

/-- Whether a core's die and module are awake (R26). -/
def State.awakeAt (s : State) (c : Nat) : Bool := !s.dieSleep.contains (dieOf c) && decide (s.power = ModPower.on)

/-- Time goes on (R25). -/
def State.tick (s : State) : State :=
  { s with
    clock := s.clock.tail
    time := s.time + BitVec.ofNat 64 s.span.1
    core := if s.acting then s.core.tick (if s.strand.leaving then [] else [s.strand.cell]) (s.awakeAt s.here) s.span.2 else s.core
    cores := s.cores.map (fun (p : Nat × Core) => if s.acting ∧ p.1 = s.here then p else (p.1, p.2.tick [] (s.awakeAt p.1) s.span.2)) }

/-- What the hardware does in passing: a spilled record that is ready says so in the overflow region (R337). -/
def State.showAll (s : State) : State :=
  (s.cores.filter (fun p => !s.acting || p.1 != s.here)).foldl (fun s p => s.showReady p.2) (if s.acting then s.showReady s.core else s)

/-- The descriptor cell of these strands whose step has used up its budget (R85 rung 1), where the strand can leave. -/
def State.overBudget (s : State) (k : Core) (sts : List (Nat × Strand)) : Option Nat :=
  ((sts.filter (fun p => k.mayStop p.1 p.2)).map (·.2.cell)).find? (fun cell => s.spent (k.step cell))

/-- A resident step whose budget is used up: core and descriptor cell. -/
def State.due (s : State) : Option (Nat × Nat) :=
  let mine := if s.acting then (s.overBudget s.core ((s.slot, s.strand) :: s.core.slots)).map (fun c => (s.here, c)) else none
  match mine with
  | some x => some x
  | none =>
    s.cores.findSome? (fun (p : Nat × Core) =>
      if s.acting ∧ p.1 = s.here then none
      else (s.overBudget p.2 p.2.slots).map (fun c => (p.1, c)))

/-! Fetching (R274, R275). -/

/-- What a fetch finds. -/
inductive Fetched where
  | word (w : BitVec 32)
  | miss (va : Nat)
  | bad (cause va : Nat)
  deriving DecidableEq, Repr

/-- The word at an address, from an ordinary page of this module with X (R167, R275). -/
def State.fetch (s : State) (pc : Word) : State × Fetched :=
  match s.find s.here .fetch pc.toNat 4 with
  | (s, .ok (.here pa _ _ _ _ :: _)) =>
    match s.readPhys pa 4 with
    | .ok v => (s.countRead pa 4, .word (BitVec.ofNat 32 v))
    | .error c => (s.countRead pa 4, .bad c pc.toNat)
  | (s, .miss va) => (s, .miss va)
  | (s, .prot c _) => (s, .bad c pc.toNat)
  | (s, .ok _) => (s, .bad 0x11 pc.toNat)

/-- What forming a convoy finds. -/
inductive Formed where
  | words (ws : List (BitVec 32))
  /-- A shape that R128 forbids. -/
  | shape
  | miss (va : Nat)
  | bad (cause va : Nat)
  deriving DecidableEq, Repr

/-- The words of a convoy after `n` words, of which the last chains on (R128): judged by the major opcodes and the C bits alone. -/
def State.chained (s : State) (pc : Word) : Nat → State × Formed
  | 0 => (s, .shape)
  | n + 1 =>
    match s.fetch pc with
    | (s, .miss va) => (s, .miss va)
    | (s, .bad c va) => (s, .bad c va)
    | (s, .word w) =>
      if !isVectorWord w || isEngineWord w then (s, .shape)
      else if !cBit w then (s, .words [w])
      else if isVectorLeave w then (s, .shape)
      else
        match s.chained (pc + 4) n with
        | (s, .words ws) => (s, .words (w :: ws))
        | r => r

/-- The convoy that begins with a vector word (R128, R284): one to four words, an ENGINE word alone. -/
def State.form (s : State) (pc : Word) (w : BitVec 32) : State × Formed :=
  if !cBit w then (s, .words [w])
  else if isEngineWord w || isVectorLeave w then (s, .shape)
  else
    match s.chained (pc + 4) 3 with
    | (s, .words ws) => (s, .words (w :: ws))
    | r => r

/-! Convoys. -/

/-- The scalars that a word takes with it when it is issued (R258). -/
def State.captures (s : State) (w : BitVec 32) : List Word :=
  match decode w with
  | .ok i => [((scalarA i).map s.x).getD 0, ((scalarB i).map s.x).getD 0]
  | .error _ => [0, 0]

/-- The restart point that a queued entry takes up (R262), and what is left for those behind it: entry 0 takes MKSTEP and MROW where a matrix
command had stopped, and FWORD and ESTART belong to the first other entry of CSTATE 1. -/
def takeResume (r : Option (Nat × Nat × Bool × Nat × Nat)) (e : ConvoyEntry) (behind : List ConvoyEntry) :
    (Nat × Nat × Bool × Nat × Nat) × Option (Nat × Nat × Bool × Nat × Nat) :=
  let later (fword estart : Nat) : Option (Nat × Nat × Bool × Nat × Nat) :=
    if behind.any (·.started) then some (fword, estart, false, 0, 0) else none
  match r with
  | none => ((0, 0, false, 0, 0), none)
  | some (fword, estart, true, ks, row) => ((0, 0, true, ks, row), later fword estart)
  | some (fword, estart, false, ks, row) =>
    if e.started then ((fword, estart, false, ks, row), none) else ((0, 0, false, 0, 0), later fword estart)

/-- A convoy starts at the head of the queue (R129): the registers that a trap would bring back are kept; a resumed entry takes its
restart point (R262); its lowest defective word comes first, before anything of it is performed (R291). -/
def State.openConvoy (s : State) (e : ConvoyEntry) : State :=
  let (r, left) := takeResume s.strand.resume e s.strand.queue
  { s with
    strand :=
      { s.strand with
        resume := left
        cv :=
          { live := true
            entry := e
            k := (firstDefect s.core e).getD 0
            vs0 := s.strand.regs.vs
            ms0 := s.strand.regs.ms
            dirtyV0 := s.strand.dirtyV
            dirtyM0 := s.strand.dirtyM
            scalars := []
            flags := []
            sat := false
            resumeAt := r.1
            estart := r.2.1
            mstop := r.2.2.1
            mkstep := r.2.2.2.1
            mrow := r.2.2.2.2
            first := 0
            since := none
            bad0 := s.strand.bad } } }

/-- Whether a word accesses memory in one of the strand's two streams (R189). -/
def touchesMemory (w : BitVec 32) : Bool :=
  match (majF w).toNat with
  | 0b00000 | 0b00001 | 0b01000 | 0b01001 | 0b01010 | 0b10101 | 0b10110 => true
  | _ =>
    isEngineWord w || (match decode w with
      | .ok (.ldAcq _ _ _ _ _) | .ok (.stRel _ _ _ _ _) | .ok (.vcapp _) | .ok (.tload _) | .ok (.macc2l _) | .ok (.mamax _) => true
      | _ => false)

/-- A word at its turn: it runs as what it decodes to, or traps where it reads a damaged register (R271). In deterministic mode a memory access waits
until every access before it, of either stream, has performed (R211); a position word waits for a walk of the frame table (R222). -/
def State.runWord (s : State) (w : BitVec 32) : Choice :=
  if s.core.detm && touchesMemory w && (s.heldHere || s.outstanding s.here s.strand.cell) then .done (s.afterAll (fun s => s))
  else
    match decode w with
    | .ok i =>
      if s.readsDamage i then .done (s.damageTrap i)
      else if s.strand.cv.live && (s.defect i).isNone && s.walkDue i then .done (s.stall false)
      else .run i s
    | .error _ => .run (.illegalInstruction w) s

/-- The next word of the convoy in execution. -/
def State.convoyWord (s : State) : Choice := s.runWord (s.strand.cv.entry.words.getD s.strand.cv.k 0)

/-- A convoy of words just fetched, with what it is issued with (R258). -/
def State.entryOf (s : State) (ws : List (BitVec 32)) : ConvoyEntry where
  words := ws
  cpc := s.strand.pc
  started := false
  vl := s.strand.regs.vl
  vtype := s.strand.regs.vtype
  caps := ws.flatMap s.captures
  marks := []
  damaged := false

/-- Whether a convoy would capture a damaged scalar (R258, R271), with no defect of a word that comes first (R291). -/
def State.capturesBad (s : State) (ws : List (BitVec 32)) : Bool :=
  ws.any s.capturesDamage && !ws.any (fun w =>
    match decode w with
    | .ok i => (wordDefect i s.core s.strand.regs.vl s.strand.regs.vtype).isSome
    | .error _ => true)

/-- The strand with a convoy of words just fetched at the end of its queue: the scalar stream stands after it. -/
def State.enqueue (s : State) (ws : List (BitVec 32)) : State :=
  let e := s.entryOf ws
  let s := s.setPc (s.strand.pc + BitVec.ofNat 64 (4 * ws.length))
  { s with strand := { s.strand with queue := s.strand.queue ++ [e] } }

/-- A convoy struck by a parity error traps at its turn with cause 0x40 (R272): it is entry 0 as the queue holds it. -/
def State.parityTrap (s : State) : State :=
  let cv := s.strand.cv
  { s with strand := { s.strand with cv := { cv with k := 0, entry := { cv.entry with damaged := false } } } }.trapConvoy
    { TrapBlock.none with cause := 0x40 }

/-- The oldest queued convoy starts, and its first word runs. -/
def State.drainQueue (s : State) : Choice :=
  match s.strand.queue with
  | e :: q =>
    let s := { s with strand := { s.strand with queue := q } }.openConvoy e
    if e.damaged then .done s.parityTrap else s.convoyWord
  | [] => .done s

/-- What the scalar stream does with the word at its address when no convoy is queued: a scalar word runs; a vector word begins a convoy; a
chained scalar word, or a convoy of another shape, is cause 0x04 (R128, R261, R281). -/
def State.issueWord (s : State) (w : BitVec 32) : Choice :=
  if isVectorWord w then
    match s.form s.strand.pc w with
    | (s, .words ws) =>
      if s.capturesBad ws then .done (s.trapScalar 0x40 0)
      else if s.ahead = 0 then (s.enqueue ws).drainQueue
      else .done (s.enqueue ws)
    | (s, .shape) => .done (s.trapScalar 0x04 0)
    | (s, .miss va) => .done (s.missScalar va)
    | (s, .bad c va) => .done (s.trapScalar c va)
  else if badScalarC w then .done (s.trapScalar 0x04 0)
  else s.runWord w

/-- Whether a jump is one that its check lets pass (R328): its target is aligned, or it is a branch not taken. -/
def State.jumpPasses (s : State) : Instr → Bool
  | .beq a b imm => !imm.getLsbD 0 || s.x a != s.x b
  | .bne a b imm => !imm.getLsbD 0 || s.x a == s.x b
  | .blt a b imm => !imm.getLsbD 0 || !(s.x a).slt (s.x b)
  | .bge a b imm => !imm.getLsbD 0 || (s.x a).slt (s.x b)
  | .bltu a b imm => !imm.getLsbD 0 || !(s.x a).ult (s.x b)
  | .bgeu a b imm => !imm.getLsbD 0 || (s.x a).ult (s.x b)
  | .jal _ imm => !imm.getLsbD 0
  | .jalr _ a imm => decide ((s.x a + sext12 imm).extractLsb' 0 2 = 0)
  | _ => false

/-- Whether a scalar-stream word runs before the queued convoys (R129): one on scalar registers and the pc alone (R328), on VL and VTYPE (R348), or a
CSRR that does not wait (R334), that cannot trap. Every other word waits until they have retired, as R261 lets a fault of it wait. -/
def State.goesAhead (s : State) (i : Instr) : Bool :=
  match i with
  | .vsetvl o | .vsettype o => decide (o.hint ≠ 3)
  | .csrr _ idx =>
    decide (0x020 ≤ idx.toNat ∧ idx.toNat ≤ 0x022) || decide (idx.toNat = 0x040 ∨ idx.toNat = 0x041)
      || decide (0x100 ≤ idx.toNat ∧ idx.toNat ≤ 0x105)
  | i =>
    match (majF (encode i)).toNat with
    | 0b01100 | 0b00100 | 0b01101 | 0b00101 => true
    | _ => s.jumpPasses i

/-- Whether a vector word writes a scalar register when its convoy retires (R345). -/
def writesScalar (w : BitVec 32) : Bool :=
  match decode w with
  | .ok i =>
    match i with
    | .mpop _ | .mfirst _ | .vargmax _ | .vmovvs _ | .vcapp _ | .tshape _ | .tclaim _ | .mmark _ => true
    | .cpy _ _ _ | .stream _ _ _ | .xform _ _ _ | .subscr _ _ _ | .deviceLaunch _ _ => true
    | _ => false
  | .error _ => false

/-- The convoy in execution and those queued behind it. -/
def Strand.unretired (st : Strand) : List ConvoyEntry := (if st.cv.live then [st.cv.entry] else []) ++ st.queue

/-- The scalar registers that convoys which have not retired write (R129, R345); s0 is none (R320). -/
def Strand.dueScalars (st : Strand) : List (BitVec 5) :=
  (st.unretired.flatMap (fun e => (e.words.filter writesScalar).map (fun w => w.extractLsb' 7 5))).filter (· != 0)

/-- Whether a word reads, or writes, one of these registers: its sd field is that of every layout, which a branch has not (R277, R326). -/
def touchesAny (rs : List (BitVec 5)) (i : Instr) : Bool :=
  rs.any (fun r => (scalarReads i).contains r || (r == (encode i).extractLsb' 7 5 && !decide ((majF (encode i)).toNat = 0b11000)))

/-- The strand's matrix commands that have not finished, each of which counts as a position of the vector queue (R398). -/
def State.attached (s : State) : Nat := (s.core.mat.filter (fun m => m.slot == some s.slot)).length

/-- What the scalar stream does while convoys have not retired (R128, R129): a word that goes ahead runs, a further convoy is queued; nothing,
where it must wait: for a full queue, for a register that a convoy writes, after a leave (R130), or for a word that does not go ahead. -/
def State.runAhead (s : State) : Option Choice :=
  let st := s.strand
  if min s.ahead 16 ≤ st.unretired.length + s.attached ∨ st.unretired.any (fun e => e.words.any isVectorLeave) then none
  else
    match s.fetch st.pc with
    | (s, .word w) =>
      if isVectorWord w then
        match s.form st.pc w with
        | (s, .words ws) =>
          if s.capturesBad ws || ws.any (fun w => match decode w with
            | .ok i => (scalarReads i).any st.dueScalars.contains
            | .error _ => false) then none
          else some (.done (s.enqueue ws))
        | _ => none
      else if badScalarC w then none
      else
        match decode w with
        | .ok i => if s.goesAhead i && !touchesAny st.dueScalars i && !s.readsScalarDamage i then some (.run i s) else none
        | .error _ => none
    | _ => none

/-- What the vector unit does with the strand's convoys: the one in execution, or the oldest queued. -/
def State.vectorTurn (s : State) : Choice := if s.strand.cv.live then s.convoyWord else s.drainQueue

/-- The strand in hand issues. Without convoys its word runs; else the scalar stream, as far as it goes ahead, and the vector unit take
turns (R129, log 2). -/
def State.issue (s : State) : Choice :=
  let s := { s with turn := s.turn - 1 }
  if s.strand.unretired.isEmpty then
    match s.fetch s.strand.pc with
    | (s, .word w) => s.issueWord w
    | (s, .miss va) => .done (s.missScalar va)
    | (s, .bad c va) => .done (s.trapScalar c va)
  else if s.turn % 2 = 1 then s.runAhead.getD s.vectorTurn
  else s.vectorTurn

/-! Turns (log 2). -/

/-- Whether a strand of a core may issue now: it runs, waits for no answer and for no command before a trap, its core and die are awake, no signal waits to be applied first
(R52), and the debug port has not halted the core (R89). -/
def State.runnable (s : State) (c : Nat) (k : Core) (st : Strand) : Bool :=
  st.running && decide (st.wait = .none) && st.trapping.isNone && decide (k.cstate = .running ∨ k.cstate = .quiescing)
    && decide (k.power = .p0 ∨ k.power = .p1) && s.awakeAt c && k.inbox.isEmpty && !k.halted

/-- Words that a strand issues before others have their turn. -/
def turnLength : Nat := 8

/-- The runnable strand after the one last in hand, in the order of cores and slots. -/
def State.nextStrand (s : State) : Option (Nat × Nat) :=
  let all := s.cores.flatMap (fun (p : Nat × Core) =>
    (p.2.slots.filter (fun (q : Nat × Strand) => s.runnable p.1 p.2 q.2)).map (fun q => (p.1, q.1)))
  match all.find? (fun x => decide (s.here < x.1) || (decide (x.1 = s.here) && decide (s.slot < x.2))) with
  | some x => some x
  | none => all.head?

/-- Whether a core sleeps that has signals, ready records or launches to serve (R26, R28). -/
def State.mustWake (s : State) (c : Nat) (k : Core) : Bool :=
  let asleep := decide (s.power = ModPower.p4) || s.dieSleep.contains (dieOf c) || decide (k.power = .p2 ∨ k.power = .p3)
  asleep && (!k.inbox.isEmpty ||
    (decide (k.cstate = .running) && !s.barred c &&
      (k.order.any (fun p => !p.2.isEmpty) || s.hasCandidate c)))

/-- Whether R114 would force a strand of a core out. -/
def State.preemptable (s : State) (c : Nat) (k : Core) : Bool :=
  decide (k.cstate = .running) && !k.slots.isEmpty && !k.fillable c false && !k.fillable c true && !s.barred c &&
    !k.slots.any (fun x => x.2.leaving) &&
    (match (List.range 8).find? (fun p => !((tget k.order p).getD []).isEmpty || !(s.candidates c p).isEmpty) with
    | none => false
    | some p => (s.victim c p).isSome)

/-- The first core that meets a condition, in the order of cores from the one after the last served. -/
def State.nextServed (s : State) (p : Nat → Core → Bool) : Option Nat :=
  match s.cores.find? (fun x => decide (s.serveFrom ≤ x.1) && p x.1 x.2) with
  | some x => some x.1
  | none => (s.cores.find? (fun x => p x.1 x.2)).map (·.1)

/-- What the harbourmasters do for the cores, none of which is in hand: a wake, a grant, a pre-emption. -/
def State.serve (s : State) : Option (Instr × Nat) :=
  match s.nextServed s.mustWake with
  | some c => some (.coreWake, c)
  | none =>
    match s.nextServed s.grantableCore with
    | some c => some (.strandGrant, c)
    | none => (s.nextServed s.preemptable).map (fun c => (.preemptDecision, c))

/-- A turn of one kind: 0 the oldest outstanding step, 1 the harbourmasters, 2 the next strand. -/
def State.turnOf (s : State) (kind : Nat) : Option Choice :=
  let s := { s with phase := (kind + 1) % 3 }
  if kind = 0 then
    match s.work with
    | t :: r => some (.run t.what { s with work := r, inp := t.inp })
    | [] => none
  else if kind = 1 then s.serve.map (fun p => .run p.1 { s with serveFrom := p.2 + 1, inp := { Input.none with core := p.2 } })
  else s.nextStrand.map (fun p => ({ s.focus p.1 p.2 with turn := turnLength }).issue)

/-- The next turn: of the kind that is due, else of the next kind that has anything; else time goes on. -/
def State.switch (s : State) : Choice :=
  let s := s.park
  match s.turnOf (s.phase % 3) with
  | some c => c
  | none =>
    match s.turnOf ((s.phase + 1) % 3) with
    | some c => c
    | none => (s.turnOf ((s.phase + 2) % 3)).getD (.done s)

/-- In OFF only power-on happens: the first BOOT that the outside sends (R26). -/
def State.powerOn (s : State) : Choice :=
  match s.agenda.dropWhile (fun t => decide (t.what ≠ .boot)) with
  | t :: r => .run t.what { s with agenda := r, inp := t.inp }
  | [] => .off

/-- What the machine does next: a step over its budget is stopped (R86), an error of its storage is handled (R271), then comes what the outside makes
happen, then the strand in hand while its turn lasts, then another's turn. -/
def State.choose (s : State) : Choice :=
  if s.power = ModPower.off then s.powerOn
  else
    let s := s.tick.showAll
    match s.due, s.struck with
    | some (c, cell), _ => .run .stepBudgetExpiry { s with inp := { Input.none with core := c, slot := cell } }
    | none, x :: r => .done ({ s with struck := r }.strike x)
    | none, [] =>
      match s.agenda with
      | t :: r => .run t.what { s with agenda := r, inp := t.inp }
      | [] => if s.acting ∧ 0 < s.turn ∧ s.runnable s.here s.core s.strand then s.issue else s.switch

/-! A word placed where the next fetch finds it. -/

/-- Where the placed word stands: virtual and physical page, and the tables that map it (R171, R172). -/
def codeVa : Nat := 0x10000
def codePa : Nat := 0x10000
def codeTable : Nat := 0x200000

/-- Memory that maps `codeVa` under ASID 1 to `codePa`, with R, W and X, and holds a word there. -/
def placeWord (m : Mem) (w : Nat) : Mem :=
  let m := mstore m (reserveLo + 8) (bytesOf 8 (codeTable + 1))
  let m := mstore m codeTable (bytesOf 8 (0x400000 + 1))
  let m := mstore m 0x400000 (bytesOf 8 (0x401000 + 1))
  let m := mstore m 0x401000 (bytesOf 8 (0x402000 + 1))
  let m := mstore m (0x402000 + 8) (bytesOf 8 (codePa + 0x73))
  mstore m codePa (bytesOf 4 w)

/-- A state whose next step runs the word: power on, nothing else due, the strand in hand at the word on a running core. -/
def State.ready (s : State) (w : Nat) : State :=
  { s with
    agenda := []
    work := []
    struck := []
    turn := turnLength
    ahead := 0
    acting := true
    core := { s.core with cstate := .running, power := .p0, asid := 1, home := [], tlb := [], inbox := [], halted := false }
    strand :=
      { s.strand with
        pc := BitVec.ofNat 64 codeVa
        cv := Convoy.closed
        queue := []
        resume := none
        wait := .none
        trapping := none
        running := true }
    mem := placeWord s.mem w
    poison := []
    dieSleep := []
    power := .on }

end Sys2Proof.Machine
end

