-- ==== Sys2Proof/Machine/Step.lean ====
section
/-!
DEFINITION. One step of the module, and a word placed where the step fetches next.
-/

namespace Sys2Proof.Machine

open Sys2Proof

/-- One step: the row that is next, run on its state. -/
def step (s : State) : Host.Outcome State Fault Refusal :=
  match s.choose with
  | .run i t => exec i t
  | .done t => .next t
  | .off => .fault .off

/-- The state with a word placed at the strand in hand (log 13). -/
def State.withFetchWord (s : State) (nbits w : Nat) : State := s.ready (w % 2 ^ nbits)

end Sys2Proof.Machine
end

