-- ==== Sys2Proof/Laws/Encoding.lean ====
section
/-!
SUPPORT. The fields of packed words: what the decoder's field of an encoder's format is (R276-R282), and the decoder by its major
opcode (R283).
-/

namespace Sys2Proof.Laws

open Sys2Proof

/-- Two bit strings side by side as a number. -/
theorem append_toNat {a b : Nat} (x : BitVec a) (y : BitVec b) : (x ++ y).toNat = x.toNat * 2 ^ b + y.toNat := by
  rw [BitVec.toNat_append, ← Nat.shiftLeft_add_eq_or_of_lt y.isLt, Nat.shiftLeft_eq]

theorem packR_toNat (f7 : BitVec 7) (rs2 rs1 : BitVec 5) (f3 : BitVec 3) (rd maj : BitVec 5) :
    (packR f7 rs2 rs1 f3 rd maj).toNat = f7.toNat * 2 ^ 25 + rs2.toNat * 2 ^ 20 + rs1.toNat * 2 ^ 15 + f3.toNat * 2 ^ 12 + rd.toNat * 2 ^ 7 + maj.toNat * 2 ^ 2 + 3 := by
  unfold packR
  erw [append_toNat, append_toNat, append_toNat, append_toNat, append_toNat, append_toNat]
  simp only [BitVec.toNat_ofNat]
  omega

theorem packR_low (f7 : BitVec 7) (rs2 rs1 : BitVec 5) (f3 : BitVec 3) (rd maj : BitVec 5) : (packR f7 rs2 rs1 f3 rd maj).extractLsb' 0 2 = 3#2 := by
  apply BitVec.eq_of_toNat_eq
  simp only [BitVec.extractLsb'_toNat, packR_toNat, Nat.shiftRight_eq_div_pow, BitVec.toNat_ofNat]
  omega

theorem packR_maj (f7 : BitVec 7) (rs2 rs1 : BitVec 5) (f3 : BitVec 3) (rd maj : BitVec 5) : majF (packR f7 rs2 rs1 f3 rd maj) = maj := by
  apply BitVec.eq_of_toNat_eq
  simp only [majF, BitVec.extractLsb'_toNat, packR_toNat, Nat.shiftRight_eq_div_pow]
  omega

theorem packR_rd (f7 : BitVec 7) (rs2 rs1 : BitVec 5) (f3 : BitVec 3) (rd maj : BitVec 5) : rdF (packR f7 rs2 rs1 f3 rd maj) = rd := by
  apply BitVec.eq_of_toNat_eq
  simp only [rdF, BitVec.extractLsb'_toNat, packR_toNat, Nat.shiftRight_eq_div_pow]
  omega

theorem packR_f3 (f7 : BitVec 7) (rs2 rs1 : BitVec 5) (f3 : BitVec 3) (rd maj : BitVec 5) : f3F (packR f7 rs2 rs1 f3 rd maj) = f3 := by
  apply BitVec.eq_of_toNat_eq
  simp only [f3F, BitVec.extractLsb'_toNat, packR_toNat, Nat.shiftRight_eq_div_pow]
  omega

theorem packR_rs1 (f7 : BitVec 7) (rs2 rs1 : BitVec 5) (f3 : BitVec 3) (rd maj : BitVec 5) : rs1F (packR f7 rs2 rs1 f3 rd maj) = rs1 := by
  apply BitVec.eq_of_toNat_eq
  simp only [rs1F, BitVec.extractLsb'_toNat, packR_toNat, Nat.shiftRight_eq_div_pow]
  omega

theorem packR_rs2 (f7 : BitVec 7) (rs2 rs1 : BitVec 5) (f3 : BitVec 3) (rd maj : BitVec 5) : rs2F (packR f7 rs2 rs1 f3 rd maj) = rs2 := by
  apply BitVec.eq_of_toNat_eq
  simp only [rs2F, BitVec.extractLsb'_toNat, packR_toNat, Nat.shiftRight_eq_div_pow]
  omega

theorem packR_f7 (f7 : BitVec 7) (rs2 rs1 : BitVec 5) (f3 : BitVec 3) (rd maj : BitVec 5) : f7F (packR f7 rs2 rs1 f3 rd maj) = f7 := by
  apply BitVec.eq_of_toNat_eq
  simp only [f7F, BitVec.extractLsb'_toNat, packR_toNat, Nat.shiftRight_eq_div_pow]
  omega

theorem packI_toNat (imm : BitVec 12) (rs1 : BitVec 5) (f3 : BitVec 3) (rd maj : BitVec 5) :
    (packI imm rs1 f3 rd maj).toNat = imm.toNat * 2 ^ 20 + rs1.toNat * 2 ^ 15 + f3.toNat * 2 ^ 12 + rd.toNat * 2 ^ 7 + maj.toNat * 2 ^ 2 + 3 := by
  unfold packI
  erw [append_toNat, append_toNat, append_toNat, append_toNat, append_toNat]
  simp only [BitVec.toNat_ofNat]
  omega

theorem packI_low (imm : BitVec 12) (rs1 : BitVec 5) (f3 : BitVec 3) (rd maj : BitVec 5) : (packI imm rs1 f3 rd maj).extractLsb' 0 2 = 3#2 := by
  apply BitVec.eq_of_toNat_eq
  simp only [BitVec.extractLsb'_toNat, packI_toNat, Nat.shiftRight_eq_div_pow, BitVec.toNat_ofNat]
  omega

theorem packI_maj (imm : BitVec 12) (rs1 : BitVec 5) (f3 : BitVec 3) (rd maj : BitVec 5) : majF (packI imm rs1 f3 rd maj) = maj := by
  apply BitVec.eq_of_toNat_eq
  simp only [majF, BitVec.extractLsb'_toNat, packI_toNat, Nat.shiftRight_eq_div_pow]
  omega

theorem packI_rd (imm : BitVec 12) (rs1 : BitVec 5) (f3 : BitVec 3) (rd maj : BitVec 5) : rdF (packI imm rs1 f3 rd maj) = rd := by
  apply BitVec.eq_of_toNat_eq
  simp only [rdF, BitVec.extractLsb'_toNat, packI_toNat, Nat.shiftRight_eq_div_pow]
  omega

theorem packI_f3 (imm : BitVec 12) (rs1 : BitVec 5) (f3 : BitVec 3) (rd maj : BitVec 5) : f3F (packI imm rs1 f3 rd maj) = f3 := by
  apply BitVec.eq_of_toNat_eq
  simp only [f3F, BitVec.extractLsb'_toNat, packI_toNat, Nat.shiftRight_eq_div_pow]
  omega

theorem packI_rs1 (imm : BitVec 12) (rs1 : BitVec 5) (f3 : BitVec 3) (rd maj : BitVec 5) : rs1F (packI imm rs1 f3 rd maj) = rs1 := by
  apply BitVec.eq_of_toNat_eq
  simp only [rs1F, BitVec.extractLsb'_toNat, packI_toNat, Nat.shiftRight_eq_div_pow]
  omega

theorem packI_imm (imm : BitVec 12) (rs1 : BitVec 5) (f3 : BitVec 3) (rd maj : BitVec 5) : immI (packI imm rs1 f3 rd maj) = imm := by
  apply BitVec.eq_of_toNat_eq
  simp only [immI, BitVec.extractLsb'_toNat, packI_toNat, Nat.shiftRight_eq_div_pow]
  omega

theorem packU_toNat (imm : BitVec 20) (rd maj : BitVec 5) :
    (packU imm rd maj).toNat = imm.toNat * 2 ^ 12 + rd.toNat * 2 ^ 7 + maj.toNat * 2 ^ 2 + 3 := by
  unfold packU
  erw [append_toNat, append_toNat, append_toNat]
  simp only [BitVec.toNat_ofNat]
  omega

theorem packU_low (imm : BitVec 20) (rd maj : BitVec 5) : (packU imm rd maj).extractLsb' 0 2 = 3#2 := by
  apply BitVec.eq_of_toNat_eq
  simp only [BitVec.extractLsb'_toNat, packU_toNat, Nat.shiftRight_eq_div_pow, BitVec.toNat_ofNat]
  omega

theorem packU_maj (imm : BitVec 20) (rd maj : BitVec 5) : majF (packU imm rd maj) = maj := by
  apply BitVec.eq_of_toNat_eq
  simp only [majF, BitVec.extractLsb'_toNat, packU_toNat, Nat.shiftRight_eq_div_pow]
  omega

theorem packU_rd (imm : BitVec 20) (rd maj : BitVec 5) : rdF (packU imm rd maj) = rd := by
  apply BitVec.eq_of_toNat_eq
  simp only [rdF, BitVec.extractLsb'_toNat, packU_toNat, Nat.shiftRight_eq_div_pow]
  omega

theorem packU_imm (imm : BitVec 20) (rd maj : BitVec 5) : immU (packU imm rd maj) = imm := by
  apply BitVec.eq_of_toNat_eq
  simp only [immU, BitVec.extractLsb'_toNat, packU_toNat, Nat.shiftRight_eq_div_pow]
  omega

theorem packV_toNat (o : VOp) (fn4 : BitVec 4) (maj : BitVec 5) :
    (packV o fn4 maj).toNat = o.c.toNat * 2 ^ 31 + o.hint.toNat * 2 ^ 29 + fn4.toNat * 2 ^ 25 + o.vs2.toNat * 2 ^ 20 + o.vs1.toNat * 2 ^ 15 + o.msel.toNat * 2 ^ 12 + o.vd.toNat * 2 ^ 7 + maj.toNat * 2 ^ 2 + 3 := by
  unfold packV
  erw [append_toNat, append_toNat, append_toNat, append_toNat, append_toNat, append_toNat, append_toNat, append_toNat]
  simp only [BitVec.toNat_ofNat]
  omega

theorem packV_low (o : VOp) (fn4 : BitVec 4) (maj : BitVec 5) : (packV o fn4 maj).extractLsb' 0 2 = 3#2 := by
  apply BitVec.eq_of_toNat_eq
  simp only [BitVec.extractLsb'_toNat, packV_toNat, Nat.shiftRight_eq_div_pow, BitVec.toNat_ofNat]
  omega

theorem packV_maj (o : VOp) (fn4 : BitVec 4) (maj : BitVec 5) : majF (packV o fn4 maj) = maj := by
  apply BitVec.eq_of_toNat_eq
  simp only [majF, BitVec.extractLsb'_toNat, packV_toNat, Nat.shiftRight_eq_div_pow]
  omega

theorem packV_fn4 (o : VOp) (fn4 : BitVec 4) (maj : BitVec 5) : fn4F (packV o fn4 maj) = fn4 := by
  apply BitVec.eq_of_toNat_eq
  simp only [fn4F, BitVec.extractLsb'_toNat, packV_toNat, Nat.shiftRight_eq_div_pow]
  omega

theorem packV_vd (o : VOp) (fn4 : BitVec 4) (maj : BitVec 5) : rdF (packV o fn4 maj) = o.vd := by
  apply BitVec.eq_of_toNat_eq
  simp only [rdF, BitVec.extractLsb'_toNat, packV_toNat, Nat.shiftRight_eq_div_pow]
  omega

theorem packV_msel (o : VOp) (fn4 : BitVec 4) (maj : BitVec 5) : f3F (packV o fn4 maj) = o.msel := by
  apply BitVec.eq_of_toNat_eq
  simp only [f3F, BitVec.extractLsb'_toNat, packV_toNat, Nat.shiftRight_eq_div_pow]
  omega

theorem packV_vs1 (o : VOp) (fn4 : BitVec 4) (maj : BitVec 5) : rs1F (packV o fn4 maj) = o.vs1 := by
  apply BitVec.eq_of_toNat_eq
  simp only [rs1F, BitVec.extractLsb'_toNat, packV_toNat, Nat.shiftRight_eq_div_pow]
  omega

theorem packV_vs2 (o : VOp) (fn4 : BitVec 4) (maj : BitVec 5) : rs2F (packV o fn4 maj) = o.vs2 := by
  apply BitVec.eq_of_toNat_eq
  simp only [rs2F, BitVec.extractLsb'_toNat, packV_toNat, Nat.shiftRight_eq_div_pow]
  omega

theorem packV_c (o : VOp) (fn4 : BitVec 4) (maj : BitVec 5) : (packV o fn4 maj).extractLsb' 31 1 = o.c := by
  apply BitVec.eq_of_toNat_eq
  simp only [BitVec.extractLsb'_toNat, packV_toNat, Nat.shiftRight_eq_div_pow]
  omega

theorem packV_hint (o : VOp) (fn4 : BitVec 4) (maj : BitVec 5) : (packV o fn4 maj).extractLsb' 29 2 = o.hint := by
  apply BitVec.eq_of_toNat_eq
  simp only [BitVec.extractLsb'_toNat, packV_toNat, Nat.shiftRight_eq_div_pow]
  omega

theorem packV_fields (o : VOp) (fn4 : BitVec 4) (maj : BitVec 5) : vopF (packV o fn4 maj) = o := by
  simp only [vopF, packV_c, packV_hint, packV_vd, packV_msel, packV_vs1, packV_vs2]

theorem packL_toNat (o : LOp) (f3 : BitVec 3) (maj : BitVec 5) :
    (packL o f3 maj).toNat = o.c.toNat * 2 ^ 31 + o.hint.toNat * 2 ^ 29 + o.ls.toNat * 2 ^ 25 + o.rs2.toNat * 2 ^ 20 + o.rs1.toNat * 2 ^ 15 + f3.toNat * 2 ^ 12 + o.rd.toNat * 2 ^ 7 + maj.toNat * 2 ^ 2 + 3 := by
  unfold packL
  erw [append_toNat, append_toNat, append_toNat, append_toNat, append_toNat, append_toNat, append_toNat, append_toNat]
  simp only [BitVec.toNat_ofNat]
  omega

theorem packL_low (o : LOp) (f3 : BitVec 3) (maj : BitVec 5) : (packL o f3 maj).extractLsb' 0 2 = 3#2 := by
  apply BitVec.eq_of_toNat_eq
  simp only [BitVec.extractLsb'_toNat, packL_toNat, Nat.shiftRight_eq_div_pow, BitVec.toNat_ofNat]
  omega

theorem packL_maj (o : LOp) (f3 : BitVec 3) (maj : BitVec 5) : majF (packL o f3 maj) = maj := by
  apply BitVec.eq_of_toNat_eq
  simp only [majF, BitVec.extractLsb'_toNat, packL_toNat, Nat.shiftRight_eq_div_pow]
  omega

theorem packL_f3 (o : LOp) (f3 : BitVec 3) (maj : BitVec 5) : f3F (packL o f3 maj) = f3 := by
  apply BitVec.eq_of_toNat_eq
  simp only [f3F, BitVec.extractLsb'_toNat, packL_toNat, Nat.shiftRight_eq_div_pow]
  omega

theorem packL_rd (o : LOp) (f3 : BitVec 3) (maj : BitVec 5) : rdF (packL o f3 maj) = o.rd := by
  apply BitVec.eq_of_toNat_eq
  simp only [rdF, BitVec.extractLsb'_toNat, packL_toNat, Nat.shiftRight_eq_div_pow]
  omega

theorem packL_ls (o : LOp) (f3 : BitVec 3) (maj : BitVec 5) : fn4F (packL o f3 maj) = o.ls := by
  apply BitVec.eq_of_toNat_eq
  simp only [fn4F, BitVec.extractLsb'_toNat, packL_toNat, Nat.shiftRight_eq_div_pow]
  omega

theorem packL_rs1 (o : LOp) (f3 : BitVec 3) (maj : BitVec 5) : rs1F (packL o f3 maj) = o.rs1 := by
  apply BitVec.eq_of_toNat_eq
  simp only [rs1F, BitVec.extractLsb'_toNat, packL_toNat, Nat.shiftRight_eq_div_pow]
  omega

theorem packL_rs2 (o : LOp) (f3 : BitVec 3) (maj : BitVec 5) : rs2F (packL o f3 maj) = o.rs2 := by
  apply BitVec.eq_of_toNat_eq
  simp only [rs2F, BitVec.extractLsb'_toNat, packL_toNat, Nat.shiftRight_eq_div_pow]
  omega

theorem packL_c (o : LOp) (f3 : BitVec 3) (maj : BitVec 5) : (packL o f3 maj).extractLsb' 31 1 = o.c := by
  apply BitVec.eq_of_toNat_eq
  simp only [BitVec.extractLsb'_toNat, packL_toNat, Nat.shiftRight_eq_div_pow]
  omega

theorem packL_hint (o : LOp) (f3 : BitVec 3) (maj : BitVec 5) : (packL o f3 maj).extractLsb' 29 2 = o.hint := by
  apply BitVec.eq_of_toNat_eq
  simp only [BitVec.extractLsb'_toNat, packL_toNat, Nat.shiftRight_eq_div_pow]
  omega

theorem packL_fields (o : LOp) (f3 : BitVec 3) (maj : BitVec 5) : lopF (packL o f3 maj) = o := by
  simp only [lopF, packL_c, packL_hint, packL_rd, packL_ls, packL_rs1, packL_rs2]

theorem packA_toNat (o : AOp) (aop maj : BitVec 5) :
    (packA o aop maj).toNat = aop.toNat * 2 ^ 27 + o.ord.toNat * 2 ^ 25 + o.rs2.toNat * 2 ^ 20 + o.rs1.toNat * 2 ^ 15 + o.scope.toNat * 2 ^ 12 + o.rd.toNat * 2 ^ 7 + maj.toNat * 2 ^ 2 + 3 := by
  unfold packA
  erw [append_toNat, append_toNat, append_toNat, append_toNat, append_toNat, append_toNat, append_toNat]
  simp only [BitVec.toNat_ofNat]
  omega

theorem packA_low (o : AOp) (aop maj : BitVec 5) : (packA o aop maj).extractLsb' 0 2 = 3#2 := by
  apply BitVec.eq_of_toNat_eq
  simp only [BitVec.extractLsb'_toNat, packA_toNat, Nat.shiftRight_eq_div_pow, BitVec.toNat_ofNat]
  omega

theorem packA_maj (o : AOp) (aop maj : BitVec 5) : majF (packA o aop maj) = maj := by
  apply BitVec.eq_of_toNat_eq
  simp only [majF, BitVec.extractLsb'_toNat, packA_toNat, Nat.shiftRight_eq_div_pow]
  omega

theorem packA_aop (o : AOp) (aop maj : BitVec 5) : aopSel (packA o aop maj) = aop := by
  apply BitVec.eq_of_toNat_eq
  simp only [aopSel, BitVec.extractLsb'_toNat, packA_toNat, Nat.shiftRight_eq_div_pow]
  omega

theorem packA_rd (o : AOp) (aop maj : BitVec 5) : rdF (packA o aop maj) = o.rd := by
  apply BitVec.eq_of_toNat_eq
  simp only [rdF, BitVec.extractLsb'_toNat, packA_toNat, Nat.shiftRight_eq_div_pow]
  omega

theorem packA_scope (o : AOp) (aop maj : BitVec 5) : f3F (packA o aop maj) = o.scope := by
  apply BitVec.eq_of_toNat_eq
  simp only [f3F, BitVec.extractLsb'_toNat, packA_toNat, Nat.shiftRight_eq_div_pow]
  omega

theorem packA_rs1 (o : AOp) (aop maj : BitVec 5) : rs1F (packA o aop maj) = o.rs1 := by
  apply BitVec.eq_of_toNat_eq
  simp only [rs1F, BitVec.extractLsb'_toNat, packA_toNat, Nat.shiftRight_eq_div_pow]
  omega

theorem packA_rs2 (o : AOp) (aop maj : BitVec 5) : rs2F (packA o aop maj) = o.rs2 := by
  apply BitVec.eq_of_toNat_eq
  simp only [rs2F, BitVec.extractLsb'_toNat, packA_toNat, Nat.shiftRight_eq_div_pow]
  omega

theorem packA_ord (o : AOp) (aop maj : BitVec 5) : (packA o aop maj).extractLsb' 25 2 = o.ord := by
  apply BitVec.eq_of_toNat_eq
  simp only [BitVec.extractLsb'_toNat, packA_toNat, Nat.shiftRight_eq_div_pow]
  omega

theorem packA_fields (o : AOp) (aop maj : BitVec 5) : aopF (packA o aop maj) = o := by
  simp only [aopF, packA_ord, packA_rd, packA_scope, packA_rs1, packA_rs2]

theorem packS_low (imm : BitVec 12) (rs2 rs1 : BitVec 5) (f3 : BitVec 3) (maj : BitVec 5) :
    (packS imm rs2 rs1 f3 maj).extractLsb' 0 2 = 3#2 := packR_low _ _ _ _ _ _

theorem packS_maj (imm : BitVec 12) (rs2 rs1 : BitVec 5) (f3 : BitVec 3) (maj : BitVec 5) : majF (packS imm rs2 rs1 f3 maj) = maj :=
  packR_maj _ _ _ _ _ _

theorem packS_f3 (imm : BitVec 12) (rs2 rs1 : BitVec 5) (f3 : BitVec 3) (maj : BitVec 5) : f3F (packS imm rs2 rs1 f3 maj) = f3 :=
  packR_f3 _ _ _ _ _ _

theorem packS_rs1 (imm : BitVec 12) (rs2 rs1 : BitVec 5) (f3 : BitVec 3) (maj : BitVec 5) : rs1F (packS imm rs2 rs1 f3 maj) = rs1 :=
  packR_rs1 _ _ _ _ _ _

theorem packS_rs2 (imm : BitVec 12) (rs2 rs1 : BitVec 5) (f3 : BitVec 3) (maj : BitVec 5) : rs2F (packS imm rs2 rs1 f3 maj) = rs2 :=
  packR_rs2 _ _ _ _ _ _

theorem packS_imm (imm : BitVec 12) (rs2 rs1 : BitVec 5) (f3 : BitVec 3) (maj : BitVec 5) : immS (packS imm rs2 rs1 f3 maj) = imm := by
  apply BitVec.eq_of_toNat_eq
  unfold immS packS
  rw [packR_f7, packR_rd, append_toNat]
  simp only [BitVec.extractLsb'_toNat, Nat.shiftRight_eq_div_pow]
  omega

theorem packB_toNat (imm : BitVec 12) (rs2 rs1 : BitVec 5) (f3 : BitVec 3) (maj : BitVec 5) :
    (packB imm rs2 rs1 f3 maj).toNat =
      imm.toNat / 2 ^ 11 % 2 * 2 ^ 31 + imm.toNat / 2 ^ 4 % 2 ^ 6 * 2 ^ 25 + rs2.toNat * 2 ^ 20 + rs1.toNat * 2 ^ 15 + f3.toNat * 2 ^ 12
        + imm.toNat % 2 ^ 4 * 2 ^ 8 + imm.toNat / 2 ^ 10 % 2 * 2 ^ 7 + maj.toNat * 2 ^ 2 + 3 := by
  unfold packB
  erw [append_toNat, append_toNat, append_toNat, append_toNat, append_toNat, append_toNat, append_toNat, append_toNat]
  simp only [BitVec.toNat_ofNat, BitVec.extractLsb'_toNat, Nat.shiftRight_eq_div_pow]
  omega

theorem packJ_toNat (imm : BitVec 20) (rd maj : BitVec 5) :
    (packJ imm rd maj).toNat =
      imm.toNat / 2 ^ 19 % 2 * 2 ^ 31 + imm.toNat % 2 ^ 10 * 2 ^ 21 + imm.toNat / 2 ^ 10 % 2 * 2 ^ 20 + imm.toNat / 2 ^ 11 % 2 ^ 8 * 2 ^ 12
        + rd.toNat * 2 ^ 7 + maj.toNat * 2 ^ 2 + 3 := by
  unfold packJ
  erw [append_toNat, append_toNat, append_toNat, append_toNat, append_toNat, append_toNat]
  simp only [BitVec.toNat_ofNat, BitVec.extractLsb'_toNat, Nat.shiftRight_eq_div_pow]
  omega

theorem packB_low (imm : BitVec 12) (rs2 rs1 : BitVec 5) (f3 : BitVec 3) (maj : BitVec 5) : (packB imm rs2 rs1 f3 maj).extractLsb' 0 2 = 3#2 := by
  apply BitVec.eq_of_toNat_eq
  simp only [BitVec.extractLsb'_toNat, packB_toNat, Nat.shiftRight_eq_div_pow, BitVec.toNat_ofNat]
  omega

theorem packB_maj (imm : BitVec 12) (rs2 rs1 : BitVec 5) (f3 : BitVec 3) (maj : BitVec 5) : majF (packB imm rs2 rs1 f3 maj) = maj := by
  apply BitVec.eq_of_toNat_eq
  simp only [majF, BitVec.extractLsb'_toNat, packB_toNat, Nat.shiftRight_eq_div_pow]
  have h1 : imm.toNat / 2 ^ 11 % 2 < 2 := Nat.mod_lt _ (by decide)
  have h2 : imm.toNat / 2 ^ 4 % 2 ^ 6 < 2 ^ 6 := Nat.mod_lt _ (by decide)
  have h3 : imm.toNat % 2 ^ 4 < 2 ^ 4 := Nat.mod_lt _ (by decide)
  have h4 : imm.toNat / 2 ^ 10 % 2 < 2 := Nat.mod_lt _ (by decide)
  have h5 : imm.toNat = imm.toNat / 2 ^ 11 % 2 * 2 ^ 11 + imm.toNat / 2 ^ 10 % 2 * 2 ^ 10 + imm.toNat / 2 ^ 4 % 2 ^ 6 * 2 ^ 4 + imm.toNat % 2 ^ 4 := by
    omega
  revert h1 h2 h3 h4 h5
  generalize imm.toNat / 2 ^ 11 % 2 = a
  generalize imm.toNat / 2 ^ 4 % 2 ^ 6 = b
  generalize imm.toNat % 2 ^ 4 = c
  generalize imm.toNat / 2 ^ 10 % 2 = d
  intro h1 h2 h3 h4 h5
  clear h5
  omega

theorem packB_f3 (imm : BitVec 12) (rs2 rs1 : BitVec 5) (f3 : BitVec 3) (maj : BitVec 5) : f3F (packB imm rs2 rs1 f3 maj) = f3 := by
  apply BitVec.eq_of_toNat_eq
  simp only [f3F, BitVec.extractLsb'_toNat, packB_toNat, Nat.shiftRight_eq_div_pow]
  have h1 : imm.toNat / 2 ^ 11 % 2 < 2 := Nat.mod_lt _ (by decide)
  have h2 : imm.toNat / 2 ^ 4 % 2 ^ 6 < 2 ^ 6 := Nat.mod_lt _ (by decide)
  have h3 : imm.toNat % 2 ^ 4 < 2 ^ 4 := Nat.mod_lt _ (by decide)
  have h4 : imm.toNat / 2 ^ 10 % 2 < 2 := Nat.mod_lt _ (by decide)
  have h5 : imm.toNat = imm.toNat / 2 ^ 11 % 2 * 2 ^ 11 + imm.toNat / 2 ^ 10 % 2 * 2 ^ 10 + imm.toNat / 2 ^ 4 % 2 ^ 6 * 2 ^ 4 + imm.toNat % 2 ^ 4 := by
    omega
  revert h1 h2 h3 h4 h5
  generalize imm.toNat / 2 ^ 11 % 2 = a
  generalize imm.toNat / 2 ^ 4 % 2 ^ 6 = b
  generalize imm.toNat % 2 ^ 4 = c
  generalize imm.toNat / 2 ^ 10 % 2 = d
  intro h1 h2 h3 h4 h5
  clear h5
  omega

theorem packB_rs1 (imm : BitVec 12) (rs2 rs1 : BitVec 5) (f3 : BitVec 3) (maj : BitVec 5) : rs1F (packB imm rs2 rs1 f3 maj) = rs1 := by
  apply BitVec.eq_of_toNat_eq
  simp only [rs1F, BitVec.extractLsb'_toNat, packB_toNat, Nat.shiftRight_eq_div_pow]
  have h1 : imm.toNat / 2 ^ 11 % 2 < 2 := Nat.mod_lt _ (by decide)
  have h2 : imm.toNat / 2 ^ 4 % 2 ^ 6 < 2 ^ 6 := Nat.mod_lt _ (by decide)
  have h3 : imm.toNat % 2 ^ 4 < 2 ^ 4 := Nat.mod_lt _ (by decide)
  have h4 : imm.toNat / 2 ^ 10 % 2 < 2 := Nat.mod_lt _ (by decide)
  have h5 : imm.toNat = imm.toNat / 2 ^ 11 % 2 * 2 ^ 11 + imm.toNat / 2 ^ 10 % 2 * 2 ^ 10 + imm.toNat / 2 ^ 4 % 2 ^ 6 * 2 ^ 4 + imm.toNat % 2 ^ 4 := by
    omega
  revert h1 h2 h3 h4 h5
  generalize imm.toNat / 2 ^ 11 % 2 = a
  generalize imm.toNat / 2 ^ 4 % 2 ^ 6 = b
  generalize imm.toNat % 2 ^ 4 = c
  generalize imm.toNat / 2 ^ 10 % 2 = d
  intro h1 h2 h3 h4 h5
  clear h5
  omega

theorem packB_rs2 (imm : BitVec 12) (rs2 rs1 : BitVec 5) (f3 : BitVec 3) (maj : BitVec 5) : rs2F (packB imm rs2 rs1 f3 maj) = rs2 := by
  apply BitVec.eq_of_toNat_eq
  simp only [rs2F, BitVec.extractLsb'_toNat, packB_toNat, Nat.shiftRight_eq_div_pow]
  have h1 : imm.toNat / 2 ^ 11 % 2 < 2 := Nat.mod_lt _ (by decide)
  have h2 : imm.toNat / 2 ^ 4 % 2 ^ 6 < 2 ^ 6 := Nat.mod_lt _ (by decide)
  have h3 : imm.toNat % 2 ^ 4 < 2 ^ 4 := Nat.mod_lt _ (by decide)
  have h4 : imm.toNat / 2 ^ 10 % 2 < 2 := Nat.mod_lt _ (by decide)
  have h5 : imm.toNat = imm.toNat / 2 ^ 11 % 2 * 2 ^ 11 + imm.toNat / 2 ^ 10 % 2 * 2 ^ 10 + imm.toNat / 2 ^ 4 % 2 ^ 6 * 2 ^ 4 + imm.toNat % 2 ^ 4 := by
    omega
  revert h1 h2 h3 h4 h5
  generalize imm.toNat / 2 ^ 11 % 2 = a
  generalize imm.toNat / 2 ^ 4 % 2 ^ 6 = b
  generalize imm.toNat % 2 ^ 4 = c
  generalize imm.toNat / 2 ^ 10 % 2 = d
  intro h1 h2 h3 h4 h5
  clear h5
  omega

theorem packJ_low (imm : BitVec 20) (rd maj : BitVec 5) : (packJ imm rd maj).extractLsb' 0 2 = 3#2 := by
  apply BitVec.eq_of_toNat_eq
  simp only [BitVec.extractLsb'_toNat, packJ_toNat, Nat.shiftRight_eq_div_pow, BitVec.toNat_ofNat]
  omega

theorem packJ_maj (imm : BitVec 20) (rd maj : BitVec 5) : majF (packJ imm rd maj) = maj := by
  apply BitVec.eq_of_toNat_eq
  simp only [majF, BitVec.extractLsb'_toNat, packJ_toNat, Nat.shiftRight_eq_div_pow]
  have h1 : imm.toNat / 2 ^ 19 % 2 < 2 := Nat.mod_lt _ (by decide)
  have h2 : imm.toNat % 2 ^ 10 < 2 ^ 10 := Nat.mod_lt _ (by decide)
  have h3 : imm.toNat / 2 ^ 10 % 2 < 2 := Nat.mod_lt _ (by decide)
  have h4 : imm.toNat / 2 ^ 11 % 2 ^ 8 < 2 ^ 8 := Nat.mod_lt _ (by decide)
  have h5 : imm.toNat = imm.toNat / 2 ^ 19 % 2 * 2 ^ 19 + imm.toNat / 2 ^ 11 % 2 ^ 8 * 2 ^ 11 + imm.toNat / 2 ^ 10 % 2 * 2 ^ 10 + imm.toNat % 2 ^ 10 := by
    omega
  revert h1 h2 h3 h4 h5
  generalize imm.toNat / 2 ^ 19 % 2 = a
  generalize imm.toNat % 2 ^ 10 = b
  generalize imm.toNat / 2 ^ 10 % 2 = c
  generalize imm.toNat / 2 ^ 11 % 2 ^ 8 = d
  intro h1 h2 h3 h4 h5
  clear h5
  omega

theorem packJ_rd (imm : BitVec 20) (rd maj : BitVec 5) : rdF (packJ imm rd maj) = rd := by
  apply BitVec.eq_of_toNat_eq
  simp only [rdF, BitVec.extractLsb'_toNat, packJ_toNat, Nat.shiftRight_eq_div_pow]
  have h1 : imm.toNat / 2 ^ 19 % 2 < 2 := Nat.mod_lt _ (by decide)
  have h2 : imm.toNat % 2 ^ 10 < 2 ^ 10 := Nat.mod_lt _ (by decide)
  have h3 : imm.toNat / 2 ^ 10 % 2 < 2 := Nat.mod_lt _ (by decide)
  have h4 : imm.toNat / 2 ^ 11 % 2 ^ 8 < 2 ^ 8 := Nat.mod_lt _ (by decide)
  have h5 : imm.toNat = imm.toNat / 2 ^ 19 % 2 * 2 ^ 19 + imm.toNat / 2 ^ 11 % 2 ^ 8 * 2 ^ 11 + imm.toNat / 2 ^ 10 % 2 * 2 ^ 10 + imm.toNat % 2 ^ 10 := by
    omega
  revert h1 h2 h3 h4 h5
  generalize imm.toNat / 2 ^ 19 % 2 = a
  generalize imm.toNat % 2 ^ 10 = b
  generalize imm.toNat / 2 ^ 10 % 2 = c
  generalize imm.toNat / 2 ^ 11 % 2 ^ 8 = d
  intro h1 h2 h3 h4 h5
  clear h5
  omega

theorem packB_imm (imm : BitVec 12) (rs2 rs1 : BitVec 5) (f3 : BitVec 3) (maj : BitVec 5) : immB (packB imm rs2 rs1 f3 maj) = imm := by
  apply BitVec.eq_of_toNat_eq
  unfold immB
  rw [append_toNat, append_toNat, append_toNat]
  simp only [BitVec.extractLsb'_toNat, packB_toNat, Nat.shiftRight_eq_div_pow]
  have h1 : imm.toNat / 2 ^ 11 % 2 < 2 := Nat.mod_lt _ (by decide)
  have h2 : imm.toNat / 2 ^ 4 % 2 ^ 6 < 2 ^ 6 := Nat.mod_lt _ (by decide)
  have h3 : imm.toNat % 2 ^ 4 < 2 ^ 4 := Nat.mod_lt _ (by decide)
  have h4 : imm.toNat / 2 ^ 10 % 2 < 2 := Nat.mod_lt _ (by decide)
  have h5 : imm.toNat = imm.toNat / 2 ^ 11 % 2 * 2 ^ 11 + imm.toNat / 2 ^ 10 % 2 * 2 ^ 10 + imm.toNat / 2 ^ 4 % 2 ^ 6 * 2 ^ 4 + imm.toNat % 2 ^ 4 := by
    omega
  revert h1 h2 h3 h4 h5
  generalize imm.toNat / 2 ^ 11 % 2 = a
  generalize imm.toNat / 2 ^ 4 % 2 ^ 6 = b
  generalize imm.toNat % 2 ^ 4 = c
  generalize imm.toNat / 2 ^ 10 % 2 = d
  intro h1 h2 h3 h4 h5
  have e1 : (a * 2 ^ 31 + b * 2 ^ 25 + rs2.toNat * 2 ^ 20 + rs1.toNat * 2 ^ 15 + f3.toNat * 2 ^ 12 + c * 2 ^ 8 + d * 2 ^ 7 + maj.toNat * 2 ^ 2 + 3) / 2 ^ 31 % 2 ^ 1 = a := by clear h5; omega
  have e2 : (a * 2 ^ 31 + b * 2 ^ 25 + rs2.toNat * 2 ^ 20 + rs1.toNat * 2 ^ 15 + f3.toNat * 2 ^ 12 + c * 2 ^ 8 + d * 2 ^ 7 + maj.toNat * 2 ^ 2 + 3) / 2 ^ 7 % 2 ^ 1 = d := by clear h5; omega
  have e3 : (a * 2 ^ 31 + b * 2 ^ 25 + rs2.toNat * 2 ^ 20 + rs1.toNat * 2 ^ 15 + f3.toNat * 2 ^ 12 + c * 2 ^ 8 + d * 2 ^ 7 + maj.toNat * 2 ^ 2 + 3) / 2 ^ 25 % 2 ^ 6 = b := by clear h5; omega
  have e4 : (a * 2 ^ 31 + b * 2 ^ 25 + rs2.toNat * 2 ^ 20 + rs1.toNat * 2 ^ 15 + f3.toNat * 2 ^ 12 + c * 2 ^ 8 + d * 2 ^ 7 + maj.toNat * 2 ^ 2 + 3) / 2 ^ 8 % 2 ^ 4 = c := by clear h5; omega
  rw [e1, e2, e3, e4, h5]
  omega

theorem packJ_imm (imm : BitVec 20) (rd maj : BitVec 5) : immJ (packJ imm rd maj) = imm := by
  apply BitVec.eq_of_toNat_eq
  unfold immJ
  rw [append_toNat, append_toNat, append_toNat]
  simp only [BitVec.extractLsb'_toNat, packJ_toNat, Nat.shiftRight_eq_div_pow]
  have h1 : imm.toNat / 2 ^ 19 % 2 < 2 := Nat.mod_lt _ (by decide)
  have h2 : imm.toNat % 2 ^ 10 < 2 ^ 10 := Nat.mod_lt _ (by decide)
  have h3 : imm.toNat / 2 ^ 10 % 2 < 2 := Nat.mod_lt _ (by decide)
  have h4 : imm.toNat / 2 ^ 11 % 2 ^ 8 < 2 ^ 8 := Nat.mod_lt _ (by decide)
  have h5 : imm.toNat = imm.toNat / 2 ^ 19 % 2 * 2 ^ 19 + imm.toNat / 2 ^ 11 % 2 ^ 8 * 2 ^ 11 + imm.toNat / 2 ^ 10 % 2 * 2 ^ 10 + imm.toNat % 2 ^ 10 := by
    omega
  revert h1 h2 h3 h4 h5
  generalize imm.toNat / 2 ^ 19 % 2 = a
  generalize imm.toNat % 2 ^ 10 = b
  generalize imm.toNat / 2 ^ 10 % 2 = c
  generalize imm.toNat / 2 ^ 11 % 2 ^ 8 = d
  intro h1 h2 h3 h4 h5
  have e1 : (a * 2 ^ 31 + b * 2 ^ 21 + c * 2 ^ 20 + d * 2 ^ 12 + rd.toNat * 2 ^ 7 + maj.toNat * 2 ^ 2 + 3) / 2 ^ 31 % 2 ^ 1 = a := by clear h5; omega
  have e2 : (a * 2 ^ 31 + b * 2 ^ 21 + c * 2 ^ 20 + d * 2 ^ 12 + rd.toNat * 2 ^ 7 + maj.toNat * 2 ^ 2 + 3) / 2 ^ 12 % 2 ^ 8 = d := by clear h5; omega
  have e3 : (a * 2 ^ 31 + b * 2 ^ 21 + c * 2 ^ 20 + d * 2 ^ 12 + rd.toNat * 2 ^ 7 + maj.toNat * 2 ^ 2 + 3) / 2 ^ 20 % 2 ^ 1 = c := by clear h5; omega
  have e4 : (a * 2 ^ 31 + b * 2 ^ 21 + c * 2 ^ 20 + d * 2 ^ 12 + rd.toNat * 2 ^ 7 + maj.toNat * 2 ^ 2 + 3) / 2 ^ 21 % 2 ^ 10 = b := by clear h5; omega
  rw [e1, e2, e3, e4, h5]
  omega

theorem fields_loadl (w : BitVec 32) (h : majF w = 0#5) : decodeFields w = decodeLoadl w := by
  unfold decodeFields
  rw [h]
  rfl

theorem fields_loadg (w : BitVec 32) (h : majF w = 1#5) : decodeFields w = decodeLoadg w := by
  unfold decodeFields
  rw [h]
  rfl

theorem fields_misc (w : BitVec 32) (h : majF w = 3#5) : decodeFields w = decodeMisc w := by
  unfold decodeFields
  rw [h]
  rfl

theorem fields_opimm (w : BitVec 32) (h : majF w = 4#5) : decodeFields w = decodeOpimm w := by
  unfold decodeFields
  rw [h]
  rfl

theorem fields_addpc (w : BitVec 32) (h : majF w = 5#5) : decodeFields w = decodeAddpc w := by
  unfold decodeFields
  rw [h]
  rfl

theorem fields_storel (w : BitVec 32) (h : majF w = 8#5) : decodeFields w = decodeStorel w := by
  unfold decodeFields
  rw [h]
  rfl

theorem fields_storeg (w : BitVec 32) (h : majF w = 9#5) : decodeFields w = decodeStoreg w := by
  unfold decodeFields
  rw [h]
  rfl

theorem fields_amo (w : BitVec 32) (h : majF w = 10#5) : decodeFields w = decodeAmo w := by
  unfold decodeFields
  rw [h]
  rfl

theorem fields_sync (w : BitVec 32) (h : majF w = 11#5) : decodeFields w = decodeSync w := by
  unfold decodeFields
  rw [h]
  rfl

theorem fields_op (w : BitVec 32) (h : majF w = 12#5) : decodeFields w = decodeOp w := by
  unfold decodeFields
  rw [h]
  rfl

theorem fields_lui (w : BitVec 32) (h : majF w = 13#5) : decodeFields w = decodeLui w := by
  unfold decodeFields
  rw [h]
  rfl

theorem fields_vcfg (w : BitVec 32) (h : majF w = 16#5) : decodeFields w = decodeVcfg w := by
  unfold decodeFields
  rw [h]
  rfl

theorem fields_vint (w : BitVec 32) (h : majF w = 17#5) : decodeFields w = decodeVint w := by
  unfold decodeFields
  rw [h]
  rfl

theorem fields_vfp (w : BitVec 32) (h : majF w = 18#5) : decodeFields w = decodeVfp w := by
  unfold decodeFields
  rw [h]
  rfl

theorem fields_vmask (w : BitVec 32) (h : majF w = 19#5) : decodeFields w = decodeVmask w := by
  unfold decodeFields
  rw [h]
  rfl

theorem fields_vperm (w : BitVec 32) (h : majF w = 20#5) : decodeFields w = decodeVperm w := by
  unfold decodeFields
  rw [h]
  rfl

theorem fields_vmeml (w : BitVec 32) (h : majF w = 21#5) : decodeFields w = decodeVmeml w := by
  unfold decodeFields
  rw [h]
  rfl

theorem fields_vmemg (w : BitVec 32) (h : majF w = 22#5) : decodeFields w = decodeVmemg w := by
  unfold decodeFields
  rw [h]
  rfl

theorem fields_posn (w : BitVec 32) (h : majF w = 23#5) : decodeFields w = decodePosn w := by
  unfold decodeFields
  rw [h]
  rfl

theorem fields_branch (w : BitVec 32) (h : majF w = 24#5) : decodeFields w = decodeBranch w := by
  unfold decodeFields
  rw [h]
  rfl

theorem fields_jalr (w : BitVec 32) (h : majF w = 25#5) : decodeFields w = decodeJalr w := by
  unfold decodeFields
  rw [h]
  rfl

theorem fields_matrix (w : BitVec 32) (h : majF w = 26#5) : decodeFields w = decodeMatrix w := by
  unfold decodeFields
  rw [h]
  rfl

theorem fields_jal (w : BitVec 32) (h : majF w = 27#5) : decodeFields w = decodeJal w := by
  unfold decodeFields
  rw [h]
  rfl

theorem fields_system (w : BitVec 32) (h : majF w = 28#5) : decodeFields w = decodeSystem w := by
  unfold decodeFields
  rw [h]
  rfl

theorem fields_engine (w : BitVec 32) (h : majF w = 29#5) : decodeFields w = decodeEngine w := by
  unfold decodeFields
  rw [h]
  rfl

theorem fields_msg (w : BitVec 32) (h : majF w = 30#5) : decodeFields w = decodeMsg w := by
  unfold decodeFields
  rw [h]
  rfl

/-- A word decodes to what its major's table gives, where the row's unnamed fields are zero (R274, R283, R290). -/
theorem decode_of (w : BitVec 32) (f : BitVec 32 → Except DecodeError Instr) (i : Instr) (h0 : w.extractLsb' 0 2 = 3#2)
    (hf : decodeFields w = f w) (h : f w = .ok i) (hu : i.unusedZero = true) : decode w = .ok i := by
  unfold decode
  rw [if_pos h0, hf, h]
  simp only [hu, if_true]

end Sys2Proof.Laws
end

