-- ==== Sys2Proof/Laws/PerInstr.lean ====
section
/-!
SUPPORT. Families of statements about every constructor of Instr. RoundTrip: the decoder gives back a well-formed word's instruction from
the encoder's word (R274-R290).
-/

namespace Sys2Proof.Laws.RoundTrip

open Sys2Proof Sys2Proof.Laws

/-- Decoding the encoding of a well-formed word gives the word. -/
def Statement (i : Instr) : Prop := i.isWord = true → i.unusedZero = true → decode (encode i) = .ok i

/-- A row without a word. -/
theorem of_event (i : Instr) (h : i.isWord = false) : Statement i := fun hw => by rw [h] at hw; cases hw

/-- The V-format rows. -/
theorem of_v (o : VOp) (fn4 : BitVec 4) (maj : BitVec 5) (f : BitVec 32 → Except DecodeError Instr) (i : Instr)
    (hf : ∀ w, majF w = maj → decodeFields w = f w) (he : encode i = packV o fn4 maj)
    (h : ∀ w, fn4F w = fn4 → vopF w = o → f w = .ok i) : Statement i := fun _ hu => by
  rw [he]
  exact decode_of _ f i (packV_low _ _ _) (hf _ (packV_maj _ _ _)) (h _ (packV_fn4 _ _ _) (packV_fields _ _ _)) hu

/-- The L-layout rows. -/
theorem of_l (o : LOp) (f3 : BitVec 3) (maj : BitVec 5) (f : BitVec 32 → Except DecodeError Instr) (i : Instr)
    (hf : ∀ w, majF w = maj → decodeFields w = f w) (he : encode i = packL o f3 maj)
    (h : ∀ w, f3F w = f3 → lopF w = o → f w = .ok i) : Statement i := fun _ hu => by
  rw [he]
  exact decode_of _ f i (packL_low _ _ _) (hf _ (packL_maj _ _ _)) (h _ (packL_f3 _ _ _) (packL_fields _ _ _)) hu

/-- The A-layout rows. -/
theorem of_a (o : AOp) (aop maj : BitVec 5) (f : BitVec 32 → Except DecodeError Instr) (i : Instr)
    (hf : ∀ w, majF w = maj → decodeFields w = f w) (he : encode i = packA o aop maj)
    (h : ∀ w, aopSel w = aop → aopF w = o → f w = .ok i) : Statement i := fun _ hu => by
  rw [he]
  exact decode_of _ f i (packA_low _ _ _) (hf _ (packA_maj _ _ _)) (h _ (packA_aop _ _ _) (packA_fields _ _ _)) hu

/-- The R-format rows. -/
theorem of_r (f7 : BitVec 7) (rs2 rs1 : BitVec 5) (f3 : BitVec 3) (rd maj : BitVec 5) (f : BitVec 32 → Except DecodeError Instr)
    (i : Instr) (hf : ∀ w, majF w = maj → decodeFields w = f w) (he : encode i = packR f7 rs2 rs1 f3 rd maj)
    (h : ∀ w, f7F w = f7 → f3F w = f3 → rdF w = rd → rs1F w = rs1 → rs2F w = rs2 → f w = .ok i) : Statement i := fun _ hu => by
  rw [he]
  exact decode_of _ f i (packR_low _ _ _ _ _ _) (hf _ (packR_maj _ _ _ _ _ _))
    (h _ (packR_f7 _ _ _ _ _ _) (packR_f3 _ _ _ _ _ _) (packR_rd _ _ _ _ _ _) (packR_rs1 _ _ _ _ _ _) (packR_rs2 _ _ _ _ _ _)) hu

/-- The I-format rows. -/
theorem of_i (imm : BitVec 12) (rs1 : BitVec 5) (f3 : BitVec 3) (rd maj : BitVec 5) (f : BitVec 32 → Except DecodeError Instr)
    (i : Instr) (hf : ∀ w, majF w = maj → decodeFields w = f w) (he : encode i = packI imm rs1 f3 rd maj)
    (h : ∀ w, f3F w = f3 → rdF w = rd → rs1F w = rs1 → immI w = imm → f w = .ok i) : Statement i := fun _ hu => by
  rw [he]
  exact decode_of _ f i (packI_low _ _ _ _ _) (hf _ (packI_maj _ _ _ _ _))
    (h _ (packI_f3 _ _ _ _ _) (packI_rd _ _ _ _ _) (packI_rs1 _ _ _ _ _) (packI_imm _ _ _ _ _)) hu

/-- The S-format rows. -/
theorem of_s (imm : BitVec 12) (rs2 rs1 : BitVec 5) (f3 : BitVec 3) (maj : BitVec 5) (f : BitVec 32 → Except DecodeError Instr)
    (i : Instr) (hf : ∀ w, majF w = maj → decodeFields w = f w) (he : encode i = packS imm rs2 rs1 f3 maj)
    (h : ∀ w, f3F w = f3 → rs1F w = rs1 → rs2F w = rs2 → immS w = imm → f w = .ok i) : Statement i := fun _ hu => by
  rw [he]
  exact decode_of _ f i (packS_low _ _ _ _ _) (hf _ (packS_maj _ _ _ _ _))
    (h _ (packS_f3 _ _ _ _ _) (packS_rs1 _ _ _ _ _) (packS_rs2 _ _ _ _ _) (packS_imm _ _ _ _ _)) hu

/-- The B-format rows. -/
theorem of_b (imm : BitVec 12) (rs2 rs1 : BitVec 5) (f3 : BitVec 3) (maj : BitVec 5) (f : BitVec 32 → Except DecodeError Instr)
    (i : Instr) (hf : ∀ w, majF w = maj → decodeFields w = f w) (he : encode i = packB imm rs2 rs1 f3 maj)
    (h : ∀ w, f3F w = f3 → rs1F w = rs1 → rs2F w = rs2 → immB w = imm → f w = .ok i) : Statement i := fun _ hu => by
  rw [he]
  exact decode_of _ f i (packB_low _ _ _ _ _) (hf _ (packB_maj _ _ _ _ _))
    (h _ (packB_f3 _ _ _ _ _) (packB_rs1 _ _ _ _ _) (packB_rs2 _ _ _ _ _) (packB_imm _ _ _ _ _)) hu

/-- The U-format rows. -/
theorem of_u (imm : BitVec 20) (rd maj : BitVec 5) (f : BitVec 32 → Except DecodeError Instr)
    (i : Instr) (hf : ∀ w, majF w = maj → decodeFields w = f w) (he : encode i = packU imm rd maj)
    (h : ∀ w, rdF w = rd → immU w = imm → f w = .ok i) : Statement i := fun _ hu => by
  rw [he]
  exact decode_of _ f i (packU_low _ _ _) (hf _ (packU_maj _ _ _)) (h _ (packU_rd _ _ _) (packU_imm _ _ _)) hu

/-- The J-format rows. -/
theorem of_j (imm : BitVec 20) (rd maj : BitVec 5) (f : BitVec 32 → Except DecodeError Instr)
    (i : Instr) (hf : ∀ w, majF w = maj → decodeFields w = f w) (he : encode i = packJ imm rd maj)
    (h : ∀ w, rdF w = rd → immJ w = imm → f w = .ok i) : Statement i := fun _ hu => by
  rw [he]
  exact decode_of _ f i (packJ_low _ _ _) (hf _ (packJ_maj _ _ _)) (h _ (packJ_rd _ _ _) (packJ_imm _ _ _)) hu

/-! The immediates that carry several fields. -/

theorem sh_zero : ∀ sh : BitVec 6, ((0#6 ++ sh : BitVec 12)).extractLsb' 6 6 = 0#6 ∧ ((0#6 ++ sh : BitVec 12)).extractLsb' 0 6 = sh := by
  decide

theorem sh_sixteen : ∀ sh : BitVec 6,
    ((16#6 ++ sh : BitVec 12)).extractLsb' 6 6 = 16#6 ∧ ((16#6 ++ sh : BitVec 12)).extractLsb' 0 6 = sh := by
  decide

theorem fence_imm : ∀ (k : BitVec 2) (s : BitVec 3),
    ((0#7 ++ k ++ s : BitVec 12)).extractLsb' 5 7 = 0#7 ∧ ((0#7 ++ k ++ s : BitVec 12)).extractLsb' 3 2 = k ∧
      ((0#7 ++ k ++ s : BitVec 12)).extractLsb' 0 3 = s := by
  decide

theorem acq_imm : ∀ (w : BitVec 2) (l : Bool) (s : BitVec 3),
    ((0#6 ++ w ++ BitVec.ofBool l ++ s : BitVec 12)).extractLsb' 6 6 = 0#6 ∧
      ((0#6 ++ w ++ BitVec.ofBool l ++ s : BitVec 12)).extractLsb' 4 2 = w ∧
      ((0#6 ++ w ++ BitVec.ofBool l ++ s : BitVec 12)).getLsbD 3 = l ∧
      ((0#6 ++ w ++ BitVec.ofBool l ++ s : BitVec 12)).extractLsb' 0 3 = s := by
  decide

theorem len_f7 : ∀ l : BitVec 6, ((0#1 ++ l : BitVec 7)).getLsbD 6 = false ∧ ((0#1 ++ l : BitVec 7)).extractLsb' 0 6 = l := by
  decide

/-- The shift amount is the low six bits of the immediate. -/
theorem shF_eq (w : BitVec 32) : shF w = (immI w).extractLsb' 0 6 := by
  apply BitVec.eq_of_toNat_eq
  simp only [shF, immI, BitVec.extractLsb'_toNat, Nat.shiftRight_eq_div_pow]
  omega

theorem createQueue : Statement .createQueue := of_event _ rfl
theorem deleteQueue : Statement .deleteQueue := of_event _ rfl
theorem openAperture : Statement .openAperture := of_event _ rfl
theorem closeAperture : Statement .closeAperture := of_event _ rfl
theorem createContext : Statement .createContext := of_event _ rfl
theorem destroyContext : Statement .destroyContext := of_event _ rfl
theorem setHomeMap : Statement .setHomeMap := of_event _ rfl
theorem launch : Statement .launch := of_event _ rfl
theorem preempt : Statement .preempt := of_event _ rfl
theorem resume : Statement .resume := of_event _ rfl
theorem map : Statement .map := of_event _ rfl
theorem unmap : Statement .unmap := of_event _ rfl
theorem freePage : Statement .freePage := of_event _ rfl
theorem readManifest : Statement .readManifest := of_event _ rfl
theorem fwStage : Statement .fwStage := of_event _ rfl
theorem fwActivate : Statement .fwActivate := of_event _ rfl
theorem fwCommit : Statement .fwCommit := of_event _ rfl
theorem fwQuery : Statement .fwQuery := of_event _ rfl
theorem debugUnlock : Statement .debugUnlock := of_event _ rfl
theorem lifecycle : Statement .lifecycle := of_event _ rfl
theorem measureExtend : Statement .measureExtend := of_event _ rfl
theorem ownerSet : Statement .ownerSet := of_event _ rfl
theorem submissionFetch : Statement .submissionFetch := of_event _ rfl
theorem commandCompletion : Statement .commandCompletion := of_event _ rfl
theorem mailboxWrite : Statement .mailboxWrite := of_event _ rfl
theorem sqdb : Statement .sqdb := of_event _ rfl
theorem cqdb : Statement .cqdb := of_event _ rfl
theorem admctlBind : Statement .admctlBind := of_event _ rfl
theorem admctlUnbind : Statement .admctlUnbind := of_event _ rfl
theorem adminQueueUnbindDone : Statement .adminQueueUnbindDone := of_event _ rfl
theorem registerWrite : Statement .registerWrite := of_event _ rfl
theorem bhmsub : Statement .bhmsub := of_event _ rfl
theorem bfresaResolve : Statement .bfresaResolve := of_event _ rfl
theorem bfresaFault : Statement .bfresaFault := of_event _ rfl
theorem bfltactResume : Statement .bfltactResume := of_event _ rfl
theorem bfltactKill : Statement .bfltactKill := of_event _ rfl
theorem bwdkick : Statement .bwdkick := of_event _ rfl
theorem ccmdQuiesce : Statement .ccmdQuiesce := of_event _ rfl
theorem ccmdResume : Statement .ccmdResume := of_event _ rfl
theorem ccmdReset : Statement .ccmdReset := of_event _ rfl
theorem ccmdTlbinv : Statement .ccmdTlbinv := of_event _ rfl
theorem ccmdFlushChainCache : Statement .ccmdFlushChainCache := of_event _ rfl
theorem hmcqpop : Statement .hmcqpop := of_event _ rfl
theorem hmTakeRecord : Statement .hmTakeRecord := of_event _ rfl
theorem launchResubmit : Statement .launchResubmit := of_event _ rfl
theorem launchCoreConfigure : Statement .launchCoreConfigure := of_event _ rfl
theorem walkerStep : Statement .walkerStep := of_event _ rfl
theorem queueAgeReady : Statement .queueAgeReady := of_event _ rfl
theorem strandGrant : Statement .strandGrant := of_event _ rfl
theorem preemptDecision : Statement .preemptDecision := of_event _ rfl
theorem forcedLeave : Statement .forcedLeave := of_event _ rfl
theorem faultQueueRetry : Statement .faultQueueRetry := of_event _ rfl
theorem scoreboardTimeout : Statement .scoreboardTimeout := of_event _ rfl
theorem hazardTimeout : Statement .hazardTimeout := of_event _ rfl
theorem convoySplit : Statement .convoySplit := of_event _ rfl
theorem launchEnd : Statement .launchEnd := of_event _ rfl
theorem hmCompletionWrite : Statement .hmCompletionWrite := of_event _ rfl
theorem contextSave : Statement .contextSave := of_event _ rfl
theorem stepBudgetExpiry : Statement .stepBudgetExpiry := of_event _ rfl
theorem heartbeatExpiry : Statement .heartbeatExpiry := of_event _ rfl
theorem watchdogWarning : Statement .watchdogWarning := of_event _ rfl
theorem warmRestart : Statement .warmRestart := of_event _ rfl
theorem dieReset : Statement .dieReset := of_event _ rfl
theorem moduleReset : Statement .moduleReset := of_event _ rfl
theorem boot : Statement .boot := of_event _ rfl
theorem bootTimeout : Statement .bootTimeout := of_event _ rfl
theorem powerLoss : Statement .powerLoss := of_event _ rfl
theorem cpHandover : Statement .cpHandover := of_event _ rfl
theorem swapTimeout : Statement .swapTimeout := of_event _ rfl
theorem rcvyBegin : Statement .rcvyBegin := of_event _ rfl
theorem rcvyData : Statement .rcvyData := of_event _ rfl
theorem rcvyEnd : Statement .rcvyEnd := of_event _ rfl
theorem rcvyQuery : Statement .rcvyQuery := of_event _ rfl
theorem getVersion : Statement .getVersion := of_event _ rfl
theorem getCapabilities : Statement .getCapabilities := of_event _ rfl
theorem negotiateAlgorithms : Statement .negotiateAlgorithms := of_event _ rfl
theorem getDigests : Statement .getDigests := of_event _ rfl
theorem getCertificate : Statement .getCertificate := of_event _ rfl
theorem challenge : Statement .challenge := of_event _ rfl
theorem getMeasurements : Statement .getMeasurements := of_event _ rfl
theorem chunkSend : Statement .chunkSend := of_event _ rfl
theorem chunkGet : Statement .chunkGet := of_event _ rfl
theorem debugAccess : Statement .debugAccess := of_event _ rfl
theorem flitReceive : Statement .flitReceive := of_event _ rfl
theorem linkReplay : Statement .linkReplay := of_event _ rfl
theorem linkRetrainDone : Statement .linkRetrainDone := of_event _ rfl
theorem laneLoss : Statement .laneLoss := of_event _ rfl
theorem packetSchedule : Statement .packetSchedule := of_event _ rfl
theorem multicastSplit : Statement .multicastSplit := of_event _ rfl
theorem clockFailover : Statement .clockFailover := of_event _ rfl
theorem readRequest : Statement .readRequest := of_event _ rfl
theorem writeRequest : Statement .writeRequest := of_event _ rfl
theorem atomicRequest : Statement .atomicRequest := of_event _ rfl
theorem appendReservation : Statement .appendReservation := of_event _ rfl
theorem messageAppend : Statement .messageAppend := of_event _ rfl
theorem signalArrival : Statement .signalArrival := of_event _ rfl
theorem multicastMessage : Statement .multicastMessage := of_event _ rfl
theorem pagerService : Statement .pagerService := of_event _ rfl
theorem routeAndLinkMaintenance : Statement .routeAndLinkMaintenance := of_event _ rfl
theorem reservedOp : Statement .reservedOp := of_event _ rfl
theorem responseWithData : Statement .responseWithData := of_event _ rfl
theorem acknowledgement : Statement .acknowledgement := of_event _ rfl
theorem errorResponse : Statement .errorResponse := of_event _ rfl
theorem retryLaterResponse : Statement .retryLaterResponse := of_event _ rfl
theorem retryLaterResend : Statement .retryLaterResend := of_event _ rfl
theorem retransmitTimeout : Statement .retransmitTimeout := of_event _ rfl
theorem cxlReadTimeout : Statement .cxlReadTimeout := of_event _ rfl
theorem cxlViral : Statement .cxlViral := of_event _ rfl
theorem patrolScrub : Statement .patrolScrub := of_event _ rfl
theorem p1Entry : Statement .p1Entry := of_event _ rfl
theorem p2Entry : Statement .p2Entry := of_event _ rfl
theorem p3Entry : Statement .p3Entry := of_event _ rfl
theorem p4Entry : Statement .p4Entry := of_event _ rfl
theorem coreWake : Statement .coreWake := of_event _ rfl
theorem loadDataReturn : Statement .loadDataReturn := of_event _ rfl
theorem registrationAnswer : Statement .registrationAnswer := of_event _ rfl
theorem registrationTimeout : Statement .registrationTimeout := of_event _ rfl
theorem futureRegistration : Statement .futureRegistration := of_event _ rfl
theorem futureResolution : Statement .futureResolution := of_event _ rfl
theorem waiterReady : Statement .waiterReady := of_event _ rfl
theorem answerArrival : Statement .answerArrival := of_event _ rfl
theorem heldReleaseWrite : Statement .heldReleaseWrite := of_event _ rfl
theorem globalWritePerform : Statement .globalWritePerform := of_event _ rfl
theorem globalReadPerform : Statement .globalReadPerform := of_event _ rfl
theorem copyTransferComplete : Statement .copyTransferComplete := of_event _ rfl
theorem streamEnd : Statement .streamEnd := of_event _ rfl
theorem stevedorePushFill : Statement .stevedorePushFill := of_event _ rfl
theorem stevedorePullDrain : Statement .stevedorePullDrain := of_event _ rfl
theorem matrixCommandFinish : Statement .matrixCommandFinish := of_event _ rfl
theorem transformPerform : Statement .transformPerform := of_event _ rfl
theorem publishSwap : Statement .publishSwap := of_event _ rfl
theorem add (rd rs1 rs2 : BitVec 5) : Statement (.add rd rs1 rs2) :=
  of_r 0#7 rs2 rs1 0#3 rd 12#5 decodeOp _ fields_op rfl (fun w h7 h3 hd ha hb => by delta decodeOp; rw [h7, h3, hd, ha, hb]; rfl)
theorem sub (rd rs1 rs2 : BitVec 5) : Statement (.sub rd rs1 rs2) :=
  of_r 32#7 rs2 rs1 0#3 rd 12#5 decodeOp _ fields_op rfl (fun w h7 h3 hd ha hb => by delta decodeOp; rw [h7, h3, hd, ha, hb]; rfl)
theorem sll (rd rs1 rs2 : BitVec 5) : Statement (.sll rd rs1 rs2) :=
  of_r 0#7 rs2 rs1 1#3 rd 12#5 decodeOp _ fields_op rfl (fun w h7 h3 hd ha hb => by delta decodeOp; rw [h7, h3, hd, ha, hb]; rfl)
theorem slt (rd rs1 rs2 : BitVec 5) : Statement (.slt rd rs1 rs2) :=
  of_r 0#7 rs2 rs1 2#3 rd 12#5 decodeOp _ fields_op rfl (fun w h7 h3 hd ha hb => by delta decodeOp; rw [h7, h3, hd, ha, hb]; rfl)
theorem sltu (rd rs1 rs2 : BitVec 5) : Statement (.sltu rd rs1 rs2) :=
  of_r 0#7 rs2 rs1 3#3 rd 12#5 decodeOp _ fields_op rfl (fun w h7 h3 hd ha hb => by delta decodeOp; rw [h7, h3, hd, ha, hb]; rfl)
theorem xor (rd rs1 rs2 : BitVec 5) : Statement (.xor rd rs1 rs2) :=
  of_r 0#7 rs2 rs1 4#3 rd 12#5 decodeOp _ fields_op rfl (fun w h7 h3 hd ha hb => by delta decodeOp; rw [h7, h3, hd, ha, hb]; rfl)
theorem srl (rd rs1 rs2 : BitVec 5) : Statement (.srl rd rs1 rs2) :=
  of_r 0#7 rs2 rs1 5#3 rd 12#5 decodeOp _ fields_op rfl (fun w h7 h3 hd ha hb => by delta decodeOp; rw [h7, h3, hd, ha, hb]; rfl)
theorem sra (rd rs1 rs2 : BitVec 5) : Statement (.sra rd rs1 rs2) :=
  of_r 32#7 rs2 rs1 5#3 rd 12#5 decodeOp _ fields_op rfl (fun w h7 h3 hd ha hb => by delta decodeOp; rw [h7, h3, hd, ha, hb]; rfl)
theorem or (rd rs1 rs2 : BitVec 5) : Statement (.or rd rs1 rs2) :=
  of_r 0#7 rs2 rs1 6#3 rd 12#5 decodeOp _ fields_op rfl (fun w h7 h3 hd ha hb => by delta decodeOp; rw [h7, h3, hd, ha, hb]; rfl)
theorem and (rd rs1 rs2 : BitVec 5) : Statement (.and rd rs1 rs2) :=
  of_r 0#7 rs2 rs1 7#3 rd 12#5 decodeOp _ fields_op rfl (fun w h7 h3 hd ha hb => by delta decodeOp; rw [h7, h3, hd, ha, hb]; rfl)
theorem mul (rd rs1 rs2 : BitVec 5) : Statement (.mul rd rs1 rs2) :=
  of_r 1#7 rs2 rs1 0#3 rd 12#5 decodeOp _ fields_op rfl (fun w h7 h3 hd ha hb => by delta decodeOp; rw [h7, h3, hd, ha, hb]; rfl)
theorem mulh (rd rs1 rs2 : BitVec 5) : Statement (.mulh rd rs1 rs2) :=
  of_r 1#7 rs2 rs1 1#3 rd 12#5 decodeOp _ fields_op rfl (fun w h7 h3 hd ha hb => by delta decodeOp; rw [h7, h3, hd, ha, hb]; rfl)
theorem mulhu (rd rs1 rs2 : BitVec 5) : Statement (.mulhu rd rs1 rs2) :=
  of_r 1#7 rs2 rs1 3#3 rd 12#5 decodeOp _ fields_op rfl (fun w h7 h3 hd ha hb => by delta decodeOp; rw [h7, h3, hd, ha, hb]; rfl)
theorem div (rd rs1 rs2 : BitVec 5) : Statement (.div rd rs1 rs2) :=
  of_r 1#7 rs2 rs1 4#3 rd 12#5 decodeOp _ fields_op rfl (fun w h7 h3 hd ha hb => by delta decodeOp; rw [h7, h3, hd, ha, hb]; rfl)
theorem divu (rd rs1 rs2 : BitVec 5) : Statement (.divu rd rs1 rs2) :=
  of_r 1#7 rs2 rs1 5#3 rd 12#5 decodeOp _ fields_op rfl (fun w h7 h3 hd ha hb => by delta decodeOp; rw [h7, h3, hd, ha, hb]; rfl)
theorem rem (rd rs1 rs2 : BitVec 5) : Statement (.rem rd rs1 rs2) :=
  of_r 1#7 rs2 rs1 6#3 rd 12#5 decodeOp _ fields_op rfl (fun w h7 h3 hd ha hb => by delta decodeOp; rw [h7, h3, hd, ha, hb]; rfl)
theorem remu (rd rs1 rs2 : BitVec 5) : Statement (.remu rd rs1 rs2) :=
  of_r 1#7 rs2 rs1 7#3 rd 12#5 decodeOp _ fields_op rfl (fun w h7 h3 hd ha hb => by delta decodeOp; rw [h7, h3, hd, ha, hb]; rfl)
theorem lea (rd rs1 rs2 : BitVec 5) (n : BitVec 2) : Statement (.lea rd rs1 rs2 n) :=
  of_r 2#7 rs2 rs1 (0#1 ++ n) rd 12#5 decodeOp _ fields_op rfl (fun w h7 h3 hd ha hb => by
    have h : n = 0#2 ∨ n = 1#2 ∨ n = 2#2 ∨ n = 3#2 := by clear h3; revert n; decide
    unfold decodeOp
    rcases h with h | h | h | h <;> subst h <;> rw [h7, h3] <;> simp only [hd, ha, hb] <;> rfl)
theorem min (rd rs1 rs2 : BitVec 5) : Statement (.min rd rs1 rs2) :=
  of_r 5#7 rs2 rs1 0#3 rd 12#5 decodeOp _ fields_op rfl (fun w h7 h3 hd ha hb => by delta decodeOp; rw [h7, h3, hd, ha, hb]; rfl)
theorem max (rd rs1 rs2 : BitVec 5) : Statement (.max rd rs1 rs2) :=
  of_r 5#7 rs2 rs1 1#3 rd 12#5 decodeOp _ fields_op rfl (fun w h7 h3 hd ha hb => by delta decodeOp; rw [h7, h3, hd, ha, hb]; rfl)
theorem minu (rd rs1 rs2 : BitVec 5) : Statement (.minu rd rs1 rs2) :=
  of_r 5#7 rs2 rs1 2#3 rd 12#5 decodeOp _ fields_op rfl (fun w h7 h3 hd ha hb => by delta decodeOp; rw [h7, h3, hd, ha, hb]; rfl)
theorem maxu (rd rs1 rs2 : BitVec 5) : Statement (.maxu rd rs1 rs2) :=
  of_r 5#7 rs2 rs1 3#3 rd 12#5 decodeOp _ fields_op rfl (fun w h7 h3 hd ha hb => by delta decodeOp; rw [h7, h3, hd, ha, hb]; rfl)
theorem clz (rd rs1 : BitVec 5) : Statement (.clz rd rs1) :=
  of_r 48#7 0#5 rs1 0#3 rd 12#5 decodeOp _ fields_op rfl (fun w h7 h3 hd ha hb => by simp [decodeOp, h7, h3, hd, ha, hb])
theorem ctz (rd rs1 : BitVec 5) : Statement (.ctz rd rs1) :=
  of_r 48#7 0#5 rs1 1#3 rd 12#5 decodeOp _ fields_op rfl (fun w h7 h3 hd ha hb => by simp [decodeOp, h7, h3, hd, ha, hb])
theorem popc (rd rs1 : BitVec 5) : Statement (.popc rd rs1) :=
  of_r 48#7 0#5 rs1 2#3 rd 12#5 decodeOp _ fields_op rfl (fun w h7 h3 hd ha hb => by simp [decodeOp, h7, h3, hd, ha, hb])
theorem addi (rd rs1 : BitVec 5) (imm : BitVec 12) : Statement (.addi rd rs1 imm) :=
  of_i imm rs1 0#3 rd 4#5 decodeOpimm _ fields_opimm rfl (fun w h3 hd ha hi => by delta decodeOpimm; rw [h3, hd, ha, hi]; rfl)
theorem slti (rd rs1 : BitVec 5) (imm : BitVec 12) : Statement (.slti rd rs1 imm) :=
  of_i imm rs1 2#3 rd 4#5 decodeOpimm _ fields_opimm rfl (fun w h3 hd ha hi => by delta decodeOpimm; rw [h3, hd, ha, hi]; rfl)
theorem sltiu (rd rs1 : BitVec 5) (imm : BitVec 12) : Statement (.sltiu rd rs1 imm) :=
  of_i imm rs1 3#3 rd 4#5 decodeOpimm _ fields_opimm rfl (fun w h3 hd ha hi => by delta decodeOpimm; rw [h3, hd, ha, hi]; rfl)
theorem xori (rd rs1 : BitVec 5) (imm : BitVec 12) : Statement (.xori rd rs1 imm) :=
  of_i imm rs1 4#3 rd 4#5 decodeOpimm _ fields_opimm rfl (fun w h3 hd ha hi => by delta decodeOpimm; rw [h3, hd, ha, hi]; rfl)
theorem ori (rd rs1 : BitVec 5) (imm : BitVec 12) : Statement (.ori rd rs1 imm) :=
  of_i imm rs1 6#3 rd 4#5 decodeOpimm _ fields_opimm rfl (fun w h3 hd ha hi => by delta decodeOpimm; rw [h3, hd, ha, hi]; rfl)
theorem andi (rd rs1 : BitVec 5) (imm : BitVec 12) : Statement (.andi rd rs1 imm) :=
  of_i imm rs1 7#3 rd 4#5 decodeOpimm _ fields_opimm rfl (fun w h3 hd ha hi => by delta decodeOpimm; rw [h3, hd, ha, hi]; rfl)
theorem slli (rd rs1 : BitVec 5) (sh : BitVec 6) : Statement (.slli rd rs1 sh) :=
  of_i (0b000000#6 ++ sh) rs1 1#3 rd 4#5 decodeOpimm _ fields_opimm rfl (fun w h3 hd ha hi => by unfold decodeOpimm; simp only [h3, hd, ha, hi, shF_eq, (sh_zero sh).1, (sh_zero sh).2, if_true])
theorem srli (rd rs1 : BitVec 5) (sh : BitVec 6) : Statement (.srli rd rs1 sh) :=
  of_i (0b000000#6 ++ sh) rs1 5#3 rd 4#5 decodeOpimm _ fields_opimm rfl (fun w h3 hd ha hi => by unfold decodeOpimm; simp only [h3, hd, ha, hi, shF_eq, (sh_zero sh).1, (sh_zero sh).2, if_true])
theorem srai (rd rs1 : BitVec 5) (sh : BitVec 6) : Statement (.srai rd rs1 sh) :=
  of_i (0b010000#6 ++ sh) rs1 5#3 rd 4#5 decodeOpimm _ fields_opimm rfl (fun w h3 hd ha hi => by
    unfold decodeOpimm
    simp only [h3, hd, ha, hi, shF_eq, (sh_sixteen sh).1, (sh_sixteen sh).2, if_true]
    rfl)
theorem lui (rd : BitVec 5) (imm : BitVec 20) : Statement (.lui rd imm) :=
  of_u imm rd 13#5 decodeLui _ fields_lui rfl (fun w hd hi => by delta decodeLui; rw [hd, hi])
theorem addpc (rd : BitVec 5) (imm : BitVec 20) : Statement (.addpc rd imm) :=
  of_u imm rd 5#5 decodeAddpc _ fields_addpc rfl (fun w hd hi => by delta decodeAddpc; rw [hd, hi])
theorem beq (rs1 rs2 : BitVec 5) (imm : BitVec 12) : Statement (.beq rs1 rs2 imm) :=
  of_b imm rs2 rs1 0#3 24#5 decodeBranch _ fields_branch rfl (fun w h3 ha hb hi => by delta decodeBranch; rw [h3, ha, hb, hi]; rfl)
theorem bne (rs1 rs2 : BitVec 5) (imm : BitVec 12) : Statement (.bne rs1 rs2 imm) :=
  of_b imm rs2 rs1 1#3 24#5 decodeBranch _ fields_branch rfl (fun w h3 ha hb hi => by delta decodeBranch; rw [h3, ha, hb, hi]; rfl)
theorem blt (rs1 rs2 : BitVec 5) (imm : BitVec 12) : Statement (.blt rs1 rs2 imm) :=
  of_b imm rs2 rs1 4#3 24#5 decodeBranch _ fields_branch rfl (fun w h3 ha hb hi => by delta decodeBranch; rw [h3, ha, hb, hi]; rfl)
theorem bge (rs1 rs2 : BitVec 5) (imm : BitVec 12) : Statement (.bge rs1 rs2 imm) :=
  of_b imm rs2 rs1 5#3 24#5 decodeBranch _ fields_branch rfl (fun w h3 ha hb hi => by delta decodeBranch; rw [h3, ha, hb, hi]; rfl)
theorem bltu (rs1 rs2 : BitVec 5) (imm : BitVec 12) : Statement (.bltu rs1 rs2 imm) :=
  of_b imm rs2 rs1 6#3 24#5 decodeBranch _ fields_branch rfl (fun w h3 ha hb hi => by delta decodeBranch; rw [h3, ha, hb, hi]; rfl)
theorem bgeu (rs1 rs2 : BitVec 5) (imm : BitVec 12) : Statement (.bgeu rs1 rs2 imm) :=
  of_b imm rs2 rs1 7#3 24#5 decodeBranch _ fields_branch rfl (fun w h3 ha hb hi => by delta decodeBranch; rw [h3, ha, hb, hi]; rfl)
theorem jal (rd : BitVec 5) (imm : BitVec 20) : Statement (.jal rd imm) :=
  of_j imm rd 27#5 decodeJal _ fields_jal rfl (fun w hd hi => by delta decodeJal; rw [hd, hi])
theorem jalr (rd rs1 : BitVec 5) (imm : BitVec 12) : Statement (.jalr rd rs1 imm) :=
  of_i imm rs1 0#3 rd 25#5 decodeJalr _ fields_jalr rfl (fun w h3 hd ha hi => by delta decodeJalr; rw [h3, hd, ha, hi]; rfl)
theorem ldB (rd rs1 : BitVec 5) (imm : BitVec 12) : Statement (.ldB rd rs1 imm) :=
  of_i imm rs1 0#3 rd 0#5 decodeLoadl _ fields_loadl rfl (fun w h3 hd ha hi => by delta decodeLoadl; rw [h3, hd, ha, hi]; rfl)
theorem ldH (rd rs1 : BitVec 5) (imm : BitVec 12) : Statement (.ldH rd rs1 imm) :=
  of_i imm rs1 1#3 rd 0#5 decodeLoadl _ fields_loadl rfl (fun w h3 hd ha hi => by delta decodeLoadl; rw [h3, hd, ha, hi]; rfl)
theorem ldW (rd rs1 : BitVec 5) (imm : BitVec 12) : Statement (.ldW rd rs1 imm) :=
  of_i imm rs1 2#3 rd 0#5 decodeLoadl _ fields_loadl rfl (fun w h3 hd ha hi => by delta decodeLoadl; rw [h3, hd, ha, hi]; rfl)
theorem ldD (rd rs1 : BitVec 5) (imm : BitVec 12) : Statement (.ldD rd rs1 imm) :=
  of_i imm rs1 3#3 rd 0#5 decodeLoadl _ fields_loadl rfl (fun w h3 hd ha hi => by delta decodeLoadl; rw [h3, hd, ha, hi]; rfl)
theorem ldBu (rd rs1 : BitVec 5) (imm : BitVec 12) : Statement (.ldBu rd rs1 imm) :=
  of_i imm rs1 4#3 rd 0#5 decodeLoadl _ fields_loadl rfl (fun w h3 hd ha hi => by delta decodeLoadl; rw [h3, hd, ha, hi]; rfl)
theorem ldHu (rd rs1 : BitVec 5) (imm : BitVec 12) : Statement (.ldHu rd rs1 imm) :=
  of_i imm rs1 5#3 rd 0#5 decodeLoadl _ fields_loadl rfl (fun w h3 hd ha hi => by delta decodeLoadl; rw [h3, hd, ha, hi]; rfl)
theorem ldWu (rd rs1 : BitVec 5) (imm : BitVec 12) : Statement (.ldWu rd rs1 imm) :=
  of_i imm rs1 6#3 rd 0#5 decodeLoadl _ fields_loadl rfl (fun w h3 hd ha hi => by delta decodeLoadl; rw [h3, hd, ha, hi]; rfl)
theorem stB (rs2 rs1 : BitVec 5) (imm : BitVec 12) : Statement (.stB rs2 rs1 imm) :=
  of_s imm rs2 rs1 0#3 8#5 decodeStorel _ fields_storel rfl (fun w h3 ha hb hi => by delta decodeStorel; rw [h3, ha, hb, hi]; rfl)
theorem stH (rs2 rs1 : BitVec 5) (imm : BitVec 12) : Statement (.stH rs2 rs1 imm) :=
  of_s imm rs2 rs1 1#3 8#5 decodeStorel _ fields_storel rfl (fun w h3 ha hb hi => by delta decodeStorel; rw [h3, ha, hb, hi]; rfl)
theorem stW (rs2 rs1 : BitVec 5) (imm : BitVec 12) : Statement (.stW rs2 rs1 imm) :=
  of_s imm rs2 rs1 2#3 8#5 decodeStorel _ fields_storel rfl (fun w h3 ha hb hi => by delta decodeStorel; rw [h3, ha, hb, hi]; rfl)
theorem stD (rs2 rs1 : BitVec 5) (imm : BitVec 12) : Statement (.stD rs2 rs1 imm) :=
  of_s imm rs2 rs1 3#3 8#5 decodeStorel _ fields_storel rfl (fun w h3 ha hb hi => by delta decodeStorel; rw [h3, ha, hb, hi]; rfl)
theorem ldgLB (o : LOp) : Statement (.ldgLB o) :=
  of_l o 0#3 1#5 decodeLoadg _ fields_loadg rfl (fun w hn ho => by delta decodeLoadg; rw [hn, ho]; rfl)
theorem ldgLH (o : LOp) : Statement (.ldgLH o) :=
  of_l o 1#3 1#5 decodeLoadg _ fields_loadg rfl (fun w hn ho => by delta decodeLoadg; rw [hn, ho]; rfl)
theorem ldgLW (o : LOp) : Statement (.ldgLW o) :=
  of_l o 2#3 1#5 decodeLoadg _ fields_loadg rfl (fun w hn ho => by delta decodeLoadg; rw [hn, ho]; rfl)
theorem ldgLD (o : LOp) : Statement (.ldgLD o) :=
  of_l o 3#3 1#5 decodeLoadg _ fields_loadg rfl (fun w hn ho => by delta decodeLoadg; rw [hn, ho]; rfl)
theorem ldgLBu (o : LOp) : Statement (.ldgLBu o) :=
  of_l o 4#3 1#5 decodeLoadg _ fields_loadg rfl (fun w hn ho => by delta decodeLoadg; rw [hn, ho]; rfl)
theorem ldgLHu (o : LOp) : Statement (.ldgLHu o) :=
  of_l o 5#3 1#5 decodeLoadg _ fields_loadg rfl (fun w hn ho => by delta decodeLoadg; rw [hn, ho]; rfl)
theorem ldgLWu (o : LOp) : Statement (.ldgLWu o) :=
  of_l o 6#3 1#5 decodeLoadg _ fields_loadg rfl (fun w hn ho => by delta decodeLoadg; rw [hn, ho]; rfl)
theorem stgB (rs2 rs1 : BitVec 5) (imm : BitVec 12) : Statement (.stgB rs2 rs1 imm) :=
  of_s imm rs2 rs1 0#3 9#5 decodeStoreg _ fields_storeg rfl (fun w h3 ha hb hi => by delta decodeStoreg; rw [h3, ha, hb, hi]; rfl)
theorem stgH (rs2 rs1 : BitVec 5) (imm : BitVec 12) : Statement (.stgH rs2 rs1 imm) :=
  of_s imm rs2 rs1 1#3 9#5 decodeStoreg _ fields_storeg rfl (fun w h3 ha hb hi => by delta decodeStoreg; rw [h3, ha, hb, hi]; rfl)
theorem stgW (rs2 rs1 : BitVec 5) (imm : BitVec 12) : Statement (.stgW rs2 rs1 imm) :=
  of_s imm rs2 rs1 2#3 9#5 decodeStoreg _ fields_storeg rfl (fun w h3 ha hb hi => by delta decodeStoreg; rw [h3, ha, hb, hi]; rfl)
theorem stgD (rs2 rs1 : BitVec 5) (imm : BitVec 12) : Statement (.stgD rs2 rs1 imm) :=
  of_s imm rs2 rs1 3#3 9#5 decodeStoreg _ fields_storeg rfl (fun w h3 ha hb hi => by delta decodeStoreg; rw [h3, ha, hb, hi]; rfl)
theorem fence (kind : BitVec 2) (scope : BitVec 3) : Statement (.fence kind scope) :=
  of_i (0#7 ++ kind ++ scope) 0#5 0#3 0#5 3#5 decodeMisc _ fields_misc rfl (fun w h3 hd ha hi => by
    unfold decodeMisc
    simp only [h3, hd, ha, hi, (fence_imm kind scope).1, (fence_imm kind scope).2.1, (fence_imm kind scope).2.2]
    rfl)
theorem fenceSv : Statement .fenceSv :=
  of_i 0#12 0#5 1#3 0#5 3#5 decodeMisc _ fields_misc rfl (fun w h3 hd ha hi => by simp [decodeMisc, h3, hd, ha, hi])
theorem fenceVs : Statement .fenceVs :=
  of_i 0#12 0#5 2#3 0#5 3#5 decodeMisc _ fields_misc rfl (fun w h3 hd ha hi => by simp [decodeMisc, h3, hd, ha, hi])
theorem ldAcq (rd rs1 : BitVec 5) (wid : BitVec 2) (loc : Bool) (scope : BitVec 3) : Statement (.ldAcq rd rs1 wid loc scope) :=
  of_i (0#6 ++ wid ++ BitVec.ofBool loc ++ scope) rs1 0#3 rd 11#5 decodeSync _ fields_sync rfl (fun w h3 hd ha hi => by
    unfold decodeSync
    simp only [h3, hd, ha, hi, (acq_imm wid loc scope).1, (acq_imm wid loc scope).2.1, (acq_imm wid loc scope).2.2.1, (acq_imm wid loc scope).2.2.2]
    rfl)
theorem stRel (rs2 rs1 : BitVec 5) (wid : BitVec 2) (loc : Bool) (scope : BitVec 3) : Statement (.stRel rs2 rs1 wid loc scope) :=
  of_s (0#6 ++ wid ++ BitVec.ofBool loc ++ scope) rs2 rs1 1#3 11#5 decodeSync _ fields_sync rfl (fun w h3 ha hb hi => by
    unfold decodeSync
    simp only [h3, hb, ha, hi, (acq_imm wid loc scope).1, (acq_imm wid loc scope).2.1, (acq_imm wid loc scope).2.2.1, (acq_imm wid loc scope).2.2.2]
    rfl)
theorem bind (rd rs1 rs2 : BitVec 5) : Statement (.bind rd rs1 rs2) :=
  of_r 0#7 rs2 rs1 2#3 rd 11#5 decodeSync _ fields_sync rfl (fun w h7 h3 hd ha hb => by simp [decodeSync, decodeSyncGroup, h7, h3, hd, ha, hb])
theorem unbind (rd rs1 rs2 : BitVec 5) : Statement (.unbind rd rs1 rs2) :=
  of_r 1#7 rs2 rs1 2#3 rd 11#5 decodeSync _ fields_sync rfl (fun w h7 h3 hd ha hb => by simp [decodeSync, decodeSyncGroup, h7, h3, hd, ha, hb])
theorem fres (rs1 rs2 : BitVec 5) : Statement (.fres rs1 rs2) :=
  of_r 2#7 rs2 rs1 2#3 0#5 11#5 decodeSync _ fields_sync rfl (fun w h7 h3 hd ha hb => by simp [decodeSync, decodeSyncGroup, h7, h3, hd, ha, hb])
theorem barinit (rs1 rs2 : BitVec 5) : Statement (.barinit rs1 rs2) :=
  of_r 3#7 rs2 rs1 2#3 0#5 11#5 decodeSync _ fields_sync rfl (fun w h7 h3 hd ha hb => by simp [decodeSync, decodeSyncGroup, h7, h3, hd, ha, hb])
theorem barexp (rs1 rs2 : BitVec 5) : Statement (.barexp rs1 rs2) :=
  of_r 4#7 rs2 rs1 2#3 0#5 11#5 decodeSync _ fields_sync rfl (fun w h7 h3 hd ha hb => by simp [decodeSync, decodeSyncGroup, h7, h3, hd, ha, hb])
theorem bararr (rs1 rs2 : BitVec 5) : Statement (.bararr rs1 rs2) :=
  of_r 5#7 rs2 rs1 2#3 0#5 11#5 decodeSync _ fields_sync rfl (fun w h7 h3 hd ha hb => by simp [decodeSync, decodeSyncGroup, h7, h3, hd, ha, hb])
theorem waitfL (o : LOp) : Statement (.waitfL o) :=
  of_l o 3#3 11#5 decodeSync _ fields_sync rfl (fun w hn ho => by delta decodeSync; rw [hn, ho]; rfl)
theorem barwL (o : LOp) : Statement (.barwL o) :=
  of_l o 4#3 11#5 decodeSync _ fields_sync rfl (fun w hn ho => by delta decodeSync; rw [hn, ho]; rfl)
theorem amoAddB (o : AOp) : Statement (.amoAddB o) :=
  of_a o 0#5 10#5 decodeAmo _ fields_amo rfl (fun w hn ho => by delta decodeAmo; rw [hn, ho]; rfl)
theorem amoAddH (o : AOp) : Statement (.amoAddH o) :=
  of_a o 1#5 10#5 decodeAmo _ fields_amo rfl (fun w hn ho => by delta decodeAmo; rw [hn, ho]; rfl)
theorem amoAddW (o : AOp) : Statement (.amoAddW o) :=
  of_a o 2#5 10#5 decodeAmo _ fields_amo rfl (fun w hn ho => by delta decodeAmo; rw [hn, ho]; rfl)
theorem amoAddD (o : AOp) : Statement (.amoAddD o) :=
  of_a o 3#5 10#5 decodeAmo _ fields_amo rfl (fun w hn ho => by delta decodeAmo; rw [hn, ho]; rfl)
theorem amoSwapB (o : AOp) : Statement (.amoSwapB o) :=
  of_a o 4#5 10#5 decodeAmo _ fields_amo rfl (fun w hn ho => by delta decodeAmo; rw [hn, ho]; rfl)
theorem amoSwapH (o : AOp) : Statement (.amoSwapH o) :=
  of_a o 5#5 10#5 decodeAmo _ fields_amo rfl (fun w hn ho => by delta decodeAmo; rw [hn, ho]; rfl)
theorem amoSwapW (o : AOp) : Statement (.amoSwapW o) :=
  of_a o 6#5 10#5 decodeAmo _ fields_amo rfl (fun w hn ho => by delta decodeAmo; rw [hn, ho]; rfl)
theorem amoSwapD (o : AOp) : Statement (.amoSwapD o) :=
  of_a o 7#5 10#5 decodeAmo _ fields_amo rfl (fun w hn ho => by delta decodeAmo; rw [hn, ho]; rfl)
theorem amoCasB (o : AOp) : Statement (.amoCasB o) :=
  of_a o 8#5 10#5 decodeAmo _ fields_amo rfl (fun w hn ho => by delta decodeAmo; rw [hn, ho]; rfl)
theorem amoCasH (o : AOp) : Statement (.amoCasH o) :=
  of_a o 9#5 10#5 decodeAmo _ fields_amo rfl (fun w hn ho => by delta decodeAmo; rw [hn, ho]; rfl)
theorem amoCasW (o : AOp) : Statement (.amoCasW o) :=
  of_a o 10#5 10#5 decodeAmo _ fields_amo rfl (fun w hn ho => by delta decodeAmo; rw [hn, ho]; rfl)
theorem amoCasD (o : AOp) : Statement (.amoCasD o) :=
  of_a o 11#5 10#5 decodeAmo _ fields_amo rfl (fun w hn ho => by delta decodeAmo; rw [hn, ho]; rfl)
theorem amoAndW (o : AOp) : Statement (.amoAndW o) :=
  of_a o 12#5 10#5 decodeAmo _ fields_amo rfl (fun w hn ho => by delta decodeAmo; rw [hn, ho]; rfl)
theorem amoAndD (o : AOp) : Statement (.amoAndD o) :=
  of_a o 13#5 10#5 decodeAmo _ fields_amo rfl (fun w hn ho => by delta decodeAmo; rw [hn, ho]; rfl)
theorem amoOrW (o : AOp) : Statement (.amoOrW o) :=
  of_a o 14#5 10#5 decodeAmo _ fields_amo rfl (fun w hn ho => by delta decodeAmo; rw [hn, ho]; rfl)
theorem amoOrD (o : AOp) : Statement (.amoOrD o) :=
  of_a o 15#5 10#5 decodeAmo _ fields_amo rfl (fun w hn ho => by delta decodeAmo; rw [hn, ho]; rfl)
theorem amoXorW (o : AOp) : Statement (.amoXorW o) :=
  of_a o 16#5 10#5 decodeAmo _ fields_amo rfl (fun w hn ho => by delta decodeAmo; rw [hn, ho]; rfl)
theorem amoXorD (o : AOp) : Statement (.amoXorD o) :=
  of_a o 17#5 10#5 decodeAmo _ fields_amo rfl (fun w hn ho => by delta decodeAmo; rw [hn, ho]; rfl)
theorem amoMinW (o : AOp) : Statement (.amoMinW o) :=
  of_a o 18#5 10#5 decodeAmo _ fields_amo rfl (fun w hn ho => by delta decodeAmo; rw [hn, ho]; rfl)
theorem amoMinD (o : AOp) : Statement (.amoMinD o) :=
  of_a o 19#5 10#5 decodeAmo _ fields_amo rfl (fun w hn ho => by delta decodeAmo; rw [hn, ho]; rfl)
theorem amoMaxW (o : AOp) : Statement (.amoMaxW o) :=
  of_a o 20#5 10#5 decodeAmo _ fields_amo rfl (fun w hn ho => by delta decodeAmo; rw [hn, ho]; rfl)
theorem amoMaxD (o : AOp) : Statement (.amoMaxD o) :=
  of_a o 21#5 10#5 decodeAmo _ fields_amo rfl (fun w hn ho => by delta decodeAmo; rw [hn, ho]; rfl)
theorem amoAddBf16 (o : AOp) : Statement (.amoAddBf16 o) :=
  of_a o 22#5 10#5 decodeAmo _ fields_amo rfl (fun w hn ho => by delta decodeAmo; rw [hn, ho]; rfl)
theorem amoAddF32 (o : AOp) : Statement (.amoAddF32 o) :=
  of_a o 23#5 10#5 decodeAmo _ fields_amo rfl (fun w hn ho => by delta decodeAmo; rw [hn, ho]; rfl)
theorem amoAddF64 (o : AOp) : Statement (.amoAddF64 o) :=
  of_a o 24#5 10#5 decodeAmo _ fields_amo rfl (fun w hn ho => by delta decodeAmo; rw [hn, ho]; rfl)
theorem amoAmaxBf16 (o : AOp) : Statement (.amoAmaxBf16 o) :=
  of_a o 25#5 10#5 decodeAmo _ fields_amo rfl (fun w hn ho => by delta decodeAmo; rw [hn, ho]; rfl)
theorem amoAmaxF16 (o : AOp) : Statement (.amoAmaxF16 o) :=
  of_a o 26#5 10#5 decodeAmo _ fields_amo rfl (fun w hn ho => by delta decodeAmo; rw [hn, ho]; rfl)
theorem amoAmaxF32 (o : AOp) : Statement (.amoAmaxF32 o) :=
  of_a o 27#5 10#5 decodeAmo _ fields_amo rfl (fun w hn ho => by delta decodeAmo; rw [hn, ho]; rfl)
theorem amoAmaxF64 (o : AOp) : Statement (.amoAmaxF64 o) :=
  of_a o 28#5 10#5 decodeAmo _ fields_amo rfl (fun w hn ho => by delta decodeAmo; rw [hn, ho]; rfl)
theorem append (o : AOp) : Statement (.append o) :=
  of_a o 29#5 10#5 decodeAmo _ fields_amo rfl (fun w hn ho => by delta decodeAmo; rw [hn, ho]; rfl)
theorem exit : Statement .exit :=
  of_i 0#12 0#5 0#3 0#5 28#5 decodeSystem _ fields_system rfl (fun w h3 hd ha hi => by simp [decodeSystem, h3, hd, ha, hi])
theorem csrw (idx : BitVec 12) (rs1 : BitVec 5) : Statement (.csrw idx rs1) :=
  of_i idx rs1 1#3 0#5 28#5 decodeSystem _ fields_system rfl (fun w h3 hd ha hi => by simp [decodeSystem, h3, hd, ha, hi])
theorem csrs (idx : BitVec 12) (rs1 : BitVec 5) : Statement (.csrs idx rs1) :=
  of_i idx rs1 2#3 0#5 28#5 decodeSystem _ fields_system rfl (fun w h3 hd ha hi => by simp [decodeSystem, h3, hd, ha, hi])
theorem csrc (idx : BitVec 12) (rs1 : BitVec 5) : Statement (.csrc idx rs1) :=
  of_i idx rs1 3#3 0#5 28#5 decodeSystem _ fields_system rfl (fun w h3 hd ha hi => by simp [decodeSystem, h3, hd, ha, hi])
theorem csrr (rd : BitVec 5) (idx : BitVec 12) : Statement (.csrr rd idx) :=
  of_i idx 0#5 4#3 rd 28#5 decodeSystem _ fields_system rfl (fun w h3 hd ha hi => by simp [decodeSystem, h3, hd, ha, hi])
theorem fork (o : LOp) : Statement (.fork o) :=
  of_l o 5#3 28#5 decodeSystem _ fields_system rfl (fun w hn ho => by delta decodeSystem; rw [hn, ho]; rfl)
theorem yieldL (o : LOp) : Statement (.yieldL o) :=
  of_l o 6#3 28#5 decodeSystem _ fields_system rfl (fun w hn ho => by delta decodeSystem; rw [hn, ho]; rfl)
theorem trap (code : BitVec 12) : Statement (.trap code) :=
  of_i code 0#5 7#3 0#5 28#5 decodeSystem _ fields_system rfl (fun w h3 hd ha hi => by simp [decodeSystem, h3, hd, ha, hi])
theorem msend (rd rs1 rs2 : BitVec 5) (len : BitVec 6) : Statement (.msend rd rs1 rs2 len) :=
  of_r (0#1 ++ len) rs2 rs1 0#3 rd 30#5 decodeMsg _ fields_msg rfl (fun w h7 h3 hd ha hb => by
    unfold decodeMsg
    simp only [h7, h3, hd, ha, hb, (len_f7 len).1, (len_f7 len).2]
    rfl)
theorem msendMc (rs1 rs2 : BitVec 5) (len : BitVec 6) : Statement (.msendMc rs1 rs2 len) :=
  of_r (0#1 ++ len) rs2 rs1 1#3 0#5 30#5 decodeMsg _ fields_msg rfl (fun w h7 h3 hd ha hb => by
    unfold decodeMsg
    simp only [h7, h3, hd, ha, hb, (len_f7 len).1, (len_f7 len).2]
    rfl)
theorem signal (rd rs1 rs2 : BitVec 5) : Statement (.signal rd rs1 rs2) :=
  of_r 0#7 rs2 rs1 2#3 rd 30#5 decodeMsg _ fields_msg rfl (fun w h7 h3 hd ha hb => by simp [decodeMsg, h7, h3, hd, ha, hb])
theorem mrecvL (o : LOp) : Statement (.mrecvL o) :=
  of_l o 3#3 30#5 decodeMsg _ fields_msg rfl (fun w hn ho => by delta decodeMsg; rw [hn, ho]; rfl)
theorem qpushL (o : LOp) : Statement (.qpushL o) :=
  of_l o 4#3 30#5 decodeMsg _ fields_msg rfl (fun w hn ho => by delta decodeMsg; rw [hn, ho]; rfl)
theorem cpy (rd rs1 rs2 : BitVec 5) : Statement (.cpy rd rs1 rs2) :=
  of_r 0#7 rs2 rs1 0#3 rd 29#5 decodeEngine _ fields_engine rfl (fun w h7 h3 hd ha hb => by simp [decodeEngine, decodeEngineGroup, h7, h3, hd, ha, hb])
theorem stream (rd rs1 rs2 : BitVec 5) : Statement (.stream rd rs1 rs2) :=
  of_r 1#7 rs2 rs1 0#3 rd 29#5 decodeEngine _ fields_engine rfl (fun w h7 h3 hd ha hb => by simp [decodeEngine, decodeEngineGroup, h7, h3, hd, ha, hb])
theorem xform (rd rs1 rs2 : BitVec 5) : Statement (.xform rd rs1 rs2) :=
  of_r 2#7 rs2 rs1 0#3 rd 29#5 decodeEngine _ fields_engine rfl (fun w h7 h3 hd ha hb => by simp [decodeEngine, decodeEngineGroup, h7, h3, hd, ha, hb])
theorem publish (rs1 rs2 : BitVec 5) : Statement (.publish rs1 rs2) :=
  of_r 3#7 rs2 rs1 0#3 0#5 29#5 decodeEngine _ fields_engine rfl (fun w h7 h3 hd ha hb => by simp [decodeEngine, decodeEngineGroup, h7, h3, hd, ha, hb])
theorem subscr (rd rs1 rs2 : BitVec 5) : Statement (.subscr rd rs1 rs2) :=
  of_r 4#7 rs2 rs1 0#3 rd 29#5 decodeEngine _ fields_engine rfl (fun w h7 h3 hd ha hb => by simp [decodeEngine, decodeEngineGroup, h7, h3, hd, ha, hb])
theorem subrel (rs1 rs2 : BitVec 5) : Statement (.subrel rs1 rs2) :=
  of_r 5#7 rs2 rs1 0#3 0#5 29#5 decodeEngine _ fields_engine rfl (fun w h7 h3 hd ha hb => by simp [decodeEngine, decodeEngineGroup, h7, h3, hd, ha, hb])
theorem deviceLaunch (rd rs1 : BitVec 5) : Statement (.deviceLaunch rd rs1) :=
  of_r 6#7 0#5 rs1 0#3 rd 29#5 decodeEngine _ fields_engine rfl (fun w h7 h3 hd ha hb => by simp [decodeEngine, decodeEngineGroup, h7, h3, hd, ha, hb])
theorem cpywaitL (o : LOp) : Statement (.cpywaitL o) :=
  of_l o 1#3 29#5 decodeEngine _ fields_engine rfl (fun w hn ho => by delta decodeEngine; rw [hn, ho]; rfl)
theorem vwaitL (o : LOp) : Statement (.vwaitL o) :=
  of_l o 2#3 29#5 decodeEngine _ fields_engine rfl (fun w hn ho => by delta decodeEngine; rw [hn, ho]; rfl)
theorem vsetvl (o : VOp) : Statement (.vsetvl o) :=
  of_v o 0#4 16#5 decodeVcfg _ fields_vcfg rfl (fun w hn ho => by delta decodeVcfg; rw [hn, ho]; rfl)
theorem vsettype (o : VOp) : Statement (.vsettype o) :=
  of_v o 1#4 16#5 decodeVcfg _ fields_vcfg rfl (fun w hn ho => by delta decodeVcfg; rw [hn, ho]; rfl)
theorem vadd (o : VOp) : Statement (.vadd o) :=
  of_v o 0#4 17#5 decodeVint _ fields_vint rfl (fun w hn ho => by delta decodeVint; rw [hn, ho]; rfl)
theorem vsub (o : VOp) : Statement (.vsub o) :=
  of_v o 1#4 17#5 decodeVint _ fields_vint rfl (fun w hn ho => by delta decodeVint; rw [hn, ho]; rfl)
theorem vmul (o : VOp) : Statement (.vmul o) :=
  of_v o 2#4 17#5 decodeVint _ fields_vint rfl (fun w hn ho => by delta decodeVint; rw [hn, ho]; rfl)
theorem vmulh (o : VOp) : Statement (.vmulh o) :=
  of_v o 3#4 17#5 decodeVint _ fields_vint rfl (fun w hn ho => by delta decodeVint; rw [hn, ho]; rfl)
theorem vmulhu (o : VOp) : Statement (.vmulhu o) :=
  of_v o 4#4 17#5 decodeVint _ fields_vint rfl (fun w hn ho => by delta decodeVint; rw [hn, ho]; rfl)
theorem vand (o : VOp) : Statement (.vand o) :=
  of_v o 5#4 17#5 decodeVint _ fields_vint rfl (fun w hn ho => by delta decodeVint; rw [hn, ho]; rfl)
theorem vor (o : VOp) : Statement (.vor o) :=
  of_v o 6#4 17#5 decodeVint _ fields_vint rfl (fun w hn ho => by delta decodeVint; rw [hn, ho]; rfl)
theorem vxor (o : VOp) : Statement (.vxor o) :=
  of_v o 7#4 17#5 decodeVint _ fields_vint rfl (fun w hn ho => by delta decodeVint; rw [hn, ho]; rfl)
theorem vsll (o : VOp) : Statement (.vsll o) :=
  of_v o 8#4 17#5 decodeVint _ fields_vint rfl (fun w hn ho => by delta decodeVint; rw [hn, ho]; rfl)
theorem vsrl (o : VOp) : Statement (.vsrl o) :=
  of_v o 9#4 17#5 decodeVint _ fields_vint rfl (fun w hn ho => by delta decodeVint; rw [hn, ho]; rfl)
theorem vsra (o : VOp) : Statement (.vsra o) :=
  of_v o 10#4 17#5 decodeVint _ fields_vint rfl (fun w hn ho => by delta decodeVint; rw [hn, ho]; rfl)
theorem vmin (o : VOp) : Statement (.vmin o) :=
  of_v o 11#4 17#5 decodeVint _ fields_vint rfl (fun w hn ho => by delta decodeVint; rw [hn, ho]; rfl)
theorem vmax (o : VOp) : Statement (.vmax o) :=
  of_v o 12#4 17#5 decodeVint _ fields_vint rfl (fun w hn ho => by delta decodeVint; rw [hn, ho]; rfl)
theorem vsadd (o : VOp) : Statement (.vsadd o) :=
  of_v o 13#4 17#5 decodeVint _ fields_vint rfl (fun w hn ho => by delta decodeVint; rw [hn, ho]; rfl)
theorem vssub (o : VOp) : Statement (.vssub o) :=
  of_v o 14#4 17#5 decodeVint _ fields_vint rfl (fun w hn ho => by delta decodeVint; rw [hn, ho]; rfl)
theorem vaddi (o : VOp) : Statement (.vaddi o) :=
  of_v o 15#4 17#5 decodeVint _ fields_vint rfl (fun w hn ho => by delta decodeVint; rw [hn, ho]; rfl)
theorem vfadd (o : VOp) : Statement (.vfadd o) :=
  of_v o 0#4 18#5 decodeVfp _ fields_vfp rfl (fun w hn ho => by delta decodeVfp; rw [hn, ho]; rfl)
theorem vfsub (o : VOp) : Statement (.vfsub o) :=
  of_v o 1#4 18#5 decodeVfp _ fields_vfp rfl (fun w hn ho => by delta decodeVfp; rw [hn, ho]; rfl)
theorem vfmul (o : VOp) : Statement (.vfmul o) :=
  of_v o 2#4 18#5 decodeVfp _ fields_vfp rfl (fun w hn ho => by delta decodeVfp; rw [hn, ho]; rfl)
theorem vfma (o : VOp) : Statement (.vfma o) :=
  of_v o 3#4 18#5 decodeVfp _ fields_vfp rfl (fun w hn ho => by delta decodeVfp; rw [hn, ho]; rfl)
theorem vfdiv (o : VOp) : Statement (.vfdiv o) :=
  of_v o 4#4 18#5 decodeVfp _ fields_vfp rfl (fun w hn ho => by delta decodeVfp; rw [hn, ho]; rfl)
theorem vfsqrt (o : VOp) : Statement (.vfsqrt o) :=
  of_v o 5#4 18#5 decodeVfp _ fields_vfp rfl (fun w hn ho => by delta decodeVfp; rw [hn, ho]; rfl)
theorem vfmin (o : VOp) : Statement (.vfmin o) :=
  of_v o 6#4 18#5 decodeVfp _ fields_vfp rfl (fun w hn ho => by delta decodeVfp; rw [hn, ho]; rfl)
theorem vfmax (o : VOp) : Statement (.vfmax o) :=
  of_v o 7#4 18#5 decodeVfp _ fields_vfp rfl (fun w hn ho => by delta decodeVfp; rw [hn, ho]; rfl)
theorem vcvt (o : VOp) : Statement (.vcvt o) :=
  of_v o 8#4 18#5 decodeVfp _ fields_vfp rfl (fun w hn ho => by delta decodeVfp; rw [hn, ho]; rfl)
theorem vquant (o : VOp) : Statement (.vquant o) :=
  of_v o 9#4 18#5 decodeVfp _ fields_vfp rfl (fun w hn ho => by delta decodeVfp; rw [hn, ho]; rfl)
theorem vdequant (o : VOp) : Statement (.vdequant o) :=
  of_v o 10#4 18#5 decodeVfp _ fields_vfp rfl (fun w hn ho => by delta decodeVfp; rw [hn, ho]; rfl)
theorem vredsumO (o : VOp) : Statement (.vredsumO o) :=
  of_v o 11#4 18#5 decodeVfp _ fields_vfp rfl (fun w hn ho => by delta decodeVfp; rw [hn, ho]; rfl)
theorem vredsumU (o : VOp) : Statement (.vredsumU o) :=
  of_v o 12#4 18#5 decodeVfp _ fields_vfp rfl (fun w hn ho => by delta decodeVfp; rw [hn, ho]; rfl)
theorem vscanO (o : VOp) : Statement (.vscanO o) :=
  of_v o 13#4 18#5 decodeVfp _ fields_vfp rfl (fun w hn ho => by delta decodeVfp; rw [hn, ho]; rfl)
theorem vscanF (o : VOp) : Statement (.vscanF o) :=
  of_v o 14#4 18#5 decodeVfp _ fields_vfp rfl (fun w hn ho => by delta decodeVfp; rw [hn, ho]; rfl)
theorem vrand (o : VOp) : Statement (.vrand o) :=
  of_v o 15#4 18#5 decodeVfp _ fields_vfp rfl (fun w hn ho => by delta decodeVfp; rw [hn, ho]; rfl)
theorem vcmpEq (o : VOp) : Statement (.vcmpEq o) :=
  of_v o 0#4 19#5 decodeVmask _ fields_vmask rfl (fun w hn ho => by delta decodeVmask; rw [hn, ho]; rfl)
theorem vcmpNe (o : VOp) : Statement (.vcmpNe o) :=
  of_v o 1#4 19#5 decodeVmask _ fields_vmask rfl (fun w hn ho => by delta decodeVmask; rw [hn, ho]; rfl)
theorem vcmpLt (o : VOp) : Statement (.vcmpLt o) :=
  of_v o 2#4 19#5 decodeVmask _ fields_vmask rfl (fun w hn ho => by delta decodeVmask; rw [hn, ho]; rfl)
theorem vcmpLe (o : VOp) : Statement (.vcmpLe o) :=
  of_v o 3#4 19#5 decodeVmask _ fields_vmask rfl (fun w hn ho => by delta decodeVmask; rw [hn, ho]; rfl)
theorem vcmpLtu (o : VOp) : Statement (.vcmpLtu o) :=
  of_v o 4#4 19#5 decodeVmask _ fields_vmask rfl (fun w hn ho => by delta decodeVmask; rw [hn, ho]; rfl)
theorem vcmpLeu (o : VOp) : Statement (.vcmpLeu o) :=
  of_v o 5#4 19#5 decodeVmask _ fields_vmask rfl (fun w hn ho => by delta decodeVmask; rw [hn, ho]; rfl)
theorem mand (o : VOp) : Statement (.mand o) :=
  of_v o 6#4 19#5 decodeVmask _ fields_vmask rfl (fun w hn ho => by delta decodeVmask; rw [hn, ho]; rfl)
theorem mor (o : VOp) : Statement (.mor o) :=
  of_v o 7#4 19#5 decodeVmask _ fields_vmask rfl (fun w hn ho => by delta decodeVmask; rw [hn, ho]; rfl)
theorem mxor (o : VOp) : Statement (.mxor o) :=
  of_v o 8#4 19#5 decodeVmask _ fields_vmask rfl (fun w hn ho => by delta decodeVmask; rw [hn, ho]; rfl)
theorem mnot (o : VOp) : Statement (.mnot o) :=
  of_v o 9#4 19#5 decodeVmask _ fields_vmask rfl (fun w hn ho => by delta decodeVmask; rw [hn, ho]; rfl)
theorem mpop (o : VOp) : Statement (.mpop o) :=
  of_v o 10#4 19#5 decodeVmask _ fields_vmask rfl (fun w hn ho => by delta decodeVmask; rw [hn, ho]; rfl)
theorem mfirst (o : VOp) : Statement (.mfirst o) :=
  of_v o 11#4 19#5 decodeVmask _ fields_vmask rfl (fun w hn ho => by delta decodeVmask; rw [hn, ho]; rfl)
theorem vredmax (o : VOp) : Statement (.vredmax o) :=
  of_v o 12#4 19#5 decodeVmask _ fields_vmask rfl (fun w hn ho => by delta decodeVmask; rw [hn, ho]; rfl)
theorem vredmin (o : VOp) : Statement (.vredmin o) :=
  of_v o 13#4 19#5 decodeVmask _ fields_vmask rfl (fun w hn ho => by delta decodeVmask; rw [hn, ho]; rfl)
theorem vredamax (o : VOp) : Statement (.vredamax o) :=
  of_v o 14#4 19#5 decodeVmask _ fields_vmask rfl (fun w hn ho => by delta decodeVmask; rw [hn, ho]; rfl)
theorem vargmax (o : VOp) : Statement (.vargmax o) :=
  of_v o 15#4 19#5 decodeVmask _ fields_vmask rfl (fun w hn ho => by delta decodeVmask; rw [hn, ho]; rfl)
theorem vperm (o : VOp) : Statement (.vperm o) :=
  of_v o 0#4 20#5 decodeVperm _ fields_vperm rfl (fun w hn ho => by delta decodeVperm; rw [hn, ho]; rfl)
theorem vslideup (o : VOp) : Statement (.vslideup o) :=
  of_v o 1#4 20#5 decodeVperm _ fields_vperm rfl (fun w hn ho => by delta decodeVperm; rw [hn, ho]; rfl)
theorem vslidedn (o : VOp) : Statement (.vslidedn o) :=
  of_v o 2#4 20#5 decodeVperm _ fields_vperm rfl (fun w hn ho => by delta decodeVperm; rw [hn, ho]; rfl)
theorem vcompress (o : VOp) : Statement (.vcompress o) :=
  of_v o 3#4 20#5 decodeVperm _ fields_vperm rfl (fun w hn ho => by delta decodeVperm; rw [hn, ho]; rfl)
theorem vexpand (o : VOp) : Statement (.vexpand o) :=
  of_v o 4#4 20#5 decodeVperm _ fields_vperm rfl (fun w hn ho => by delta decodeVperm; rw [hn, ho]; rfl)
theorem vbcast (o : VOp) : Statement (.vbcast o) :=
  of_v o 5#4 20#5 decodeVperm _ fields_vperm rfl (fun w hn ho => by delta decodeVperm; rw [hn, ho]; rfl)
theorem vmovsv (o : VOp) : Statement (.vmovsv o) :=
  of_v o 6#4 20#5 decodeVperm _ fields_vperm rfl (fun w hn ho => by delta decodeVperm; rw [hn, ho]; rfl)
theorem vmovvs (o : VOp) : Statement (.vmovvs o) :=
  of_v o 7#4 20#5 decodeVperm _ fields_vperm rfl (fun w hn ho => by delta decodeVperm; rw [hn, ho]; rfl)
theorem vgperm (o : VOp) : Statement (.vgperm o) :=
  of_v o 8#4 20#5 decodeVperm _ fields_vperm rfl (fun w hn ho => by delta decodeVperm; rw [hn, ho]; rfl)
theorem vgred (o : VOp) : Statement (.vgred o) :=
  of_v o 9#4 20#5 decodeVperm _ fields_vperm rfl (fun w hn ho => by delta decodeVperm; rw [hn, ho]; rfl)
theorem vcapp (o : VOp) : Statement (.vcapp o) :=
  of_v o 10#4 20#5 decodeVperm _ fields_vperm rfl (fun w hn ho => by delta decodeVperm; rw [hn, ho]; rfl)
theorem vld (o : VOp) : Statement (.vld o) :=
  of_v o 0#4 21#5 decodeVmeml _ fields_vmeml rfl (fun w hn ho => by delta decodeVmeml; rw [hn, ho]; rfl)
theorem vlds (o : VOp) : Statement (.vlds o) :=
  of_v o 1#4 21#5 decodeVmeml _ fields_vmeml rfl (fun w hn ho => by delta decodeVmeml; rw [hn, ho]; rfl)
theorem vldx (o : VOp) : Statement (.vldx o) :=
  of_v o 2#4 21#5 decodeVmeml _ fields_vmeml rfl (fun w hn ho => by delta decodeVmeml; rw [hn, ho]; rfl)
theorem vldC (o : VOp) : Statement (.vldC o) :=
  of_v o 3#4 21#5 decodeVmeml _ fields_vmeml rfl (fun w hn ho => by delta decodeVmeml; rw [hn, ho]; rfl)
theorem vst (o : VOp) : Statement (.vst o) :=
  of_v o 8#4 21#5 decodeVmeml _ fields_vmeml rfl (fun w hn ho => by delta decodeVmeml; rw [hn, ho]; rfl)
theorem vsts (o : VOp) : Statement (.vsts o) :=
  of_v o 9#4 21#5 decodeVmeml _ fields_vmeml rfl (fun w hn ho => by delta decodeVmeml; rw [hn, ho]; rfl)
theorem vstx (o : VOp) : Statement (.vstx o) :=
  of_v o 10#4 21#5 decodeVmeml _ fields_vmeml rfl (fun w hn ho => by delta decodeVmeml; rw [hn, ho]; rfl)
theorem vstF (o : VOp) : Statement (.vstF o) :=
  of_v o 11#4 21#5 decodeVmeml _ fields_vmeml rfl (fun w hn ho => by delta decodeVmeml; rw [hn, ho]; rfl)
theorem vldgL (o : LOp) : Statement (.vldgL o) :=
  of_l o 0#3 22#5 decodeVmemg _ fields_vmemg rfl (fun w hn ho => by delta decodeVmemg; rw [hn, ho]; rfl)
theorem vldgxL (o : LOp) : Statement (.vldgxL o) :=
  of_l o 1#3 22#5 decodeVmemg _ fields_vmemg rfl (fun w hn ho => by delta decodeVmemg; rw [hn, ho]; rfl)
theorem vldsegL (o : LOp) : Statement (.vldsegL o) :=
  of_l o 2#3 22#5 decodeVmemg _ fields_vmemg rfl (fun w hn ho => by delta decodeVmemg; rw [hn, ho]; rfl)
theorem vstg (o : LOp) : Statement (.vstg o) :=
  of_l o 4#3 22#5 decodeVmemg _ fields_vmemg rfl (fun w hn ho => by delta decodeVmemg; rw [hn, ho]; rfl)
theorem vscatadd (o : LOp) : Statement (.vscatadd o) :=
  of_l o 6#3 22#5 decodeVmemg _ fields_vmemg rfl (fun w hn ho => by delta decodeVmemg; rw [hn, ho]; rfl)
theorem pmake (o : VOp) : Statement (.pmake o) :=
  of_v o 0#4 23#5 decodePosn _ fields_posn rfl (fun w hn ho => by delta decodePosn; rw [hn, ho]; rfl)
theorem ptag (o : VOp) : Statement (.ptag o) :=
  of_v o 1#4 23#5 decodePosn _ fields_posn rfl (fun w hn ho => by delta decodePosn; rw [hn, ho]; rfl)
theorem psub (o : VOp) : Statement (.psub o) :=
  of_v o 2#4 23#5 decodePosn _ fields_posn rfl (fun w hn ho => by delta decodePosn; rw [hn, ho]; rfl)
theorem padd (o : VOp) : Statement (.padd o) :=
  of_v o 3#4 23#5 decodePosn _ fields_posn rfl (fun w hn ho => by delta decodePosn; rw [hn, ho]; rfl)
theorem dadd (o : VOp) : Statement (.dadd o) :=
  of_v o 4#4 23#5 decodePosn _ fields_posn rfl (fun w hn ho => by delta decodePosn; rw [hn, ho]; rfl)
theorem pcvt (o : VOp) : Statement (.pcvt o) :=
  of_v o 5#4 23#5 decodePosn _ fields_posn rfl (fun w hn ho => by delta decodePosn; rw [hn, ho]; rfl)
theorem pdist2 (o : VOp) : Statement (.pdist2 o) :=
  of_v o 6#4 23#5 decodePosn _ fields_posn rfl (fun w hn ho => by delta decodePosn; rw [hn, ho]; rfl)
theorem vdmin (o : VOp) : Statement (.vdmin o) :=
  of_v o 7#4 23#5 decodePosn _ fields_posn rfl (fun w hn ho => by delta decodePosn; rw [hn, ho]; rfl)
theorem frhome (o : VOp) : Statement (.frhome o) :=
  of_v o 8#4 23#5 decodePosn _ fields_posn rfl (fun w hn ho => by delta decodePosn; rw [hn, ho]; rfl)
theorem daddSub (o : VOp) : Statement (.daddSub o) :=
  of_v o 9#4 23#5 decodePosn _ fields_posn rfl (fun w hn ho => by delta decodePosn; rw [hn, ho]; rfl)
theorem tshape (o : VOp) : Statement (.tshape o) :=
  of_v o 0#4 26#5 decodeMatrix _ fields_matrix rfl (fun w hn ho => by delta decodeMatrix; rw [hn, ho]; rfl)
theorem tclaim (o : VOp) : Statement (.tclaim o) :=
  of_v o 1#4 26#5 decodeMatrix _ fields_matrix rfl (fun w hn ho => by delta decodeMatrix; rw [hn, ho]; rfl)
theorem trelease (o : VOp) : Statement (.trelease o) :=
  of_v o 2#4 26#5 decodeMatrix _ fields_matrix rfl (fun w hn ho => by delta decodeMatrix; rw [hn, ho]; rfl)
theorem tload (o : VOp) : Statement (.tload o) :=
  of_v o 3#4 26#5 decodeMatrix _ fields_matrix rfl (fun w hn ho => by delta decodeMatrix; rw [hn, ho]; rfl)
theorem mma (o : VOp) : Statement (.mma o) :=
  of_v o 4#4 26#5 decodeMatrix _ fields_matrix rfl (fun w hn ho => by delta decodeMatrix; rw [hn, ho]; rfl)
theorem mmaS (o : VOp) : Statement (.mmaS o) :=
  of_v o 5#4 26#5 decodeMatrix _ fields_matrix rfl (fun w hn ho => by delta decodeMatrix; rw [hn, ho]; rfl)
theorem mzero (o : VOp) : Statement (.mzero o) :=
  of_v o 6#4 26#5 decodeMatrix _ fields_matrix rfl (fun w hn ho => by delta decodeMatrix; rw [hn, ho]; rfl)
theorem macc2v (o : VOp) : Statement (.macc2v o) :=
  of_v o 7#4 26#5 decodeMatrix _ fields_matrix rfl (fun w hn ho => by delta decodeMatrix; rw [hn, ho]; rfl)
theorem mv2acc (o : VOp) : Statement (.mv2acc o) :=
  of_v o 8#4 26#5 decodeMatrix _ fields_matrix rfl (fun w hn ho => by delta decodeMatrix; rw [hn, ho]; rfl)
theorem macc2l (o : VOp) : Statement (.macc2l o) :=
  of_v o 9#4 26#5 decodeMatrix _ fields_matrix rfl (fun w hn ho => by delta decodeMatrix; rw [hn, ho]; rfl)
theorem mamax (o : VOp) : Statement (.mamax o) :=
  of_v o 10#4 26#5 decodeMatrix _ fields_matrix rfl (fun w hn ho => by delta decodeMatrix; rw [hn, ho]; rfl)
theorem mmark (o : VOp) : Statement (.mmark o) :=
  of_v o 11#4 26#5 decodeMatrix _ fields_matrix rfl (fun w hn ho => by delta decodeMatrix; rw [hn, ho]; rfl)
theorem illegalInstruction (w : BitVec 32) : Statement (.illegalInstruction w) := of_event _ rfl
theorem granuleSetFull : Statement .granuleSetFull := of_event _ rfl
theorem reservedManagementChannel : Statement .reservedManagementChannel := of_event _ rfl

end Sys2Proof.Laws.RoundTrip

open Sys2Proof Sys2Proof.Laws Sys2Proof.Laws.RoundTrip in
theorem Sys2Proof.Laws.RoundTrip.seal (o : AOp) : Statement (.seal o) :=
  of_a o 30#5 10#5 decodeAmo _ fields_amo rfl (fun w hn ho => by delta decodeAmo; rw [hn, ho]; rfl)
end

