-- ==== Sys2Proof/Safety.lean ====
section
/-!
DEFINITION. What counts as a safe run: every step answers a next state, and memory stays in its canonical form. And the frames in which
the claims say what an instruction leaves as it was.
-/

namespace Sys2Proof.Machine

open Sys2Proof

/-- A state from which the machine goes on. -/
def State.GoesOn (s : State) : Prop := ∃ t, step s = .next t

/-- A state that some number of steps reaches. -/
inductive Reaches : State → State → Prop where
  | refl (s : State) : Reaches s s
  | step (s t u : State) (h : Reaches s t) (hu : Sys2Proof.Machine.step t = .next u) : Reaches s u

/-- A safe state: every state that it reaches goes on, but for OFF, and keeps memory canonical. -/
def State.Safe (s : State) : Prop := ∀ t, Reaches s t → Memory.wf t.mem ∧ (t.GoesOn ∨ step t = .fault .off)

/-! Frames. -/

/-- The effect of a scalar result: rd holds `v` (s0 stays zero, R320) with no error marked in it (R271), the pc is `pc`, no wait is under way, and
every other register and everything else of the module is as before. -/
def ScalarEffect (s t : State) (rd : BitVec 5) (v pc : Word) : Prop :=
  t.x rd = (if rd = 0 then 0 else v) ∧ (∀ q, q ≠ rd → t.x q = s.x q) ∧ t.strand.pc = pc ∧
    t.strand.waits = none ∧ t.strand.bad = (if rd = 0 then s.strand.bad else s.strand.bad.filter (fun b => b.1 != rd.toNat)) ∧
    { t with strand := { t.strand with
      pc := s.strand.pc
      regs := { t.strand.regs with xs := s.strand.regs.xs }
      waits := s.strand.waits
      bad := s.strand.bad } } = s

/-- The little-endian value of the `n` bytes from `a` (R4), byte by byte. -/
def bytesValue (m : Mem) (a n : Nat) : Nat := valueOf ((List.range n).map (fun i => mget m (a + i)))

/-- Bytes that a strand may load locally, and those it may store (R330, R140): below the mooring area, or for a load wholly in the
descriptor cells. -/
abbrev LocalReadable (s : State) (a n : Nat) : Prop :=
  a + n ≤ s.core.moorBase ∨ (s.core.moorBase + 0x1000 ≤ a ∧ a + n ≤ s.core.moorBase + 0x2000)
abbrev LocalWritable (s : State) (a n : Nat) : Prop := a + n ≤ s.core.moorBase

/-- `t` is `s` with local bytes from `a` replaced by the low `n` bytes of a value (R330) and the pc at the next word: every other local
byte, every full/empty bit, every register and all else is as before. -/
def LocalStored (s t : State) (a n : Nat) (v : Word) : Prop :=
  (∀ x, mget t.core.loc x = if a ≤ x ∧ x < a + n then BitVec.ofNat 8 (v.toNat / 256 ^ (x - a)) else mget s.core.loc x) ∧
    t.strand.pc = s.strand.pc + 4 ∧ t.strand.waits = none ∧
    { t with
      core := { t.core with loc := s.core.loc, locPoison := s.core.locPoison }
      strand := { t.strand with pc := s.strand.pc, waits := s.strand.waits } } = s

/-- The number that a core's next deposit takes is no record's (R137). -/
abbrev FreshDeposit (k : Core) : Prop := ∀ r ∈ k.records, r.dseq ≠ k.dseq

/-- Every record's deposit number lies below its core's counter, or is a number above every counter that a record has while its registration is
unanswered (R137, R431). -/
abbrev Numbered (k : Core) : Prop := ∀ r ∈ k.records, r.dseq < k.dseq ∨ 2 ^ 48 ≤ r.dseq

/-- The record fits the mooring area of the core in hand (R140). -/
abbrev FitsMooring (s : State) (r : Record) : Prop :=
  (firstFit s.core.usedBlocks (ceilDiv r.fullLength 64) ((s.core.moorSize - 0x4000) / 64)).isSome = true

/-- Core `c` holds a record with the next deposit number of before, last in the ready order of its priority (R144). -/
def ReadyLast (s t : State) (c : Nat) (r : Record) : Prop :=
  r ∈ (t.getCore c).records ∧ r.dseq = s.core.dseq ∧ r.ready = true ∧
    ((tget (t.getCore c).order r.prio).getD []).getLast? = some r.dseq

/-- The blocks of the mooring area that records hold once the strand in hand has left its slot: the filling strand, if there is one, then runs, and
its record's blocks are free (R124, R138). -/
def State.blocksLeft (s : State) : List (Nat × Nat) := (s.core.promote (slotIsB s.slot)).usedBlocks

/-- The record of a trap of the strand in hand fits the mooring area (R140, R252). -/
abbrev FitsTrap (s : State) (r : Record) : Prop :=
  (firstFit s.blocksLeft (ceilDiv r.fullLength 64) ((s.core.moorSize - 0x4000) / 64)).isSome = true

/-- The FAULT record of a trap of the strand in hand (R257, R259), as it is deposited (R252): with its LENGTH, the core's next deposit number and
the lowest blocks of the mooring area that are free. -/
def State.trapRecord (s : State) (pc : Word) (t : TrapBlock) (es : List ConvoyEntry) : Record :=
  let n := (s.fullRecord .fault pc t es).fullLength
  { s.fullRecord .fault pc t es with
    length := n
    dseq := s.core.dseq
    block := (firstFit s.blocksLeft (ceilDiv n 64) ((s.core.moorSize - 0x4000) / 64)).getD 0 }

/-- The fault queue of a context has room for a record of `n` blocks (R254, R255). -/
abbrev RingRoom (s : State) (c : Context) (n : Nat) : Prop :=
  (s.peek (c.fqBase + 8) 8 + 2 ^ 64 - s.peek c.fqBase 8) % 2 ^ 64 + skipBlocks (s.peek (c.fqBase + 8) 8) (2 ^ c.fqLog2) n + n ≤ 2 ^ c.fqLog2

/-- Where a record of `n` blocks goes in a context's fault queue (R254). -/
def ringPlace (s : State) (c : Context) (n : Nat) : Nat :=
  let tail := s.peek (c.fqBase + 8) 8
  c.fqBase + 64 + 64 * ((tail + skipBlocks tail (2 ^ c.fqLog2) n) % 2 ^ c.fqLog2)

/-- A trap taken by the strand in hand (R252-R261): its slot is free; record `r` of the context numbered `ctx`, which counted as a deposit of the
core, stands in the fault queue with its bytes, QTAIL counts its blocks, the serving hart's fault bit of the context is set, and memory
outside QTAIL and the ring is as before. -/
def TrapTaken (s t : State) (ctx : Nat) (c : Context) (r : Record) : Prop :=
  let n := ceilDiv r.length 64
  t.acting = false ∧ (t.getCore s.here).dseq = s.core.dseq + 1 ∧
    tget t.contexts ctx = some { c with pendingFaults := tset c.pendingFaults (ringPlace s c n) (s.here, r) } ∧
    (∀ i, i < r.bytes.length → mget t.mem (ringPlace s c n + i) = r.bytes.getD i 0) ∧
    (∀ i, i < 8 → mget t.mem (c.fqBase + 8 + i) = BitVec.ofNat 8
      ((s.peek (c.fqBase + 8) 8 + skipBlocks (s.peek (c.fqBase + 8) 8) (2 ^ c.fqLog2) n + n) / 256 ^ i)) ∧
    (t.hart (hartOf s.here)).fltCtx = (s.hart (hartOf s.here)).fltCtx ||| BitVec.ofNat 64 (2 ^ (ctx % 64)) ∧
    ∀ x, (x < c.fqBase + 8 ∨ (c.fqBase + 16 ≤ x ∧ x < c.fqBase + 64) ∨ c.fqBase + 64 + 64 * 2 ^ c.fqLog2 ≤ x) →
      mget t.mem x = mget s.mem x

/-! Vector words. -/

/-- The word in execution has no defect of decode or issue (R291), and the elements below VL lie within a register (R127). -/
abbrev WordRuns (s : State) (i : Instr) : Prop := s.defect i = none ∧ s.vl * widthOf s.sew ≤ 65536

/-- The entries that a word's raised flags leave (R249): of each class, the lowest index that raised it. -/
def LowestOf (fs kept : List (Flag × Nat)) : Prop :=
  ∀ c i, (c, i) ∈ kept ↔ (c, i) ∈ fs ∧ ∀ j, (c, j) ∈ fs → i ≤ j

/-- What a word leaves of the strand's open convoy and of all else, where it writes vector register `vd` only: element `k` of width
`w` holds what `f k` gives, else what it held (R344); no other register changes, no error is marked anew (R271); the convoy keeps the lowest
of the flags `fs`, and SAT. -/
def VectorEffect (s u : State) (vd w : Nat) (f : Nat → Option Nat) (fs : List (Flag × Nat)) (sat : Bool) : Prop :=
  (∀ k, (k + 1) * w ≤ 65536 → elemOf (u.v vd) k w = match f k with
    | some x => x % 2 ^ w
    | none => elemOf (s.v vd) k w) ∧
    (∀ n : Fin 32, n.val ≠ vd → u.strand.regs.vs[n] = s.strand.regs.vs[n]) ∧
    (∃ kept, LowestOf fs kept ∧
      u.strand.cv = { s.strand.cv with flags := s.strand.cv.flags ++ kept, sat := s.strand.cv.sat || sat }) ∧
    (∀ b ∈ u.strand.bad, b ∈ s.strand.bad) ∧ (∀ b ∈ s.strand.bad, b.1 ≠ 32 + vd → b ∈ u.strand.bad) ∧
    { u with strand := { u.strand with
      regs := { u.strand.regs with vs := s.strand.regs.vs }
      dirtyV := s.strand.dirtyV
      bad := s.strand.bad
      cv := s.strand.cv } } = s

/-- A full binary tree of additions over a sequence of elements (R245). -/
inductive SumTree where
  | leaf (x : Nat)
  | node (l r : SumTree)
  deriving DecidableEq, Repr

/-- The leaves of a tree, from the left. -/
def SumTree.leaves : SumTree → List Nat
  | .leaf x => [x]
  | .node l r => l.leaves ++ r.leaves

/-- The value of a tree of rounded additions, and the flags of all its additions (R245). -/
def SumTree.value (code : Nat) (mode : Mode) : SumTree → Nat × List Flag
  | .leaf x => (x, [])
  | .node l r =>
    let p := l.value code mode
    let q := r.value code mode
    let z := addElem code mode p.1 q.1
    (z.1, p.2 ++ q.2 ++ z.2)

/-- `v` with the flags `fs` is the sum of the elements `xs` by some full binary tree of rounded additions over them in any order (R245); a
NaN passed on is the canonical one (R234). -/
def TreeSum (code : Nat) (mode : Mode) (xs : List Nat) (v : Nat) (fs : List Flag) : Prop :=
  ∃ t : SumTree, t.leaves.Perm xs ∧ v = (canonElem code (t.value code mode).1).1 ∧
    ∀ c, c ∈ fs ↔ c ∈ (t.value code mode).2 ++ (canonElem code (t.value code mode).1).2

/-- The order of R234 on values that are not NaN: `x` does not rank above `y`; −0 ranks below +0. -/
def NotAbove (x y : FV) : Prop := cmpFV x y < 0 ∨ (cmpFV x y = 0 ∧ (x.isNeg = true ∨ y.isNeg = false))

/-- `v` is the extreme of the elements `xs` of a floating-point format (R234, R355): a NaN is missing data, and only where all are NaN is the
result the canonical NaN. -/
def ExtremeOf (f : Fmt) (larger : Bool) (xs : List Nat) (v : Nat) : Prop :=
  ((∀ x ∈ xs, (f.decode x).isNan = true) → v = f.qnan) ∧
  ((∃ x ∈ xs, (f.decode x).isNan = false) → v ∈ xs ∧ (f.decode v).isNan = false ∧
    ∀ x ∈ xs, (f.decode x).isNan = false →
      if larger then NotAbove (f.decode x) (f.decode v) else NotAbove (f.decode v) (f.decode x))

/-- What a word leaves where its one result is a scalar, due when the convoy retires (R345), and flags. -/
def ScalarDue (s u : State) (rd : BitVec 5) (v : Word) (fs : List (Flag × Nat)) : Prop :=
  ∃ kept, LowestOf fs kept ∧
    u = { s with strand := { s.strand with
      cv := { s.strand.cv with scalars := s.strand.cv.scalars ++ [(rd, v)], flags := s.strand.cv.flags ++ kept } } }

/-- Bit `k` of a mask register as it is stored. -/
def State.maskBit (s : State) (n k : Nat) : Bool := (s.strand.regs.ms.toList.getD n 0).getLsbD k

/-- What a word leaves where it writes mask register `md` only: bit `k` below VLENB holds what `f k` gives, else what it held; m0 stays
(R343). -/
def MaskEffect (s u : State) (md : Nat) (f : Nat → Option Bool) (fs : List (Flag × Nat)) : Prop :=
  (md ≠ 0 → md < 8 → ∀ k, k < s.core.vlenb → u.maskBit md k = (f k).getD (s.maskBit md k)) ∧
    (∀ n : Fin 8, n.val ≠ md ∨ md = 0 → u.strand.regs.ms[n] = s.strand.regs.ms[n]) ∧
    (∃ kept, LowestOf fs kept ∧ u.strand.cv = { s.strand.cv with flags := s.strand.cv.flags ++ kept }) ∧
    (∀ b ∈ u.strand.bad, b ∈ s.strand.bad) ∧ (∀ b ∈ s.strand.bad, b.1 ≠ 64 + md → b ∈ u.strand.bad) ∧
    { u with strand := { u.strand with
      regs := { u.strand.regs with ms := s.strand.regs.ms }
      dirtyM := s.strand.dirtyM
      bad := s.strand.bad
      cv := s.strand.cv } } = s

/-- An access of the core in hand to an ordinary page of this module whose translation the core holds, and where it lies (R171, R175). -/
def HeldPage (s : State) (acc : Access) (a n pa : Nat) : Prop :=
  a + n ≤ 2 ^ 57 ∧ a % 0x10000 + n ≤ 0x10000 ∧ s.core.homeNode s.fabric.node a = s.fabric.node ∧
    ∃ t, s.core.tlb.find? (fun t => t.asid == s.core.asid.toNat && decide (t.base ≤ a) && decide (a < t.base + t.size)) = some t ∧
      admits acc t.leaf = true ∧ leafClass t.leaf = 0 ∧
      pa = leafAddr t.leaf + a % (if t.size = 0x10000 then 0x10000 else if t.size = 0x200000 then 0x200000 else 0x40000000)

/-- The step of `s` runs a word on `u` (R211, R222, R271): as what it decodes to, or as the illegal instruction; in deterministic mode a memory word
waits while an access before it has not performed, a position word waits for a walk, and a word that reads a damaged register traps. -/
def RunsWord (s u : State) (w : BitVec 32) : Prop :=
  let waits := u.core.detm && touchesMemory w && (u.heldHere || u.outstanding u.here u.strand.cell)
  (waits = true → step s = .next (u.afterAll (fun t => t))) ∧
    (waits = false →
      (∀ i, decode w = .ok i →
        let walks := u.strand.cv.live && (u.defect i).isNone && u.walkDue i
        (u.readsDamage i = false → walks = false → step s = exec i u) ∧ (u.readsDamage i = true → step s = .next (u.damageTrap i)) ∧
          (u.readsDamage i = false → walks = true → step s = .next (u.stall false))) ∧
      ∀ e, decode w = .error e → step s = exec (.illegalInstruction w) u)

/-! Commands, responses, and cores. -/

/-- The command in progress: its queue, and its entry among the queue's started ones (R65). -/
abbrev InProgress (s : State) (q : HostQueue) (c : Started) : Prop :=
  tget s.queues s.inp.queue = some q ∧ q.started.find? (fun c => c.uid == s.inp.n) = some c

/-- State `b` with the command in progress done: it is no longer started, its completion with a status and a result is the last of its
queue's, and the write of it is due (R64, R65). -/
def finished (q : HostQueue) (c : Started) (b : State) (status result : Nat) : State :=
  { b with
    queues := tset b.queues b.inp.queue
      { q with
        started := q.started.erase c
        ready := q.ready ++ [{ cid := c.cid, sqhd := c.sqhd, status := status, result := BitVec.ofNat 64 result }] }
    work := b.work ++ [{ what := .commandCompletion, inp := { Input.none with queue := b.inp.queue } }] }

/-- Every started command of an opcode and a context is complete in `t` with status and result 0 (R65). -/
def CompletedAll (s t : State) (opc ctx : Nat) : Prop :=
  let mine (c : Started) : Bool := c.opc == opc && c.ctx == ctx
  ∀ n q, tget s.queues n = some q → ∃ q', tget t.queues n = some q' ∧ q'.started = q.started.filter (fun c => !mine c) ∧
    q'.ready = q.ready ++ (q.started.filter mine).map (fun c => { cid := c.cid, sqhd := c.sqhd, status := 0, result := 0 })

/-- A request that reaches the module awake and that no window knows (R46). -/
abbrev FreshRequest (s : State) (q : Packet) : Prop :=
  s.power ≠ .p4 ∧ (∀ e ∈ s.windowOf q.src, e.sseq ≠ q.sseq) ∧ (s.windowOf q.src).length < 4096

/-- One packet went out: the response to a request (R33). -/
def Responded (s t : State) (q : Packet) (op addr : Nat) (data : List Byte) : Prop :=
  t.fabric.sent = s.fabric.sent ++ [{ Packet.empty with
    dst := q.src, src := s.fabric.node, op := op, asid := q.asid, sseq := q.sseq, addr := addr, data := data }]

/-- Where the entry of a request lies among the replay windows in memory (R46, log 71). -/
def windowAt (q : Packet) : Nat := winBase + 0x10000 * (q.src % 4608) + 16 * (q.sseq % 4096)

/-- A request answered from a state `u` (R33, R46): the response went out, the source's window knows the request as done with that answer, here
and in the 16 bytes of its entry in memory, and all else is as in `u`. -/
def AnsweredFrom (u t : State) (q : Packet) (op addr : Nat) (data : List Byte) : Prop :=
  let e : WinEntry := { sseq := q.sseq, st := .done, op := op, resp := if op = opPager then bytesOf 8 addr else data.take 8 }
  Responded u t q op addr data ∧ t.windowOf q.src = u.windowOf q.src ++ [e] ∧
    (∀ i, i < 16 → mget t.mem (windowAt q + i) = e.bytes.getD i 0) ∧
    (∀ a, a < windowAt q ∨ windowAt q + 16 ≤ a → mget t.mem a = mget u.mem a) ∧
    { t with fabric := u.fabric, mem := u.mem } = u

/-- A step that is due: behind the outstanding ones. -/
def State.owing (s : State) (what : Instr) (inp : Input) : State := { s with work := s.work ++ [{ what := what, inp := inp }] }

/-! Named parts of the statements. -/

/-- A number as a word. -/
abbrev w64 (n : Nat) : Word := BitVec.ofNat 64 n

/-- A step on the agenda or among the outstanding ones. -/
abbrev todo (what : Instr) (inp : Input) : Todo := { what := what, inp := inp }

/-- A core has the settings that a launch asks for (R102). -/
def Configured (l : Launch) (u : Core) : Prop :=
  u.ctx = some l.ctx ∧ u.asid = BitVec.ofNat 16 l.asid ∧ u.gangEn = l.gang ∧ u.detm = l.det ∧ (l.moor ≠ 0 → u.moor = l.moor) ∧
    (l.vlcapl ≠ 0 → u.vlcap = BitVec.ofNat 4 l.vlcapl) ∧ (l.gang = true → u.lpart = 1) ∧
    (l.gang = false → l.lpartreq ≠ 0 → u.lpart = BitVec.ofNat 2 l.lpartreq)

/-- The mooring area of a core has room for a record of `n` bytes (R140). -/
abbrev RoomFor (k : Core) (n : Nat) : Prop := (firstFit k.usedBlocks (ceilDiv n 64) ((k.moorSize - 0x4000) / 64)).isSome = true

/-- A strand that was stopped stands as a ready PREEMPT record with the core's next deposit number, last of its priority (R144, R266). -/
def Preempted (k k' : Core) (st : Strand) (r : Record) : Prop :=
  r ∈ k'.records ∧ r.kind = .preempt ∧ r.dseq = k.dseq ∧ r.ready = true ∧ r.pc = st.pc ∧ r.cell = st.cell ∧ r.smask = 0xFFFFFFFE ∧
    r.mmask = 0xFE ∧ (st.cv.live = false → r.regs = st.regs) ∧ ((tget k'.order r.prio).getD []).getLast? = some r.dseq

/-- A save area from `a` holds a core (R268): the bytes of its local memory and of its claimed operand memory, and VLCAP. -/
def SavedAt (k : Core) (m : Mem) (a : Nat) : Prop :=
  (∀ j, j < claimsAt → (j < k.moorBase ∨ (k.moorBase + 0x1000 ≤ j ∧ j < k.recordsAt)) → mget m (a + 0x1000 + j) = mget k.loc j) ∧
    (∀ j, j < 0x80000 → k.claimed.getLsbD (j / 0x4000) = true → mget m (a + 0x307000 + j) = mget k.opMem j) ∧ mload m a 8 = k.vlcap.toNat

/-- The completion entry of a launch in a slot (R116, R117). -/
def Launch.doneEntry (l : Launch) (slot : Nat) : HmDone :=
  { slot := slot, record := l.record, faulted := l.faulted, byDevice := l.byDevice, who := l.who
    offset := match l.st with
      | .refused off => off
      | _ => 0
    status := match l.st with
      | .refused _ => 2
      | _ => 0 }

/-- The fields of a CREATE_QUEUE pass (R66). -/
abbrev State.createQueueOk (s : State) : Prop :=
  let n := bitsN (s.param 0) 5 0
  let log2 := bitsN (s.param 0) 19 16
  s.paramsOk [Machine.maskOf 5 0 + Machine.maskOf 19 16, Machine.maskOf 51 12, Machine.maskOf 51 12, Machine.maskOf 12 0, Machine.maskOf 51 3, Machine.maskOf 63 0] = true ∧
    n ≠ 0 ∧ 6 ≤ log2 ∧ log2 ≤ 12 ∧ tget s.queues n = none

/-- The fields of an OPEN_APERTURE pass (R66). -/
abbrev State.openApertureOk (s : State) : Prop :=
  let p := s.param
  let node := bitsN (p 0) 28 16
  s.paramsOk [Machine.maskOf 3 0 + Machine.maskOf 8 8 + Machine.maskOf 28 16, Machine.maskOf 51 16, Machine.maskOf 63 0] = true ∧ 0x1000 ≤ node ∧ node ≤ 0x11FF ∧
    p 2 ≠ 0 ∧ p 2 % 0x10000 = 0 ∧ (∀ r ∈ forbidden, p 1 + p 2 ≤ r.1 ∨ r.1 + r.2 ≤ p 1) ∧
    ∀ a ∈ s.apertures, a.1 ≠ bitsN (p 0) 3 0 → p 1 + p 2 ≤ a.2.base ∨ a.2.base + a.2.len ≤ p 1

/-- The fields of a CREATE_CONTEXT pass (R66). -/
abbrev State.createContextOk (s : State) : Prop :=
  let p := s.param
  let log2 := bitsN (p 0) 20 16
  let mode := bitsN (p 2) 9 8
  s.paramsOk [Machine.maskOf 20 0, Machine.maskOf 51 12, Machine.maskOf 3 0 + Machine.maskOf 9 8 + Machine.maskOf 16 16 + Machine.maskOf 24 24] = true ∧ p 0 % 65536 ≠ 0 ∧
    13 ≤ log2 ∧ log2 ≤ 24 ∧ 5 ≤ p 2 % 16 ∧ p 2 % 16 ≤ 13 ∧ mode ≠ 0 ∧ ((p 2).testBit 24 = true → mode = 1) ∧
    inMemory (p 1) (64 + 64 * 2 ^ log2) = true

/-- The context that a CREATE_CONTEXT makes (R66, R253). -/
def NewContext (p : Nat → Nat) (x : Context) : Prop :=
  x.asid = BitVec.ofNat 16 (p 0) ∧ x.fqBase = p 1 ∧ x.fqLog2 = bitsN (p 0) 20 16 ∧ x.vlcap = BitVec.ofNat 4 (p 2) ∧
    x.lpart = BitVec.ofNat 2 (bitsN (p 2) 9 8) ∧ x.detm = (p 2).testBit 16 ∧ x.gang = (p 2).testBit 24 ∧ x.pendingFaults = [] ∧ x.saved = [] ∧
    x.swapped = [] ∧ x.destroying = false

/-- The fields of a MAP of one page pass (R67, R173): `e` is the leaf that they make. -/
abbrev State.mapOk (s : State) (e : BitVec 64) : Prop :=
  let p := s.param
  let level := p 3 % 4
  let size := pageSize level
  s.paramsOk [Machine.maskOf 56 16, Machine.maskOf 51 16, Machine.maskOf 31 0, Machine.maskOf 6 0 + Machine.maskOf 11 8 + Machine.maskOf 24 16] = true ∧ p 2 = 1 ∧ level ≠ 3 ∧
    leafBad level e = false ∧ (bitsN (p 3) 3 2 = 2 → p 1 < hbmEnd) ∧ p 0 % size = 0 ∧ p 0 + size ≤ 2 ^ 57 ∧ p 1 + size ≤ 2 ^ 52 ∧
    (bitsN (p 3) 3 2 = 3 ∨ (p 1 % size = 0 ∧ mappable (p 1) size = true))

/-- A core has what a saved one had (R269). -/
def Restored (k k' : Core) : Prop :=
  k'.loc = k.loc ∧ k'.full = k.full ∧ k'.acc = k.acc ∧ k'.records = k.records ∧ k'.order = k.order ∧ k'.steps = k.steps ∧
    k'.binds = k.binds ∧ k'.bindOver = k.bindOver

/-- Whether DEBUG_UNLOCK's tokens grant the mode asked for (R89). -/
def State.unlockGranted (s : State) : Prop :=
  let p := s.param
  match s.fw.lifecycle with
  | .manufacture => True
  | .rma => True
  | .provisioned => s.tokenAt (p 0) 1 (p 1) [0] = true
  | .production => if p 1 = 1 then s.tokenAt (p 0) 1 1 [0, 1] = true else s.tokenAt (p 0) 1 2 [0] = true ∧ s.tokenAt (p 2) 1 2 [1] = true

/-- What a boot that failed leaves (R77, R91): after the first two failures the slot is tried again; after the third it is FAILED, and the other
one is tried, or recovery begins. -/
def State.bootFailed (s t : State) (meas : Vector Nat 8) : Prop :=
  let fw := s.fw
  let x := fw.slot fw.activeB
  let other := fw.slot (!fw.activeB)
  (x.fails < 2 → t = State.owing { s.park with
      fw := { fw with meas := meas, bootAt := s.time.toNat }.setSlot fw.activeB { x with fails := x.fails + 1 }
      log := s.log ++ [(77, 0)] } .boot Input.none) ∧
    (2 ≤ x.fails → (other.st = .failed ∨ other.st = .empty → t.fw.recovery = true ∧ t.work = s.work ∧ t.fw.activeB = fw.activeB) ∧
      (other.st = .staged ∨ other.st = .good → t.fw.activeB = !fw.activeB ∧ t.work = s.work ++ [{ what := .boot, inp := Input.none }]) ∧
      (t.fw.slot fw.activeB).st = .failed)

/-- The fields of a copy descriptor that need no other descriptor pass (R178, R414). -/
abbrev CopyFieldsOk (v : Nat) : Prop :=
  let kind := fieldAt v 0 1
  let flags := fieldAt v 1 1
  kind ≤ 3 ∧ (kind ≠ 3 → fieldAt v 8 8 % 8 = 0) ∧ fieldAt v 16 8 % 8 = 0 ∧ flags ≤ 7 ∧ fieldAt v 2 6 = 0 ∧ fieldAt v 56 8 = 0 ∧
    (kind ≠ 1 → fieldAt v 24 8 = 0) ∧ (flags % 2 = 0 → fieldAt v 32 8 = 0) ∧
    (bitsN flags 2 2 = 1 → twReserved (BitVec.ofNat 64 (fieldAt v 48 8)) = false)

/-- A state with a scalar due to be written when the convoy retires (R345). -/
def State.dueScalar (b : State) (rd : BitVec 5) (v : Word) : State :=
  { b with strand := { b.strand with cv := { b.strand.cv with scalars := b.strand.cv.scalars ++ [(rd, v)] } } }

/-- A state with a copy taken on (R118, R414, R417): the job, its regions of local memory on the scoreboard and of global memory beside it, the
channel's next number, the copy's number due in rd, and its transfer due. -/
def State.withCopy (b : State) (rd : BitVec 5) (j : CopyJob) (here there : List (Nat × Nat × Bool)) : State :=
  let entry (r : Nat × Nat × Bool) : Region := { cell := j.cell, engine := engCopy, id := j.chan * 2 ^ 48 + j.id, lo := r.1, hi := r.2.1, write := r.2.2 }
  State.dueScalar { b with
    core := { b.core with
      copies := b.core.copies ++ [j]
      board := b.core.board ++ here.map entry
      gboard := b.core.gboard ++ there.map entry
      steps := tset b.core.steps j.cell
        { b.myStep with nextId := b.myStep.nextId.set (j.chan % 16) (j.id + 1) (Nat.mod_lt _ (by decide)) } }
    work := b.work ++ [todo .copyTransferComplete { Input.none with core := b.here, slot := j.cell, queue := j.chan, n := j.id }] }
    rd (BitVec.ofNat 64 j.id)

/-- A state with a stream taken on (R415, R420): the job, its region on the scoreboard and the one that it reads, its number due in rd, and its
end due. -/
def State.withStream (b : State) (rd : BitVec 5) (j : StreamJob) (dst reads : Nat × Nat) : State :=
  let entry (r : Nat × Nat) (w : Bool) : Region := { cell := j.cell, engine := engStream, id := j.port * 2 ^ 48 + j.num, lo := r.1, hi := r.2, write := w }
  State.dueScalar { b with
    core := { b.core with
      steps := tset b.core.steps j.cell { b.myStep with smark := j.num + 1 }
      streams := b.core.streams ++ [j]
      board := b.core.board ++ [entry dst true]
      gboard := b.core.gboard ++ [entry reads false] }
    work := b.work ++ [todo .streamEnd { Input.none with core := b.here, queue := j.port }] } rd (BitVec.ofNat 64 (2 ^ 60 + j.num))

/-- A state with a transform of `n` bytes taken on (R416, R422). -/
def State.withXform (s : State) (rd : BitVec 5) (j : XformJob) (n : Nat) : State :=
  State.dueScalar { s with
    core := { s.core with
      steps := tset s.core.steps j.cell { s.myStep with xmark := j.num + 1 }
      xforms := s.core.xforms ++ [j]
      board := s.core.board ++ [{ cell := j.cell, engine := engXform, id := j.num, lo := j.addr, hi := j.addr + n - 1, write := true }] }
    work := s.work ++ [todo .transformPerform { Input.none with core := s.here, slot := j.cell, n := j.num }] }
    rd (BitVec.ofNat 64 (2 * 2 ^ 60 + j.num))

/-- What handing a matrix command `m` to the tile engines leaves of `b` (R397, R404): the command with its captured operands, its regions on the
scoreboard, the scalar due, the slot tags and steps, and its performance due; all else is as before. -/
def MatTaken (b u : State) (m : MatCmd) (rs : List (Nat × Nat × Bool)) (due : List (BitVec 5 × Word)) (tags : Nat → Option SlotTag)
    (steps : Table Step) : Prop :=
  m.word = b.cv.entry.words.getD b.cv.k 0 ∧ m.cell = b.strand.cell ∧
    m.slot = some b.slot ∧ m.caps = [b.capA, b.capB] ∧ m.vl = b.vl ∧ m.vtype = b.vtype ∧
    (m.tm, m.tn, m.tk) = (b.myStep.tm, b.myStep.tn, b.myStep.tk) ∧ m.drain = none ∧ m.order = (b.mark.map (·.order)).getD b.core.accepted ∧
    u.core.mat = b.core.mat ++ [m] ∧ u.core.steps = steps ∧ (∀ q, tget u.core.tags q = tags q) ∧
    u.core.board = b.core.board ++ rs.map (fun r => { cell := m.cell, engine := engMatrix, id := m.order, lo := r.1, hi := r.2.1, write := r.2.2 }) ∧
    u.work = b.work ++ [todo .matrixCommandFinish { Input.none with core := b.here }] ∧
    u.strand.cv = { b.strand.cv with scalars := b.strand.cv.scalars ++ due, first := u.strand.cv.first } ∧
    { u with
      work := b.work
      core := { u.core with
        mat := b.core.mat, board := b.core.board, gboard := b.core.gboard, accepted := b.core.accepted, tags := b.core.tags, steps := b.core.steps }
      strand := { u.strand with cv := b.strand.cv } } = b

/-- The operands that an MMA names pass (R406): the pair of formats, the tags of both runs of slots, and their claims. -/
def State.mmaOk (s : State) (blk : Nat) : Prop :=
  let st := s.myStep
  let c := s.capA
  ctlBad c st.tm st.tn = false ∧ mmaPair s.sew s.sew2 = true ∧
    s.core.runIs (ctlA c) s.sew blk 0 st.tm st.tk = true ∧ s.core.runIs (ctlB c) s.sew2 blk 1 st.tn st.tk = true ∧
    st.hasSlots (ctlA c) (tileSlots s.sew (max blk 1) st.tm st.tk) = true ∧ st.hasSlots (ctlB c) (tileSlots s.sew2 (max blk 1) st.tn st.tk) = true

/-- Byte `q` of what a transform leaves (R416): zeros, a pattern, a transpose, bytes swapped, or FP32 made FP16. -/
def xformByte (j : XformJob) (m : Mem) (q : Nat) : Byte :=
  let op := bitsN j.ctl 3 0
  let w := 2 ^ bitsN j.ctl 5 4
  let n := bitsN j.ctl 15 8
  let old (q : Nat) : Byte := mget m (j.addr + q)
  if op = 0 then 0
  else if op = 1 then BitVec.ofNat 8 (bitsN j.ctl 63 32 / 256 ^ (q % 4))
  else if op = 2 then old ((q / w % n * n + q / w / n) * w + q % w)
  else if op = 3 then old (q / w * w + (w - 1 - q % w))
  else BitVec.ofNat 8 (cellTo 0x0B (bytesValue m (j.addr + q / 2 * 4) 4) / 256 ^ (q % 2))

/-- The leaves at `x` and `y` have each other's page address, and all other bits of their own (R200). -/
def LeavesSwapped (m m' : Mem) (x y : Nat) : Prop :=
  ∀ q, q < 64 →
    (BitVec.ofNat 64 (mload m' x 8)).getLsbD q = (BitVec.ofNat 64 (mload m (if 16 ≤ q ∧ q ≤ 51 then y else x) 8)).getLsbD q ∧
    (BitVec.ofNat 64 (mload m' y 8)).getLsbD q = (BitVec.ofNat 64 (mload m (if 16 ≤ q ∧ q ≤ 51 then x else y) 8)).getLsbD q

/-- What an SPDM response `bs` to a message holds, for a draw (R94): an error Busy during the management core's own swap step, an error for a
message not supported, for another certificate slot than 0, and for a signature that cannot be made; else the reported content in the response of
the message. -/
def SpdmContents (u : State) (msg : List Byte) (draw : Nat) (bs : List Byte) : Prop :=
  let code := fld msg 1 1
  let busy : Prop := u.fw.activating.isSome = true ∧ u.fw.written.contains 8 = true
  let signs : Prop := code = 0x83 ∨ (code = 0xE0 ∧ (fld msg 2 1).testBit 0 = true)
  let slot0 : Prop := (code ∈ [0x82, 0x83] → fld msg 2 1 % 16 = 0) ∧ (code = 0xE0 → (fld msg 2 1).testBit 0 = true → fld msg 36 1 % 16 = 0)
  let meas := u.fw.meas.toList.flatMap (bytesOf 64)
  let hash := bytesOf 64 u.fw.certHash
  (busy → bs = spdmError 3 msg draw) ∧
    (¬ busy → code ∉ [0x81, 0x82, 0x83, 0x84, 0xE0, 0xE1, 0xE3] → bs = spdmError 7 msg draw) ∧
    (¬ busy → ∀ content, (code, content) ∈ [(0x84, msg), (0xE1, msg), (0xE3, msg), (0x81, msg ++ hash), (0x82, msg ++ hash), (0x83, msg ++ meas),
        (0xE0, msg ++ meas ++ u.manifest.take 256)] →
      (¬ slot0 → bs = spdmError 1 msg draw) ∧
      (slot0 → signs → u.fw.idKey ≠ .usable → bs = spdmError 5 msg draw) ∧
      (slot0 → ¬ signs ∨ u.fw.idKey = .usable → bs = Config.spdmBytes code content draw))

/-- The strand in hand has left its slot (R136). -/
abbrev Vacated (s t : State) : Prop := t.acting = false ∧ tget (t.getCore s.here).slots s.slot = none

/-- Coordinates that fit a position's words (R212), the bits of a position, and chain entries whose use is certain (R223). -/
def posFits (v : Vec3) : Prop := ∀ c ∈ [v.1, v.2.1, v.2.2], -2 ^ 31 ≤ c ∧ c < 2 ^ 31
def posBits (v : Vec3) (t : Nat) : Nat := wrapN 32 v.1 + 2 ^ 32 * wrapN 32 v.2.1 + 2 ^ 64 * wrapN 32 v.2.2 + 2 ^ 96 * t
def sureUsed (l : List ChainEntry) : Used := l.map (fun c => (some c, false))

/-- The fields of a transform's control word pass (R422). -/
abbrev XformFieldsOk (sb : Nat) : Prop :=
  let op := bitsN sb 3 0
  let w := 2 ^ bitsN sb 5 4
  let len := bitsN sb 28 16
  op ≤ 4 ∧ (op = 2 → len = 0 ∧ bitsN sb 15 8 ≠ 0) ∧ (op ≠ 2 → len ≠ 0 ∧ len % w = 0) ∧ (op = 1 → len % 4 = 0) ∧ (op = 4 → w = 4) ∧
    bitsN sb 7 6 = 0 ∧ bitsN sb 31 29 = 0

/-- The data of a publication's packet (R200, log 12): its code, the future and its node, the core and the descriptor cell, the pc. -/
def State.publishData (s : State) (fut node : Nat) : List Byte :=
  bytesOf 8 0x1F ++ bytesOf 8 fut ++ bytesOf 8 node ++ bytesOf 8 (s.here + 512 * s.strand.cell) ++ bytesOf 8 s.wordPc.toNat

/-- A copy of whole-byte elements from local memory to local memory in one format, that nothing else waits for (R417). -/
abbrev PlainCopy (j : CopyJob) (d : TDesc) : Prop :=
  j.kind = 0 ∧ j.dsts = [d] ∧ j.src.loc = true ∧ d.loc = true ∧ j.src.fmt = d.fmt ∧ d.fmt ≠ 0x10 ∧ widthOf d.fmt % 8 = 0 ∧ j.src.nib = 0 ∧
    d.nib = 0 ∧ j.src.cols ≤ d.pitch ∧ j.io = EngineIo.none ∧ j.fut = none ∧ j.bar = none ∧ j.shadow = none

/-- The 16 bytes of a completion entry (R64). -/
def entryBytes (c : Completion) (phase : Bool) : List Byte :=
  bytesOf 2 c.cid ++ bytesOf 2 c.sqhd ++ bytesOf 2 c.status ++ bytesOf 1 (bit phase) ++ bytesOf 1 0 ++ bytesOf 8 c.result.toNat

/-- What a module reset leaves (R7, R77, R87-R89): nothing of the run but the fuses, the slots and, with no queue left to complete to, memory;
an activation in progress has failed, and a boot is due. -/
def ModuleResetDone (s t : State) : Prop :=
  t.mbx.ready = false ∧ t.queues = [] ∧ t.contexts = [] ∧ t.cores = [] ∧ t.harbours = State.reset.harbours ∧ t.fw.activeB = s.fw.activeB ∧
    t.fw.slot s.fw.activeB = s.fw.slot s.fw.activeB ∧
    t.fw.slot (!s.fw.activeB) = (if s.swapping then { s.fw.other with st := .failed } else s.fw.other) ∧
    t.fw.counter = s.fw.counter ∧ t.fw.debug = s.fw.pendingDebug ∧ (s.queues = [] → t.mem = s.mem) ∧ todo .boot Input.none ∈ t.work

/-- What the debug mode allows (R89): nothing in OFF; everything awake in INVASIVE; no change in OBSERVE, and in PRODUCTION then only what
stays on while a die sleeps and the control registers. -/
def DebugLimits : Prop :=
  ∀ (l : Lifecycle) (a : Bool) (k : DebugKind), debugAllows l .off a k = false ∧ debugAllows l .invasive false k = true ∧
    (k.changes = true → debugAllows l .observe a k = false) ∧
    (debugAllows .production .observe a k = true → k = .manifest ∨ k = .alwaysOn ∨ (k = .control ∧ a = false))

/-- What the scrubber leaves of a stack (R14, R15): no corrected error, its counters raised, and each poisoned sector logged. -/
def Scrubbed (s t : State) (n : Nat) : Prop :=
  let mine (g : Nat) : Bool := decide (16 * g < hbmEnd) && decide (stackOf (16 * g) = n)
  t.soft = s.soft.filter (fun g => !mine g) ∧
    t.hbmce.toList.getD n 0 = s.hbmce.toList.getD n 0 + (s.soft.filter mine).length ∧
    t.hbmue.toList.getD n 0 = s.hbmue.toList.getD n 0 + (s.poison.filter mine).length ∧
    t.log = s.log ++ (s.poison.filter mine).map (fun g => (15, 16 * g)) ∧
    { t with soft := s.soft, hbmce := s.hbmce, hbmue := s.hbmue, log := s.log } = s

/-- The tensor descriptors of a copy are read, from `b1` by way of `b2` to `b3`, and suit it (R177, R414-R417): `src` and the destinations `ds`. -/
def CopyTdescs (v : Nat) (loc : Bool) (b1 b2 b3 : State) (src : TDesc) (ds : List TDesc) : Prop :=
  let kind := fieldAt v 0 1
  let ctl := fieldAt v 8 8
  let cw := BitVec.ofNat 64 ctl
  if kind = 3 then (∀ f, b1.engineTdesc loc (fieldAt v 16 8) f = f b3 src) ∧ ds = [src] ∧ ctlReserved cw = false ∧ ctl % 1024 = 0 ∧
      ctlPitch cw = 0 ∧ cellFmt src.fmt = true ∧ ctlBad cw src.rows src.cols = false ∧ b3.myStep.hasBands (ctlRow cw) src.rows = true
    else (∀ f, b1.engineTdesc loc ctl f = f b2 src) ∧ (kind = 2 → 2 ≤ src.cols ∧ src.cols ≤ 8) ∧
      (∀ f, b2.engineTdescs loc (fieldAt v 16 8) (if kind = 2 then src.cols else 1) f = f b3 ds) ∧ copyFits kind src ds = true

/-- A step begun with one strand from entry `e` of stage `g` (R113). -/
def StepBegun (st : Step) (e : QEntry) (g : Nat) : Prop := st.live = true ∧ st.strands = 1 ∧ st.lcore = e.lcore ∧ st.stage = g

/-- A walker's queue entry in memory (R101, R107): the loop indices, and the top base. -/
def EntryAt (m : Mem) (pa : Nat) (is : List Nat) (topb : Nat) : Prop :=
  (∀ j, j < 6 → mload m (pa + 4 * j) 4 = is.getD j 0) ∧ mload m (pa + 24) 8 = topb % 2 ^ 64

/-- The queues after command `cid` of queue `n`, entry `c` of `q`, is done with a status (R64, R80). -/
def HostQueue.doneOn (q : HostQueue) (c : Started) (n cid : Nat) (s : State) (status : Nat) : Table HostQueue :=
  (finished q c { s with inp := { s.inp with queue := n, n := cid } } status 0).queues

/-- The started command of a submission entry of value `v` (R62, R64). -/
def startedFrom (uid v head : Nat) : Started :=
  { uid := uid, cid := v / 2 ^ 16 % 2 ^ 16, opc := v % 2 ^ 16, sqhd := head, ctx := v / 2 ^ 64 % 64, record := 0, dies := [], faulted := 0
    refusal := none, resubmit := [] }

/-- The arrival of an answer to the word that waits for request `p` (R375). -/
def answerTo (p : Pending) (ctx core : Nat) (ok : Bool) (cause v : Nat) : Todo :=
  todo .answerArrival { Input.none with
    core := core, slot := ctx, queue := p.pkt.dst, n := p.pkt.sseq, ok := ok, addr := cause, data := BitVec.ofNat 64 v }

/-- The first router's answer that no route leads to a packet's destination (R31, R43). -/
def noRoute (p : Packet) : Packet :=
  { Packet.empty with dst := p.src, src := p.dst, op := 0x12, asid := p.asid, sseq := p.sseq, data := [0x40] }

/-- A launch is the last of its record's to end (R116): every other die's has ended. -/
def LastToEnd (l : Launch) (tw : List (Nat × Nat × Launch)) : Prop :=
  tw.length + 1 = (bitsSet 4 l.diemask).length ∧ ∀ x ∈ tw, x.2.2.st = .ended

/-- The tag of the slots that a TLOAD fills (R405). -/
def TDesc.slotTag (d : TDesc) (shape rows tk first : Nat) : SlotTag :=
  { fmt := d.fmt, blk := if d.isF4 then d.blk else 0, shape := shape, rows := rows, tk := tk, first := first }

/-- The tensor descriptor of a TLOAD from local address `a` is `d` (R177, R405): the one kept from its first issue, else the one that lies there. -/
def State.tdescIs (s : State) (a : Nat) (d : TDesc) : Prop :=
  s.mark.bind (·.tdesc) = some d ∨
    (s.mark.bind (·.tdesc) = none ∧ s.core.locBad a 32 = false ∧ tdescOf (fun off k => mload s.core.loc (a + off) k) = some d)

end Sys2Proof.Machine
end

