-- ==== Sys2Proof/Certificates/Slice0/Obligations.lean ====
section
/-! DEFINITION. The statements for the provers. -/

open Sys2Proof Sys2Proof.Machine

/-- R322, R323: the register-register words, with their frame. -/
def Obligations.IntegerRegisterResults : Prop :=
 ((∀ (s : State) (rd rs1 rs2 : BitVec 5), ∀ p ∈ ([(.add, fun a b => w64 (a.toNat + b.toNat)),
     (.sub, fun a b => BitVec.ofInt 64 (a.toInt - b.toInt)), (.sll, fun a b => w64 (a.toNat * 2 ^ (b.toNat % 64))),
     (.srl, fun a b => w64 (a.toNat / 2 ^ (b.toNat % 64))), (.sra, fun a b => BitVec.ofInt 64 (a.toInt / 2 ^ (b.toNat % 64))),
     (.slt, fun a b => if a.toInt < b.toInt then 1 else 0), (.sltu, fun a b => if a.toNat < b.toNat then 1 else 0), (.xor, fun a b => a ^^^ b),
     (.or, fun a b => a ||| b), (.and, fun a b => a &&& b), (.mul, fun a b => w64 (a.toNat * b.toNat)),
     (.mulh, fun a b => BitVec.ofInt 64 (a.toInt * b.toInt / 2 ^ 64)), (.mulhu, fun a b => w64 (a.toNat * b.toNat / 2 ^ 64)),
     (.min, fun a b => if b.toInt < a.toInt then b else a), (.max, fun a b => if a.toInt < b.toInt then b else a),
     (.minu, fun a b => if b.toNat < a.toNat then b else a), (.maxu, fun a b => if a.toNat < b.toNat then b else a)] :
     List ((BitVec 5 → BitVec 5 → BitVec 5 → Instr) × (Word → Word → Word))),
    ∃ t, exec (p.1 rd rs1 rs2) s = .next t ∧ ScalarEffect s t rd (p.2 (s.x rs1) (s.x rs2)) (s.strand.pc + 4)) ∧
   ∀ (s : State) (rd rs1 rs2 : BitVec 5) (n : BitVec 2), ∃ t, exec (.lea rd rs1 rs2 n) s = .next t ∧
     ScalarEffect s t rd (w64 ((s.x rs1).toNat + (s.x rs2).toNat * 2 ^ n.toNat)) (s.strand.pc + 4)) ∧
 (∀ (s : State) (rd rs1 : BitVec 5), (∃ t c, exec (.clz rd rs1) s = .next t ∧ ScalarEffect s t rd (w64 c) (s.strand.pc + 4) ∧ c ≤ 64 ∧
    (∀ i, i < c → (s.x rs1).getLsbD (63 - i) = false) ∧ (c < 64 → (s.x rs1).getLsbD (63 - c))) ∧
   (∃ t c, exec (.ctz rd rs1) s = .next t ∧ ScalarEffect s t rd (w64 c) (s.strand.pc + 4) ∧ c ≤ 64 ∧
    (∀ i, i < c → (s.x rs1).getLsbD i = false) ∧ (c < 64 → (s.x rs1).getLsbD c)) ∧
   ∃ t, exec (.popc rd rs1) s = .next t ∧
    ScalarEffect s t rd (w64 ((List.range 64).filter (fun i => (s.x rs1).getLsbD i)).length) (s.strand.pc + 4)) ∧
 (∀ (s : State) (rd rs1 rs2 : BitVec 5), ∀ p ∈ ([(.div, fun a b =>
     if b = 0 then BitVec.ofInt 64 (-1)
     else if a.toInt = -2 ^ 63 ∧ b.toInt = -1 then BitVec.ofInt 64 (-2 ^ 63)
     else BitVec.ofInt 64 (a.toInt.tdiv b.toInt)), (.divu, fun a b => if b = 0 then BitVec.ofInt 64 (-1) else w64 (a.toNat / b.toNat)),
     (.rem, fun a b =>
     if b = 0 then a
     else if a.toInt = -2 ^ 63 ∧ b.toInt = -1 then 0
     else BitVec.ofInt 64 (a.toInt - a.toInt.tdiv b.toInt * b.toInt)),
     (.remu, fun a b => if b = 0 then a else w64 (a.toNat - a.toNat / b.toNat * b.toNat))] :
     List ((BitVec 5 → BitVec 5 → BitVec 5 → Instr) × (Word → Word → Word))),
    ∃ t, exec (p.1 rd rs1 rs2) s = .next t ∧ ScalarEffect s t rd (p.2 (s.x rs1) (s.x rs2)) (s.strand.pc + 4))

/-- R324, R325: the immediate words. -/
def Obligations.ImmediateResults : Prop :=
 (∀ (s : State) (rd rs1 : BitVec 5) (imm : BitVec 12), ∀ p ∈ ([(.addi, fun a i => BitVec.ofInt 64 (a.toInt + i)),
    (.slti, fun a i => if a.toInt < i then 1 else 0), (.sltiu, fun a i => if a.toNat < (BitVec.ofInt 64 i).toNat then 1 else 0),
    (.xori, fun a i => a ^^^ BitVec.ofInt 64 i), (.ori, fun a i => a ||| BitVec.ofInt 64 i), (.andi, fun a i => a &&& BitVec.ofInt 64 i)] :
    List ((BitVec 5 → BitVec 5 → BitVec 12 → Instr) × (Word → Int → Word))),
   ∃ t, exec (p.1 rd rs1 imm) s = .next t ∧ ScalarEffect s t rd (p.2 (s.x rs1) imm.toInt) (s.strand.pc + 4)) ∧
  (∀ (s : State) (rd rs1 : BitVec 5) (sh : BitVec 6), ∀ p ∈ ([(.slli, fun a n => w64 (a.toNat * 2 ^ n)),
     (.srli, fun a n => w64 (a.toNat / 2 ^ n)), (.srai, fun a n => BitVec.ofInt 64 (a.toInt / 2 ^ n))] :
     List ((BitVec 5 → BitVec 5 → BitVec 6 → Instr) × (Word → Nat → Word))),
    ∃ t, exec (p.1 rd rs1 sh) s = .next t ∧ ScalarEffect s t rd (p.2 (s.x rs1) sh.toNat) (s.strand.pc + 4)) ∧
  ∀ (s : State) (rd : BitVec 5) (imm : BitVec 20),
   (∃ t, exec (.lui rd imm) s = .next t ∧ ScalarEffect s t rd (BitVec.ofInt 64 (imm.toInt * 2 ^ 12)) (s.strand.pc + 4)) ∧
   ∃ t, exec (.addpc rd imm) s = .next t ∧ ScalarEffect s t rd (s.strand.pc + BitVec.ofInt 64 (imm.toInt * 2 ^ 12)) (s.strand.pc + 4)

/-- R326: the conditional branches; `imm` holds the offset's bits 12:1. -/
def Obligations.BranchTargets : Prop :=
 ∀ (s : State) (rs1 rs2 : BitVec 5) (imm : BitVec 12),
  ∀ p ∈ ([(.beq, fun a b => a = b), (.bne, fun a b => a ≠ b), (.blt, fun a b => a.toInt < b.toInt),
    (.bge, fun a b => b.toInt ≤ a.toInt), (.bltu, fun a b => a.toNat < b.toNat), (.bgeu, fun a b => b.toNat ≤ a.toNat)] :
    List ((BitVec 5 → BitVec 5 → BitVec 12 → Instr) × (Word → Word → Prop))),
   (p.2 (s.x rs1) (s.x rs2) → (s.strand.pc + BitVec.ofInt 64 (2 * imm.toInt)).toNat % 4 = 0 →
    ∃ t, exec (p.1 rs1 rs2 imm) s = .next t ∧ ScalarEffect s t 0 0 (s.strand.pc + BitVec.ofInt 64 (2 * imm.toInt))) ∧
   (¬ p.2 (s.x rs1) (s.x rs2) → ∃ t, exec (p.1 rs1 rs2 imm) s = .next t ∧ ScalarEffect s t 0 0 (s.strand.pc + 4))

/-- R327: the unconditional jumps; JAL's `imm` holds the offset's bits 20:1. -/
def Obligations.JumpsLinkAndGo : Prop :=
 (∀ (s : State) (rd : BitVec 5) (imm : BitVec 20), (s.strand.pc + BitVec.ofInt 64 (2 * imm.toInt)).toNat % 4 = 0 →
  ∃ t, exec (.jal rd imm) s = .next t ∧ ScalarEffect s t rd (s.strand.pc + 4) (s.strand.pc + BitVec.ofInt 64 (2 * imm.toInt))) ∧
  ∀ (s : State) (rd rs1 : BitVec 5) (imm : BitVec 12), (s.x rs1 + BitVec.ofInt 64 imm.toInt).toNat % 4 = 0 →
   ∃ t, exec (.jalr rd rs1 imm) s = .next t ∧ ScalarEffect s t rd (s.strand.pc + 4) (s.x rs1 + BitVec.ofInt 64 imm.toInt)

/-- R329-R331: the scalar local loads; the held writes of a release come first (R189, R382). -/
def Obligations.LocalLoadResults : Prop :=
 ∀ (s : State) (rd rs1 : BitVec 5) (imm : BitVec 12), ∀ p ∈ ([(.ldB, 1, true), (.ldH, 2, true), (.ldW, 4, true), (.ldD, 8, true), (.ldBu, 1, false),
    (.ldHu, 2, false), (.ldWu, 4, false)] : List ((BitVec 5 → BitVec 5 → BitVec 12 → Instr) × Nat × Bool)),
   let a := (s.x rs1 + BitVec.ofInt 64 imm.toInt).toNat
   let v := bytesValue s.core.loc a p.2.1
   Memory.wf s.core.loc → s.heldHere = false → LocalReadable s a p.2.1 → s.core.locBad a p.2.1 = false → ∃ t, exec (p.1 rd rs1 imm) s = .next t ∧
     ScalarEffect s t rd (if p.2.2 then BitVec.ofInt 64 (toSigned (8 * p.2.1) v) else w64 v) (s.strand.pc + 4)

/-- R329-R331: the scalar local stores. -/
def Obligations.LocalStoreBytes : Prop :=
 ∀ (s : State) (rs2 rs1 : BitVec 5) (imm : BitVec 12), ∀ p ∈ ([(.stB, 1), (.stH, 2), (.stW, 4), (.stD, 8)] :
    List ((BitVec 5 → BitVec 5 → BitVec 12 → Instr) × Nat)),
   let a := (s.x rs1 + BitVec.ofInt 64 imm.toInt).toNat
   s.heldHere = false → LocalWritable s a p.2 → ∃ t, exec (p.1 rs2 rs1 imm) s = .next t ∧ LocalStored s t a p.2 (s.x rs2)

/-- R330, R271, R290, R328, R342: where a local access traps, and the scalar-stream words that trap with cause 0x01. -/
def Obligations.ScalarWordsThatTrap : Prop :=
 ((∀ (s : State) (rd rs1 : BitVec 5) (imm : BitVec 12), ∀ p ∈ ([(.ldB, 1), (.ldH, 2), (.ldW, 4), (.ldD, 8), (.ldBu, 1), (.ldHu, 2), (.ldWu, 4)] :
     List ((BitVec 5 → BitVec 5 → BitVec 12 → Instr) × Nat)),
    let a := (s.x rs1 + BitVec.ofInt 64 imm.toInt).toNat
    s.heldHere = false → (¬ LocalReadable s a p.2 → exec (p.1 rd rs1 imm) s = .next (s.trapScalar 0x14 a)) ∧
     (LocalReadable s a p.2 → s.core.locBad a p.2 → exec (p.1 rd rs1 imm) s = .next (s.trapScalar 0x40 a))) ∧
   ∀ (s : State) (rs2 rs1 : BitVec 5) (imm : BitVec 12), ∀ p ∈ ([(.stB, 1), (.stH, 2), (.stW, 4), (.stD, 8)] :
     List ((BitVec 5 → BitVec 5 → BitVec 12 → Instr) × Nat)),
     let a := (s.x rs1 + BitVec.ofInt 64 imm.toInt).toNat
     s.heldHere = false → ¬ LocalWritable s a p.2 → exec (p.1 rs2 rs1 imm) s = .next (s.trapScalar 0x14 a)) ∧
 (∀ s : State, (∀ code, exec (.trap code) s = .next (s.trapScalar 0x01 0)) ∧
   (s.strand.cv.live = false → ∀ w, exec (.illegalInstruction w) s = .next (s.trapScalar 0x01 0)) ∧ (∀ (rs1 rs2 : BitVec 5) (imm : BitVec 12),
    ∀ p ∈ ([(.beq, fun a b => a = b), (.bne, fun a b => a ≠ b), (.blt, fun a b => a.toInt < b.toInt),
     (.bge, fun a b => b.toInt ≤ a.toInt), (.bltu, fun a b => a.toNat < b.toNat), (.bgeu, fun a b => b.toNat ≤ a.toNat)] :
     List ((BitVec 5 → BitVec 5 → BitVec 12 → Instr) × (Word → Word → Prop))),
     p.2 (s.x rs1) (s.x rs2) → (s.strand.pc + BitVec.ofInt 64 (2 * imm.toInt)).toNat % 4 ≠ 0 →
     exec (p.1 rs1 rs2 imm) s = .next (s.trapScalar 0x01 0)) ∧
   (∀ (rd : BitVec 5) (imm : BitVec 20), (s.strand.pc + BitVec.ofInt 64 (2 * imm.toInt)).toNat % 4 ≠ 0 →
    exec (.jal rd imm) s = .next (s.trapScalar 0x01 0)) ∧
   ∀ (rd rs1 : BitVec 5) (imm : BitVec 12), (s.x rs1 + BitVec.ofInt 64 imm.toInt).toNat % 4 ≠ 0 →
    exec (.jalr rd rs1 imm) s = .next (s.trapScalar 0x01 0))

/-- R294-R297, R333: every listed control register read, and any other index. -/
def Obligations.ControlRegisterReads : Prop :=
 ∀ (s : State) (rd : BitVec 5), (∀ p ∈ ([(0x000, s.strand.regs.sstat), (0x001, w64 s.strand.regs.vl), (0x002, s.strand.regs.vtype),
    (0x003, w64 s.strand.regs.estart.toNat), (0x007, w64 s.strand.regs.mrow.toNat),
    (0x008, w64 s.strand.regs.mkstep.toNat), (0x010, s.strand.regs.eix[0]), (0x011, s.strand.regs.eix[1]),
    (0x012, s.strand.regs.eix[2]), (0x013, s.strand.regs.eix[3]), (0x014, s.strand.regs.eix[4]),
    (0x020, w64 (s.myStep.lcore * 2 ^ 32 + s.here * 2 ^ 16 + s.slot)),
    (0x021, w64 (s.myStep.die * 2 ^ 20 + s.myStep.launch * 2 ^ 16 + (s.stageOf s.myStep).prio * 2 ^ 8 + s.myStep.stage)),
    (0x022, w64 (0x300000 - s.core.moor * 0x10000 + 0x1000 + 64 * s.strand.cell)),
    (0x040, s.core.cycle), (0x041, s.time), (0x100, w64 s.core.vlcap.toNat), (0x101, w64 s.core.lpart.toNat),
    (0x102, if s.core.detm then 1 else 0), (0x103, w64 s.core.asid.toNat), (0x104, 3),
    (0x105, w64 (2 * (s.here % 2) + if s.core.gangEn then 1 else 0))] : List (BitVec 12 × Word)),
   ∃ t, exec (.csrr rd p.1) s = .next t ∧ ScalarEffect s t rd p.2 (s.strand.pc + 4)) ∧
  (s.core.mat.all (fun m => m.cell != s.strand.cell) → s.withdrawn s.here s.strand.cell = [] →
   ∀ p ∈ ([(0x004, s.myStep.tm), (0x005, s.myStep.tn), (0x006, s.myStep.tk)] : List (BitVec 12 × Nat)),
    ∃ t, exec (.csrr rd p.1) s = .next t ∧ ScalarEffect s t rd (w64 p.2) (s.strand.pc + 4)) ∧
  (∀ n : Fin 16, ∃ t, exec (.csrr rd (BitVec.ofNat 12 (0x030 + n.val))) s = .next t ∧
   ScalarEffect s t rd (w64 s.myStep.chdone[n]) (s.strand.pc + 4)) ∧
  ∀ idx : BitVec 12, ¬ (idx.toNat ≤ 0x008 ∨ (0x010 ≤ idx.toNat ∧ idx.toNat ≤ 0x014) ∨ (0x020 ≤ idx.toNat ∧ idx.toNat ≤ 0x022) ∨
    (0x030 ≤ idx.toNat ∧ idx.toNat ≤ 0x03F) ∨ idx.toNat = 0x040 ∨ idx.toNat = 0x041 ∨ (0x100 ≤ idx.toNat ∧ idx.toNat ≤ 0x105)) →
   exec (.csrr rd idx) s = .next (s.trapScalar 0x01 0)

/-- R247, R248, R294, R333: the three writing words; `f` is what each makes of the old value and its source. -/
def Obligations.ControlRegisterWrites : Prop :=
 ∀ (s : State) (rs1 : BitVec 5), ∀ p ∈ ([(.csrw, fun _ a => a), (.csrs, fun old a => old ||| a), (.csrc, fun old a => old &&& ~~~a)] :
    List ((BitVec 12 → BitVec 5 → Instr) × (Word → Word → Word))),
   (∃ t, exec (p.1 0x000 rs1) s = .next t ∧
    t = { s with strand := { s.strand with
     pc := s.strand.pc + 4
     waits := none
     regs := { s.strand.regs with
     sstat :=
          let new := p.2 s.strand.regs.sstat (s.x rs1)
          (new &&& 0x11F) ||| (if new.getLsbD 7 then s.strand.regs.sstat &&& 0xE0 else new &&& 0x60) } } }) ∧
   (∃ t, exec (p.1 0x003 rs1) s = .next t ∧
    t = { s with strand := { s.strand with
     pc := s.strand.pc + 4
     waits := none
     regs := { s.strand.regs with
     estart := (p.2 (w64 s.strand.regs.estart.toNat) (s.x rs1)).extractLsb' 0 16 } } }) ∧
   (∀ n : Fin 5, ∃ t, exec (p.1 (BitVec.ofNat 12 (0x010 + n.val)) rs1) s = .next t ∧
    t = { s with strand := { s.strand with
     pc := s.strand.pc + 4
     waits := none
     regs := { s.strand.regs with eix := s.strand.regs.eix.set n (p.2 s.strand.regs.eix[n] (s.x rs1)) } } }) ∧
   (∀ idx ∈ ([0x001, 0x002, 0x004, 0x005, 0x006, 0x007, 0x008, 0x020, 0x021, 0x022, 0x040, 0x041] ++
     (List.range 16).map (fun n => BitVec.ofNat 12 (0x030 + n)) : List (BitVec 12)),
    ∃ t, exec (p.1 idx rs1) s = .next t ∧ ScalarEffect s t 0 0 (s.strand.pc + 4)) ∧
   ∀ idx : BitVec 12, (0x100 ≤ idx.toNat → exec (p.1 idx rs1) s = .next (s.trapScalar 0x06 0)) ∧ (idx.toNat < 0x100 →
     ¬ (idx.toNat ≤ 0x008 ∨ (0x010 ≤ idx.toNat ∧ idx.toNat ≤ 0x014) ∨ (0x020 ≤ idx.toNat ∧ idx.toNat ≤ 0x022) ∨
     (0x030 ≤ idx.toNat ∧ idx.toNat ≤ 0x03F) ∨ idx.toNat = 0x040 ∨ idx.toNat = 0x041) → exec (p.1 idx rs1) s = .next (s.trapScalar 0x01 0))

/-- R337: FORK. -/
def Obligations.ForkDepositsTheChild : Prop :=
 ∀ (s : State) (o : LOp), s.heldHere = false → s.storesOut = false → o.hint ≠ 3 →
  (64 ≤ s.myStep.strands → ∃ t, exec (.fork o) s = .next t ∧ ScalarEffect s t o.rd 0 (s.strand.pc + 4)) ∧
  (s.myStep.strands < 64 → s.acting → FreshDeposit s.core → FitsMooring s (s.forkRecord o) →
   ∃ t r, exec (.fork o) s = .next t ∧ t.x o.rd = (if o.rd = 0 then 0 else 1) ∧ (∀ q, q ≠ o.rd → t.x q = s.x q) ∧
    t.strand.pc = s.strand.pc + 4 ∧ t.myStep.strands = s.myStep.strands + 1 ∧ t.mem = s.mem ∧ t.core.loc = s.core.loc ∧
    ReadyLast s t s.here r ∧ r.kind = .fork ∧ r.pc = s.strand.pc + 4 ∧ r.cell = s.strand.cell ∧
    (o.rd ≠ 0 → r.smask.getLsbD o.rd.toNat ∧ r.regs.xs[o.rd.toNat] = 2) ∧
    (∀ n : Fin 32, n.val ≠ 0 → n.val ≠ o.rd.toNat → (s.liveSet o.ls.toNat).sregs.getLsbD n → r.smask.getLsbD n ∧ r.regs.xs[n] = s.strand.regs.xs[n]) ∧
    r.vmask = (s.liveSet o.ls.toNat).vregs ∧ r.mmask = (s.liveSet o.ls.toNat).mregs ∧
    (∀ n : Fin 32, r.vmask.getLsbD n → r.regs.vs[n] = s.strand.regs.vs[n]) ∧ (∀ n : Fin 8, r.mmask.getLsbD n → r.regs.ms[n] = s.strand.regs.ms[n]) ∧
    r.lsidx = 0 ∧ r.waitLocal = false ∧ r.waitAddr = 0 ∧ r.on = .nothing ∧
    r.regs.vl = s.strand.regs.vl ∧ r.regs.vtype = s.strand.regs.vtype ∧ r.regs.sstat = s.strand.regs.sstat ∧ r.regs.eix = s.strand.regs.eix)

/-- R341: YIELD.L. -/
def Obligations.YieldLeavesReady : Prop :=
 ∀ (s : State) (o : LOp), s.heldHere = false → o.hint ≠ 3 → s.acting → FreshDeposit s.core → tget s.core.slots s.slot = none →
  FitsMooring s (s.leaveRecord o.ls.toNat none [] 0 (s.strand.pc + 4)) → ∃ t r, exec (.yieldL o) s = .next t ∧ Vacated s t ∧ t.mem = s.mem ∧
    (t.getCore s.here).loc = s.core.loc ∧ ReadyLast s t s.here r ∧ r.kind = .leave ∧ r.pc = s.strand.pc + 4 ∧
    r.cell = s.strand.cell ∧ r.waitAddr = 0 ∧ r.waitLocal = false ∧ r.smask = (s.liveSet o.ls.toNat).sregs ∧
    r.vmask = (s.liveSet o.ls.toNat).vregs ∧ r.mmask = (s.liveSet o.ls.toNat).mregs ∧
    ∀ n : Fin 32, r.smask.getLsbD n → r.regs.xs[n] = s.strand.regs.xs[n]

/-- R336: EXIT. -/
def Obligations.ExitEndsTheStrand : Prop :=
 ∀ s : State, s.acting → tget s.core.slots s.slot = none → ∃ t, exec .exit s = .next t ∧ Vacated s t ∧ t.mem = s.mem ∧
   (t.getCore s.here).loc = s.core.loc ∧
   (1 < s.myStep.strands → ((t.getCore s.here).step s.strand.cell) = { s.myStep with strands := s.myStep.strands - 1 } ∧ t.work = s.work) ∧
   (s.myStep.strands ≤ 1 → ((t.getCore s.here).step s.strand.cell).live = false ∧
    t.work = s.work ++ [todo .launchEnd { Input.none with die := s.myStep.die, n := s.myStep.launch }])

/-- R376, R366, R375, R378: the scalar global stores. The model's choice: that memory holds the bytes in the step's own next state, log 10. -/
def Obligations.GlobalStoreBytes : Prop :=
 (∀ (s s' : State) (rs2 rs1 : BitVec 5) (imm : BitVec 12), ∀ p ∈ ([(.stgB, 1), (.stgH, 2), (.stgW, 4), (.stgD, 8)] :
    List ((BitVec 5 → BitVec 5 → BitVec 12 → Instr) × Nat)),
   let a := (s.x rs1 + BitVec.ofInt 64 imm.toInt).toNat
   s.acting → s.heldHere = false →
    (∀ pa u pg, s.find s.here .store a p.2 = (s', .ok [.here pa p.2 0 u pg]) → inMemory pa p.2 → s.portDown pa = false →
     (∀ g ∈ sectorsOf pa p.2, g ∉ s.poison) → ∃ t, exec (p.1 rs2 rs1 imm) s = .next t ∧
      (∀ x, mget t.mem x = if pa ≤ x ∧ x < pa + p.2 then BitVec.ofNat 8 ((s.x rs2).toNat / 256 ^ (x - pa)) else mget s.mem x) ∧
      t.strand.pc = s.strand.pc + 4 ∧ t.core.tlb = s'.core.tlb ∧
      { t with
        mem := s.mem
        poison := s.poison
        soft := s.soft
        hbmce := s.hbmce
        hbmue := s.hbmue
        dieSleep := s.dieSleep
        fronts := s.fronts
        reservations := s.reservations
        core := { t.core with tlb := s.core.tlb }
        strand := { t.strand with pc := s.strand.pc, waits := s.strand.waits } } = s) ∧
    ∀ cause va, s.find s.here .store a p.2 = (s', .prot cause va) → exec (p.1 rs2 rs1 imm) s = .next (s'.trapScalar cause a)) ∧
 ∀ w : BitVec 32, w.extractLsb' 0 7 = 0x27 →
  (∀ p ∈ ([(.stgB, 0), (.stgH, 1), (.stgW, 2), (.stgD, 3)] : List ((BitVec 5 → BitVec 5 → BitVec 12 → Instr) × Nat)),
   (f3F w).toNat = p.2 → decode w = .ok (p.1 (rs2F w) (rs1F w) (immS w))) ∧
  (4 ≤ (f3F w).toNat → (∃ e, decode w = .error e) ∧
   ∀ s : State, s.strand.cv.live = false → exec (.illegalInstruction w) s = .next (s.trapScalar 0x01 0))

/-- R372, R133, R139. The model's choices: log 18, 29. -/
def Obligations.ScalarGlobalLoadsLeave : Prop :=
 ∀ (s s' : State) (o : LOp), ∀ p ∈ ([(.ldgLB, 1, true), (.ldgLH, 2, true), (.ldgLW, 4, true), (.ldgLD, 8, true), (.ldgLBu, 1, false),
    (.ldgLHu, 2, false), (.ldgLWu, 4, false)] : List ((LOp → Instr) × Nat × Bool)),
   let a := (s.x o.rs1 + s.x o.rs2).toNat
   ∀ q : Piece, q.size = p.2.1 → a % 0x10000 + p.2.1 ≤ 0x10000 → o.hint ≠ 3 → s.heldHere = false → s.acting →
    FreshDeposit s.core → tget s.core.slots s.slot = none → s.find s.here .load a p.2.1 = (s', .ok [q]) →
    FitsMooring s (s.leaveRecord o.ls.toNat (some o.rd) [] 0 (s.strand.pc + 4)) → ∃ t r, exec (p.1 o) s = .next t ∧ Vacated s t ∧ t.mem = s.mem ∧
     (t.getCore s.here).loc = s.core.loc ∧ r ∈ (t.getCore s.here).records ∧ r.dseq = s.core.dseq ∧ r.kind = .leave ∧
     r.ready = false ∧ r.dpend ∧ r.waitLocal = false ∧ r.waitAddr = a ∧ r.pc = s.strand.pc + 4 ∧ r.cell = s.strand.cell ∧
     (o.rd ≠ 0 → r.smask.getLsbD o.rd.toNat) ∧ r.vmask = (s.liveSet o.ls.toNat).vregs ∧ r.mmask = (s.liveSet o.ls.toNat).mregs ∧
     (∀ n : Fin 32, n.val ≠ o.rd.toNat → r.smask.getLsbD n = (s.liveSet o.ls.toNat).sregs.getLsbD n) ∧
     (∀ n : Fin 32, n.val ≠ o.rd.toNat → r.smask.getLsbD n → r.regs.xs[n] = s.strand.regs.xs[n]) ∧
     (∃ j e, r.on = .load j ∧ j.elems = [e] ∧ j.scalar = some (o.rd, p.2.2) ∧ e.addr = a ∧ e.size = p.2.1 ∧
      t.work.getLast? = some (todo .globalReadPerform { Input.none with
      core := s.here, slot := s.core.ctx.getD 64, n := s.core.dseq, queue := e.key }))

/-- R382, R383. The model's choices: log 10, 30. -/
def Obligations.FencesAndAcquires : Prop :=
 (∀ (s : State) (kind : BitVec 2) (scope : BitVec 3), (s.heldHere = false → s.outstanding s.here s.strand.cell = false →
   (kind ≠ 0 → scope.toNat ≤ 5 → ∃ t, exec (.fence kind scope) s = .next t ∧ ScalarEffect s t 0 0 (s.strand.pc + 4)) ∧
   (∃ t, exec .fenceSv s = .next t ∧ ScalarEffect s t 0 0 (s.strand.pc + 4)) ∧
   ∃ t, exec .fenceVs s = .next t ∧ ScalarEffect s t 0 0 (s.strand.pc + 4)) ∧
  (kind = 0 ∨ 5 < scope.toNat → exec (.fence kind scope) s = .next (s.trapScalar 0x01 0))) ∧
  (∀ (s s' : State) (rd rs1 : BitVec 5) (wid : BitVec 2) (scope : BitVec 3),
   let a := (s.x rs1).toNat
   let n := 2 ^ wid.toNat
   s.heldHere = false → scope.toNat ≤ 5 → (a % n = 0 → LocalWritable s a n → s.core.locBad a n = false → Memory.wf s.core.loc →
     ∃ t, exec (.ldAcq rd rs1 wid true scope) s = .next t ∧
     ScalarEffect s t rd (BitVec.ofInt 64 (toSigned (8 * n) (bytesValue s.core.loc a n))) (s.strand.pc + 4)) ∧
    (∀ pa u pg, a % n = 0 → s.find s.here .load a n = (s', .ok [.here pa n 0 u pg]) → s.bad pa n = false → Memory.wf s.mem → s.acting →
     ∃ t, exec (.ldAcq rd rs1 wid false scope) s = .next t ∧
     ScalarEffect (s'.countRead pa n) t rd (BitVec.ofInt 64 (toSigned (8 * n) (bytesValue s.mem pa n))) (s.strand.pc + 4)) ∧
    (a % n ≠ 0 → ∀ b, exec (.ldAcq rd rs1 wid b scope) s = .next (s.trapScalar 0x11 a))) ∧
  ∀ (s s' : State) (rs2 rs1 : BitVec 5) (wid : BitVec 2) (scope : BitVec 3),
   let a := (s.x rs1).toNat
   let n := 2 ^ wid.toNat
   let h (b : Bool) : HeldRel :=
    { seqB := slotIsB s.slot, cell := s.strand.cell, pc := s.strand.pc, loc := b, addr := a, size := n,
      value := (s.x rs2).toNat % 2 ^ (8 * n) }
   let held (u : State) (b : Bool) : State :=
    { u with
      core := { u.core with heldRels := u.core.heldRels ++ [h b] }
      strand := { u.strand with pc := u.strand.pc + 4, waits := none }
      work := u.work ++ [todo .heldReleaseWrite { Input.none with core := u.here }] }
   (s.core.heldRels.filter (fun q => q.seqB == slotIsB s.slot)).length < 8 → scope.toNat ≤ 5 → s.acting →
    (a % n = 0 → LocalWritable s a n → exec (.stRel rs2 rs1 wid true scope) s = .next (held s true)) ∧
    (∀ pa u pg, a % n = 0 → s.find s.here .store a n = (s', .ok [.here pa n 0 u pg]) →
     exec (.stRel rs2 rs1 wid false scope) s = .next (held s' false)) ∧
    (a % n ≠ 0 → ∀ b, exec (.stRel rs2 rs1 wid b scope) s = .next (s.trapScalar 0x11 a))

/-- R15, R148, R264, R385, R386: a future at its home. The model's choice, how the list of waiters is walked: log 31. -/
def Obligations.FuturesResolveOnce : Prop :=
 (∀ (s : State) (r : Record),
  let i := s.inp
  let w := s.peek i.addr 8
  Memory.wf s.mem → s.bad i.addr 16 = false → (s.getCore i.core).ctx = some i.slot → (s.getCore i.core).record i.n = some r →
   (futSt w < 2 → r.spilled = false → ∃ t, exec .futureRegistration s = .next t ∧ t.peek i.addr 8 =
     2 ^ 62 + min (futCount w + 1) 0x3FFF * 2 ^ 48 + r.ref s.fabric.node i.core % 2 ^ 48 ∧
     (∀ x, x < i.addr ∨ i.addr + 8 ≤ x → mget t.mem x = mget s.mem x) ∧ ((t.getCore i.core).record i.n).map (·.next) = some (futHead w) ∧
     t.agenda = todo .registrationAnswer { i with ok := true } :: s.agenda) ∧
   (futSt w = 2 → exec .futureRegistration s = .next { s.countRead i.addr 16 with agenda :=
    (todo .registrationAnswer { i with ok := false, queue := 0, data := w64 (s.peek (i.addr + 8) 8) }) :: s.agenda }) ∧
   (futSt w = 3 → exec .futureRegistration s = .next { s.countRead i.addr 16 with agenda :=
    (todo .registrationAnswer { i with ok := false, queue := 0x11 }) :: s.agenda })) ∧
  (∀ s : State,
   let i := s.inp
   let w := s.peek i.addr 8
   let ws := s.waiters i.addr s.waiterBound (futHead w)
   Memory.wf s.mem → i.addr < 2 ^ 60 →
    (s.bad i.addr 16 → exec .futureResolution s = .next ((s.countRead i.addr 16).notice i.core i.slot 0x40 (w64 i.n) 0 0)) ∧
    (s.bad i.addr 16 = false → futSt w < 2 → i.ok → ∃ t, exec .futureResolution s = .next t ∧ t.peek i.addr 8 = 2 ^ 63 ∧
     t.peek (i.addr + 8) 8 = i.data.toNat ∧ (∀ x, x < i.addr ∨ i.addr + 16 ≤ x → mget t.mem x = mget s.mem x) ∧
     (ws.all (fun p => p.2.isSome) → t.work = s.work ++ ws.filterMap (fun p => p.2.map (fun q =>
     todo .waiterReady { Input.none with core := q.2.1, slot := q.1, n := q.2.2.dseq, data := i.data, ok := true })))) ∧
    (s.bad i.addr 16 = false → 2 ≤ futSt w →
     exec .futureResolution s = .next ((s.countRead i.addr 16).notice i.core i.slot 0x30 (w64 i.n) 0 i.addr))) ∧
  ∀ (s s' : State) (rs1 rs2 : BitVec 5) (pa u pg : Nat),
   let a := (s.x rs1).toNat
   let w := s.peek pa 8
   let ws := s'.waiters pa s'.waiterBound (futHead w)
   Memory.wf s.mem → s.acting → s.heldHere = false → s.storesOut = false → a % 16 = 0 → s.find s.here .object a 16 = (s', .ok [.here pa 16 0 u pg]) →
   pa < 2 ^ 60 → s.bad pa 16 = false →
    (futSt w < 2 → ∃ t, exec (.fres rs1 rs2) s = .next t ∧ t.peek pa 8 = 2 ^ 63 ∧ t.peek (pa + 8) 8 = (s.x rs2).toNat ∧
     (∀ x, x < pa ∨ pa + 16 ≤ x → mget t.mem x = mget s.mem x) ∧ t.strand = { s.strand with pc := s.strand.pc + 4, waits := none } ∧
     t.core = s'.core ∧ (ws.all (fun p => p.2.isSome) → t.work = s.work ++ ws.filterMap (fun p => p.2.map (fun q =>
     todo .waiterReady { Input.none with core := q.2.1, slot := q.1, n := q.2.2.dseq, data := s.x rs2, ok := true })))) ∧
    (2 ≤ futSt w → exec (.fres rs1 rs2) s = .next ((s'.countRead pa 16).trapFuture 0x30 0 pa))

/-- R387-R389: the words on a barrier of local memory. -/
def Obligations.BarriersCompleteOnce : Prop :=
 ∀ (s : State) (rs1 rs2 : BitVec 5) (o : LOp) (b : Nat),
  let f (m : Mem) (off n : Nat) : Nat := bytesValue m (b + off) n
  let m := s.core.loc
  let sb := (s.x rs2).toNat
  let only (t : State) : Prop :=
   (∀ x, x < b ∨ b + 32 ≤ x → mget t.core.loc x = mget m x) ∧ t.strand.pc = s.strand.pc + 4 ∧
    { t with
      core := { t.core with loc := m, locPoison := s.core.locPoison, records := s.core.records, order := s.core.order }
      strand := { t.strand with pc := s.strand.pc, waits := s.strand.waits } } = s
  let becomes (t : State) (arrive pend : Nat) : Prop :=
   only t ∧ f t.core.loc 0 4 = f m 0 4 ∧ f t.core.loc 4 4 = arrive ∧ f t.core.loc 8 7 = pend ∧ f t.core.loc 16 8 = f m 16 8 ∧ f t.core.loc 24 8 =
     (if f m 24 8 < 2 ^ 63 ∧ arrive = f m 0 4 ∧ pend = 0 then (if f m 16 8 = 0 then 2 ^ 63 else 3 * 2 ^ 62) else f m 24 8)
  Memory.wf m → s.heldHere = false → b % 32 = 0 → LocalWritable s b 32 → s.core.locBad b 32 = false → ((s.x rs1).toNat = b →
    (f m 24 8 / 2 ^ 62 ≠ 1 → ∃ t, exec (.barinit rs1 rs2) s = .next t ∧ only t ∧ f t.core.loc 0 4 = sb % 2 ^ 32 ∧
     f t.core.loc 4 20 = 0 ∧ f t.core.loc 24 8 = (if sb % 2 ^ 32 = 0 then 2 ^ 63 else 0)) ∧
    (f m 24 8 / 2 ^ 62 = 1 → exec (.barinit rs1 rs2) s = .next (s.trapScalar 0x11 b)) ∧
    (∃ t, exec (.barexp rs1 rs2) s = .next t ∧ becomes t (f m 4 4) ((f m 8 7 + sb) % 2 ^ 56)) ∧
    (s.storesOut = false → ∃ t, exec (.bararr rs1 rs2) s = .next t ∧
     becomes t ((f m 4 4 + sb / 2 ^ 63) % 2 ^ 32) ((f m 8 7 + (2 ^ 56 - sb % 2 ^ 56)) % 2 ^ 56))) ∧
   ((s.x o.rs1).toNat = b → o.hint ≠ 3 → (2 ^ 63 ≤ f m 24 8 → ∃ t, exec (.barwL o) s = .next t ∧
     ScalarEffect s t o.rd (w64 (f m 24 8 / 2 ^ 62)) (s.strand.pc + 4)) ∧
    (f m 24 8 < 2 ^ 63 → s.acting → FreshDeposit s.core → tget s.core.slots s.slot = none →
     FitsMooring s (s.leaveRecord o.ls.toNat (some o.rd) [] 0 (s.strand.pc + 4)) → ∃ t r, exec (.barwL o) s = .next t ∧ Vacated s t ∧ t.mem = s.mem ∧
      r ∈ (t.getCore s.here).records ∧ r.dseq = s.core.dseq ∧ r.ready = false ∧ r.on = .barrier b o.rd ∧ r.waitLocal ∧
      r.waitAddr = b ∧ r.pc = s.strand.pc + 4 ∧ r.next = futHead (f m 24 8) ∧ f (t.getCore s.here).loc 24 8 =
      2 ^ 62 + min (futCount (f m 24 8) + 1) 0x3FFF * 2 ^ 48 + r.ref s.fabric.node s.here % 2 ^ 48 ∧
      ∀ x, x < b + 24 ∨ b + 32 ≤ x → mget (t.getCore s.here).loc x = mget m x))

/-- R380. The model's choices: log 10, 12. -/
def Obligations.AtomicResults : Prop :=
 ∀ (s s' : State) (o : AOp) (pa u pg : Nat), ∀ p ∈ ([(.amoAddB, 1, false, fun old x _ => old + x), (.amoAddH, 2, false, fun old x _ => old + x),
    (.amoAddW, 4, false, fun old x _ => old + x), (.amoAddD, 8, false, fun old x _ => old + x),
    (.amoSwapB, 1, false, fun _ x _ => x), (.amoSwapH, 2, false, fun _ x _ => x),
    (.amoSwapW, 4, false, fun _ x _ => x), (.amoSwapD, 8, false, fun _ x _ => x), (.amoCasB, 1, false, fun old x e => if old = e then x else old),
    (.amoCasH, 2, false, fun old x e => if old = e then x else old), (.amoCasW, 4, false, fun old x e => if old = e then x else old),
    (.amoCasD, 8, false, fun old x e => if old = e then x else old),
    (.amoAndW, 4, false, fun old x _ => old &&& x), (.amoAndD, 8, false, fun old x _ => old &&& x),
    (.amoOrW, 4, false, fun old x _ => old ||| x), (.amoOrD, 8, false, fun old x _ => old ||| x),
    (.amoXorW, 4, false, fun old x _ => old ^^^ x), (.amoXorD, 8, false, fun old x _ => old ^^^ x),
    (.amoMinW, 4, false, fun old x _ => if toSigned 32 x < toSigned 32 old then x else old),
    (.amoMinD, 8, false, fun old x _ => if toSigned 64 x < toSigned 64 old then x else old),
    (.amoMaxW, 4, false, fun old x _ => if toSigned 32 old < toSigned 32 x then x else old),
    (.amoMaxD, 8, false, fun old x _ => if toSigned 64 old < toSigned 64 x then x else old),
    (.amoAddBf16, 2, true, fun old x _ => addNE (fmt! 0x0B) old x), (.amoAddF32, 4, true, fun old x _ => addNE (fmt! 0x0C) old x),
    (.amoAddF64, 8, true, fun old x _ => addNE (fmt! 0x0D) old x),
    (.amoAmaxBf16, 2, true, fun old x _ => amaxBits (fmt! 0x0B) old x), (.amoAmaxF16, 2, true, fun old x _ => amaxBits (fmt! 0x0A) old x),
    (.amoAmaxF32, 4, true, fun old x _ => amaxBits (fmt! 0x0C) old x), (.amoAmaxF64, 8, true, fun old x _ => amaxBits (fmt! 0x0D) old x)] :
    List ((AOp → Instr) × Nat × Bool × (Nat → Nat → Nat → Nat))),
   let n := p.2.1
   let a := (s.x o.rs1).toNat
   let old := bytesValue s.mem pa n
   let new := p.2.2.2 old ((s.x o.rs2).toNat % 2 ^ (8 * n)) ((s.x o.rd).toNat % 2 ^ (8 * n))
   (if o.ord = 0 then o.scope = 0 else o.scope.toNat ≤ 5) → s.heldHere = false → s.outstanding s.here s.strand.cell = false →
    (a % n = 0 → s.acting → s.find s.here .atomic a n = (s', .ok [.here pa n 0 u pg]) → s.bad pa n = false → Memory.wf s.mem →
     ∃ t, exec (p.1 o) s = .next t ∧ t.x o.rd = (if o.rd = 0 then 0 else if p.2.2.1 then w64 old else BitVec.ofInt 64 (toSigned (8 * n) old)) ∧
     (∀ q, q ≠ o.rd → t.x q = s.x q) ∧ t.strand.pc = s.strand.pc + 4 ∧
     (∀ x, mget t.mem x = if pa ≤ x ∧ x < pa + n then BitVec.ofNat 8 (new / 256 ^ (x - pa)) else mget s.mem x) ∧ t.core.tlb = s'.core.tlb ∧
     { t with
       mem := s.mem
       poison := s.poison
       soft := s.soft
       hbmce := s.hbmce
       hbmue := s.hbmue
       dieSleep := s.dieSleep
       fronts := s.fronts
       reservations := s.reservations
       core := { t.core with tlb := s.core.tlb }
       strand := { t.strand with
        pc := s.strand.pc
        waits := s.strand.waits
        bad := s.strand.bad
        regs := { t.strand.regs with xs := s.strand.regs.xs } } } = s) ∧
    (a % n ≠ 0 → exec (p.1 o) s = .next (s.trapScalar 0x11 a))

/-- R393, R394. The model's choices: log 12. -/
def Obligations.AppendAndSeal : Prop :=
 ∀ (s s' : State) (o : AOp) (pa cls unit pg : Nat),
  let a := (s.x o.rs1).toNat
  let b := (s.x o.rs2).toNat
  let base := pa / unit * unit
  let u := s.unit base unit
  let kept (f : Nat) : AppUnit :=
   { u with st := .closing, sealAt := u.tail, futs := u.futs ++ [(f, s.here, s.strand.cell, s.strand.pc)] }
  let full : Bool := (List.range (u.tail / 16)).all (fun i => u.written.contains i)
  s.heldHere = false → s.outstanding s.here s.strand.cell = false → s.acting →
  (s.find s.here .append a 1 = (s', .ok [.here pa 1 cls unit pg]) → s.portDown pa = false →
   (b = 0 ∨ unit < b → ∃ t, exec (.append o) s = .next t ∧ ScalarEffect (s'.wakeHome base) t o.rd 0xFFFFFFFFFFFFFFFD (s.strand.pc + 4)) ∧
   (b ≠ 0 → b ≤ unit → u.st ≠ .opened →
    ∃ t, exec (.append o) s = .next t ∧ ScalarEffect (s'.wakeHome base) t o.rd 0xFFFFFFFFFFFFFFFF (s.strand.pc + 4)) ∧
   (b ≠ 0 → b ≤ unit → u.st = .opened → unit < u.tail + (b + 15) / 16 * 16 →
    ∃ t, exec (.append o) s = .next t ∧ ScalarEffect (s'.wakeHome base) t o.rd 0xFFFFFFFFFFFFFFFE (s.strand.pc + 4)) ∧
   (b ≠ 0 → b ≤ unit → u.st = .opened → u.tail + (b + 15) / 16 * 16 ≤ unit → ∃ t, exec (.append o) s = .next t ∧
     ScalarEffect { s'.wakeHome base with units := tset s.units base { u with tail := u.tail + (b + 15) / 16 * 16 } } t o.rd
     (w64 u.tail) (s.strand.pc + 4)) ∧
   (b = 0 → u.st = .opened → u.futs = [] → ∃ t, exec (.seal o) s = .next t ∧
    t.x o.rd = (if o.rd = 0 then 0 else w64 u.tail) ∧ (∀ q, q ≠ o.rd → t.x q = s.x q) ∧ t.strand.pc = s.strand.pc + 4 ∧ t.mem = s.mem ∧
    tget t.units base = some { u with st := if full then .sealed else .closing, sealAt := u.tail } ∧
    ∀ k, k ≠ base → tget t.units k = tget s.units k) ∧
   (b = 0 → u.st = .closing → full = false → u.sealAt = u.tail → ∃ t, exec (.seal o) s = .next t ∧
    ScalarEffect { s'.wakeHome base with units := tset s.units base u } t o.rd (w64 u.sealAt) (s.strand.pc + 4)) ∧
   (b = 0 → u.st = .sealed → ∃ t, exec (.seal o) s = .next t ∧
    ScalarEffect { s'.wakeHome base with units := tset s.units base u } t o.rd (w64 u.sealAt) (s.strand.pc + 4)) ∧
   (∀ (fpa fu fpg : Nat), b ≠ 0 → b % 16 = 0 → fpa < 2 ^ 60 → s.find s.here .object b 16 = (s', .ok [.here fpa 16 0 fu fpg]) →
    s'.find s.here .append a 1 = (s', .ok [.here pa 1 cls unit pg]) → (u.st = .opened → full = false → u.futs.length < 16 →
    ∃ t, exec (.seal o) s = .next t ∧
     ScalarEffect { s'.wakeHome base with units := tset s.units base (kept fpa) } t o.rd (w64 u.tail) (s.strand.pc + 4)) ∧
    (u.st = .sealed → Memory.wf s.mem → s.bad fpa 16 = false → futSt (s.peek fpa 8) < 2 → ∃ t, exec (.seal o) s = .next t ∧
     t.x o.rd = (if o.rd = 0 then 0 else w64 u.sealAt) ∧ (∀ q, q ≠ o.rd → t.x q = s.x q) ∧ t.strand.pc = s.strand.pc + 4 ∧
     t.peek fpa 8 = 2 ^ 63 ∧ t.peek (fpa + 8) 8 = u.sealAt % 2 ^ 64 ∧ ∀ x, x < fpa ∨ fpa + 16 ≤ x → mget t.mem x = mget s.mem x))) ∧
   ∀ (v : State) (node va : Nat), s.find s.here .append a 1 = (v, .ok [.peer node va 1]) → s.fabric.unacked node < 4096 →
    tget s.core.answers (answerKey s.slot) = none →
    let sent (i : Instr) (op : Nat) (data : List Byte) : Prop := ∃ t p, exec i s = .next t ∧ t.fabric.sent = s.fabric.sent ++ [p] ∧
     p.dst = node ∧ p.op = op ∧ p.addr = va ∧ p.asid = s.core.asid.toNat ∧ p.data = data ∧ t.mem = s.mem ∧ t.units = s.units ∧
     t.core = v.core ∧ t.strand = { s.strand with wait := .packet node p.sseq, waits := some (s.time.toNat, false) }
    sent (.append o) 0x03 (bytesOf 8 b) ∧ (b = 0 → s.peerWrites s.here s.strand.cell node va 8 = false → sent (.seal o) 0x02
     (bytesOf 8 0x1E ++ bytesOf 8 0 ++ bytesOf 8 s.fabric.node ++ bytesOf 8 (s.here + 512 * s.strand.cell) ++ bytesOf 8 s.strand.pc.toNat))

/-- R390, R391. The model's choices: log 12, 33, 34, 51. -/
def Obligations.SignalsAndSends : Prop :=
 ∀ (s : State) (rd rs1 rs2 : BitVec 5) (len : BitVec 6) (c l : Nat),
  let k := s.getCore c
  let w := (s.x rs1).toNat
  let sb := s.x rs2
  let n := 16 * (len.toNat + 1)
  s.heldHere = false → s.storesOut = false → s.acting →
   (w < 2 ^ 44 → w / 2 ^ 31 = s.fabric.node → w / 2 ^ 22 % 2 ^ 9 = c → k.cstate = .inReset → s.dieSleep.contains (dieOf c) = false →
    ∃ t, exec (.signal rd rs1 rs2) s = .next t ∧ ScalarEffect s t rd 0x42 (s.strand.pc + 4)) ∧
   (w < 2 ^ 44 → w / 2 ^ 31 = s.fabric.node → w / 2 ^ 22 % 2 ^ 9 = c → w % 2 ^ 22 = l → s.core.asid ≠ 0 → k.asid = s.core.asid →
    k.ctx.isSome → s.asleep c = false → (k.cstate ≠ .inReset → Memory.wf k.loc → k.barOk l →
     ∃ t, exec (.signal rd rs1 rs2) s = .next t ∧ t.x rd = 0 ∧ (∀ q, q ≠ rd → t.x q = s.x q) ∧ t.strand.pc = s.strand.pc + 4 ∧
     t.mem = s.mem ∧ bytesValue (t.getCore c).loc (l + 4) 4 = (bytesValue k.loc (l + 4) 4 + sb.toNat / 2 ^ 63) % 2 ^ 32 ∧
     bytesValue (t.getCore c).loc (l + 8) 7 = (bytesValue k.loc (l + 8) 7 + (2 ^ 56 - sb.toNat % 2 ^ 56)) % 2 ^ 56 ∧
     ∀ x, x < l ∨ l + 32 ≤ x → mget (t.getCore c).loc x = mget k.loc x) ∧
    (sb.toNat % 16 = 0 → LocalReadable s sb.toNat n → s.core.locBad sb.toNat n = false → Memory.wf s.core.loc → Memory.wf k.loc →
     ∀ h, k.qhdr l = some h → (h.used < h.nent → n ≤ h.esize → h.wait % 2 ^ 48 = 0 →
      ∃ t, exec (.msend rd rs1 rs2 len) s = .next t ∧ t.x rd = (if rd = 0 then 0 else w64 (h.nent - (h.used + 1))) ∧
      (∀ q, q ≠ rd → t.x q = s.x q) ∧ t.strand.pc = s.strand.pc + 4 ∧ bytesValue (t.getCore c).loc (l + 12) 4 = (h.tail + 1) % 2 ^ 32 ∧
      (∀ i, i < h.esize → mget (t.getCore c).loc (h.base + h.tail % h.nent * h.esize + i) =
       if i < n then mget s.core.loc (sb.toNat + i) else 0) ∧
      ∀ x, (x < l + 12 ∨ l + 16 ≤ x) → (x < h.base + h.tail % h.nent * h.esize ∨ h.base + h.tail % h.nent * h.esize + h.esize ≤ x) →
       mget (t.getCore c).loc x = mget k.loc x) ∧
     (h.nent ≤ h.used ∨ h.esize < n → exec (.msend rd rs1 rs2 len) s =
      .next ((s.notice s.here s.strand.cell 0x32 s.strand.pc 0 0).result rd (BitVec.allOnes 64))))) ∧
   (2 ^ 44 ≤ w → ∃ t, exec (.signal rd rs1 rs2) s = .next t ∧ ScalarEffect s t rd 0x11 (s.strand.pc + 4)) ∧
   (sb.toNat % 16 ≠ 0 ∨ ¬ LocalReadable s sb.toNat n → exec (.msend rd rs1 rs2 len) s = .next (s.trapScalar 0x14 sb.toNat)) ∧
   (w < 2 ^ 44 → w / 2 ^ 31 ≠ s.fabric.node → s.fabric.unacked (w / 2 ^ 31) < 4096 → tget s.core.answers (answerKey s.slot) = none →
    let sent (i : Instr) (op addr : Nat) (data : List Byte) : Prop := ∃ t p, exec i s = .next t ∧ t.fabric.sent = s.fabric.sent ++ [p] ∧
     p.dst = w / 2 ^ 31 ∧ p.op = op ∧ p.addr = addr ∧ p.asid = s.core.asid.toNat ∧ p.data = data ∧ t.mem = s.mem ∧ t.core = s.core ∧
     t.strand = { s.strand with wait := .packet p.dst p.sseq, waits := some (s.time.toNat, false) }
    sent (.signal rd rs1 rs2) 0x05 (w % 2 ^ 22) (bytesOf 8 (w / 2 ^ 22 % 2 ^ 9) ++ bytesOf 8 sb.toNat ++ bytesOf 8 0) ∧
    (sb.toNat % 16 = 0 → LocalReadable s sb.toNat n → s.core.locBad sb.toNat n = false →
     sent (.msend rd rs1 rs2 len) 0x04 (w % 2 ^ 31) (mbytes s.core.loc sb.toNat n)))

/-- R391, R392, R395, R379. The model's choices: log 12, 17, 51. -/
def Obligations.MulticastReceiveAndPush : Prop :=
 ((∀ (s : State) (rs1 rs2 : BitVec 5) (len : BitVec 6),
   let w := (s.x rs1).toNat
   let b := (s.x rs2).toNat
   let n := 16 * (len.toNat + 1)
   let ms := (tget s.fabric.groups (w / 2 ^ 31)).getD []
   s.heldHere = false → s.storesOut = false → b % 16 = 0 → LocalReadable s b n → s.core.locBad b n = false → Memory.wf s.core.loc →
   w < 2 ^ 39 → (∀ m ∈ ms, s.fabric.reaches m) → (ms ≠ [] → ms.contains s.fabric.node = false → ∃ t p, exec (.msendMc rs1 rs2 len) s = .next t ∧
     t.fabric.sent = s.fabric.sent ++ [p] ∧ p.dst = w / 2 ^ 31 ∧ p.op = 0x06 ∧ p.mc ∧ p.addr = w % 2 ^ 31 ∧
     p.data = (List.range n).map (fun i => mget s.core.loc (b + i)) ∧ t.strand = { s.strand with pc := s.strand.pc + 4, waits := none } ∧
     t.core = s.core ∧ t.mem = s.mem) ∧
    (ms = [] → exec (.msendMc rs1 rs2 len) s = .next s.next)) ∧
   ∀ (s : State) (o : LOp) (h : QHdr),
    let a := (s.x o.rs1).toNat
    let d := (s.x o.rs2).toNat
    let e := h.base + h.head % h.nent * h.esize
    let m := s.core.loc
    o.hint ≠ 3 → s.heldHere = false → LocalWritable s a 64 → (s.core.qhdr a = none → exec (.mrecvL o) s = .next (s.trapScalar 0x11 a)) ∧
     (s.core.qhdr a = some h → (d % 16 ≠ 0 ∨ ¬ LocalWritable s d h.esize → exec (.mrecvL o) s = .next (s.trapScalar 0x14 d)) ∧
     (d % 16 = 0 → LocalWritable s d h.esize → s.core.locBad a 64 = false → Memory.wf m →
      (h.used ≠ 0 → s.core.locBad e h.esize = false → (d + h.esize ≤ a + 8 ∨ a + 12 ≤ d) →
      ∃ t, exec (.mrecvL o) s = .next t ∧ t.x o.rd = (if o.rd = 0 then 0 else w64 h.head) ∧
       (∀ q, q ≠ o.rd → t.x q = s.x q) ∧ t.strand.pc = s.strand.pc + 4 ∧ t.core.full = s.core.full ∧ t.mem = s.mem ∧
       bytesValue t.core.loc (a + 8) 4 = (h.head + 1) % 2 ^ 32 ∧ (∀ i, i < h.esize → mget t.core.loc (d + i) = mget m (e + i)) ∧
       ∀ x, (x < a + 8 ∨ a + 12 ≤ x) → (x < d ∨ d + h.esize ≤ x) → mget t.core.loc x = mget m x) ∧
      (h.used = 0 → s.acting → FreshDeposit s.core → tget s.core.slots s.slot = none →
      FitsMooring s (s.leaveRecord o.ls.toNat (some o.rd) [] 0 (s.strand.pc + 4)) →
       ∃ t r, exec (.mrecvL o) s = .next t ∧ Vacated s t ∧ t.mem = s.mem ∧
       r ∈ (t.getCore s.here).records ∧ r.dseq = s.core.dseq ∧ r.ready = false ∧ r.on = .msg a d o.rd ∧ r.waitLocal ∧
       r.waitAddr = a ∧ r.pc = s.strand.pc + 4 ∧ r.next = h.wait % 2 ^ 48 ∧
       ∀ x, x < a + 16 ∨ a + 24 ≤ x → mget (t.getCore s.here).loc x = mget m x)))) ∧
 ((∀ (s : State) (o : LOp) (l : Launch),
   let a := (s.x o.rs1).toNat
   let st := s.myStep
   let n := st.stage + 1
   o.hint ≠ 3 → s.heldHere = false → s.storesOut = false → a % 16 = 0 → LocalReadable s a 48 → s.launchOf st = some l →
    (l.stages.length ≤ n → exec (.qpushL o) s = .next (s.trapScalar 0x11 a)) ∧
    (n < l.stages.length → n < l.queues.length → s.core.locBad a 48 = false → l.full n = false →
     ∃ t l' e, exec (.qpushL o) s = .next t ∧ t.strand = { s.strand with pc := s.strand.pc + 4, waits := none } ∧ t.core = s.core ∧
     t.launchOf st = some l' ∧ (l'.queue n).entries = (l.queue n).entries ++ [e] ∧ e.lcore = st.lcore ∧
     tget (l'.queue n).stepno st.lcore = some ((tget (l.queue n).stepno st.lcore).getD 0 + 1) ∧ ∀ m, m ≠ n → l'.queue m = l.queue m) ∧
    (n < l.stages.length → n < l.queues.length → s.core.locBad a 48 = false → l.full n → s.acting → FreshDeposit s.core →
     tget s.core.slots s.slot = none → FitsMooring s (s.leaveRecord o.ls.toNat none [] 0 (s.strand.pc + 4)) →
     ∃ t l' r, exec (.qpushL o) s = .next t ∧ Vacated s t ∧
      r ∈ (t.getCore s.here).records ∧ r.dseq = s.core.dseq ∧ r.ready = false ∧ r.on = .push a ∧ r.pc = s.strand.pc + 4 ∧
      t.launchOf st = some l' ∧ (l'.queue n).waits = (l.queue n).waits ++ [{ core := s.here, dseq := s.core.dseq }])) ∧
   ∀ (s : State) (sl : Nat),
    let i := s.inp
    (s.getCore i.core).ctx = some i.slot → (s.park.getCore i.core).waitingSlot (.packet i.queue i.n) = some sl → i.ok → i.bytes = [] →
     ∃ t st, exec .answerArrival s = .next t ∧ t.acting = false ∧ tget (t.getCore i.core).slots sl = some st ∧ st.wait = .none ∧
     tget (t.getCore i.core).answers (answerKey sl) = some (.value i.data) ∧ t.mem = s.mem)

/-- R347, R348: the configuration words. -/
def Obligations.VectorLengthIsSet : Prop :=
 ∀ (s : State) (o : VOp),
  let bound (t : BitVec 64) : Nat := s.core.vlenb * 8 / max (widthOf (t.toNat % 32)) (widthOf (t.toNat / 256 % 32))
  let vlOf (t : BitVec 64) (avl : Word) : Nat := if t.getLsbD 63 then 0 else min avl.toNat (bound t)
  let out (t : BitVec 64) (vl : Nat) (r : State) : Prop :=
   ScalarEffect { s with strand := { s.strand with regs := { s.strand.regs with vl := vl, vtype := t } } } r o.vd (w64 vl)
    (s.strand.pc + 4)
  let a := s.x o.vs1
  let b := s.x o.vs2
  (o.hint ≠ 3 → (∃ r : State, exec (.vsetvl o) s = .next r ∧ out s.strand.regs.vtype (vlOf s.strand.regs.vtype a) r) ∧
   (a &&& ~~~0x731F1F#64 = 0 → codeOk (a.toNat % 32) → codeOk (a.toNat / 256 % 32) → a.toNat / 2 ^ 16 % 4 ≠ 3 →
    ∃ r : State, exec (.vsettype o) s = .next r ∧ out a (vlOf a b) r) ∧
   (a &&& ~~~0x731F1F#64 ≠ 0 ∨ codeOk (a.toNat % 32) = false ∨ codeOk (a.toNat / 256 % 32) = false ∨ a.toNat / 2 ^ 16 % 4 = 3 →
    ∃ r : State, exec (.vsettype o) s = .next r ∧ out 0x8000000000000000 0 r)) ∧
  (o.hint = 3 → exec (.vsetvl o) s = .next (s.trapScalar 0x02 0) ∧ exec (.vsettype o) s = .next (s.trapScalar 0x02 0))

/-- R349. The model's choices: log 22. -/
def Obligations.VectorIntegerResults : Prop :=
 ∀ (s : State) (o : VOp),
  let w := widthOf s.sew
  let w2 := widthOf s.sew2
  let act := s.active o.msel
  let src (n : BitVec 5) (k : Nat) : Int := toSigned w2 (elemOf (s.v n.toNat) k w2)
  (∀ p ∈ ([(.vadd, fun _ a b => a + b), (.vsub, fun _ a b => a - b), (.vmul, fun _ a b => a * b),
    (.vmulh, fun n a b => BitVec.ofInt n (a.toInt * b.toInt / 2 ^ n)), (.vmulhu, fun n a b => BitVec.ofNat n (a.toNat * b.toNat / 2 ^ n)),
    (.vand, fun _ a b => a &&& b), (.vor, fun _ a b => a ||| b), (.vxor, fun _ a b => a ^^^ b),
    (.vsll, fun n a b => a <<< (b.toNat % n)), (.vsrl, fun n a b => a >>> (b.toNat % n)), (.vsra, fun n a b => a.sshiftRight (b.toNat % n)),
    (.vmin, fun _ a b => if b.toInt < a.toInt then b else a), (.vmax, fun _ a b => if a.toInt < b.toInt then b else a)] :
    List ((VOp → Instr) × ((n : Nat) → BitVec n → BitVec n → BitVec n))),
   WordRuns s (p.1 o) → ∃ u : State, exec (p.1 o) s = .next u.wordDone ∧ VectorEffect s u o.vd.toNat w (fun k => if k ∈ act then
     some (p.2 w (BitVec.ofInt w (src o.vs1 k)) (BitVec.ofInt w (src o.vs2 k))).toNat else none) [] false) ∧
  (∀ p ∈ ([(.vsadd, fun a b => a + b), (.vssub, fun a b => a - b)] : List ((VOp → Instr) × (Int → Int → Int))),
   let sum (k : Nat) : Int := p.2 (src o.vs1 k) (src o.vs2 k)
   WordRuns s (p.1 o) → ∃ u : State, exec (p.1 o) s = .next u.wordDone ∧ VectorEffect s u o.vd.toNat w (fun k => if k ∈ act then
     some (BitVec.ofInt w (max (-2 ^ (w - 1)) (min (2 ^ (w - 1) - 1) (sum k)))).toNat else none) []
     (act.any (fun k => decide (sum k < -2 ^ (w - 1) ∨ 2 ^ (w - 1) ≤ sum k)))) ∧
  (WordRuns s (.vaddi o) → ∃ u : State, exec (.vaddi o) s = .next u.wordDone ∧ VectorEffect s u o.vd.toNat w (fun k => if k ∈ act then
    some (BitVec.ofNat w (elemOf (s.v o.vs1.toNat) k w) + BitVec.ofInt w o.vs2.toInt).toNat else none) [] false) ∧
  (WordRuns s (.vrand o) → ∀ l, s.launchOf s.myStep = some l → ∃ u : State, exec (.vrand o) s = .next u.wordDone ∧
   VectorEffect s u o.vd.toNat w (fun k => if k ∈ act then
    some (randMix l.seed0 l.seed1 (w64 (elemOf (s.v o.vs1.toNat) k w))).toNat else none) [] false)

/-- R350-R353. The model's choices: log 22, 27. -/
def Obligations.VectorFloatResults : Prop :=
 ∀ (s : State) (o : VOp),
  let w := widthOf s.sew
  let w2 := widthOf s.sew2
  let f := fmt! s.sew
  let f2 := fmt! s.sew2
  let mode := modeOf s.strand.regs.sstat
  let act := s.active o.msel
  let a (k : Nat) : Nat := elemOf (s.v o.vs1.toNat) k w2
  let b (k : Nat) : Nat := elemOf (s.v o.vs2.toNat) k w2
  let d (k : Nat) : Nat := elemOf (s.v o.vd.toNat) k w
  let runs (i : Instr) (is : List Nat) (r : Nat → Nat × List Flag) (sat : Bool) : Prop :=
   WordRuns s i → ∃ u : State, exec i s = .next u.wordDone ∧
    VectorEffect s u o.vd.toNat w (fun k => if k ∈ is then some (r k).1 else none) (is.flatMap (fun k => at_ k (r k).2)) sat
  (∀ p ∈ ([(.vfadd, fun x y _ => addFV mode x y), (.vfsub, fun x y _ => addFV mode x y.negate), (.vfmul, fun x y _ => mulFV x y),
    (.vfma, fun x y z => fmaFV mode x y z), (.vfdiv, fun x y _ => divFV x y), (.vfsqrt, fun x _ _ => sqrtFV x)] :
    List ((VOp → Instr) × (FV → FV → FV → Exact))),
   runs (p.1 o) act (fun k => (p.2 (f2.decode (a k)) (f2.decode (b k)) (f.decode (d k))).into f mode) false) ∧
  (∀ p ∈ ([(.vfmin, false), (.vfmax, true)] : List ((VOp → Instr) × Bool)),
   runs (p.1 o) act (fun k => match pickFV p.2 (f.decode (a k)) (f.decode (b k)) with
    | none => (f.qnan, snanFlag [f.decode (a k), f.decode (b k)])
    | some true => (a k, snanFlag [f.decode (a k), f.decode (b k)])
    | some false => (b k, snanFlag [f.decode (a k), f.decode (b k)])) false) ∧
  runs (.vcvt o) act (fun k => ((convertElem s.sew2 s.sew (o.vs2.getLsbD 0) mode (a k)).1, (convertElem s.sew2 s.sew (o.vs2.getLsbD 0) mode (a k)).2.1))
   (act.any (fun k => (convertElem s.sew2 s.sew (o.vs2.getLsbD 0) mode (a k)).2.2)) ∧
  runs (.vdequant o) (s.active 0) (fun k => floatToFloat f mode false
   (f4Value (elemOf (s.v o.vs2.toNat) (k / vtBlk s.vtype) 8) (elemOf (s.v o.vs1.toNat) k 4))) false

/-- R352. The model's choices: log 24. -/
def Obligations.BlockQuantisation : Prop :=
 (∀ (s : State) (o : VOp),
  let blk := vtBlk s.vtype
  let w2 := widthOf s.sew2
  let one (b : Nat) : Nat × List (Nat × List Flag) :=
   quantOne (o.vs2.toNat % 4) (o.vs2.getLsbD 2)
    ((List.range (min blk (s.vl - b * blk))).map (fun j => (fmt! s.sew2).decode (elemOf (s.v o.vs1.toNat) (b * blk + j) w2)))
  WordRuns s (.vquant o) → s.vl ≤ 8192 → ∃ u : State, exec (.vquant o) s = .next u.wordDone ∧ (∀ k, k < 16384 → elemOf (u.v o.vd.toNat) k 4 =
    if k < s.vl then (((one (k / blk)).2.getD (k % blk) (0, [])).1) % 16 else elemOf (s.v o.vd.toNat) k 4) ∧
   (∀ b, b < 8192 → elemOf (u.v (o.vd.toNat + 1)) b 8 =
    if b * blk < s.vl then (one b).1 % 256 else elemOf (s.v (o.vd.toNat + 1)) b 8) ∧
   (∀ n : Fin 32, n.val ≠ o.vd.toNat → n.val ≠ o.vd.toNat + 1 → u.strand.regs.vs[n] = s.strand.regs.vs[n]) ∧
   u.mem = s.mem ∧ u.core = s.core ∧ u.strand.regs.xs = s.strand.regs.xs) ∧
  ∀ (type s m c : Nat) (neg : Bool) (e : Int), type < 4 → s < 63 → c < 16 → (type ≠ 0 → (c / 8 = 1 ↔ neg)) → -3 ≤ e - (s - 32) →
   let q : Int := signedM neg m * 2 ^ (e - (s - 32) + 3).toNat
   (f4Code type s neg m e).2 = [] ∨ (f4Code type s neg m e).2 = [.nx] →
    (f4Eighths type (f4Code type s neg m e).1 - q).natAbs ≤ (f4Eighths type c - q).natAbs

/-- R354. The model's choices: log 22, 23. -/
def Obligations.VectorMaskResults : Prop :=
 ∀ (s : State) (o : VOp),
  let w := widthOf s.sew
  let f := fmt! s.sew
  let act := s.active o.msel
  let a (k : Nat) : Nat := elemOf (s.v o.vs1.toNat) k w
  let b (k : Nat) : Nat := elemOf (s.v o.vs2.toNat) k w
  let x (k : Nat) : FV := f.decode (a k)
  let y (k : Nat) : FV := f.decode (b k)
  let nan (k : Nat) : Bool := (x k).isNan || (y k).isNan
  (∀ p ∈ ([(.vcmpEq, fun k => decide (a k = b k)), (.vcmpNe, fun k => decide (a k ≠ b k)),
    (.vcmpLt, fun k => decide (toSigned w (a k) < toSigned w (b k))), (.vcmpLe, fun k => decide (toSigned w (a k) ≤ toSigned w (b k))),
    (.vcmpLtu, fun k => decide (a k < b k)), (.vcmpLeu, fun k => decide (a k ≤ b k))] : List ((VOp → Instr) × (Nat → Bool))),
   WordRuns s (p.1 o) → isInt s.sew → ∃ u : State, exec (p.1 o) s = .next u.wordDone ∧
    MaskEffect s u o.vd.toNat (fun k => if k ∈ act then some (p.2 k) else none) []) ∧
  (∀ p ∈ ([(.vcmpEq, fun k => !nan k && decide (cmpFV (x k) (y k) = 0), false),
    (.vcmpNe, fun k => nan k || decide (cmpFV (x k) (y k) ≠ 0), false), (.vcmpLt, fun k => !nan k && decide (cmpFV (x k) (y k) < 0), true),
    (.vcmpLe, fun k => !nan k && decide (cmpFV (x k) (y k) ≤ 0), true)] : List ((VOp → Instr) × (Nat → Bool) × Bool)),
   WordRuns s (p.1 o) → isInt s.sew = false → ∃ u : State, exec (p.1 o) s = .next u.wordDone ∧
    MaskEffect s u o.vd.toNat (fun k => if k ∈ act then some (p.2.1 k) else none)
     ((act.filter (fun k => if p.2.2 then nan k else x k == .nan true || y k == .nan true)).map (fun k => (Flag.nv, k)))) ∧
  (∀ p ∈ ([(.mand, fun a b => a && b), (.mor, fun a b => a || b), (.mxor, fun a b => a != b), (.mnot, fun a _ => !a)] :
    List ((VOp → Instr) × (Bool → Bool → Bool))),
   WordRuns s (p.1 o) → s.vl ≤ 16384 → ∃ u : State, exec (p.1 o) s = .next u.wordDone ∧
    MaskEffect s u o.vd.toNat (fun k => if k < s.vl then some (p.2 ((s.m o.vs1.toNat).testBit k) ((s.m o.vs2.toNat).testBit k)) else none) []) ∧
  (s.vl ≠ 0 → WordRuns s (.mpop o) → ∃ u : State, exec (.mpop o) s = .next u.wordDone ∧
   ScalarDue s u o.vd (w64 ((List.range s.vl).countP (fun k => decide (k ∈ act) && (s.m o.vs1.toNat).testBit k))) []) ∧
  (s.vl ≠ 0 → WordRuns s (.mfirst o) → ∃ (u : State) (v : Word), exec (.mfirst o) s = .next u.wordDone ∧ ScalarDue s u o.vd v [] ∧
   (∀ n, n ∈ act → (s.m o.vs1.toNat).testBit n → (∀ j, j ∈ act → (s.m o.vs1.toNat).testBit j → n ≤ j) → v = w64 n) ∧
   ((∀ j, j ∈ act → (s.m o.vs1.toNat).testBit j = false) → v = BitVec.allOnes 64)) ∧
  (s.vl = 0 → (WordRuns s (.mpop o) → exec (.mpop o) s = .next s.wordDone) ∧ (WordRuns s (.mfirst o) → exec (.mfirst o) s = .next s.wordDone))

/-- R234, R244, R245, R355-R357. The model's choices: log 15, 27. -/
def Obligations.VectorReductions : Prop :=
 ∀ (s : State) (o : VOp),
  let w := widthOf s.sew
  let mode := modeOf s.strand.regs.sstat
  let f := fmt! s.sew
  let act := s.active o.msel
  let a (k : Nat) : Nat := elemOf (s.v o.vs1.toNat) k w
  let start : Nat := elemOf (s.v o.vs2.toNat) 0 w
  let first : Nat := act.headD 0
  let upTo (k : Nat) : List Nat := act.filter (fun j => decide (j ≤ k))
  let fold (l : List Nat) : Nat := l.tail.foldl (fun t k => (addElem s.sew mode t (a k)).1) (canonElem s.sew (a (l.headD 0))).1
  let snan (x : Nat) : List Flag := snanFlag [f.decode x]
  let only0 (i : Instr) (v : Nat) (fs : List (Flag × Nat)) : Prop :=
   ∃ u : State, exec i s = .next u.wordDone ∧ VectorEffect s u o.vd.toNat w (fun k => if k = 0 then some v else none) fs false
  let scans (i : Instr) (g : Nat → Nat × List Flag) : Prop :=
   ∃ u : State, exec i s = .next u.wordDone ∧
    VectorEffect s u o.vd.toNat w (fun k => if k ∈ act then some (g k).1 else none) (act.flatMap (fun k => at_ k (g k).2)) false
  let floatExtreme (i : Instr) (larger : Bool) (g : Nat → Nat) : Prop :=
   ∃ v, ExtremeOf f larger (g start :: act.map (fun k => g (a k))) v ∧ only0 i v ((if act = [] then at_ 0 (snan (g start)) else []) ++
     act.flatMap (fun k => at_ k (snanFlag ((if k = first then [f.decode (g start)] else []) ++ [f.decode (g (a k))]))))
  s.vl ≠ 0 → (∀ p ∈ ([Instr.vredsumO, Instr.vredsumU] : List (VOp → Instr)), WordRuns s (p o) → isInt s.sew →
    only0 (p o) (start + (act.map a).sum) []) ∧
   (∀ p ∈ ([Instr.vscanO, Instr.vscanF] : List (VOp → Instr)), WordRuns s (p o) → isInt s.sew → scans (p o) (fun k => (((upTo k).map a).sum, []))) ∧
   (WordRuns s (.vredmax o) → isInt s.sew → ∃ v, only0 (.vredmax o) v [] ∧ (v = start ∨ v ∈ act.map a) ∧
    toSigned w start ≤ toSigned w v ∧ ∀ k ∈ act, toSigned w (a k) ≤ toSigned w v) ∧
   (WordRuns s (.vredmin o) → isInt s.sew → ∃ v, only0 (.vredmin o) v [] ∧ (v = start ∨ v ∈ act.map a) ∧
    toSigned w v ≤ toSigned w start ∧ ∀ k ∈ act, toSigned w v ≤ toSigned w (a k)) ∧
   (WordRuns s (.vargmax o) → isInt s.sew → ∃ (u : State) (v : Word), exec (.vargmax o) s = .next u.wordDone ∧ ScalarDue s u o.vd v [] ∧
    (act = [] → v = BitVec.allOnes 64) ∧ (act ≠ [] → ∃ n ∈ act, v = w64 n ∧ (∀ k ∈ act, toSigned w (a k) ≤ toSigned w (a n)) ∧
     ∀ k ∈ act, k < n → toSigned w (a k) < toSigned w (a n))) ∧
   (WordRuns s (.vredsumO o) → isInt s.sew = false → only0 (.vredsumO o)
     (act.foldl (fun t k => (addElem s.sew mode t (a k)).1) (canonElem s.sew start).1)
     (at_ first (canonElem s.sew start).2 ++
     (act.foldl (fun p k => ((addElem s.sew mode p.1 (a k)).1, p.2 ++ at_ k (addElem s.sew mode p.1 (a k)).2))
      ((canonElem s.sew start).1, ([] : List (Flag × Nat)))).2)) ∧
   (WordRuns s (.vredsumU o) → isInt s.sew = false → ∃ v fs, TreeSum s.sew mode (start :: act.map a) v fs ∧ only0 (.vredsumU o) v (at_ first fs)) ∧
   (WordRuns s (.vscanO o) → isInt s.sew = false → scans (.vscanO o) (fun k => (fold (upTo k), if k = first then (canonElem s.sew (a k)).2
    else (addElem s.sew mode (fold (act.filter (fun j => decide (j < k)))) (a k)).2))) ∧
   (WordRuns s (.vscanF o) → isInt s.sew = false → ∃ g : Nat → Nat × List Flag,
    (∀ k ∈ act, TreeSum s.sew mode ((upTo k).map a) (g k).1 (g k).2) ∧ scans (.vscanF o) g) ∧
   (WordRuns s (.vredmax o) → isInt s.sew = false → floatExtreme (.vredmax o) true id) ∧
   (WordRuns s (.vredmin o) → isInt s.sew = false → floatExtreme (.vredmin o) false id) ∧
   (WordRuns s (.vredamax o) → floatExtreme (.vredamax o) true (absElem s.sew)) ∧
   (WordRuns s (.vargmax o) → isInt s.sew = false → ∃ (u : State) (v : Word), exec (.vargmax o) s = .next u.wordDone ∧
    ScalarDue s u o.vd v (act.flatMap (fun k => at_ k (snan (a k)))) ∧ (act = [] → v = BitVec.allOnes 64) ∧
    ((∀ k ∈ act, (f.decode (a k)).isNan) → act ≠ [] → v = w64 first) ∧
    ((∃ k ∈ act, (f.decode (a k)).isNan = false) → ∃ n ∈ act, v = w64 n ∧ (f.decode (a n)).isNan = false ∧
     ∀ k ∈ act, (f.decode (a k)).isNan = false → NotAbove (f.decode (a k)) (f.decode (a n)) ∧ (k < n → ¬ NotAbove (f.decode (a n)) (f.decode (a k)))))

/-- R346, R359, R360. The model's choices: log 22. -/
def Obligations.VectorPermutations : Prop :=
 ∀ (s : State) (o : VOp),
  let w := widthOf s.sew
  let n := s.core.vlenb * 8 / w
  let act := s.active o.msel
  let a (k : Nat) : Nat := elemOf (s.v o.vs1.toNat) k w
  let x (k : Nat) : Nat := if s.sew = 0x18 then elemOf (s.v o.vs2.toNat) k w % 2 ^ 32 else elemOf (s.v o.vs2.toNat) k w
  let sa := s.capA.toNat
  let sb := s.capB.toNat
  let rank (k : Nat) : Nat := (act.filter (fun j => decide (j < k))).length
  let gives (i : Instr) (f : Nat → Option Nat) : Prop :=
   WordRuns s i → ∃ u : State, exec i s = .next u.wordDone ∧ VectorEffect s u o.vd.toNat w f [] false
  (s.vl = 0 → ∀ p ∈ ([Instr.vperm, Instr.vgperm, Instr.vslideup, Instr.vslidedn, Instr.vcompress, Instr.vexpand, Instr.vbcast, Instr.vmovsv,
    Instr.vmovvs, Instr.vgred, Instr.vredsumO, Instr.vredsumU, Instr.vscanO, Instr.vscanF, Instr.vredmax, Instr.vredmin, Instr.vredamax,
    Instr.vargmax] : List (VOp → Instr)), WordRuns s (p o) → exec (p o) s = .next s.wordDone) ∧
  (s.vl ≠ 0 → gives (.vperm o) (fun k => if k ∈ act then
    some (if n ≤ x k ∨ (s.core.gangEn ∧ (decide (k < n / 2) ≠ decide (x k < n / 2))) then 0 else a (x k)) else none) ∧
   gives (.vgperm o) (fun k => if k ∈ act then some (if n ≤ x k then 0 else a (x k)) else none) ∧
   gives (.vslideup o) (fun k => if k ∈ act ∧ sb ≤ k then some (a (k - sb)) else none) ∧
   gives (.vslidedn o) (fun k => if k ∈ act then some (if k + sb < n then a (k + sb) else 0) else none) ∧
   gives (.vcompress o) (fun k => if k < act.length then some (a (act.getD k 0)) else none) ∧
   gives (.vexpand o) (fun k => if k ∈ act then some (a (rank k)) else none) ∧ gives (.vbcast o) (fun k => if k ∈ act then some sb else none) ∧
   gives (.vmovsv o) (fun k => if k = sb ∧ sb < s.vl then some sa else none) ∧
   (WordRuns s (.vmovvs o) → ∃ u : State, exec (.vmovvs o) s = .next u.wordDone ∧
    ScalarDue s u o.vd (if s.vl ≤ sb then 0 else if isInt s.sew then BitVec.ofInt 64 (toSigned w (a sb)) else w64 (a sb)) []) ∧
   (WordRuns s (.vgred o) → ∃ u : State, exec (.vgred o) s = .next u.wordDone ∧ VectorEffect s u o.vd.toNat w
     (fun k => if k ∈ act ∧ k < n / 2 then some (addElem s.sew (modeOf s.strand.regs.sstat) (a k) (a (k + n / 2))).1 else none)
     ((act.filter (fun k => decide (k < n / 2))).flatMap
     (fun k => at_ k (addElem s.sew (modeOf s.strand.regs.sstat) (a k) (a (k + n / 2))).2)) false))

/-- R368-R370. The model's choices: log 25, 29, 67. -/
def Obligations.LocalVectorAccess : Prop :=
 ∀ (s : State) (o : VOp),
  let w := widthOf s.sew
  let n := max 1 (w / 8)
  let is := s.activeFrom s.startAt o.msel
  let place (m : AMode) (i : Nat) : Nat × Nat := (s.here + (if (s.localPlace m i).1 then 1 else 0), (s.localPlace m i).2)
  let covers (m : AMode) (c x i : Nat) : Bool := decide ((place m i).1 = c ∧ (place m i).2 ≤ x ∧ x < (place m i).2 + n)
  let allOk (m : AMode) (read : Bool) : Prop := ∀ i ∈ is, (s.getCore (place m i).1).localOk read (place m i).2 n
  s.acting → (∀ b ∈ s.core.board, b.cell ≠ s.strand.cell) → s.core.board.length < 64 → (∀ c, Memory.wf (s.getCore c).loc) →
   (∀ p ∈ ([(.vld, .unit), (.vlds, .strided), (.vldx, .indexed (s.v o.vs2.toNat))] : List ((VOp → Instr) × AMode)), WordRuns s (p.1 o) →
     (allOk p.2 true → (∀ i ∈ is, (s.getCore (place p.2 i).1).locBad (place p.2 i).2 n = false) → ∃ u : State, exec (p.1 o) s = .next u.wordDone ∧
      VectorEffect s.clearStart u o.vd.toNat w (fun k => if k ∈ is then
      some (if w = 4 then (mget (s.getCore (place p.2 k).1).loc (place p.2 k).2).toNat / 2 ^ (4 * (k % 2)) % 16
       else bytesValue (s.getCore (place p.2 k).1).loc (place p.2 k).2 n) else none) [] false) ∧
     (∀ a, s.localBad p.2 true is = some a → exec (p.1 o) s = .next (s.faultNow 0x14 a))) ∧
   (∀ p ∈ ([(.vst, .unit, false), (.vsts, .strided, false), (.vstx, .indexed (s.v o.vs2.toNat), false), (.vstF, .unit, true)] :
     List ((VOp → Instr) × AMode × Bool)),
    WordRuns s (p.1 o) → (allOk p.2.1 false → (p.2.2 → ∀ c, (s.getCore c).granuleWaits = []) →
     ∃ u : State, exec (p.1 o) s = .next u.wordDone ∧ u.strand = s.clearStart.strand ∧ u.mem = s.mem ∧
      (∀ c x, (∀ i ∈ is, covers p.2.1 c x i = false) → mget (u.getCore c).loc x = mget (s.getCore c).loc x) ∧
      (w ≠ 4 → ∀ c x i, is.reverse.find? (covers p.2.1 c x) = some i →
      mget (u.getCore c).loc x = BitVec.ofNat 8 (elemOf (s.v o.vd.toNat) i w / 256 ^ (x - (place p.2.1 i).2))) ∧
      (p.2.2 = false → ∀ c, (u.getCore c).full = (s.getCore c).full) ∧ (p.2.2 → ∀ c g, g ∈ (u.getCore c).full ↔
      g ∈ (s.getCore c).full ∨ ∃ i ∈ is, (place p.2.1 i).1 = c ∧ g ∈ granulesOf (place p.2.1 i).2 n)) ∧
     (∀ a, s.localBad p.2.1 false is = some a → exec (p.1 o) s = .next (s.faultNow 0x14 a)))

/-- R373, R374. The model's choices: log 29. -/
def Obligations.GlobalVectorLoads : Prop :=
 ∀ (s : State) (o : LOp),
  let w := widthOf s.sew
  let n := w / 8
  let is := s.activeFrom s.startAt s.lmsel
  let t0 := s.clearStart.wordDone
  let d := s.capB.toNat
  let nf := d % 16
  let stride := if d / 2 ^ 16 % 2 ^ 32 = 0 then nf * n else d / 2 ^ 16 % 2 ^ 32
  let strided := is.map (fun i =>
   ({ addr := (s.capA.toNat + i * d) % 2 ^ 64, size := n, index := i, vreg := o.rd.toNat, at_ := i * w / 8 } : LoadElem))
  let gather := is.map (fun i =>
   ({ addr := (s.capA.toNat + indexOf s.sew (elemOf (s.v o.rs2.toNat) i w)) % 2 ^ 64, size := n, index := i, vreg := o.rd.toNat,
      at_ := i * w / 8 } : LoadElem))
  let fields := is.flatMap (fun i => (List.range nf).map (fun g =>
   ({ addr := (s.capA.toNat + i * stride + g * n) % 2 ^ 64, size := n, index := i, vreg := o.rd.toNat + g, at_ := i * w / 8 } : LoadElem)))
  let r0 (dests : List Nat) : Record := t0.leaveRecord o.ls.toNat none dests (s.vl * w / 8) t0.strand.pc
  let r1 : Record :=
   { r0 [o.rd.toNat] with
     vmask := (r0 [o.rd.toNat]).vmask ||| BitVec.ofNat 32 (2 ^ o.rs2.toNat)
     regs := { (r0 [o.rd.toNat]).regs with vs := (r0 [o.rd.toNat]).regs.vs.mapIdx (fun i v =>
      if i = o.rs2.toNat ∧ i ≠ o.rd.toNat then t0.strand.regs.vs.toList.getD i v else v) } }
  let leaves (i : Instr) (es : List LoadElem) (dests : List Nat) (size : Record) : Prop :=
   WordRuns s i → es ≠ [] → (∀ e ∈ es, ∃ pa, HeldPage s .load e.addr n pa) → FitsMooring t0 size →
    ∃ t r j, exec i s = .next t ∧ Vacated s t ∧ t.mem = s.mem ∧
     r ∈ (t.getCore s.here).records ∧ r.dseq = s.core.dseq ∧ r.kind = .leave ∧ r.ready = false ∧ r.dpend ∧
     r.pc = s.strand.pc ∧ r.on = .load j ∧ j.elems = es ∧ j.scalar = none ∧ (∀ e, es.head? = some e → r.waitAddr = e.addr ∧
     t.work.getLast? = some (todo .globalReadPerform { Input.none with
      core := s.here, slot := s.core.ctx.getD 64, n := s.core.dseq, queue := e.key })) ∧
     (∀ v ∈ dests, r.vmask.getLsbD v)
  s.acting → (∀ b ∈ s.core.gboard, b.cell ≠ s.strand.cell) → tget s.core.slots s.slot = none → FreshDeposit s.core → s.strand.cv.entry.words.length ≤ s.strand.cv.k + 1 →
   leaves (.vldgL o) strided [o.rd.toNat] (r0 [o.rd.toNat]) ∧ leaves (.vldgxL o) gather [o.rd.toNat, o.rs2.toNat] r1 ∧
   (d / 2 ^ 48 = 0 → d / 2 ^ 14 % 4 = 0 → d / 2 ^ 4 % 16 = 0 → 2 ≤ nf → nf ≤ 8 → o.rd.toNat + nf ≤ 32 → d / 2 ^ 8 % 2 = 0 →
    leaves (.vldsegL o) fields ((List.range nf).map (o.rd.toNat + ·)) (r0 ((List.range nf).map (o.rd.toNat + ·)))) ∧
   (d / 2 ^ 48 ≠ 0 ∨ d / 2 ^ 14 % 4 ≠ 0 ∨ d / 2 ^ 4 % 16 ≠ 0 ∨ nf < 2 ∨ 8 < nf ∨ 32 < o.rd.toNat + nf →
     exec (.vldsegL o) s = .next (s.trapConvoy { TrapBlock.none with cause := 0x03 }))

/-- R377. The model's choices: log 10, 29. -/
def Obligations.GlobalVectorStores : Prop :=
 ∀ (s : State) (o : LOp) (at_ : Nat → Nat),
  let w := widthOf s.sew
  let n := w / 8
  let is := s.activeFrom s.startAt s.lmsel
  let x (i : Nat) : Nat := elemOf (s.v o.rd.toNat) i w
  let strided (i : Nat) : Nat := (s.capA.toNat + i * s.capB.toNat) % 2 ^ 64
  let indexed (i : Nat) : Nat := (s.capA.toNat + indexOf s.sew (elemOf (s.v o.rs2.toNat) i w)) % 2 ^ 64
  let covers (y i : Nat) : Bool := decide (at_ i ≤ y ∧ y < at_ i + n)
  let only (u : State) : Prop :=
   u.strand = s.clearStart.strand ∧ u.core = s.core ∧ u.cores = s.cores ∧ ∀ y, (∀ i ∈ is, covers y i = false) → mget u.mem y = mget s.mem y
  s.acting → (∀ b ∈ s.core.gboard, b.cell ≠ s.strand.cell) → (∀ i ∈ is, s.bad (at_ i) n = false) →
   (WordRuns s (.vstg o) → (∀ i ∈ is, HeldPage s .store (strided i) n (at_ i)) → ∃ u : State, exec (.vstg o) s = .next u.wordDone ∧ only u ∧
     ∀ y i, is.reverse.find? (covers y) = some i → mget u.mem y = BitVec.ofNat 8 (x i / 256 ^ (y - at_ i))) ∧
   (WordRuns s (.vscatadd o) → (∀ i ∈ is, HeldPage s .reduce (indexed i) n (at_ i)) → (∀ i ∈ is, indexed i % n = 0) → Memory.wf s.mem →
    ∃ u : State, exec (.vscatadd o) s = .next u.wordDone ∧ only u ∧ (isInt s.sew → ∀ i ∈ is, bytesValue u.mem (at_ i) n =
     (bytesValue s.mem (at_ i) n + ((is.filter (fun j => decide (at_ j = at_ i))).map x).sum) % 2 ^ w)) ∧
   (WordRuns s (.vscatadd o) → ∀ i, is.find? (fun i => decide (indexed i % n ≠ 0)) = some i →
    exec (.vscatadd o) s = .next (s.faultNow 0x11 (indexed i)))

/-- R218, R219, R228, R363-R365. The model's choices: log 36. -/
def Obligations.PositionResults : Prop :=
 (∀ (s : State) (o : VOp) (an : Anchor) (nx ny : Nat → FNode) (q : Nat → Vec3) (cs : Nat → List ChainEntry),
  let act := s.active o.msel
  let x (k : Nat) : Pos := s.pos o.vs1 k
  let y (k : Nat) : Pos := s.pos o.vs2 k
  let current (t : Nat) (n : FNode) : Prop :=
   tagNode t < an.nnode ∧ s.node s.here an (tagNode t) = .ok n ∧ n.valid ∧ n.gen = tagGen t
  let both (k : Nat) : Prop := current (x k).tag (nx k) ∧ current (y k).tag (ny k) ∧
   s.convertPos s.here an (y k) (tagNode (y k).tag) (ny k).gen (tagNode (x k).tag) (nx k).gen = .ok (q k, sureUsed (cs k))
  let read (i : Instr) : State := if act = [] then s else s.readFrames (s.framesRead i)
  let cached (i : Instr) : State := (read i).modHere (fun k => (act.flatMap cs).foldl Core.useChain k)
  let target := s.capB.toNat % 2 ^ 32
  s.anchor s.here = .ok an → (∀ p ∈ ([(.psub, -1, fun d e => !d || e, fun d e => d == e), (.padd, 1, fun d e => d || e, fun d e => d && e),
     (.dadd, 1, fun d e => d && e, fun _ _ => true), (.daddSub, -1, fun d e => d && e, fun _ _ => true)] :
     List ((VOp → Instr) × Int × (Bool → Bool → Bool) × (Bool → Bool → Bool))),
    let kinds (k : Nat) : Bool := p.2.2.1 (tagDisp (x k).tag) (tagDisp (y k).tag)
    let sum (k : Nat) : Vec3 :=
     ((x k).p.1 + p.2.1 * (q k).1, (x k).p.2.1 + p.2.1 * (q k).2.1, (x k).p.2.2 + p.2.1 * (q k).2.2)
    WordRuns s (p.1 o) → ((∀ k ∈ act, kinds k ∧ both k ∧ posFits (sum k)) → ∃ u : State, exec (p.1 o) s = .next u.wordDone ∧
     VectorEffect (cached (p.1 o)) u o.vd.toNat 128 (fun k => if k ∈ act then
      some (posBits (sum k) (mkTag (p.2.2.2 (tagDisp (x k).tag) (tagDisp (y k).tag)) (tagNode (x k).tag) (nx k).gen)) else none)
      [] false) ∧
     (∀ k, act.head? = some k → (∀ j ∈ act, kinds j = false) →
     exec (p.1 o) s = .next ((read (p.1 o)).trapConvoy { TrapBlock.none with cause := 0x22, estart := k, faddr := w64 (x k).tag })) ∧
     (∀ k, act.head? = some k → (∀ j ∈ act, kinds j ∧ an.nnode ≤ tagNode (x j).tag) → exec (p.1 o) s =
      .next ((read (p.1 o)).trapConvoy { TrapBlock.none with cause := 0x20, estart := k, faddr := w64 (x k).tag }))) ∧
   (WordRuns s (.pdist2 o) →
    let d (k : Nat) : Nat := (((x k).p.1 - (q k).1) ^ 2 + ((x k).p.2.1 - (q k).2.1) ^ 2 + ((x k).p.2.2 - (q k).2.2) ^ 2).toNat
    (∀ k ∈ act, tagDisp (x k).tag = false ∧ tagDisp (y k).tag = false ∧ both k) → ∃ u : State, exec (.pdist2 o) s = .next u.wordDone ∧
     VectorEffect (cached (.pdist2 o)) u o.vd.toNat 64 (fun k => if k ∈ act then some (min (2 ^ 63 - 1) (d k)) else none) []
     (act.any (fun k => decide (2 ^ 63 ≤ d k)))) ∧
   (WordRuns s (.pcvt o) → (∀ k ∈ act, current (x k).tag (nx k) ∧ current target (ny k) ∧
     s.convertPos s.here an (x k) (tagNode (x k).tag) (nx k).gen (tagNode target) (ny k).gen = .ok (q k, sureUsed (cs k))) →
    ∃ u : State, exec (.pcvt o) s = .next u.wordDone ∧ VectorEffect (cached (.pcvt o)) u o.vd.toNat 128 (fun k => if k ∈ act then
     some (posBits (q k) (mkTag (tagDisp (x k).tag) (tagNode target) (ny k).gen)) else none) [] false) ∧
   (WordRuns s (.frhome o) → ((∀ k ∈ act, current (x k).tag (nx k) ∧ (nx k).root) → ∃ u : State, exec (.frhome o) s = .next u.wordDone ∧
     VectorEffect (read (.frhome o)) u o.vd.toNat 128 (fun k => if k ∈ act then some (elemOf (s.v o.vs1.toNat) k 128) else none) [] false) ∧
    ((∀ k ∈ act, tagNode (x k).tag < an.nnode ∧ s.node s.here an (tagNode (x k).tag) = .ok (nx k) ∧ (((nx k).valid ∧ (nx k).gen = tagGen (x k).tag) ∨
      ((nx k).valid = false ∧ (nx k).gen = (tagGen (x k).tag + 1) % 256)) ∧ (nx k).root = false ∧ (nx k).parent ≠ tagNode (x k).tag ∧
     (nx k).parent < an.nnode ∧ s.node s.here an (nx k).parent = .ok (ny k) ∧ (ny k).valid ∧
     s.convertPos s.here an (x k) (tagNode (x k).tag) (nx k).gen (nx k).parent (ny k).gen = .ok (q k, sureUsed (cs k))) →
     ∃ u : State, exec (.frhome o) s = .next u.wordDone ∧ VectorEffect (cached (.frhome o)) u o.vd.toNat 128 (fun k => if k ∈ act then
      some (posBits (q k) (mkTag (tagDisp (x k).tag) (nx k).parent (ny k).gen)) else none) [] false)) ∧
   (WordRuns s (.pmake o) → (∀ k ∈ act, current target (nx k)) → ∃ u : State, exec (.pmake o) s = .next u.wordDone ∧
    VectorEffect (read (.pmake o)) u o.vd.toNat 128 (fun k => if k ∈ act then
     some (elemOf (s.v o.vs1.toNat) k 96 + 2 ^ 96 * target) else none) [] false)) ∧
 (∀ (s : State) (o : VOp),
  let act := s.active o.msel
  let el (n : BitVec 5) (k w : Nat) : Nat := elemOf (s.v n.toNat) k w
  (WordRuns s (.ptag o) → ∃ u : State, exec (.ptag o) s = .next u.wordDone ∧ VectorEffect s u o.vd.toNat 128 (fun k => if k ∈ act then
    some (el o.vs1 k 128 % 2 ^ 96 + 2 ^ 96 * (s.capB.toNat % 2 ^ 32)) else none) [] false) ∧
  (WordRuns s (.vdmin o) → ∃ u : State, exec (.vdmin o) s = .next u.wordDone ∧
   VectorEffect s u o.vd.toNat 64 (fun k => if k ∈ act then some (min (el o.vs1 k 64) (el o.vs2 k 64)) else none) [] false)) ∧
 ∀ (s : State) (an : Anchor) (x : Pos) (a g h : Nat), s.convertPos s.here an x a g a h = .ok (x.p, [])

/-- R397, R404-R411. The model's choices: log 19, 39, 40. -/
def Obligations.MatrixWordsAct : Prop :=
 ∀ (s : State) (o : VOp),
  let taken (b : State) (i : Instr) (p : MatCmd → Prop) (rs : List (Nat × Nat × Bool)) (due : List (BitVec 5 × Word))
    (tags : Nat → Option SlotTag) (steps : Table Step) : Prop :=
   ∃ (u : State) (m : MatCmd), exec i s = .next u.wordDone ∧ p m ∧ MatTaken b u m rs due tags steps
  let plain (b : State) (i : Instr) (p : MatCmd → Prop) (rs : List (Nat × Nat × Bool)) : Prop :=
   taken b i p rs [] (tget b.core.tags) b.core.steps
  let ready (i : Instr) : Prop := s.defect i = none ∧ s.core.mat.length < 8
  let alone (i : Instr) : Prop := WordRuns s i ∧ (∀ m ∈ s.core.mat, m.cell ≠ s.strand.cell) ∧ s.withdrawn s.here s.strand.cell = []
  let free (rs : List (Nat × Nat × Bool)) : Prop :=
   (∀ r ∈ rs, overlapIn s.core.board s.strand.cell r.1 r.2.1 r.2.2 = none) ∧ s.core.board.length + rs.length ≤ 64
  let quiet (rs : List (Nat × Nat × Bool)) : Prop := (∀ g ∈ s.core.gboard, g.cell ≠ s.strand.cell) ∧
   ∀ r ∈ rs, s.rangeWrites s.here s.strand.cell r.1 r.2.1 = false
  let st := s.myStep
  let c := s.capA
  let blk := if s.sew = 0x10 then vtBlk s.vtype else 0
  let bands : Prop := st.tn = 0 ∨ st.hasBands (ctlRow c) st.tm
  let tiles : Prop := s.mmaOk blk ∧ bands
  (ready (.trelease o) → c.toNat < 2 ^ 40 → plain s (.trelease o) (fun _ => True) []) ∧ (∀ (d : TDesc) (b : State), let org := s.capB.toNat
   let shape := org / 2 ^ 63
   let rows := if shape = 1 then st.tn else st.tm
   let col0 := bitsN org 62 32
   let used := d.tileRows (org % 2 ^ 32) rows
   let rs := d.ranges used col0 (d.tileCols col0 st.tk)
   let n := tileSlots d.fmt d.blk rows st.tk
   let first := o.vd.toNat
   let tag := d.slotTag shape rows st.tk first
   let local_ := (hull rs).toList.map (fun h => (h.1, h.2, false))
   ready (.tload o) → c.toNat % 8 = 0 → LocalWritable s c.toNat 32 →
   overlapIn s.core.board s.strand.cell c.toNat (c.toNat + 31) false = none → s.tdescIs c.toNat d →
   mmaFmt d.fmt → first + n ≤ 32 → st.hasSlots first n → (d.isF4 → col0 % d.blk = 0 ∧ d.aligned used) →
   (if d.loc then b = s ∧ (∀ r ∈ rs, LocalWritable s r.1 r.2) ∧ free local_ else quiet local_ ∧ s.checkRanges s.here .load false rs = (b, none)) →
    taken b (.tload o) (fun m => m.tdesc = some d) (if d.loc then local_ else []) []
     (fun q => if first ≤ q ∧ q < first + n then some tag else tget b.core.tags q) b.core.steps) ∧
  (ready (.mma o) → tiles → plain s (.mma o) (fun m => m.scales = (s.mark.map (·.scales)).getD []) []) ∧
  (ready (.mmaS o) → tiles → s.sew = 0x10 → st.tk % blk = 0 → s.vl = st.tm * st.tk →
   plain s (.mmaS o) (fun m => m.scales = (s.mark.map (·.scales)).getD
    ((List.range (st.tm * (st.tk / blk))).map (fun n => elemOf (s.v o.vs2.toNat) n 8))) []) ∧
  (ready (.mzero o) → ctlBad c st.tm st.tn = false → bands → plain s (.mzero o) (fun _ => True) []) ∧
  (let es := widthOf s.sew / 8
   let a := s.capB.toNat
   let pitch := if ctlPitch c = 0 then st.tn * widthOf s.sew / 8 else ctlPitch c
   let n := if st.tm = 0 ∨ st.tn = 0 then 0 else (st.tm - 1) * pitch + st.tn * es
   let rs := if n = 0 then [] else [(a, a + n - 1, true)]
   ready (.macc2l o) → ctlBad c st.tm st.tn = false → cellFmt s.sew → ctlPitch c % max es 1 = 0 → a % max es 1 = 0 →
   LocalWritable s a n → bands → free rs → plain s (.macc2l o) (fun _ => True) rs) ∧
  (∀ (b : State) (ps : List Piece), ready (.mamax o) → ctlBad c st.tm st.tn = false → s.sew = 0x0C → bands → s.capB.toNat % 4 = 0 →
   quiet [(s.capB.toNat, s.capB.toNat + 3, true)] → s.find s.here .reduce s.capB.toNat 4 = (b, .ok ps) → plain b (.mamax o) (fun _ => True) []) ∧
  (ready (.mmark o) → c = 0 → (s.mark = none → taken s (.mmark o) (fun m => m.marker = st.mmark ∧ m.fut = none) [] [(o.vd, w64 st.mmark)]
    (tget s.core.tags) (tset s.core.steps s.strand.cell { st with mmark := st.mmark + 1 })) ∧
   ∀ k, s.mark = some k → plain s (.mmark o) (fun m => m.marker = k.marker ∧ m.fut = none) []) ∧
  (alone (.tshape o) → c.toNat < 2 ^ 32 → s.capB.toNat < 2 ^ 32 → mmaPair s.sew s.sew2 →
   let m := c.toNat % 2 ^ 16
   let n := c.toNat / 2 ^ 16
   let k := s.capB.toNat
   let b := if s.sew = 0x10 then 5 else max (widthOf s.sew) (widthOf s.sew2)
   let g := if s.sew = 0x10 then vtBlk s.vtype else 16
   let zero : Prop := m = 0 ∨ n = 0 ∨ k = 0
   ∃ (u : State) (tm tn tk : Nat), exec (.tshape o) s = .next u.wordDone ∧ (zero → tm = 0 ∧ tn = 0 ∧ tk = 0) ∧
    (¬ zero → tm = min m 128 ∧ tn = min n 512 ∧ tk = min k (min 1024 (1048576 / (max tm tn * b)) / g * g)) ∧
    u = { s with
     core := { s.core with steps := tset s.core.steps s.strand.cell { st with tm := tm, tn := tn, tk := tk } }
     strand := (s.dueScalar o.vd (w64 (tm + 2 ^ 16 * tn + 2 ^ 32 * tk))).strand }) ∧
  (alone (.tclaim o) → c.toNat < 2 ^ 40 →
   let slots := BitVec.ofNat 32 c.toNat
   let bs := BitVec.ofNat 8 (c.toNat / 2 ^ 32)
   let clear : Prop := ∀ p ∈ s.core.steps, p.1 ≠ s.strand.cell → p.2.slots &&& slots = 0 ∧ p.2.bands &&& bs = 0
   let done (v : Word) (steps : Table Step) : Prop := ∃ u : State, exec (.tclaim o) s = .next u.wordDone ∧
    u = { s with
     core := { s.core with steps := steps }
     strand := (s.dueScalar o.vd v).strand }
   (clear → done 1 (tset s.core.steps s.strand.cell { st with slots := st.slots ||| slots, bands := st.bands ||| bs })) ∧
   (¬ clear → done 0 s.core.steps)) ∧
  ∀ x, x = ctlRow c * 512 + ctlCol c → ctlReserved c = false → s.sew = 0x0C ∨ s.sew = 2 → x + s.vl ≤ 65536 →
   (s.vl = 0 ∨ st.hasBands (x / 512) ((x + s.vl - 1) / 512 - x / 512 + 1)) →
    (alone (.macc2v o) → (∀ k ∈ s.active o.msel, x + k ∉ s.core.accBad) → ∃ u : State, exec (.macc2v o) s = .next u.wordDone ∧
     VectorEffect s u o.vd.toNat 32 (fun k => if k ∈ s.active o.msel then some ((tget s.core.acc (x + k)).getD 0).toNat else none) [] false) ∧
    (alone (.mv2acc o) → ∃ u : State, exec (.mv2acc o) s = .next u.wordDone ∧
     (∀ q, (tget u.core.acc q).getD 0 = if x ≤ q ∧ q - x ∈ s.active o.msel then BitVec.ofNat 32 (elemOf (s.v o.vd.toNat) (q - x) 32)
     else (tget s.core.acc q).getD 0) ∧ { u with core := { u.core with acc := s.core.acc, accBad := s.core.accBad } } = s)

/-- R424-R426, R396, R412, R419. The model's choices: log 43, 44, 45. -/
def Obligations.StreamsAndLaunchesIssue : Prop :=
 (∀ (s : State) (rd rs1 rs2 : BitVec 5) (b : Subscription),
  let sub := s.capA.toNat
  let st := s.myStep
  let r := s.core.ring st.launch st.stage sub b
  let row0 := toSigned 32 s.capB.toNat
  let col0 := toSigned 32 (s.capB.toNat / 2 ^ 32)
  let i := Instr.subscr rd rs1 rs2
  let claimed (t : State) (n : Nat) (d : Option TDesc) : State :=
   State.dueScalar { t with core := t.core.setRing { r with
    slots := r.slots.set n
     { st := .filling, row0 := row0, col0 := col0, marked := false, tdesc := d, io := EngineIo.none, pc := t.wordPc, cell := t.strand.cell }
    pending := if d.isSome then r.pending ++ [n] else r.pending } }
    rd (w64 n)
  s.defect i = none → ((s.stageOf st).subs[sub]? = none → exec i s = .next (s.faultNow 0x11 0)) ∧ ((s.stageOf st).subs[sub]? = some b →
    ((∀ x ∈ r.slots, x.st ≠ .free) → exec i s = .next (s.dueScalar rd (BitVec.allOnes 64)).wordDone) ∧
    (∀ n, r.slots.findIdx? (fun x => x.st == .free) = some n → LocalWritable s (b.ring + n * b.slotb) b.slotb →
     b.bar = 0xFFFFFFFF ∨ LocalWritable s b.bar 32 → (b.pull → exec i s = .next (claimed s n none).wordDone) ∧
     (b.pull = false → ∀ (t : State) (d : TDesc), (∀ f, s.withTile b row0 col0 .load f = f t d) →
     exec i s = .next (State.wordDone { claimed t n (some d) with
      work := t.work ++ [todo .stevedorePushFill { Input.none with core := t.here, slot := st.launch, addr := st.stage, n := sub, queue := n }] }))))) ∧
 (∀ (s : State) (rs1 rs2 : BitVec 5) (b : Subscription) (x : RingSlot),
  let sub := s.capA.toNat
  let n := s.capB.toNat
  let st := s.myStep
  let r := s.core.ring st.launch st.stage sub b
  let i := Instr.subrel rs1 rs2
  s.defect i = none → (s.stageOf st).subs[sub]? = some b → r.slots[n]? = some x →
   (b.pull = false → x.st = .ready → ∃ k : Core, exec i s = .next (State.wordDone { s with core := k }) ∧
    k.rings = (s.core.setRing { r with slots := r.slots.set n { x with st := .free } }).rings ∧
    (∀ g, g ∈ k.full ↔ g ∈ s.core.full ∧ g ∉ granulesOf (b.ring + n * b.slotb) b.slotb) ∧
    { k with rings := s.core.rings, full := s.core.full } = s.core) ∧
   (b.pull = false → x.st = .filling → exec i s = .next (State.wordDone { s with
    core := s.core.setRing { r with slots := r.slots.set n { x with marked := true } } })) ∧
   (b.pull → x.st = .filling → ∀ (t : State) (d : TDesc), (∀ f, s.withTile b x.row0 x.col0 .store f = f t d) →
    exec i s = .next (State.wordDone { t with
     core := t.core.setRing { r with
     slots := r.slots.set n { x with st := .draining, tdesc := some d, io := EngineIo.none, pc := t.wordPc, cell := t.strand.cell }
     pending := r.pending ++ [n] }
     work := t.work ++ [todo .stevedorePullDrain { Input.none with core := t.here, slot := st.launch, addr := st.stage, n := sub, queue := n }] })) ∧
   (x.st ≠ .filling → (b.pull = true ∨ x.st ≠ .ready) → exec i s = .next (s.faultNow 0x11 0))) ∧
 (∀ (s t : State) (rd rs1 : BitVec 5) (pa u pg : Nat),
  let a := s.capA.toNat
  let v := mload t.mem (pa + 10) 2
  let die := dieOf t.here
  let t := t.countRead (pa + 10) 2
  let i := Instr.deviceLaunch rd rs1
  let told (t : State) (w : Word) : State := (t.dueScalar rd w).wordDone
  s.defect i = none → s.heldHere = false → s.storesOut = false → a % 512 = 0 → s.find s.here .load a 512 = (t, .ok [.here pa 512 0 u pg]) → t.bad (pa + 10) 2 = false →
   let mine : Prop := v / 256 = t.core.ctx.getD 64 ∧ ∀ d, d < 4 → d ≠ die → v.testBit d = false
   (¬ mine → exec i s = .next (told t 2)) ∧ (mine → 64 ≤ (t.harbour die).submit.length → exec i s = .next (told t 1)) ∧
   (mine → (t.harbour die).submit.length < 64 → exec i s = .next (told { t with
    harbours := t.harbours.set (die % 4) { t.harbour die with submit := (t.harbour die).submit ++ [(pa, true, none)] } (Nat.mod_lt _ (by decide))
    work := t.work ++ [todo .hmTakeRecord { Input.none with die := die }] } 0))) ∧
 ∀ (s : State) (o : LOp),
  let st := s.myStep
  let id := (s.x o.rs1).toNat
  let ch := (s.x o.rs2).toNat
  let w := (s.x o.rs1).toNat
  let eng := w / 2 ^ 60
  let n := w % 2 ^ 48
  let issued := if eng = 0 then st.mmark else if eng = 1 then st.smark else st.xmark
  let passed := if eng = 0 then st.mpassed else if eng = 1 then st.spassed else st.xpassed
  let named : Prop := eng ≤ 2 ∧ bitsN w 59 48 = 0 ∧ n ≠ 0 ∧ n < issued
  let leaves (i : Instr) (p : Record → Prop) : Prop :=
   s.acting → FreshDeposit s.core → tget s.core.slots s.slot = none → FitsMooring s (s.leaveRecord o.ls.toNat none [] 0 (s.strand.pc + 4)) →
     ∃ t r, exec i s = .next t ∧ Vacated s t ∧ r ∈ (t.getCore s.here).records ∧
     r.dseq = s.core.dseq ∧ r.ready = false ∧ r.pc = s.strand.pc + 4 ∧ p r ∧ t.mem = s.mem ∧ t.work = s.work;
  o.hint ≠ 3 → s.heldHere = false → (15 < ch ∨ id = 0 ∨ st.nextId.toList.getD ch 1 ≤ id → exec (.cpywaitL o) s = .next (s.trapScalar 0x11 0)) ∧
   (ch ≤ 15 → id ≠ 0 → id < st.nextId.toList.getD ch 1 → (id ≤ st.chdone.toList.getD ch 0 → exec (.cpywaitL o) s = .next s.next) ∧
    (st.chdone.toList.getD ch 0 < id → leaves (.cpywaitL o) (fun r => r.on = .chan ch id))) ∧
   (¬ named → exec (.vwaitL o) s = .next (s.trapScalar 0x11 0)) ∧
   (named → (n ≤ passed → exec (.vwaitL o) s = .next s.next) ∧ (passed < n → leaves (.vwaitL o) (fun r => r.on = .marker w)))

/-- R66, R67, R96, R168, R253, R267, R269. The model's choices: log 11, 52, 53, 54, 55; log 50: what RESUME takes from the save area and what from the
saved core, and PREEMPT's stored floor; log 73: where SAVEBASE points. -/
def Obligations.HostCommandsComplete : Prop :=
 (∀ (s : State) (q : HostQueue) (c : Started), InProgress s q c →
  let p := s.param
  let fin := finished q c
  let done := (fin s 0 0).queues
  let b := s.park
  let ctx := s.inp.slot
  (s.createQueueOk → exec .createQueue s = .next (fin { s with
   queues := tset s.queues (bitsN (p 0) 5 0) (HostQueue.fresh (p 1) (p 2) (bitsN (p 0) 19 16) (p 3) (p 4) (w64 (p 5))) } 0 0)) ∧
  (¬ s.createQueueOk → exec .createQueue s = .next (fin s 2 0)) ∧ (∀ q', s.paramsOk [maskOf 5 0] → p 0 ≠ 0 → tget s.queues (p 0) = some q' →
   (q'.started = [] → q'.ready = [] → exec .deleteQueue s = .next (fin { s with queues := tdel s.queues (p 0) } 0 0)) ∧
   (q'.started ≠ [] → exec .deleteQueue s = .next
    (State.owing { s with queues := tset s.queues (p 0) { q' with deleting := true } } .deleteQueue s.inp))) ∧
  (tget s.queues (p 0) = none → exec .deleteQueue s = .next (fin s 2 0)) ∧
  (s.openApertureOk → exec .openAperture s = .next (fin { s with
   apertures := tset s.apertures (bitsN (p 0) 3 0) { base := p 1, len := p 2, node := bitsN (p 0) 28 16, rw := (p 0).testBit 8 } } 0 0)) ∧
  (¬ s.openApertureOk → exec .openAperture s = .next (fin s 2 0)) ∧
  (s.paramsOk [maskOf 3 0] → exec .closeAperture s = .next (fin { s with apertures := tdel s.apertures (p 0) } 0 0)) ∧
  (let size := 64 + 64 * 2 ^ bitsN (p 0) 20 16;
   (tget s.contexts ctx ≠ none → exec .createContext s = .next (fin s 4 0)) ∧ (tget s.contexts ctx = none →
    (s.createContextOk → ∃ t x, exec .createContext s = .next t ∧ t.contexts = tset s.contexts ctx x ∧ NewContext s.param x ∧ t.queues = done ∧ t.cores = s.cores ∧
     ∀ a, mget t.mem a = if p 1 ≤ a ∧ a < p 1 + size then 0 else mget s.mem a) ∧
    (¬ s.createContextOk → exec .createContext s = .next (fin s 2 0)))) ∧
  (∀ x, s.paramsOk [] → tget s.contexts ctx = some x → x.saved = [] → b.coresHolding ctx = [] → b.launches ctx = false →
   (∀ n q', (n, q') ∈ s.queues → ∀ d ∈ q'.started, d.opc = 0x20 → d.ctx ≠ ctx) →
    ∃ t, exec .destroyContext s = .next t ∧ tget t.contexts ctx = none ∧ (∀ n, n ≠ ctx → tget t.contexts n = tget s.contexts n) ∧
     t.queues = done ∧ t.cores = b.cores ∧ t.mem = s.mem) ∧
  (∀ x v, s.paramsOk [maskOf 51 4, maskOf 8 0] → 1 ≤ p 1 → p 1 ≤ 256 → s.readPhys (p 0) (16 * p 1) = .ok v → tget s.contexts ctx = some x →
   let home := (List.range (p 1)).map (fun e => (e, homeEntryOf (v / 2 ^ (128 * e) % 2 ^ 128)))
   ∃ t, exec .setHomeMap s = .next t ∧ tget t.contexts ctx = some { x with home := home } ∧ t.queues = done ∧
    (∀ k ∈ b.coresHolding ctx, t.getCore k = { b.getCore k with home := home }) ∧ ∀ k, k ∉ b.coresHolding ctx → t.getCore k = b.getCore k) ∧
  (s.paramsOk [maskOf 51 9, maskOf 3 0] → (∀ e, s.readPhys (p 0 + 10) 2 = .error e → exec .launch s = .next (fin (s.countRead (p 0) 512) 2 0xFFFF)) ∧
   ∀ v, s.readPhys (p 0 + 10) 2 = .ok v → (p 1 = 0 ∨ v % 256 ≠ p 1 ∨ v / 256 ≠ ctx → exec .launch s = .next (fin (s.countRead (p 0) 512) 2 0)) ∧
    (p 1 ≠ 0 → v % 256 = p 1 → v / 256 = ctx → (∀ d, d < 4 → (s.harbour d).submit.length < 64) → (∀ d ∈ q.started, d.uid = s.inp.n → d.resubmit = []) →
     let dies := (List.range 4).filter (fun d => (p 1).testBit d)
     ∃ t, exec .launch s = .next t ∧ t.mem = s.mem ∧
     tget t.queues s.inp.queue = some { q with
      started := q.started.map (fun d => if d = c then { c with record := p 0, dies := dies } else d) } ∧
     (∀ d, d < 4 → (t.harbour d).submit = (s.harbour d).submit ++ (if d ∈ dies then [(p 0, false, some s.inp.n)] else [])) ∧
     t.work = s.work ++ dies.map (fun d => todo .hmTakeRecord { Input.none with die := d }))) ∧
  (∀ (pa root : Nat) (s1 s2 : State),
   let level := p 3 % 4
   let asid := s.cmdAsid
   let e := w64 (3 + bitsN (p 3) 3 2 * 4 + bitsN (p 3) 6 4 * 16 + bitsN (p 3) 11 8 * 256 + p 1 + bitsN (p 3) 24 16 * 2 ^ 52);
   tget s.contexts ctx ≠ none → s.mapOk e → s.slotAt asid (p 0) level ≠ .other → b.holdsAny asid = none →
   (b.heldByLaunch asid (p 0) (pageSize level) → b.slotAt asid (p 0) level = .empty) →
    (b.rootTable asid = some (root, s1) → s1.entryPlace (p 0) level 3 root = some (pa, s2) →
     ∃ t, exec .map s = .next t ∧ t.mem = mstore s2.mem pa (bytesOf 8 e.toNat) ∧ t.queues = done ∧ (∀ k ∈ t.cores, ∀ x ∈ k.2.tlb, x.asid ≠ asid)) ∧
    (b.rootTable asid = none → exec .map s = .next (fin b 5 0))) ∧
  (let level := p 3 % 4
   let size := pageSize level
   let asid := s.cmdAsid
   tget s.contexts ctx ≠ none → s.paramsOk [maskOf 56 16, 0, maskOf 31 0, maskOf 1 0] → p 2 = 1 → p 3 ≠ 3 → p 0 % size = 0 → p 0 + size ≤ 2 ^ 57 →
   b.holdsAny asid = none → b.heldByLaunch asid (p 0) size = false → (s.slotAt asid (p 0) level = .other → exec .unmap s = .next (fin s 2 0)) ∧
    (s.slotAt asid (p 0) level ≠ .other → ∃ t, exec .unmap s = .next t ∧ t.queues = done ∧ (∀ k ∈ t.cores, ∀ x ∈ k.2.tlb, x.asid ≠ asid) ∧
     (s.slotAt asid (p 0) level = .empty → t.mem = s.mem) ∧ ∀ pa e, s.slotAt asid (p 0) level = .leaf pa e → t.mem = mstore s.mem pa (bytesOf 8 0))) ∧
  (tget s.contexts ctx = none → exec .map s = .next (fin s 2 0) ∧ exec .unmap s = .next (fin s 2 0) ∧ exec .freePage s = .next (fin s 2 0)) ∧
  (tget s.contexts ctx ≠ none → s.paramsOk [maskOf 56 16] →
   let asid := s.cmdAsid
   (∀ e, s.walk asid (p 0) = .leaf 0 e → leafClass e = 1 → b.holdsAny asid = none →
    let inPage (u : Nat × AppUnit) : Bool := decide (leafAddr e ≤ u.1) && decide (u.1 < leafAddr e + 0x10000)
    (∀ u ∈ s.units, inPage u → u.2.futs = []) →
     ∃ t, exec .freePage s = .next t ∧ t.units = s.units.filter (fun u => !inPage u) ∧ t.mem = s.mem ∧ t.queues = done) ∧
   ((∀ e, s.walk asid (p 0) = .leaf 0 e → leafClass e ≠ 1) → exec .freePage s = .next (fin s 2 0))) ∧
  (s.paramsOk [maskOf 51 12] → inMemory (p 0) 4096 → s.portDown (p 0) = false →
   ∃ t, exec .readManifest s = .next t ∧ t.queues = done ∧ t.cores = s.cores ∧
    ∀ a, mget t.mem a = if p 0 ≤ a ∧ a < p 0 + 4096 then s.manifest.getD (a - p 0) 0 else mget s.mem a)) ∧
 (∀ (s : State) (x : Context),
  let b := s.park
  let n := s.inp.n
  tget s.contexts n = some x → (s.queues.map (·.1)).Nodup → (s.inp.ok → ∃ t, exec .preempt s = .next t ∧
    (∃ sw, tget t.contexts n = some { x with floor := s.inp.addr, swapped := sw } ∧ ∀ d, d ∈ sw ↔ d ∈ x.swapped ∨ d < 4) ∧ t.cores = b.cores ∧
    t.mem = (if mload s.mem (x.fqBase + 16) 8 = 0 then mstore s.mem (x.fqBase + 16) (bytesOf 8 (saveBaseOf n)) else s.mem) ∧
    (b.coresHolding n = [] → CompletedAll s t 0x21 n) ∧
    (b.coresHolding n ≠ [] → t.queues = s.queues ∧ t.work = s.work ++ ((b.coresHolding n).filter (fun c => decide (dieOf c < 4))).map
     (fun c => todo .contextSave { Input.none with core := c, n := n }))) ∧
   (∀ c k, s.inp.ok → x.saved = [(c, k)] → tget x.siglog c = none → k.granuleWaits = [] → (b.harbour (dieOf c)).launches = [] →
    (∀ d ∈ b.coresHolding n, dieOf d ∉ x.swapped) → (b.getCore c).slots = [] → (b.getCore c).records = [] → b.unsettled c = none →
    (b.getCore c).cstate = .running →
     let k := ((b.saveArea n c).map (fun a => b.readSave a k)).getD k
     ∃ t, exec .resume s = .next t ∧ tget t.contexts n = some { x with saved := [], siglog := tdel x.siglog c, swapped := [] } ∧
     t.mem = s.mem ∧ CompletedAll s t 0x22 n ∧ (t.getCore c).ctx = some n ∧ (t.getCore c).asid = x.asid ∧
     ((b.getCore c).lastCtx ≠ some n → (t.getCore c).opMem = k.opMem) ∧ Restored k (t.getCore c))) ∧
 ∀ (m : Mem) (a n x : Nat), mget (mclear m a n) x = if a ≤ x ∧ x < a + n then 0 else mget m x

/-- R77-R84, R88-R91, R26. The model's choices: log 53, 57, 58; log 11: where the handover blocks and the running images lie; log 71: the bytes of a
block and its tables; log 9: the fabric after a loss of power. -/
def Obligations.FirmwareCommandsComplete : Prop :=
 (∀ (s : State) (q : HostQueue) (c : Started), InProgress s q c →
  let p := s.param
  let fin := finished q c
  let fw := s.fw
  let me := some (s.inp.queue, s.inp.n)
  let idle : Prop := fw.activating = none ∧ fw.committing = none
  let other := fw.slot (!fw.activeB)
  let withFw (f : Firmware) : State := { s with fw := f }
  (¬ idle → s.inp.ok → (∀ i ∈ [Instr.fwStage, Instr.fwActivate, Instr.fwCommit], exec i s = .next (fin s 0x0C 0))) ∧
  (∀ bs, idle → s.paramsOk [maskOf 63 0, maskOf 63 0, 1] → decide (p 2 = 1) = !fw.activeB → 1 ≤ p 1 → p 1 ≤ 32 * 1048576 →
   s.physBytes (p 0) (p 1) = some bs →
    ((fw.enforced → imageStatus fw bs true = 0) → exec .fwStage s = .next (fin { s.countRead (p 0) (p 1) with
     fw := fw.setSlot (!fw.activeB) { st := .staged, image := bs, fails := 0 }
     log := if imageStatus fw bs true = 0 then s.log else s.log ++ [(76, 0)] } 0 0)) ∧
    (imageStatus fw bs true ≠ 0 → fw.enforced → exec .fwStage s =
     .next (fin { s.countRead (p 0) (p 1) with fw := fw.setSlot (!fw.activeB) FwSlot.blank, log := s.log ++ [(76, 0)] } (imageStatus fw bs true) 0))) ∧
  (idle → s.inp.ok → s.paramsOk [] → (other.st ≠ .staged → exec .fwActivate s = .next (fin s 2 0)) ∧ (other.st = .staged → exec .fwActivate s =
    .next ((withFw { fw with activating := me, written := [], taken := [] }).owing .fwActivate { s.inp with ok := false }))) ∧
  (s.inp.ok = false → fw.activating = me → s.mbx.swap = false → (fw.enforced → imageStatus fw other.image true ≠ 0 → exec .fwActivate s =
    .next (fin (withFw { fw.setSlot (!fw.activeB) { other with st := .failed } with activating := none }) 0x0A 0)) ∧
   ((fw.enforced → imageStatus fw other.image true = 0) → ∃ t, exec .fwActivate s = .next t ∧
    t.fw = { fw with swapAt := s.time.toNat } ∧ t.mbx = { s.mbx with swap := true } ∧ t.queues = s.queues ∧
    t.mem = mstore s.mem (imageAt (!fw.activeB)) (other.image.drop 1536) ∧ ∀ h, h < 8 → todo .cpHandover { Input.none with hart := h } ∈ t.work)) ∧
  ((s.inp.ok ∧ idle ∧ s.paramsOk []) ∨ (s.inp.ok = false ∧ fw.committing = me) → (fw.counter < min 64 fw.svn → exec .fwCommit s =
    .next ((withFw { fw with counter := fw.counter + 1, committing := me }).owing .fwCommit { s.inp with ok := false })) ∧
   (min 64 fw.svn ≤ fw.counter → exec .fwCommit s = .next (fin (withFw { fw with committing := none }) 0 fw.counter))) ∧
  (s.paramsOk [] → exec .fwQuery s = .next (fin s 0 (fw.slotA.st.code + 256 * fw.slotB.st.code + 65536 * bit fw.activeB + 2 ^ 24 * (fw.counter % 256)))) ∧
  (let mode := p 1
   let m : Debug := if mode = 1 then .observe else .invasive
   let granted := s.unlockGranted
   let s1 := if fw.lifecycle = .provisioned ∨ fw.lifecycle = .production then s.countRead (p 0) 1536 else s
   let s2 := if fw.lifecycle = .production ∧ mode = 2 then s1.countRead (p 2) 1536 else s1;
   s.paramsOk [maskOf 63 0, 3, maskOf 63 0] → mode = 1 ∨ mode = 2 → (¬ granted → exec .debugUnlock s = .next (fin s2 0x0B 0)) ∧
    (granted → ¬ (fw.lifecycle = .production ∧ mode = 2) → ∃ t, exec .debugUnlock s = .next t ∧ t.fw.debug = m ∧
     t.queues = (fin s 0 0).queues ∧ t.mem = s.mem ∧ t.cores = s.cores ∧ t.fw.lifecycle = fw.lifecycle) ∧
    (granted → fw.lifecycle = .production → mode = 2 → ∃ t, exec .debugUnlock s = .next t ∧ t.units = s.units.filter (fun u => decide (hbmEnd ≤ u.1)) ∧ t.cores = [] ∧ t.fw.debug = .invasive ∧
     t.mbx.ready = false ∧ t.queues = [])) ∧
  (s.paramsOk [3, maskOf 63 0] → (fw.lifecycle = .manufacture → p 0 = 1 → ∃ t, exec .lifecycle s = .next t ∧ t.fw.lifecycle = .provisioned ∧
    t.fw.idKey = (if fw.debug = .invasive then .locked else .usable) ∧ t.queues = (fin s 0 0).queues ∧ t.mem = s.mem) ∧
   (fw.lifecycle = .provisioned → p 0 = 2 →
    (s.tokenAt (p 1) 2 2 [0] → exec .lifecycle s = .next (fin { s.countRead (p 1) 1536 with fw := { fw with lifecycle := .production } } 0 0)) ∧
    (s.tokenAt (p 1) 2 2 [0] = false → exec .lifecycle s = .next (fin (s.countRead (p 1) 1536) 0x0B 0))) ∧
   (fw.lifecycle = .production → p 0 = 3 → s.tokenAt (p 1) 2 3 [0] → ∃ t, exec .lifecycle s = .next t ∧ t.fw.lifecycle = .rma ∧
    t.fw.idKey = .destroyed ∧ t.fw.slotA = FwSlot.blank ∧ t.fw.slotB = FwSlot.blank ∧ (∀ a, mget t.mem a = if a < hbmEnd then 0 else mget s.mem a) ∧ (∀ k ∈ t.cores, k.2.loc = [] ∧ k.2.acc = []) ∧
    (∀ x ∈ t.contexts, x.2.siglog = [] ∧ ∀ k ∈ x.2.saved, k.2.loc = [] ∧ k.2.opMem = [] ∧ k.2.acc = [] ∧ k.2.records = []) ∧
    t.queues = (fin s 0 0).queues) ∧
   (fw.lifecycle = .rma → exec .lifecycle s = .next (fin s 2 0))) ∧
  (∀ bs, s.paramsOk [7, maskOf 63 0] → s.physBytes (p 1) 64 = some bs → (p 0 < 4 → exec .measureExtend s = .next (fin s 2 0)) ∧
   (4 ≤ p 0 → ∃ t, exec .measureExtend s = .next t ∧ t.queues = (fin s 0 0).queues ∧ t.mem = s.mem ∧
    ∀ n : Fin 8, t.fw.meas[n] = if n.val = p 0 then Config.sha512 (bytesOf 64 fw.meas[n] ++ bs) else fw.meas[n])) ∧
  (∀ tok key, s.paramsOk [maskOf 63 0, maskOf 63 0] → fw.lifecycle = .provisioned ∨ fw.lifecycle = .production →
   (4 ≤ fw.ownerRows.length → exec .ownerSet s = .next (fin s 5 0)) ∧
   (fw.ownerRows.length < 4 → s.physBytes (p 0) 1536 = some tok → s.physBytes (p 1) 512 = some key →
    let ok : Prop := tokenOk fw s.time.toNat tok 3 0 [0, 1] ∧ valueOf ((tok.drop 72).take 64) = Config.sha512 key
    let r := (s.countRead (p 0) 1536).countRead (p 1) 512
    (ok → exec .ownerSet s = .next (fin { r with fw := { fw with ownerRows := fw.ownerRows ++ [Config.sha512 key] } } 0 0)) ∧
    (¬ ok → exec .ownerSet s = .next (fin r 0x0B 0))))) ∧
 (∀ s : State,
  let fw := s.fw
  let h := s.inp.hart
  let other := fw.slot (!fw.activeB)
  let x := fw.slot fw.activeB
  let found := imageStatus fw x.image fw.bound
  let version := valueOf ((other.image.drop 16).take 8)
  (fw.activating ≠ none → h ∉ fw.taken → ((s.mbx.swap ∧ h < 8) ∨ (s.mbx.swap = false ∧ h = 8 ∧ 8 ≤ fw.taken.length) → h ∉ fw.written →
    ∃ t, exec .cpHandover s = .next t ∧ (∀ k, k ∈ t.fw.written ↔ k = h ∨ k ∈ fw.written) ∧ t.fw.taken = fw.taken ∧ t.harts = (s.enterImage h (!fw.activeB)).harts ∧
     (t.hart h).rv.pc = w64 (imageAt (!fw.activeB) + valueOf ((other.image.drop 32).take 8)) ∧
     t.mbx = s.mbx ∧ t.queues = s.queues ∧ t.work = s.work ++ [todo .cpHandover { Input.none with hart := h }] ∧
     ∀ i, i < 4096 → mget t.mem (handoverAt h + i) = (s.handoverBlock h version 0).getD i 0) ∧
   (s.mbx.swap → h < 8 → h ∈ fw.written → ∃ t, exec .cpHandover s = .next t ∧ t.mem = mstore s.mem (handoverAt h + 32) (bytesOf 8 1) ∧
    (t.hart h).handover = 1 ∧ (t.hart h).image = version ∧ (∀ k, k ∈ t.fw.taken ↔ k = h ∨ k ∈ fw.taken) ∧ t.queues = s.queues ∧
    (fw.taken.length < 7 → t.mbx = s.mbx) ∧ (fw.taken.length = 7 → t.mbx.swap = false ∧ todo .cpHandover { Input.none with hart := 8 } ∈ t.work)) ∧
   (s.mbx.swap = false → h = 8 → 8 ≤ fw.taken.length → h ∈ fw.written → ∀ (n cid : Nat) (q : HostQueue) (c : Started),
    fw.activating = some (n, cid) → tget s.queues n = some q → q.started.find? (fun c => c.uid == cid) = some c →
     ∃ t, exec .cpHandover s = .next t ∧ t.fw.activating = none ∧ t.fw.activeB = (!fw.activeB) ∧ (t.fw.slot t.fw.activeB).st = .good ∧
     t.fw.swaps = fw.swaps + 1 ∧ t.fw.version = version ∧ (t.hart 8).image = version ∧
     t.fw.meas[2] = Config.sha512 (bytesOf 64 fw.meas[2] ++ bytesOf 64 (Config.sha512 other.image)) ∧ t.queues = (q.doneOn c n cid s 0))) ∧
  (∀ (n cid : Nat) (q : HostQueue) (c : Started), fw.activating = some (n, cid) → tget s.queues n = some q →
   q.started.find? (fun c => c.uid == cid) = some c → s.mbx.swap → (s.time.toNat < fw.swapAt + 180000 → exec .swapTimeout s = .next s) ∧
    (fw.swapAt + 180000 ≤ s.time.toNat → ∃ t, exec .swapTimeout s = .next t ∧ t.mbx.swap = false ∧ t.fw.activating = none ∧
     t.fw.activeB = fw.activeB ∧ (t.fw.slot (!fw.activeB)).st = .failed ∧ (∀ k, k < 8 → (t.hart k).image = fw.version ∧ (t.hart k).handover = 2) ∧
     t.queues = (q.doneOn c n cid s 0x0A))) ∧
  (s.power ≠ .off → s.mbx.ready = false →
   (x.st = .staged ∨ x.st = .good → 1536 ≤ x.image.length → (fw.enforced → found = 0) → ∃ t, exec .boot s = .next t ∧ t.mbx.ready ∧
    t.mem = mstore s.mem (imageAt fw.activeB) (x.image.drop 1536) ∧ t.fw.version = valueOf ((x.image.drop 16).take 8) ∧ t.fw.meas[0] = Config.romDigest ∧ t.fw.meas[1] = Config.sha512 x.image ∧
    (∀ k, k < 9 → (t.hart k).image = t.fw.version ∧
     (t.hart k).rv = { Rv.reset with pc := w64 (imageAt fw.activeB + valueOf ((x.image.drop 32).take 8)) }) ∧ ∀ k, k < 512 → (t.getCore k).cstate = .running ∧ (t.getCore k).loc = []) ∧
   (x.st = .empty ∨ x.st = .failed → ∃ t, exec .boot s = .next t ∧ s.bootFailed t (fw.meas.set 0 Config.romDigest))) ∧
  (s.power ≠ .off → s.acting = false → s.mbx.ready = false → fw.recovery = false → fw.bootAt + 5000000000 ≤ s.time.toNat →
   ∃ t, exec .bootTimeout s = .next t ∧ s.bootFailed t fw.meas) ∧
  ∃ t, exec .powerLoss s = .next t ∧ t.power = .off ∧ t.mem = [] ∧ t.cores = [] ∧ t.queues = [] ∧ t.contexts = [] ∧ t.work = [] ∧
   t.fw.slotA = fw.slotA ∧ t.fw.slotB = fw.slotB ∧ t.fw.activeB = fw.activeB ∧ t.fw.lifecycle = fw.lifecycle ∧ t.fw.counter = fw.counter ∧
   t.fw.ownerRows = fw.ownerRows ∧ t.fw.debug = .off ∧ t.fabric = State.reset.fabric)

/-- R57-R59, R62-R65, R68-R71, R222, R256. The model's choices: log 12, 52, 56, 66; log 72 (PRESUMED): what a trap, an x register's write and a
retiring instruction do to a hart, and a CSR read as a kind of REGISTER_WRITE; log 70 and 58: BFRESA of an address or a future that memory does not
answer for. -/
def Obligations.QueuesAndRegistersAct : Prop :=
 ∀ s : State,
  let i := s.inp
  let b := s.park
  let reserved : Nat := 0x000000BF00000000
  let machine : Prop := (s.hart i.hart).rv.mode = .m;
  (∀ (n : Nat) (q : HostQueue) (v : Nat) (what : Instr) (adm : Bool),
   let head := (q.sqHead + 1) % 2 ^ q.log2
   let cid := v / 2 ^ 16 % 2 ^ 16
   let c := startedFrom s.cmdSeq v head
   b.turnQueue (i.queue % 8) = some (n, q) → q.fenced = none → s.readPhys (q.sq + 64 * q.sqHead) 64 = .ok v → v.testBit 32 = false →
    (b.entryStatus n v = 0 → commandOf (v % 2 ^ 16) = some (what, adm) → what ≠ .preempt → what ≠ .resume →
     ∃ t, exec .submissionFetch s = .next t ∧ tget t.queues n = some { q with sqHead := head, started := q.started ++ [c] } ∧
     t.agenda = todo what { Input.none with queue := n, n := s.cmdSeq, slot := c.ctx, bytes := bytesOf 48 (v / 2 ^ 128) } :: s.agenda ∧
     (∀ a, a < reserved → mget t.mem a = mget s.mem a) ∧ t.cores = b.cores) ∧
    (b.entryStatus n v ≠ 0 → (∀ d ∈ q.started, d.uid ≠ s.cmdSeq) → ∃ t, exec .submissionFetch s = .next t ∧
     tget t.queues n = some { q with
     sqHead := head, ready := q.ready ++ [{ cid := cid, sqhd := head, status := b.entryStatus n v, result := 0 }] } ∧
     t.agenda = s.agenda ∧ ∀ a, a < reserved → mget t.mem a = mget s.mem a)) ∧
  (∀ n q, b.turnQueue (i.queue % 8) = some (n, q) → tget s.queues n = some q ∧ n % 8 = i.queue % 8 ∧ q.stopped = false ∧ q.deleting = false ∧
   s.mbx.swap = false ∧ q.full = false) ∧
  (∀ (q : HostQueue) (c : Completion) (r : List Completion),
   let a := q.cq + 16 * q.cqTail
   let tail := (q.cqTail + 1) % 2 ^ q.log2
   i.addr = 0 → tget s.queues i.queue = some q → q.ready = c :: r → q.stopped = false → q.full = false → a % 16 = 0 → inMemory a 16 → s.portDown a = false →
    ∃ t, exec .commandCompletion s = .next t ∧ (∀ x, x < reserved → mget t.mem x = mget (mstore s.mem a (entryBytes c q.phase)) x) ∧
     tget t.queues i.queue = some { q with ready := r, cqTail := tail, phase := if tail = 0 then !q.phase else q.phase }) ∧
  (s.power ≠ .p4 → s.fromHost i.pkt → inMbx i.pkt.addr → i.pkt.data.length = 8 → i.pkt.addr % 8 = 0 →
   (∀ e ∈ s.windowOf i.pkt.src, e.sseq ≠ i.pkt.sseq) → (s.windowOf i.pkt.src).length < 4096 →
   (b.earlierDone i.pkt = false → ∃ (t : State) (p : Packet), exec .mailboxWrite s = .next t ∧ t.mbx = s.mbx ∧
    t.fabric.sent = s.fabric.sent ++ [p] ∧ p.op = opRetryLater ∧ p.dst = i.pkt.src ∧ p.sseq = i.pkt.sseq) ∧
   (b.earlierDone i.pkt → s.mbx.input.length < 256 → ∃ (t : State) (p : Packet), exec .mailboxWrite s = .next t ∧
     t.mbx.input = s.mbx.input ++ [{ off := i.pkt.addr - mbxBase, data := w64 (valueOf i.pkt.data) }] ∧
     t.fabric.sent = s.fabric.sent ++ [p] ∧ p.op = 0x11 ∧ p.dst = i.pkt.src ∧ p.sseq = i.pkt.sseq ∧ ∀ a, a < winBase → mget t.mem a = mget s.mem a)) ∧
  (∀ q, tget s.queues i.queue = some q → (i.n < 2 ^ q.log2 →
    (∃ t, exec .sqdb s = .next t ∧ t.queues = tset s.queues i.queue { q with sqTail := i.n } ∧
     t.work = s.work ++ [todo .submissionFetch { Input.none with queue := i.queue }] ∧ t.mbx.qerr = s.mbx.qerr) ∧
    (∃ t, exec .cqdb s = .next t ∧ t.queues = tset s.queues i.queue { q with cqHead := i.n } ∧ t.mbx.qerr = s.mbx.qerr)) ∧
   (2 ^ q.log2 ≤ i.n → ∀ x ∈ [Instr.sqdb, Instr.cqdb], ∃ t, exec x s = .next t ∧ t.queues = s.queues ∧
    t.mbx.qerr = s.mbx.qerr ||| w64 (2 ^ (i.queue % 64)))) ∧
  (∃ t, exec .admctlBind s = .next t ∧ (s.mbx.ready → s.mbx.admen = false → t.mbx.admen ∧ t.queues = tset s.queues 0
    (HostQueue.fresh s.mbx.admsq s.mbx.admcq s.mbx.admsize s.mbx.admnotn s.mbx.admnota s.mbx.admnotd)) ∧
   (s.mbx.ready = false ∨ s.mbx.admen → t.queues = s.queues ∧ t.mbx.admen = s.mbx.admen)) ∧
  (s.mbx.admen → ∃ t, exec .admctlUnbind s = .next t ∧ t.mbx.unbinding ∧ t.queues = s.queues ∧
   t.work = s.work ++ [todo .adminQueueUnbindDone Input.none]) ∧
  (∀ q, tget s.queues 0 = some q → s.mbx.unbinding → q.started = [] → q.ready = [] →
   exec .adminQueueUnbindDone s = .next { s with mbx := { s.mbx with admen := false, unbinding := false }, queues := tdel s.queues 0 }) ∧
  (i.n = 0 → (0x1000 ≤ i.addr → ∃ t, exec .registerWrite s = .next t ∧ (i.addr = mbxBase + 0x28 → t.mbx.qerr = s.mbx.qerr &&& ~~~ i.data) ∧
    (i.addr = mbxBase + 0x10 → s.mbx.admen = false → t.mbx.admsq = i.data.toNat &&& maskOf 51 12) ∧
    (∀ c, c < 512 → i.addr = portBase + 0x2000 * c → (b.getCore c).cstate = .quiesced → (b.getCore c).invalidating = none →
     (5 ≤ i.data.toNat % 16 ∧ i.data.toNat % 16 ≤ 13 → t.getCore c = { b.getCore c with vlcap := BitVec.ofNat 4 i.data.toNat }) ∧
     (i.data.toNat % 16 < 5 ∨ 13 < i.data.toNat % 16 → t.getCore c = { b.getCore c with cerrVal := true }))) ∧
   (i.addr = 0x7C2 → ∃ t, exec .registerWrite s = .next t ∧ (machine → (t.hart i.hart).irqEn = BitVec.ofNat 6 i.data.toNat) ∧
    (¬ machine → (t.hart i.hart).irqEn = (s.hart i.hart).irqEn ∧ (t.hart i.hart).rv = (s.hart i.hart).rv.trap false 2 0))) ∧
  (∀ v, i.n = 1 → i.hart < 9 → machine → (∀ e ∈ s.portHeld, e.2.what ≠ .registerWrite) → 0x7C0 ≤ i.addr → i.addr ≤ 0x7FF →
   b.readCsr i.hart i.addr = some v → exec .registerWrite s = .next (b.modRv i.hart (fun r => (r.setX i.queue v).retireBy 4))) ∧
  (¬ machine → ∀ x ∈ [Instr.bhmsub, .bfresaResolve, .bfresaFault, .bfltactResume, .bfltactKill, .bwdkick], ∃ t, exec x s = .next t ∧
   (t.hart i.hart).rv = (s.hart i.hart).rv.trap false 2 0 ∧ t.mem = s.mem ∧ t.contexts = s.contexts ∧ t.harbours = s.harbours) ∧
  (let d := i.hart / 2
   let pa := i.addr &&& maskOf 51 9
   machine → ((b.harbour d).submit.length < 64 → ∃ t, exec .bhmsub s = .next t ∧ (t.harbour d).submit = (b.harbour d).submit ++ [(pa, false, none)] ∧
    t.harts = s.harts ∧ t.work = s.work ++ [todo .hmTakeRecord { Input.none with die := d }]) ∧
   (64 ≤ (b.harbour d).submit.length → ∃ t, exec .bhmsub s = .next t ∧ (t.hart i.hart).ref ∧ t.harbours = s.harbours)) ∧
  (let pa := i.addr &&& maskOf 51 4
   let st := futSt (mload s.mem pa 8)
   machine → inMemory pa 16 → pa < 0xBFFFFE0000 →
    (s.bad pa 16 → ∀ x ∈ [Instr.bfresaResolve, Instr.bfresaFault], ∃ t, exec x s = .next t ∧ t.mem = s.mem ∧ t.harts = s.harts ∧
     t.log = s.log ++ [(58, pa)]) ∧
    (s.bad pa 16 = false → st < 2 → (∃ t, exec .bfresaResolve s = .next t ∧ mload t.mem pa 8 = 2 * 2 ^ 62 ∧ mload t.mem (pa + 8) 8 = 0 ∧
     (∀ a, a < pa ∨ pa + 16 ≤ a → mget t.mem a = mget s.mem a) ∧ t.harts = s.harts) ∧
     (∃ t, exec .bfresaFault s = .next t ∧ mload t.mem pa 8 = 3 * 2 ^ 62 ∧
     (∀ a, a < pa ∨ pa + 8 ≤ a → mget t.mem a = mget s.mem a) ∧ t.harts = s.harts)) ∧
    (s.bad pa 16 = false → 2 ≤ st → ∀ x ∈ [Instr.bfresaResolve, Instr.bfresaFault], ∃ t, exec x s = .next t ∧ t.mem = s.mem ∧ (t.hart i.hart).dbl)) ∧
  (let a := i.addr &&& (2 ^ 52 - 64);
  machine → (s.faultAtAddr a = none → ∀ x ∈ [Instr.bfltactResume, Instr.bfltactKill], ∃ t, exec x s = .next t ∧ (t.hart i.hart).ref ∧
   t.contexts = s.contexts ∧ t.mem = s.mem ∧ t.cores = s.cores) ∧
  (∀ (ctx c : Nat) (r : Record), s.faultAtAddr a = some (ctx, c, r) → r.trap.killed = false → (b.getCore c).ctx = some ctx →
   let k := b.getCore c
   let r1 := r.ofBytes (mbytes s.mem a r.length);
   (r.trap.image = false → r.trap.async = false → FreshDeposit k → RoomFor k r1.fullLength →
     ∃ (t : State) (r' : Record), exec .bfltactResume s = .next t ∧ r' ∈ (t.getCore c).records ∧ r'.dseq = k.dseq ∧ r'.ready ∧
     r'.pc = r1.pc ∧ r'.regs = r1.regs ∧ r'.trap = r1.trap ∧ r'.convoys = r1.convoys ∧
     ((tget (t.getCore c).order r1.prio).getD []).getLast? = some k.dseq ∧ (tget t.contexts ctx).all (fun x => (tget x.pendingFaults a).isNone)) ∧
   (r.stepAddr ≠ 0 → (k.step r.cell).live → ∃ t, exec .bfltactKill s = .next t ∧ ((t.getCore c).step r.cell).live = false ∧
    (∀ p ∈ (t.getCore c).slots, p.2.cell ≠ r.cell) ∧ (∀ x ∈ (t.getCore c).records, x.cell ≠ r.cell) ∧
    (tget t.contexts ctx).all (fun x => (tget x.pendingFaults a).isNone)))) ∧
  (machine → ∃ t, exec .bwdkick s = .next t ∧ (t.hart i.hart).lastKick = s.time.toNat ∧ (t.hart i.hart).wdw = false ∧ t.mem = s.mem ∧ t.cores = s.cores) ∧
  (let k := b.getCore i.core;
   k.invalidating = none →
   (k.cstate = .running → i.ok → k.slots = [] → ∃ t, exec .ccmdQuiesce s = .next t ∧ t.getCore i.core = { k with cstate := .quiesced }) ∧
   (k.cstate = .inReset → i.ok → ∃ t, exec .ccmdQuiesce s = .next t ∧ t.getCore i.core = { k with cerrBusy := true }) ∧
   (k.cstate = .quiesced → ∃ t, exec .ccmdResume s = .next t ∧ t.getCore i.core = { k with cstate := .running }) ∧
   (k.cstate = .inReset → ∃ t, exec .ccmdResume s = .next t ∧ (let k := t.getCore i.core
    k.cstate = .running ∧ k.loc = [] ∧ k.full = [] ∧ k.acc = [] ∧ k.opMem = [])) ∧
   (k.cstate = .quiesced → k.steps = [] → ∃ t, exec .ccmdReset s = .next t ∧ (let k := t.getCore i.core
    k.cstate = .inReset ∧ k.records = [] ∧ k.ctx = none)) ∧
   (k.cstate ≠ .quiesced → ∃ t, exec .ccmdReset s = .next t ∧ t.getCore i.core = { k with cerrBusy := true }) ∧
   (b.holdsOn i.core k i.n = none → b.publishHolds (fun p => p.core == i.core && p.asid == i.n) = none → ∃ t, exec .ccmdTlbinv s = .next t ∧
    t.getCore i.core = { k with tlb := k.tlb.filter (fun x => x.asid != i.n) }) ∧
   ∃ t, exec .ccmdFlushChainCache s = .next t ∧ (t.getCore i.core).chains = [] ∧ (t.getCore i.core).tlb = k.tlb)

/-- R86, R96-R98, R102, R108, R110-R117, R120, R132, R255, R266-R268, R435. The model's choices: log 17, 18, 46, 47, 48, 49, 50, 60. That FORCED_LEAVE
with ok false strikes a queued convoy is the model's choice (log 75), and so are the places of the save header's fields (log 73). -/
def Obligations.HarbourmastersAct : Prop :=
 ∀ s : State,
  let i := s.inp
  let b := s.park
  let d := i.die
  let K := b.getCore i.core
  let held := tget (b.harbour d).launches i.n;
  (∀ pa dev who rest slot v, (b.harbour d).submit = (pa, dev, who) :: rest → (b.harbour d).freeSlot = some slot → b.readPhys pa 512 = .ok v →
   let chk := (((b.modHarbour d (fun h => { h with submit := rest })).countRead pa 512).countTables v).checkRecord pa v dev who;
   (∀ off, chk.1.min? = some off → ∃ t, exec .hmTakeRecord s = .next t ∧ (t.harbour d).submit = rest ∧
    tget (t.harbour d).launches slot = some { chk.2 with st := .refused off } ∧ (dev = false → t.mem = s.mem) ∧
    todo .hmCompletionWrite { Input.none with die := d, n := slot } ∈ t.work) ∧
   (chk.1 = [] → ∃ t, exec .hmTakeRecord s = .next t ∧ (t.harbour d).submit = rest ∧ t.mem = s.mem ∧ t.cores = b.cores ∧
    tget (t.harbour d).launches slot = some chk.2 ∧ todo .walkerStep { Input.none with die := d, n := slot } ∈ t.work)) ∧
  (∀ l x, held = some l → tget b.contexts l.ctx = some x → x.swapped.contains d = false →
   let k := K
   (k.suits l → i.core ∉ l.cores) → b.mayConfigure i.core d i.n l →
    ∃ t, exec .launchCoreConfigure s = .next t ∧ ∀ c, c = i.core ∨ (l.gang ∧ c = partnerOf i.core) →
     let u := t.getCore c
     Configured l u ∧ ((b.getCore c).lastCtx ≠ some l.ctx → u.loc = [] ∧ u.full = [] ∧ u.opMem = [] ∧ u.acc = [])) ∧
  (∀ l, held = some l → l.st = .active → i.core ∉ l.cores → b.mayConfigure i.core d i.n l = false →
    exec .launchCoreConfigure s = .next (b.owing .launchCoreConfigure i)) ∧
  (∀ l, held = some l → l.st = .active → l.walked < l.total → l.full 0 = false → l.loops.length ≤ 6 → 0 < l.queues.length →
   let lcore := l.walked / max l.chunk 1 % max l.ncore 1
   let on := (l.place lcore).any (fun c => dieOf c == d)
   ∃ (t : State) (l' : Launch), exec .walkerStep s = .next t ∧ tget (t.harbour d).launches i.n = some l' ∧ l'.walked = l.walked + 1 ∧ t.cores = b.cores ∧
    (on = false → l'.queues = l.queues ∧ t.mem = s.mem) ∧ (on → ∃ e, (l'.queue 0).entries = (l.queue 0).entries ++ [e] ∧ e.lcore = lcore ∧
     ∀ pa, b.physOf l.asid (l.qbase d 0 + 64 * e.place) = some pa → EntryAt t.mem pa (walkIndices l.loops l.walked) l.topb)) ∧
  (∀ l e r, tget (s.harbour d).launches i.n = some l → (l.queue i.queue).entries = e :: r → e.aged = false → i.queue < l.queues.length →
   (s.time.toNat < e.since + 820 → exec .queueAgeReady s = .next (s.owing .queueAgeReady i)) ∧
   (e.since + 820 ≤ s.time.toNat → ∃ (t : State) (l' : Launch), exec .queueAgeReady s = .next t ∧ tget (t.harbour d).launches i.n = some l' ∧
    (l'.queue i.queue).entries = { e with aged := true } :: r ∧ t.mem = s.mem ∧ t.cores = s.cores)) ∧
  (let c := i.core
   let k := b.getCore c
   b.grantable c → k.fillable c false → k.fillable c true = false →
    (∀ q rest r, tget k.order 0 = some (q :: rest) → k.record q = some r → 2 ^ r.vlenbl = k.vlenb → r.isa = 3 → r.spilled = false → r.damaged = false →
     k.locBad (k.moorBase + 0x2000 + 64 * r.block) r.length = false →
     ∃ (t : State) (st : Strand), exec .strandGrant s = .next t ∧ tget (t.getCore c).slots (k.nextSlot false) = some st ∧ st.pc = r.pc ∧
     st.cell = r.cell ∧ st.regs = (b.strandOf c r).regs ∧ (t.getCore c).record q = none ∧ t.mem = s.mem) ∧
    (∀ slot l g e cell, (∀ p, (tget k.order p).getD [] = []) → b.candidates c 0 = [(slot, l, g, e)] →
     tget (b.harbour (dieOf c)).launches slot = some l → k.suits l → c ∈ l.cores → g < l.queues.length → (l.queue g).waits = [] →
     cell = k.freeCell + 64 * k.started →
     ∃ (t : State) (st : Strand) (l' : Launch), exec .strandGrant s = .next t ∧ tget (t.getCore c).slots (k.nextSlot false) = some st ∧
     st.pc = w64 (l.stages.getD g Stage.none).entry ∧ st.regs.xs[3] = w64 (k.cellAddr cell) ∧ st.cell = cell ∧
     StepBegun ((t.getCore c).step cell) e g ∧ tget (t.harbour (dieOf c)).launches slot = some l' ∧
     (l'.queue g).entries = (l.queue g).entries.erase e ∧ t.mem = s.mem)) ∧
  (∀ p sl, K.cstate = .running → K.fillable i.core false = false → K.fillable i.core true = false →
   b.barred i.core = false → (∀ x ∈ K.slots, x.2.leaving = false) →
   (List.range 8).find? (fun p => !((tget K.order p).getD []).isEmpty || !(b.candidates i.core p).isEmpty) = some p → b.victim i.core p = some sl →
    exec .preemptDecision s = .next { b.modCore i.core (·.markLeaving sl) with
     agenda := todo .forcedLeave { Input.none with
        core := i.core, slot := sl, addr := ((tget K.slots sl).map (·.granted)).getD 0 } :: s.agenda }) ∧
  (∀ st, tget K.slots i.slot = some st → st.granted = i.addr →
   let f := b.focus i.core i.slot
   (f.core.mayStop f.slot f.strand = false → i.ok →
    exec .forcedLeave s = .next { f.owing .forcedLeave i with strand := { f.strand with leaving := true }, turn := 4 }) ∧
   (i.ok = false → exec .forcedLeave s = .next { f with strand := f.strand.strike i.n }) ∧
   (∀ x ∈ [Instr.scoreboardTimeout, Instr.hazardTimeout, Instr.convoySplit], (st.waiting = none → exec x s = .next b) ∧
    (st.waiting ≠ none → st.waited s.time.toNat = false → exec x s = .next (b.owing x i)) ∧
    (st.waited s.time.toNat → f.core.mayStop f.slot f.strand = false → exec x s = .next { f.owing x i with turn := 4 })) ∧
   ∀ x ∈ [Instr.forcedLeave, Instr.scoreboardTimeout, Instr.hazardTimeout, Instr.convoySplit], (if x = .forcedLeave then i.ok = true else st.waited s.time.toNat) →
    (f.core.mayStop f.slot f.strand → st.running = true ∨ st.src = none → st.wait = .none →
     let p := f.stopStrand .preempt TrapBlock.none i.n
     let k := p.2.vacate.getCore i.core
     FreshDeposit k → RoomFor k p.1.fullLength →
     ∃ (t : State) (r : Record), exec x s = .next t ∧ tget (t.getCore i.core).slots i.slot = none ∧ Preempted k (t.getCore i.core) st r) ∧
    (∀ r, f.core.mayStop f.slot f.strand → st.running = false → st.src = some r →
     ∃ t, exec x s = .next t ∧ tget (t.getCore i.core).slots i.slot = none ∧ r ∈ (t.getCore i.core).records ∧
      ((tget (t.getCore i.core).order r.prio).getD []).head? = some r.dseq ∧ t.mem = s.mem)) ∧
  (∀ l, held = some l → l.st = .active → b.launchDone d i.n l →
   let tw := b.twins d l
   let last := LastToEnd l tw
   let due (t : State) (e n : Nat) : Prop := todo .hmCompletionWrite { Input.none with die := e, n := n } ∈ t.work;
   (∃ t, exec .launchEnd s = .next t ∧ tget (t.harbour d).launches i.n = some { l with st := .ended } ∧
    (l.donef = 0 → due t d i.n ∧ t.mem = s.mem) ∧ (l.donef ≠ 0 → ¬ last → t.mem = s.mem ∧ t.work = s.work) ∧
    (l.donef ≠ 0 → last → due t d i.n ∧ (∀ x ∈ tw, due t x.1 x.2.1) ∧
     ∀ f, b.physOf l.asid l.donef = some f → s.bad f 16 = false → futSt (mload s.mem f 8) < 2 → mload t.mem f 8 = 2 * 2 ^ 62 ∧
     mload t.mem (f + 8) 8 = (l.faulted + (tw.map (·.2.2.faulted)).sum) % 2 ^ 64))) ∧
  (∀ l, held = some l → l.st ≠ .active →
   ((b.harbour d).done.length < 64 → ∃ t, exec .hmCompletionWrite s = .next t ∧ tget (t.harbour d).launches i.n = none ∧
    (t.harbour d).done = (b.harbour d).done ++ [l.doneEntry i.n] ∧ t.mem = s.mem) ∧
   (64 ≤ (b.harbour d).done.length → ∃ t, exec .hmCompletionWrite s = .next t ∧ i.n ∈ (t.harbour d).pending ∧
    (t.harbour d).launches = (b.harbour d).launches ∧ (t.harbour d).done = (b.harbour d).done)) ∧
  (∀ e r, (s.harbour d).done = e :: r →
   (∃ t, exec .hmcqpop s = .next t ∧ (t.harbour d).done = r ∧ (e.byDevice → t.queues = s.queues) ∧ t.mem = s.mem) ∧
   (∀ n q c, e.byDevice = false → s.queues = [(n, q)] → q.started = [c] → e.who = some c.uid → c.dies = [d] →
    let refusal := if c.refusal.isSome ∨ e.status = 0 then c.refusal else some e.offset
    ∃ t, exec .hmcqpop s = .next t ∧ tget t.queues n = some { q with
     started := []
     ready := q.ready ++ [{
     cid := c.cid, sqhd := c.sqhd, status := if refusal.isSome then 2 else 0
     result := w64 (refusal.getD (c.faulted + e.faulted)) }] })) ∧
  (∀ q c e, InProgress s q c → c.resubmit = [e] → ((s.harbour e).submit.length < 64 → ∃ t, exec .launchResubmit s = .next t ∧
    (t.harbour e).submit = (s.harbour e).submit ++ [(c.record, false, some i.n)] ∧
    tget t.queues i.queue = some { q with started := q.started.map (fun x => if x = c then { c with resubmit := [] } else x) }) ∧
   (64 ≤ (s.harbour e).submit.length → ∃ t, exec .launchResubmit s = .next t ∧ t.harbours = s.harbours ∧
    (t.hart (2 * e + i.queue % 2)).ref = false ∧ todo .launchResubmit i ∈ t.work)) ∧
  (∀ x, tget s.contexts i.n = some x → K.ctx = some i.n → x.swapped.contains (dieOf i.core) → b.unsettled i.core = none →
   let k := K.takeInbox
   let base := s.peek (x.fqBase + 16) 8
   let a := base + i.core * 0x400000
   ∃ t, exec .contextSave s = .next t ∧ (t.getCore i.core).ctx = none ∧ (t.getCore i.core).records = [] ∧
    (tget t.contexts i.n).bind (fun x => tget x.saved i.core) = some { k with ctx := none } ∧ (base = 0 → t.mem = s.mem) ∧
    (base ≠ 0 → Memory.wf k.loc → Memory.wf k.opMem → SavedAt k t.mem a)) ∧
  (∀ ctx x r, K.ctx = some ctx → tget s.contexts ctx = some x → K.record i.n = some r → r.held → r.trap.killed = false →
   let n := ceilDiv r.fullLength 64;
   (¬ RingRoom b x n → exec .faultQueueRetry s = .next (b.owing .faultQueueRetry i)) ∧
   (RingRoom b x n → Memory.wf s.mem → ∃ t, exec .faultQueueRetry s = .next t ∧ (t.getCore i.core).record i.n = none ∧
    (tget t.contexts ctx).bind (fun x => tget x.pendingFaults (ringPlace b x n)) = some (i.core, { r with held := false, length := r.fullLength }) ∧
    mload t.mem (x.fqBase + 24) 8 = (mload s.mem (x.fqBase + 24) 8 - 1) % 2 ^ 64)) ∧
  (∀ sl st, let k := K
   let step := k.step i.slot
   k.slots.find? (fun p => p.2.cell == i.slot && p.2.running) = some (sl, st) → tget k.slots sl = some st → k.ctx.isSome →
   step.live → (b.stageOf step).budget ≠ 0 → (b.stageOf step).budget ≤ step.rescyc → (b.focus i.core sl).core.mayStop sl (b.focus i.core sl).strand →
    ∃ t, exec .stepBudgetExpiry s = .next t ∧ ((t.getCore i.core).step i.slot).live = false ∧
     (∀ p ∈ (t.getCore i.core).slots, p.2.cell ≠ i.slot) ∧ t.wdCount[0] = s.wdCount[0] + 1) ∧
  (let ls := ((b.harbour d).launches.filter (fun p => p.2.ctx == i.n && decide (p.2.st = .active))).map (·.2);
   (tget b.contexts i.n).isSome → ls ≠ [] → (∃ c ∈ b.coresHolding i.n, dieOf c = d ∧ ∃ p ∈ (b.getCore c).steps, p.2.live) → (∀ l ∈ ls, l.progress + l.beat ≤ s.time.toNat) →
    ∃ t, exec .heartbeatExpiry s = .next t ∧ t.log = s.log ++ [(85, i.n)] ∧ t.wdCount[1] = s.wdCount[1] + 1 ∧
     (tget t.contexts i.n).any (·.swapped.contains d) ∧ todo .resume { Input.none with n := i.n, die := d, ok := false } ∈ t.work)

/-- R85, R87, R94, R95. The model's choices: log 4, 9, 11, 59, 61, 62, 65; that on a sleeping die a hart's timer stands still, and the management
core's while it is not in P0, is log 7's. -/
def Obligations.WatchdogAndManagementAct : Prop :=
 ∀ s : State,
  let i := s.inp
  let q := i.pkt
  let b := s.park
  let now := s.time.toNat
  let h := i.hart % 8
  let ht := s.hart h
  let d := i.die % 4;
  let asleep := s.dieSleep.contains (h / 2);
  (asleep = true ∨ now < ht.lastKick + 5000000 → exec .watchdogWarning s = .next s) ∧
  (asleep = false → ht.lastKick + 5000000 ≤ now → ∃ t, exec .watchdogWarning s = .next t ∧ t.hart h = { ht with wdw := true } ∧ { t with harts := s.harts } = s) ∧
  (asleep = true ∨ now < ht.lastKick + 10000000 ∨ (s.mbx.swap ∧ s.fw.taken.contains h = false) → exec .warmRestart s = .next s) ∧
  (let again : Prop := ht.restarts ≠ 0 ∧ now ≤ ht.restartAt + 1000000000;
   asleep = false → ht.lastKick + 10000000 ≤ now → s.mbx.swap = false ∨ s.fw.taken.contains h → (again ∧ 2 ≤ ht.restarts → exec .warmRestart s =
     .next { s with agenda := todo .dieReset { Input.none with die := h / 2 } :: s.agenda }) ∧
    (¬ (again ∧ 2 ≤ ht.restarts) → ∃ t, exec .warmRestart s = .next t ∧ t.wdCount[2] = s.wdCount[2] + 1 ∧
     (∃ n, (again → n = ht.restarts + 1) ∧ (¬ again → n = 1) ∧
     t.hart h = { ht with restarts := n, restartAt := now, lastKick := now, wdw := false, rv := s.fw.start }) ∧
     t.queues = s.queues ∧ t.contexts = s.contexts ∧ t.cores = s.cores ∧ t.apertures = s.apertures ∧ t.mem = s.mem)) ∧
  (i.ok → ∃ t, exec .dieReset s = .next t ∧ t.mbx.halt ∧ t.wdCount[3] = s.wdCount[3] + 1 ∧
   (∀ c, c / 128 = d → let k := t.getCore c; k.cstate = .inReset ∧ k.slots = [] ∧ k.records = [] ∧ k.ctx = none) ∧
   (∀ c, c / 128 ≠ d → { t.getCore c with records := (b.getCore c).records } = b.getCore c) ∧ t.harbour d = Harbour.reset ∧
   (∀ n u, tget t.queues n = some u → n % 8 / 2 = d → u.started = []) ∧ todo .dieReset { i with ok := false } ∈ t.work) ∧
  (i.ok = false → ∃ t, exec .dieReset s = .next t ∧ ((∀ x ∈ s.haltDies, x = d) → t.mbx.halt = false) ∧ t.mem = s.mem ∧
   (∀ c, c / 128 = d → (b.getCore c).cstate = .inReset →
    let k := t.getCore c; k.cstate = .running ∧ k.loc = [] ∧ k.full = [] ∧ k.acc = []) ∧
   (∀ c, c / 128 ≠ d → t.getCore c = b.getCore c) ∧ (t.hart (2 * d)).lastKick = now ∧ (t.hart (2 * d + 1)).lastKick = now) ∧
  (i.ok → (s.hart 8).power ≠ .p0 ∨ now < (s.hart 8).lastKick + 100000000 → exec .moduleReset s = .next s) ∧
  (i.ok = false ∨ ((s.hart 8).power = .p0 ∧ (s.hart 8).lastKick + 100000000 ≤ now) → ∃ t, exec .moduleReset s = .next t ∧ ModuleResetDone s t ∧
   (i.ok = false → t.fabric.sent = s.fabric.sent ∧ t.wdCount = s.wdCount) ∧
   (i.ok → s.fabric.unacked s.fw.reportNode < 4096 → t.wdCount[4] = s.wdCount[4] + 1 ∧ ∃ p : Packet, t.fabric.sent = s.fabric.sent ++ [p] ∧ p.op = 0x09 ∧ p.dst = s.fw.reportNode ∧
    p.data = bytesOf 2 s.fabric.node ++ bytesOf 8 now ++ t.wdCount.toList.flatMap (bytesOf 4))) ∧
  (FreshRequest s q →
   (let draw := s.draws
    let u : State := { b with draws := draw + 1 }
    let bs := u.spdmResponse q.data draw
    let busy : Prop := s.fw.activating.isSome ∧ s.fw.written.contains 8 = true;
    (∀ x ∈ [Instr.getVersion, .getCapabilities, .negotiateAlgorithms, .getDigests, .getCertificate, .challenge, .getMeasurements],
     ∃ t, exec x s = .next t ∧ (bs.length ≤ 1024 → AnsweredFrom u t q 0x10 0 bs) ∧
     (1024 < bs.length → AnsweredFrom { u with fw := { s.fw with spdm := bs } } t q 0x10 0 (spdmError 15 q.data draw))) ∧
    SpdmContents u q.data draw bs ∧
    (let (part, first, last) := chunkOf q.data
     let msg := if first then part else s.fw.spdm ++ part
     let v : State := { u with fw := { s.fw with spdm := if last then [] else msg } }
     ∃ t, exec .chunkSend s = .next t ∧ (busy → AnsweredFrom u t q 0x10 0 (spdmError 3 q.data draw)) ∧
     (¬ busy → last = false → AnsweredFrom v t q 0x10 0 ((Config.spdmBytes 0x85 q.data draw).take 1024)) ∧
     (¬ busy → last → (v.spdmResponse msg draw).length ≤ 1024 → AnsweredFrom v t q 0x10 0 (v.spdmResponse msg draw))) ∧
    (∃ t, exec .chunkGet s = .next t ∧ (busy → AnsweredFrom u t q 0x10 0 (spdmError 3 q.data draw)) ∧
     (¬ busy → AnsweredFrom { u with fw := { s.fw with spdm := s.fw.spdm.drop 1024 } } t q 0x10 0 (s.fw.spdm.take 1024)))) ∧
   (∃ t, exec .reservedManagementChannel s = .next t ∧ AnsweredFrom { b with log := s.log ++ [(95, q.addr)] } t q 0x12 0 [0x11]) ∧
   (s.fw.recovery = false → ∀ x ∈ [Instr.rcvyBegin, .rcvyData, .rcvyEnd, .rcvyQuery],
    ∃ t, exec x s = .next t ∧ AnsweredFrom b t q 0x10 1 (bytesOf 2 0x0C)) ∧
   (s.fw.recovery →
    let hdr (type : Nat) : Prop := q.data.take 4 = ascii "RCVY" ∧ fld q.data 4 1 = type ∧ fld q.data 5 1 ≤ 1 ∧ fld q.data 6 2 = 0
    let into (f : Firmware) : State := { b with fw := f }
    let ok := bytesOf 2 0
    let bs := q.data.drop 16
    let off := fld q.data 8 8
    let have_ := s.fw.rcvyBytes.length
    let sb := decide (fld q.data 5 1 = 1)
    let found := imageStatus s.fw s.fw.rcvyBytes true;
    (∀ x type, (x, type) ∈ [(.rcvyBegin, 1), (.rcvyData, 2), (.rcvyEnd, 3), (.rcvyQuery, 4)] → ¬ hdr type →
     ∃ t, exec x s = .next t ∧ AnsweredFrom b t q 0x10 1 (bytesOf 2 2)) ∧
    (hdr 1 → s.fw.staging = false ∨ s.fw.rcvyNode = q.src → 1536 ≤ off → (off - 1536) % 4096 = 0 → off ≤ 32 * 1048576 →
     ∃ t, exec .rcvyBegin s = .next t ∧ AnsweredFrom (into { s.fw.setSlot sb FwSlot.blank with
     staging := true, rcvySlotB := sb, rcvyNode := q.src, rcvyLen := off, rcvyBytes := [] }) t q 0x10 1 ok) ∧
    (hdr 2 → s.fw.staging → (off < have_ → ∃ t, exec .rcvyData s = .next t ∧ AnsweredFrom b t q 0x10 1 ok) ∧
     (off = have_ → 1 ≤ bs.length → bs.length ≤ 1008 → have_ + bs.length ≤ s.fw.rcvyLen →
     ∃ t, exec .rcvyData s = .next t ∧ AnsweredFrom (into { s.fw with rcvyBytes := s.fw.rcvyBytes ++ bs }) t q 0x10 1 ok)) ∧
    (hdr 4 → off = 0 → ∃ t, exec .rcvyQuery s = .next t ∧ AnsweredFrom b t q 0x10 1 (ok ++ bytesOf 6 0 ++ bytesOf 8 s.fw.query)) ∧
    (hdr 3 → off = 0 → s.fw.staging → s.fw.rcvyLen ≤ have_ → (s.fw.enforced → found ≠ 0 → ∃ t, exec .rcvyEnd s = .next t ∧
     AnsweredFrom (into { s.fw with staging := false, rcvyBytes := [], rcvyLen := 0 }) t q 0x10 1 (bytesOf 2 found)) ∧
     (s.fw.enforced = false ∨ found = 0 → ∃ t, exec .rcvyEnd s = .next t ∧ Responded s t q 0x10 1 ok ∧
     t.fw.activeB = s.fw.rcvySlotB ∧ t.fw.slot s.fw.rcvySlotB = { st := .staged, image := s.fw.rcvyBytes, fails := 0 } ∧
     t.fw.recovery = false ∧ t.mbx.ready = false ∧ t.queues = [] ∧ todo .boot Input.none ∈ t.work))))

/-- R14-R28, R34, R45, R48, R89. The model's choices: log 7, 9, 63, 64; that a flit's CRED credits go to the class of its own TC field, and what a
link has as it comes up, are log 70's. -/
def Obligations.LinksAndPowerAct : Prop :=
 ∀ s : State,
  let i := s.inp
  let b := s.park
  let now := s.time.toNat;
  (∀ l, tget s.fabric.links i.n = some l →
   let h := fld i.bytes 0 8
   let ftype := h % 16
   let tc := bitsN h 15 13
   let lseq := bitsN h 23 16
   let whole : Prop := i.bytes.length = 128 ∧ Config.crc64 (i.bytes.take 120) = fld i.bytes 120 8
   let paid : Link := { l with
    credits := tset l.credits tc ((tget l.credits tc).getD 0 + bitsN h 31 24)
    held := if tc = 3 then retireHeld l.held (bitsN h 31 24) else l.held }
   let onLink (t : State) (u : Link) : Prop := tget t.fabric.links i.n = some u ∧ { t with fabric := s.fabric } = s;
   (¬ whole → ∃ t, exec .flitReceive s = .next t ∧ onLink t { l with askReplay := some l.rxLseq }) ∧
   (whole → 3 < ftype → ∃ t, exec .flitReceive s = .next t ∧ tget t.fabric.links i.n = some { l with retraining := true } ∧
    todo .linkRetrainDone { Input.none with n := i.n } ∈ t.work) ∧
   (whole → ftype = 0 ∨ ftype = 3 → ∃ t, exec .flitReceive s = .next t ∧ onLink t paid) ∧
   (whole → ftype = 1 ∨ ftype = 2 → lseq ≠ l.rxLseq → exec .flitReceive s = .next s) ∧
   (∀ p, whole → ftype = 1 → lseq = l.rxLseq → bitsN h 11 8 = 0 → s.power ≠ .p4 →
    packetOfFlits [{ cred := bitsN h 31 24, tc := tc, cmp := h.testBit 12, len := 0, lseq := lseq, first := true
                     payload := (i.bytes.drop 8).take 112 }] = some p →
     let got : Link := { paid with
     rxLseq := (lseq + 1) % 256, askReplay := none, rx := [], owed := tset l.owed tc ((tget l.owed tc).getD 0 + 1) }
     let act : Todo := { what := packetRow p, inp := { Input.none with pkt := p } }
     (p.mc = false → p.dst = s.fabric.node → ∃ t, exec .flitReceive s = .next t ∧ tget t.fabric.links i.n = some got ∧ t.agenda = act :: s.agenda) ∧
     (p.mc = false → p.dst ≠ s.fabric.node → ∃ t, exec .flitReceive s = .next t ∧ t.agenda = s.agenda ∧
     (s.fabric.reaches p.dst → t.fabric.sent = s.fabric.sent ++ [p]) ∧
     (s.fabric.reaches p.dst = false → p.op < 0x10 → t.fabric.sent = s.fabric.sent ++ [noRoute p])) ∧ (p.mc → ∃ t, exec .flitReceive s = .next t ∧
     t.agenda = (if ((tget s.fabric.groups p.dst).getD []).contains s.fabric.node then act :: s.agenda else s.agenda))) ∧
   (∃ t, exec .linkReplay s = .next t ∧ onLink t { l with
    again := l.replay.dropWhile (fun f => f.lseq != i.addr) ++ l.again
    replay := l.replay.takeWhile (fun f => f.lseq != i.addr) }) ∧
   (∃ t, exec .linkRetrainDone s = .next t ∧ onLink t (if l.retraining then
    { l with retraining := false, again := l.replay ++ l.again, replay := [] } else l)) ∧
   (let w := min i.addr 2
    let l' : Link := if i.ok then { l with txLanes := min w l.txLanes } else { l with rxLanes := min w l.rxLanes };
    (w ≠ 0 → ∃ t, exec .laneLoss s = .next t ∧ tget t.fabric.links i.n = some { l' with retraining := true } ∧
     todo .linkRetrainDone { Input.none with n := i.n } ∈ t.work) ∧
    (w = 0 →
     let f : Fabric := { s.fabric with links := tset s.fabric.links i.n { l' with queues := [], tx := [], again := [], replay := [], going := [], held := [] } }
     let ps := l.going ++ l.queues.flatMap (·.2);
     (∀ p ∈ ps, p.mc = false) → (∀ p ∈ l.held, p.1.mc = false) → s.fabric.splits = [] →
     ((∀ p ∈ ps, f.route p.dst = none) → exec .laneLoss s = .next { s with fabric := f, log := s.log ++ [(22, i.n)] }) ∧
     (∀ m x, (∀ p ∈ ps, f.route p.dst = some m) → tget f.links m = some x → ∃ t, exec .laneLoss s = .next t ∧
      tget t.fabric.links m = some (ps.foldl Link.enqueue x) ∧ t.log = s.log ++ [(22, i.n)]))) ∧
   (∀ c p r, let u := Link.send i.addr l
    let fs := u.schedule p
    c < 8 → tget l.queues c = some (p :: r) → (∀ e, e < 8 → e ≠ c → (tget l.queues e).getD [] = []) → l.retraining = false → l.up →
     fs.length ≤ (tget l.credits c).getD 0 → u.tx.length + fs.length ≤ 512 →
     ∃ t, exec .packetSchedule s = .next t ∧ onLink t (Link.settle { u with
      queues := tset l.queues c r
      credits := tset l.credits c ((tget l.credits c).getD 0 - fs.length)
      tx := u.tx ++ fs
      going := u.going ++ [p]
      held := if c = 3 then u.held ++ [(p, fs.length)] else u.held
      lseq := (u.lseq + fs.length) % 256
      rr := c }))) ∧
  (let ns := i.bytes.map (·.toNat)
   let ready : Prop := ∀ n ∈ ns, ∃ l, tget s.fabric.links n = some l ∧ l.hasCredit (opClass i.pkt.op) = true;
   s.fabric.splits = [] → ns ≠ [] → (¬ ready → exec .multicastSplit s =
     .next (State.owing { s with fabric := { s.fabric with splits := [(i.pkt, ns)] } } .multicastSplit Input.none)) ∧
    (ready → ns.Nodup → ∃ t, exec .multicastSplit s = .next t ∧ { t with fabric := s.fabric } = s ∧
     ∀ n ∈ ns, ∀ l, tget s.fabric.links n = some l → tget t.fabric.links n = some (l.enqueue i.pkt))) ∧
  (s.awaited i.queue i.n = none → exec .retransmitTimeout s = .next s) ∧ (∀ p, s.awaited i.queue i.n = some p →
   (p.later = true ∨ p.out = false ∨ now < p.sentAt + 100000 → exec .retransmitTimeout s = .next (s.owing .retransmitTimeout i)) ∧
   (p.later = false → p.out → p.sentAt + 100000 ≤ now → p.resends < 8 → ∃ t, exec .retransmitTimeout s = .next t ∧
    t.fabric.sent = s.fabric.sent ++ [{ p.pkt with rtx := true }] ∧ t.fabric.out = s.fabric.out.map (fun x => if x = p then
     { p with pkt := { p.pkt with rtx := true }, resends := p.resends + 1, sentAt := now, later := false } else x)) ∧
   (∀ ctx core, p.later = false → p.out → p.sentAt + 100000 ≤ now → 8 ≤ p.resends → (∀ x ∈ s.fabric.out, x.out) →
    p.purpose = .answer ctx core → ∃ t, exec .retransmitTimeout s = .next t ∧ t.fabric.out = s.fabric.out.erase p ∧
     t.agenda = answerTo p ctx core false 0x40 0 :: s.agenda)) ∧
  exec .clockFailover s = .next { s with clkFail := true, log := s.log ++ [(24, 0)] } ∧
  (∃ t, exec .cxlViral s = .next t ∧ (∀ m : Fin 4, t.cxl[m] = if m.val = i.n % 4 then .viral else s.cxl[m]) ∧ { t with cxl := s.cxl } = s) ∧
  (∃ t, exec .patrolScrub s = .next t ∧ Scrubbed s t (i.n % 12)) ∧
  (let k := b.getCore i.core
   let calm : Prop := k.power = .p0 ∧ k.slots = [] ∧ ∀ p ∈ k.order, p.2 = [];
   (calm → ∃ t, exec .p1Entry s = .next t ∧ t.getCore i.core = { k with power := .p1 } ∧ t.mem = s.mem) ∧ (¬ calm → exec .p1Entry s = .next b) ∧
   (k.power = .p1 → b.unsettled i.core = none → ∃ t, exec .p2Entry s = .next t ∧ (t.getCore i.core).power = .p2 ∧
    (let k' := t.getCore i.core; k'.loc = k.loc ∧ k'.full = k.full ∧ k'.records = k.records ∧ k'.tags = k.tags) ∧
    t.draws = s.draws + 2 ∧ t.mem = s.mem) ∧
   (k.power ≠ .p1 ∨ b.unsettled i.core ≠ none → exec .p2Entry s = .next b) ∧
   exec .p3Entry s = .next { b with dieSleep := ninsert s.dieSleep (i.die % 4) } ∧
   exec .p4Entry s = .next (State.modHart { b with
    dieSleep := [0, 1, 2, 3], power := .p4
    fabric := { s.fabric with links := s.fabric.links.map (fun l => (l.1, { l.2 with low := true })) } } 8 (fun h => { h with power := .p1 })) ∧
   (let w := State.setCore { b with dieSleep := nremove s.dieSleep (dieOf i.core) } i.core { k with power := .p0, inbox := [] };
    s.power ≠ .p4 → (k.inbox = [] → exec .coreWake s = .next w) ∧
     ∀ g u, k.inbox = [g] → w.applySignal i.core g.asid g.laddr g.credit g.err = .applied u → exec .coreWake s = .next u) ∧
   (s.power = .p4 → k.inbox = [] → ∃ t, exec .coreWake s = .next t ∧ t.power = .on ∧ dieOf i.core ∉ t.dieSleep ∧
    (t.hart 8).power = .p0 ∧ (t.getCore i.core).power = .p0 ∧ t.mem = s.mem)) ∧
  (∀ k, debugKind i.n i.ok = some k →
   let asleep := decide (s.power = ModPower.p4) || s.dieSleep.contains (i.die % 4)
   let may := debugAllows s.fw.lifecycle s.fw.debug asleep k
   let u : State := { b with fw := { s.fw with debugAccesses := s.fw.debugAccesses + 1 } };
   (may = false → exec .debugAccess s = .next s) ∧
   (may → k.changes = false → exec .debugAccess s = .next { u with fw := { u.fw with debugOut := s.fw.debugOut ++ u.debugRead k i } }) ∧
   (may → k = .write → asleep = false → inMemory i.addr i.bytes.length → s.portDown i.addr = false → s.poison = [] →
    ∃ t, exec .debugAccess s = .next t ∧ t.mem = mstore s.mem i.addr i.bytes ∧ t.cores = b.cores) ∧
   (∀ on, may → k = .halt on → asleep = false → exec .debugAccess s = .next (u.modCore i.core (fun c => { c with halted := on }))) ∧
   (may → k.changes → asleep → ∃ t, exec .debugAccess s = .next t ∧ i.die % 4 ∉ t.dieSleep ∧ t.power ≠ .p4)) ∧
  DebugLimits

/-- R28, R33, R36, R37, R42-R51, R61, R148, R158, R162, R188, R202. The model's choices: log 12, 32, 33, 63, 70, 71; that a node outside the group
ignores a multicast is log 65's, the silent CXL sector log 77's, and the kept reference of another module's record log 31's. -/
def Obligations.RequestsAndResponsesAct : Prop :=
 ∀ s : State,
  let i := s.inp
  let q := i.pkt
  let b := s.park
  let n := q.word 0
  let len := q.data.length
  let rd := n % 2 ^ 32
  let core := q.addr / 2 ^ 22
  let sleeps : Prop := core < 512 ∧ b.asleep core
  let held (x : Instr) : Host.Outcome State Fault Refusal :=
   .next { b with agenda := todo .coreWake { Input.none with core := core } :: todo x i :: s.agenda }
  let refused : State := { b with log := s.log ++ [(36, q.addr)] }
  let msg := b.appendMsg (q.addr / 2 ^ 22) (q.addr % 2 ^ 22) q.asid q.data;
  (s.power = .p4 → ∀ x ∈ [Instr.readRequest, .writeRequest, .atomicRequest, .appendReservation, .messageAppend, .signalArrival, .multicastMessage,
    .mailboxWrite, .pagerService, .routeAndLinkMaintenance, .reservedOp, .responseWithData, .acknowledgement, .errorResponse, .retryLaterResponse],
   exec x s = .next { b with agenda := todo .coreWake Input.none :: todo x i :: s.agenda }) ∧
  (FreshRequest s q → (s.fromHost q → (inMbx q.addr → rd = 8 → q.addr % 8 = 0 → ∃ t, exec .readRequest s = .next t ∧
     AnsweredFrom b t q 0x10 0 (bytesOf 8 (s.readMbx (q.addr - mbxBase)))) ∧
    (inMbx q.addr = false → (∀ a v, s.apertureFor q.src q.addr rd = some a → rd ≤ 1024 → s.readPhys q.addr rd = .ok v →
     ∃ t, exec .readRequest s = .next t ∧ AnsweredFrom (b.countRead q.addr rd) t q 0x10 0 (bytesOf rd v)) ∧
     (s.apertureFor q.src q.addr rd = none → ∃ t, exec .readRequest s = .next t ∧ AnsweredFrom refused t q 0x12 0 [0x11]) ∧
     (∀ a, s.apertureFor q.src q.addr len = some a →
     (a.rw → inMemory q.addr len → s.portDown q.addr = false → s.poison = [] → ∃ t u, exec .writeRequest s = .next t ∧
      AnsweredFrom u t q 0x11 0 [] ∧ u.mem = mstore s.mem q.addr q.data ∧ u.cores = b.cores) ∧
     (a.rw = false → ∃ t, exec .writeRequest s = .next t ∧ AnsweredFrom refused t q 0x12 0 [0x11])) ∧
     (s.apertureFor q.src q.addr len = none → ∃ t, exec .writeRequest s = .next t ∧ AnsweredFrom refused t q 0x12 0 [0x11]))) ∧
   (q.asid ≠ 0 →
    let h := b.countWalk q.asid q.addr
    let found (a : Access) (k : Nat) := h.homeFind q.asid a (k / 0x10000 + 2) q.addr k;
    (∀ pa m u pg v, rd ≤ 1024 → found .load rd = .ok [.here pa m 0 u pg] → s.readPhys pa m = .ok v →
     ∃ t, exec .readRequest s = .next t ∧ AnsweredFrom (h.countRead pa m) t q 0x10 0 (bytesOf rd v)) ∧
    (∀ pa m c u pg, rd ≤ 1024 → 2 ^ 32 ≤ n → c ≠ 0 → found .load rd = .ok [.here pa m c u pg] →
     ∃ t, exec .readRequest s = .next t ∧ AnsweredFrom h t q 0x12 0 [0x11]) ∧
    (∀ pa u pg, found .store len = .ok [.here pa len 0 u pg] → inMemory pa len →
     s.portDown pa = false → s.poison = [] → ∃ t v, exec .writeRequest s = .next t ∧
     AnsweredFrom v t q 0x11 0 [] ∧ v.mem = mstore s.mem pa q.data ∧ v.cores = b.cores) ∧
    (∀ va, rd ≤ 1024 → found .load rd = .miss va → ∃ t v j, exec .readRequest s = .next t ∧ j < 16 ∧ AnsweredFrom v t q 0x08 (pagerAddr 0 j) []) ∧
    (∀ c va, rd ≤ 1024 → found .load rd = .prot c va → ∃ t, exec .readRequest s = .next t ∧ AnsweredFrom h t q 0x12 0 (bytesOf 1 c)) ∧
    (∀ more acc code, (more, acc) ∈ [(0, Access.atomic), (0x100, Access.reduce)] → n = code + more → ∀ op m pa k c u pg old,
     code ∉ [0x1E, 0x1F, 0x20, 0x21, 0x22] → aopOf code = some (op, m) → q.addr % m = 0 →
     found acc m = .ok [.here pa k c u pg] → s.readPhys pa m = .ok old →
     ∃ t v, exec .atomicRequest s = .next t ∧ AnsweredFrom v t q 0x10 0 (bytesOf 8 old) ∧ v.cores = b.cores ∧
      v.mem = mstore s.mem pa (bytesOf m (op.apply m old (q.word 1 % 2 ^ (8 * m)) (q.word 2 % 2 ^ (8 * m))))) ∧
    (let m := q.word 1 % 16
     ∀ pa c u pg, n = 0x22 → found .store m = .ok [.here pa m c u pg] →
     (c ≠ 0 → ∃ t, exec .atomicRequest s = .next t ∧ AnsweredFrom h t q 0x12 0 [0x11]) ∧
     (c = 0 → inMemory pa m → s.portDown pa = false → s.poison = [] → ∃ t v, exec .atomicRequest s = .next t ∧
      AnsweredFrom v t q 0x11 0 [] ∧ v.mem = mstore s.mem pa (bytesOf m (q.word 2)) ∧ v.cores = b.cores)) ∧
    (∀ pa k c u pg, found .object 16 = .ok [.here pa k c u pg] → s.bad pa 16 = false →
     let w := mload s.mem pa 8;
     (n = 0x20 → futSt w < 2 → ∃ t v, exec .atomicRequest s = .next t ∧ AnsweredFrom v t q 0x11 0 (bytesOf 8 (futHead w)) ∧
     mload v.mem pa 8 = futWord 1 (futCount w + 1) (q.word 1) % 2 ^ 64 ∧ v.cores = b.cores ∧
     (bitsN (q.word 1) 45 33 ≠ s.fabric.node % 2 ^ 13 → tget v.fabric.foreign (q.word 1) = some (futHead w + 2 ^ 48 * (q.asid + 2 ^ 16 * q.addr)))) ∧
     (n = 0x20 → futSt w = 2 →
     ∃ t, exec .atomicRequest s = .next t ∧ AnsweredFrom (h.countRead pa 16) t q 0x10 0 (bytesOf 8 (mload s.mem (pa + 8) 8))) ∧
     (n = 0x21 → futSt w < 2 → futHead w = 0 → ∃ t v, exec .atomicRequest s = .next t ∧ AnsweredFrom v t q 0x11 0 [] ∧
     mload v.mem pa 8 = (if q.word 2 = 0 then 2 else 3) * 2 ^ 62 ∧ (q.word 2 = 0 → mload v.mem (pa + 8) 8 = q.word 1 % 2 ^ 64)) ∧
     (n = 0x21 → 2 ≤ futSt w → ∃ t, exec .atomicRequest s = .next t ∧ AnsweredFrom (h.countRead pa 16) t q 0x12 0 (bytesOf 1 0x30 ++ bytesOf 7 pa))) ∧
    (∀ pa k c u pg, found .append 1 = .ok [.here pa k c u pg] → s.portDown pa = false →
     let base := pa / u * u
     let unit := s.unit base u
     1 ≤ n → n ≤ u → unit.st = .opened → unit.tail + roundUp n 16 ≤ u → ∃ t, exec .appendReservation s = .next t ∧
     AnsweredFrom { h.wakeHome base with units := tset s.units base { unit with tail := unit.tail + roundUp n 16 } } t q 0x10 0
      (bytesOf 8 unit.tail)) ∧
    (sleeps → exec .messageAppend s = held .messageAppend) ∧ (∀ r, ¬ sleeps → msg = .ok r →
     ∃ t, exec .messageAppend s = .next t ∧ AnsweredFrom r.2 t q 0x10 0 (bytesOf 8 r.1)) ∧
    (∀ c, ¬ sleeps → msg = .error c → ∃ t, exec .messageAppend s = .next t ∧ AnsweredFrom b t q 0x12 0 (bytesOf 1 c)) ∧
    (let fate := b.deliverSignal n q.asid q.addr (w64 (q.word 1)) (q.word 2);
     (∀ u, fate = .applied u → ∃ t, exec .signalArrival s = .next t ∧ AnsweredFrom u t q 0x11 0 []) ∧
     (∀ c, fate = .error c → ∃ t, exec .signalArrival s = .next t ∧ AnsweredFrom b t q 0x12 0 (bytesOf 1 c)) ∧
     (fate = .later → ∃ t, exec .signalArrival s = .next t ∧ Responded s t q 0x13 0 [] ∧ { t with fabric := s.fabric, mem := s.mem } = b))) ∧
   (q.asid = 0 → ∀ x ∈ [Instr.messageAppend, .signalArrival], (x = .messageAppend → ¬ sleeps) → ∃ t, exec x s = .next t ∧
    AnsweredFrom refused t q 0x12 0 [0x11]) ∧
   (∃ t, exec .routeAndLinkMaintenance s = .next t ∧ AnsweredFrom { b with fabric := s.fabric.maintain q.data } t q 0x11 0 [])) ∧
  (∀ e, s.power ≠ .p4 → (s.windowOf q.src).find? (fun x => x.sseq == q.sseq) = some e → e.st = .done →
   q.op ∉ [opRead, opManagement] → e.op ≠ opPager → ∀ x ∈ [Instr.writeRequest, .atomicRequest, .appendReservation, .signalArrival],
    ∃ t, exec x s = .next t ∧ Responded s t q e.op 0 e.resp ∧ { t with fabric := s.fabric } = b) ∧
  (s.power ≠ .p4 → (((tget s.fabric.groups q.dst).getD []).contains s.fabric.node = false → exec .multicastMessage s = .next b) ∧
   (((tget s.fabric.groups q.dst).getD []).contains s.fabric.node →
    (q.asid = 0 → ∃ t, exec .multicastMessage s = .next t ∧ Responded s t q 0x12 0 [0x11] ∧ { t with fabric := s.fabric } = refused) ∧
    (q.asid ≠ 0 → sleeps → exec .multicastMessage s = held .multicastMessage) ∧ (∀ r, q.asid ≠ 0 → ¬ sleeps → msg = .ok r →
     ∃ t, exec .multicastMessage s = .next t ∧ Responded r.2 t q 0x11 0 [] ∧ { t with fabric := r.2.fabric } = r.2) ∧
    (∀ c, q.asid ≠ 0 → ¬ sleeps → msg = .error c →
     ∃ t, exec .multicastMessage s = .next t ∧ Responded s t q 0x12 0 (bytesOf 1 c) ∧ { t with fabric := s.fabric } = b)) ∧
   (∃ t, exec .reservedOp s = .next t ∧ Responded s t q 0x12 0 [0x11] ∧ t.log = s.log ++ [(33, q.op)] ∧
    { t with fabric := s.fabric, log := s.log } = b) ∧
   (s.awaited q.src q.sseq = none → (∀ x ∈ [Instr.responseWithData, .retryLaterResponse], exec x s = .next b) ∧
    (s.fabric.mcasts = [] → ∀ x ∈ [Instr.acknowledgement, .errorResponse], exec x s = .next b) ∧
    (∀ m, s.fabric.mcasts.find? (fun m => m.sseq == q.sseq && m.waiting.contains q.src) = some m → m.waiting = [q.src] →
     ∃ t, exec .acknowledgement s = .next t ∧ t.fabric.mcasts = s.fabric.mcasts.erase m ∧ { t with fabric := s.fabric } = b)) ∧
   (∀ p, s.awaited q.src q.sseq = some p → (∀ x ∈ s.fabric.out, x.out) →
    let gone : State := { b with fabric := { s.fabric with out := s.fabric.out.erase p } };
    (∀ ctx core, p.purpose = .answer ctx core →
     let arrives := answerTo p ctx core;
     ∀ x a, (x = .pagerService → q.data = []) → (x, a) ∈ [(.responseWithData, arrives true 0 (valueOf (q.data.take 8))), (.acknowledgement, arrives true 0 (valueOf (q.data.take 8))),
      (.errorResponse, arrives false (valueOf (q.data.take 1)) (if p.pkt.op = opWrite then 0 else fld q.data 1 7)), (.pagerService, arrives false 0x10 q.addr)] →
     exec x s = .next { gone with agenda := a :: s.agenda }) ∧
    (∀ ctx core dseq key, p.purpose = .load ctx core dseq key → exec .responseWithData s =
     .next { gone with
     agenda := todo .loadDataReturn { Input.none with
      core := core, slot := ctx, n := dseq, queue := key, bytes := q.data, ok := true, addr := 0 } :: s.agenda }) ∧
    (∀ core cell pc, p.purpose = .write core cell pc → exec .acknowledgement s =
     .next gone) ∧
    exec .retryLaterResponse s = .next { b with
     fabric := { s.fabric with out := s.fabric.out.map (fun x => if x = p then { p with later := true, sentAt := s.time.toNat } else x) }
     work := s.work ++ [todo .retryLaterResend { Input.none with queue := q.src, n := q.sseq }] })) ∧
  (s.awaited i.queue i.n = none → exec .retryLaterResend s = .next s) ∧ (∀ p, s.awaited i.queue i.n = some p →
   (p.later = false → exec .retryLaterResend s = .next s) ∧
   (p.later → s.time.toNat < p.sentAt + 2000 → exec .retryLaterResend s = .next (s.owing .retryLaterResend i)) ∧
   (p.later → p.sentAt + 2000 ≤ s.time.toNat → ∃ t, exec .retryLaterResend s = .next t ∧
    t.fabric.sent = s.fabric.sent ++ [{ p.pkt with rtx := true, retry := true }] ∧ { t with fabric := s.fabric } = s)) ∧
  (let k := s.getCore i.core;
   k.granuleWaits = [] → (i.core % 2 = 1 → (s.getCore (i.core - 1)).granuleWaits = []) → ∃ t, exec .granuleSetFull s = .next t ∧
    (i.bytes = [] → (t.getCore i.core).loc = k.loc ∧ ∀ g, g ∈ (t.getCore i.core).full ↔ g = i.addr / 16 ∨ g ∈ k.full) ∧
    (i.bytes ≠ [] → (t.getCore i.core).loc = mstore k.loc i.addr i.bytes ∧
     ∀ g, g ∈ (t.getCore i.core).full ↔ g ∈ granulesOf i.addr i.bytes.length ∨ g ∈ k.full) ∧ t.mem = s.mem) ∧
  ((cxlPort i.addr).isNone → exec .cxlReadTimeout s = .next s) ∧ ((cxlPort i.addr).isSome →
   (i.ok = false → exec .cxlReadTimeout s = .next { s with cxlSilent := nremove s.cxlSilent (i.addr / 16) }) ∧
   (i.ok → s.time.toNat < i.n + 2000000 → exec .cxlReadTimeout s = .next (s.owing .cxlReadTimeout i)) ∧ (i.ok → i.n + 2000000 ≤ s.time.toNat →
    exec .cxlReadTimeout s = .next { s with cxlSilent := ninsert s.cxlSilent (i.addr / 16) }))

/-- R118, R414-R417, R420, R422, R423; `∀ f, b.check … f = f b' v`: the check passes from `b` with result `v` and leaves `b'`. The model's choices:
log 34, 41, 42, 43. -/
def Obligations.EngineWordsIssue : Prop :=
 (∀ (s b1 b2 b3 b4 b5 b6 b7 b8 b : State) (rd rs1 rs2 : BitVec 5) (v list : Nat) (src : TDesc) (ds ds' : List TDesc) (shadow : Option ShadowAt)
   (fut : Option Nat),
  let sa := s.capA.toNat
  let ch := s.capB.toNat
  let loc := decide (sa / 2 ^ 63 = 1)
  let a := if loc then sa % 2 ^ 22 else sa
  let kind := fieldAt v 0 1
  let flags := fieldAt v 1 1
  let ctl := fieldAt v 8 8
  let aux := fieldAt v 24 8
  let bar := fieldAt v 48 8
  let nrow := if kind = 1 then (ds.map (·.rows)).headD 0 else 0
  let rows := (List.range nrow).map (fun i => fieldAt list (4 * i) 4)
  let srs := srcRanges kind src rows
  let named (l : Bool) : List (Nat × Nat × Bool) := (if src.loc = l then (hull srs).toList.map (fun h => (h.1, h.2, false)) else []) ++
   ds'.flatMap (fun d => if d.loc = l then (hull (destRanges kind src d)).toList.map (fun h => (h.1, h.2, true)) else [])
  s.defect (.cpy rd rs1 rs2) = none → a % 64 = 0 → (∀ f, s.engineRead loc a 64 f = f b1 v) → CopyFieldsOk v → CopyTdescs v loc b1 b2 b3 src ds →
  (kind = 1 → aux % 4 = 0) → (∀ f, b3.engineRead loc aux (4 * nrow) f = f b4 list) →
  (∀ f, b4.withShadow (decide (flags % 2 = 1)) (fieldAt v 32 8) kind src ds f = f b5 shadow ds') → (∀ f, b5.engineRanges src.loc .load srs f = f b6) →
  (∀ f, ds'.foldr (fun d go s => State.engineRanges s d.loc .store (destRanges kind src d) go) f b6 = f b7) →
  (∀ f, b7.engineFut (decide (bitsN flags 1 1 = 1)) (fieldAt v 40 8) f = f b8 fut) →
  ch ≤ 15 → (kind = 3 → b8.core.mat.length < 8) → (∀ f, b8.withRegion (named true) f = f b8) → (∀ f, b8.withGlobals (named false) f = f b8) →
  (b8.core.onChannel ch).length < 64 → (∀ f, b8.countPend shadow f = f b) →
   let id := b.myStep.nextId.toList.getD ch 1
   let kept := if bitsN flags 2 2 = 1 then some bar else none
   let j : CopyJob :=
    { cell := b.strand.cell, chan := ch, id := id, pc := b.wordPc, asid := b.core.asid.toNat, kind := kind, src := src
      ctl := ctl, dsts := ds', aux := aux, auxLoc := loc, shadow := shadow.map (·.loc), fut := fut, bar := kept, cells := [], rows := rows
      io := EngineIo.none }
   let w := b.withCopy rd j (named true) (named false)
   (shadow = none → b = b8) ∧ (∀ d, shadow = some d → d.loc < 2 ^ 60 → b = b8.merge (d.loc + 24) 4 ((shadowOf d.bytes).pend + 1)) ∧
   (kind ≠ 3 → exec (.cpy rd rs1 rs2) s = .next w.wordDone) ∧
   (kind = 3 → ∃ (u : State) (m : MatCmd), exec (.cpy rd rs1 rs2) s = .next u.wordDone ∧ u.core.mat = b.core.mat ++ [m] ∧
    m.drain = some j ∧ m.cell = j.cell ∧ u.core.copies = w.core.copies ∧ u.core.board = w.core.board ∧ u.core.gboard = w.core.gboard ∧ u.core.steps = w.core.steps ∧
    u.mem = w.mem ∧ u.strand.cv.scalars = w.strand.cv.scalars ∧ u.strand.regs = b.strand.regs ∧
    u.work = w.work ++ [todo .matrixCommandFinish { Input.none with core := b.here }])) ∧
 (∀ (s b : State) (rd rs1 rs2 : BitVec 5) (loc : Option Nat),
  let a := s.capA.toNat
  let port := s.capB.toNat
  let v := mload s.core.loc a 64
  let run := fieldAt v 8 4
  let c1 := fieldAt v 12 4
  let c2 := fieldAt v 24 4
  let dst := fieldAt v 40 4
  let bar := fieldAt v 44 4
  let fut := fieldAt v 48 8
  let len := run * c1 * c2
  let reads := streamSpan (fieldAt v 0 8) run c1 c2 (toSigned 64 (fieldAt v 16 8)) (toSigned 64 (fieldAt v 32 8))
  s.defect (.stream rd rs1 rs2) = none → a % 64 = 0 → LocalWritable s a 64 →
  overlapIn s.core.board s.strand.cell a (a + 63) false = none → s.core.locBad a 64 = false →
  (∀ n ∈ [run, c1, c2], 1 ≤ n ∧ n ≤ 65536) → fieldAt v 28 4 = 0 → fieldAt v 56 8 = 0 → dst % 16 = 0 → LocalWritable s dst len →
  (bar = 0xFFFFFFFF ∨ (bar % 32 = 0 ∧ LocalWritable s bar 32)) →
  (∀ f, s.engineFut (decide (fut ≠ 0)) fut f = f b loc) → port ≤ 7 → (∀ f, b.withRegion [(dst, dst + len - 1, true)] f = f b) →
  (∀ f, b.withGlobals [(reads.1, reads.2, false)] f = f b) → (b.core.streams.filter (fun j => j.port == port)).length < 4 →
   let n := b.myStep.smark
   let j : StreamJob := { cell := b.strand.cell, port := port, num := n, pc := b.wordPc, asid := b.core.asid.toNat, src := fieldAt v 0 8
                          run := run, cnt1 := c1, stride1 := toSigned 64 (fieldAt v 16 8), cnt2 := c2, stride2 := toSigned 64 (fieldAt v 32 8)
                          dst := dst, bar := if bar = 0xFFFFFFFF then none else some bar, fut := loc, io := EngineIo.none }
   exec (.stream rd rs1 rs2) s = .next (State.wordDone (b.withStream rd j (dst, dst + len - 1) reads))) ∧
 (∀ (s : State) (rd rs1 rs2 : BitVec 5),
  let a := s.capA.toNat
  let sb := s.capB.toNat
  let op := bitsN sb 3 0
  let w := 2 ^ bitsN sb 5 4
  let len := bitsN sb 28 16
  let n := if op = 2 then bitsN sb 15 8 * bitsN sb 15 8 * w else len
  s.defect (.xform rd rs1 rs2) = none → XformFieldsOk sb → a % w = 0 → a / 4096 = (a + n - 1) / 4096 → LocalWritable s a n → (∀ f, s.withRegion [(a, a + n - 1, true)] f = f s) →
   let j : XformJob := { cell := s.strand.cell, num := s.myStep.xmark, pc := s.wordPc, addr := a, ctl := sb }
   exec (.xform rd rs1 rs2) s = .next (State.wordDone (s.withXform rd j n))) ∧
 (∀ (s b b' : State) (rs1 rs2 : BitVec 5) (p : Piece) (fut : Option Nat),
  let a := s.capA.toNat
  let f := s.capB.toNat
  s.defect (.publish rs1 rs2) = none → s.heldHere = false → s.storesOut = false → a % 32 = 0 → s.find s.here .object a 32 = (b, .ok [p]) →
  (∀ g, b.engineFut (decide (f ≠ 0)) f g = g b' fut) → (∀ (pa u pg : Nat), p = .here pa 32 0 u pg →
    let first := !b'.publishes.any (fun q => q.pa == pa)
    exec (.publish rs1 rs2) s = .next (State.wordDone { (if first then b'.merge (pa + 28) 1 (mload b'.mem (pa + 28) 1 / 2 * 2 + 1) else b') with
     publishes := b'.publishes ++
     [{ pa := pa, asid := b'.core.asid.toNat, fut := fut, core := b'.here, cell := b'.strand.cell, pc := b'.wordPc }]
     work := if first then b'.work ++ [todo .publishSwap { Input.none with addr := pa }] else b'.work })) ∧
   (∀ (node va : Nat), p = .peer node va 32 → b'.fabric.unacked node < 4096 → ∃ (u : State) (q : Packet), exec (.publish rs1 rs2) s = .next u.wordDone ∧
    u.fabric.sent = b'.fabric.sent ++ [q] ∧ q.dst = node ∧ q.op = 0x02 ∧ q.addr = va ∧
    q.data = b'.publishData (if fut.isSome then f else 0) (((fut.bind futPeer).map (·.1)).getD b'.fabric.node) ∧
    u.strand = b'.strand ∧ u.core = b'.core ∧ u.mem = b'.mem)) ∧
 (∀ (s : State) (pa n v : Nat), s.bad pa n = false →
  let t := s.merge pa n v
  t.mem = mstore s.mem pa (bytesOf n v) ∧
   { t with
     mem := s.mem, fronts := s.fronts, reservations := s.reservations, hbmce := s.hbmce, soft := s.soft, dieSleep := s.dieSleep } = s) ∧
 ∀ (s : State) (a n : Nat), n ≠ 0 → LocalWritable s a n → overlapIn s.core.board s.strand.cell a (a + n - 1) false = none →
  s.core.locBad a n = false → ∀ f, s.engineRead true a n f = f s (mload s.core.loc a n)

/-- R158, R181-R183, R200, R415-R422. The model's choices: log 42, 43, 44, 68. -/
def Obligations.EngineJobsFinish : Prop :=
 ∀ (s : State),
  let i := s.inp
  let c := i.core
  let b := s.park
  let k := b.getCore c
  let out (t : State) : Core := t.getCore c
  k.granuleWaits = [] → (b.getCore (c - 1)).granuleWaits = [] → Memory.wf k.loc → Memory.wf s.mem → (∀ (j : CopyJob) (d : TDesc),
    let w := widthOf d.fmt / 8
    let row (x : TDesc) (r : Nat) : Nat := x.base + r * x.pitch * w
    k.copies.find? (fun x => x.cell == i.slot && x.chan == i.queue && x.id == i.n) = some j → PlainCopy j d →
    b.engineBusy c j.cell (j.chan * 2 ^ 48 + j.id) = false → (∀ r, r < j.src.rows → k.locBad (row j.src r) (j.src.cols * w) = false) →
     ∃ t, exec .copyTransferComplete s = .next t ∧ t.mem = s.mem ∧
     (out t).copies = k.copies.filter (fun x => !(x.cell == j.cell && x.chan == j.chan && x.id == j.id)) ∧
     (∀ r, r < j.src.rows → ∀ y, y < j.src.cols * w → mget (out t).loc (row d r + y) = mget k.loc (row j.src r + y)) ∧
     ∀ x, (∀ r, r < j.src.rows → x < row d r ∨ row d r + j.src.cols * w ≤ x) → mget (out t).loc x = mget k.loc x) ∧
   (∀ (j : StreamJob) (t1 : State), let k1 := t1.getCore c;
    k.streams.find? (fun x => x.port == i.queue) = some j → b.engineBusy c j.cell (2 ^ 60 + j.num) = false →
    b.engineWait (b.portRef c j) = none → j.bar = none → j.fut = none →
    b.streamPages c j j.runs = (t1, none) → t1.peerNeeds c j.asid j.io.got (j.runs.map (fun a => (a, j.run))) = [] →
    k1.loc = k.loc → k1.granuleWaits = [] → (t1.getCore (c - 1)).granuleWaits = [] →
    (∀ a ∈ j.runs, (t1.readBytes c j.asid j.io.got false a j.run).toOption.isSome) → ∃ t, exec .streamEnd s = .next t ∧ t.mem = t1.mem ∧
     (out t).streams = k1.streams.filter (fun x => !(x.cell == j.cell && x.num == j.num)) ∧ ((k1.step j.cell).live → (tget k1.steps j.cell).isSome →
      (∀ x ∈ k1.streams, x.cell = j.cell → x.num = j.num) → ((out t).step j.cell).spassed = (k1.step j.cell).smark - 1) ∧
     ∀ (a v : Nat), j.runs = [a] → j.cnt1 = 1 → j.cnt2 = 1 → t1.readBytes c j.asid j.io.got false a j.run = .ok v →
      (∀ g ∈ granulesOf j.dst j.run, g ∈ (out t).full) ∧
      ∀ x, mget (out t).loc x = if j.dst ≤ x ∧ x < j.dst + j.run then BitVec.ofNat 8 (v / 256 ^ (x - j.dst)) else mget k.loc x) ∧
   (∀ j : XformJob, k.xforms.find? (fun x => x.cell == i.slot && x.num == i.n) = some j →
    let op := bitsN j.ctl 3 0
    let w := 2 ^ bitsN j.ctl 5 4
    let n := bitsN j.ctl 15 8
    let len := bitsN j.ctl 28 16
    let size := if op = 2 then n * n * w else if op = 4 then len / 4 * 2 else len
    let new := xformByte j k.loc;
    op ≤ 4 → (op ≠ 2 → len % w = 0) → (op = 1 → len % 4 = 0) → (op = 4 → len % 4 = 0) →
    (2 ≤ op → k.locBad j.addr (if op = 2 then n * n * w else len) = false) → ∃ t, exec .transformPerform s = .next t ∧ t.mem = s.mem ∧
     (out t).xforms = k.xforms.filter (fun x => !(x.cell == j.cell && x.num == j.num)) ∧ (∀ g ∈ granulesOf j.addr size, g ∈ (out t).full) ∧
     (∀ x, mget (out t).loc x = if j.addr ≤ x ∧ x < j.addr + size then new (x - j.addr) else mget k.loc x) ∧
     ((k.step j.cell).live → (tget k.steps j.cell).isSome → (∀ x ∈ k.xforms, x.cell = j.cell → x.num = j.num) →
      ((out t).step j.cell).xpassed = (k.step j.cell).xmark - 1)) ∧
   (∀ (j : PublishJob) (ls : List (Nat × Nat)),
    let pa := i.addr
    let sh := shadowOf (mload s.mem pa 32)
    let size := 0x10000 * sh.npage
    let places := ls.flatMap (fun p => [p.1, p.2])
    let apart (x y : Nat) : Prop := x + 8 ≤ y ∨ y + 8 ≤ x
    b.publishes.find? (fun p => p.pa == pa) = some j → s.bad pa 32 = false → j.fut = none → b.shadowLeaves j.core j.asid sh (mload s.mem pa 32) = some ls →
    sh.pend = 0 → b.holdsAsid j.asid = none → places.Pairwise apart → (∀ x ∈ places, x + 8 ≤ pa ∨ pa + 32 ≤ x) →
     ∃ t, exec .publishSwap s = .next t ∧ t.publishes = b.publishes.erase j ∧ (∀ p ∈ ls, LeavesSwapped s.mem t.mem p.1 p.2) ∧
     mload t.mem (pa + 20) 4 = (sh.gen + 1) % 2 ^ 32 ∧
     (∀ x, (∀ y ∈ places, x < y ∨ y + 8 ≤ x) → (x < pa + 20 ∨ pa + 24 ≤ x) → x ≠ pa + 28 → mget t.mem x = mget s.mem x) ∧
     ∀ p ∈ t.cores, (∀ e ∈ p.2.tlb, e.asid = j.asid → ¬ (sh.front ≤ e.base ∧ e.base < sh.front + size) ∧
      ¬ (sh.back ≤ e.base ∧ e.base < sh.back + size)) ∧ ∀ e ∈ p.2.chains, e.asid ≠ j.asid) ∧
   ∀ (sub : Subscription) (r : Ring) (x : RingSlot) (d : TDesc), b.request? i = some (sub, r, x) → x.tdesc = some d → sub.bar = 0xFFFFFFFF →
    r.pending.head? = some i.queue → b.engineBusy c x.cell (ringKey i.slot i.addr i.n i.queue) = false →
     (x.st = .filling → b.peerNeeds c k.asid.toNat x.io.got (tileRanges d sub x.row0 x.col0) = [] →
     ∃ t, exec .stevedorePushFill s = .next t ∧ t.mem = s.mem ∧
     ((out t).ring i.slot i.addr i.n sub).slots[i.queue]? = some { x with st := if x.marked then .free else .ready, marked := false } ∧
     (x.marked → ∀ g ∈ granulesOf (sub.ring + i.queue * sub.slotb) sub.slotb, g ∉ (out t).full)) ∧
     (x.st = .draining → (x.io.written = true ∨ ∀ a, k.homeNode b.fabric.node a = b.fabric.node) → ∃ t, exec .stevedorePullDrain s = .next t ∧
     ((out t).ring i.slot i.addr i.n sub).slots[i.queue]? = some { x with st := .free } ∧
     ∀ g ∈ granulesOf (sub.ring + i.queue * sub.slotb) sub.slotb, g ∉ (out t).full)

/-- R433, R139. The model's choices: log 10, 12. -/
def Obligations.HomesPerformAndAnswer : Prop :=
 ((∀ (s s' : State) (r : Record) (j : LoadJob) (e : LoadElem) (pa u pg : Nat),
   (s.getCore s.inp.core).ctx = some s.inp.slot → (s.getCore s.inp.core).record s.inp.n = some r → r.on = .load j →
   j.elems.find? (fun x => x.key == s.inp.queue) = some e →
   s.findAs s.inp.core r.trap.asid .load e.addr e.size = (s', .ok [.here pa e.size 0 u pg]) → s.bad pa e.size = false →
    ∃ t, exec .globalReadPerform s = .next t ∧ t.mem = s.mem ∧ t.work = s.work ∧
     t.agenda = todo .loadDataReturn { s.inp with bytes := bytesOf e.size (mload s.mem pa e.size), ok := true, addr := 0 } ::
     s.agenda) ∧
   ∀ (s : State) (r : Record) (j : LoadJob) (e : LoadElem) (rd : BitVec 5) (sg : Bool),
    let k := s.getCore s.inp.core
    k.ctx = some s.inp.slot → k.record s.inp.n = some r → r.on = .load j → j.elems = [e] → e.key = s.inp.queue →
    j.scalar = some (rd, sg) → e.at_ = 0 → s.inp.ok → s.inp.bytes.length = e.size → e.size ∈ [1, 2, 4, 8] → r.ready = false →
    r.regs.xs[rd.toNat] = 0 → rd ≠ 0 →
     ∃ t r', exec .loadDataReturn s = .next t ∧ (r.spilled = false → t.mem = s.mem) ∧ r' ∈ (t.getCore s.inp.core).records ∧ r'.dseq = r.dseq ∧
     r'.ready ∧ r'.dpend = false ∧ r'.pc = r.pc ∧ r'.smask = r.smask ∧ r'.regs.xs[rd.toNat] =
      (if sg then BitVec.ofInt 64 (toSigned (8 * e.size) (valueOf s.inp.bytes)) else w64 (valueOf s.inp.bytes)) ∧
     (∀ n : Fin 32, n.val ≠ rd.toNat → r'.regs.xs[n] = r.regs.xs[n]) ∧ r'.regs.vs = r.regs.vs ∧
     ((tget (t.getCore s.inp.core).order r.prio).getD []).getLast? = some r.dseq) ∧
 ((∀ (s : State) (h : HeldRel) (rest : List HeldRel),
   let c := s.inp.core
   (s.getCore c).heldRels = h :: rest → s.outstanding c h.cell = false →
    (h.loc → ∃ t, exec .heldReleaseWrite s = .next t ∧ (t.getCore c).heldRels = rest ∧ t.mem = s.mem ∧ t.agenda = s.agenda ∧
     ∀ x, mget (t.getCore c).loc x =
     if h.addr ≤ x ∧ x < h.addr + h.size then BitVec.ofNat 8 (h.value / 256 ^ (x - h.addr)) else mget (s.getCore c).loc x) ∧
    ∀ (s' : State) (pa u pg : Nat), h.loc = false →
     (s.modCore c (fun k => { k with heldRels := rest })).find c .store h.addr h.size = (s', .ok [.here pa h.size 0 u pg]) →
     ∃ t, exec .heldReleaseWrite s = .next t ∧ (t.getCore c).heldRels = rest ∧ t.mem = s.mem ∧
      t.homeOps.head? = some (.write pa h.addr 0 u (bytesOf h.size h.value) c h.cell h.pc) ∧
      t.agenda = todo .globalWritePerform Input.none :: s.agenda) ∧
   ∀ (s : State) (pa va u core cell : Nat) (bs : List Byte) (pc : Word) (rest : List HomeOp),
    s.homeOps = .write pa va 0 u bs core cell pc :: rest → inMemory pa bs.length → s.portDown pa = false →
    (∀ g ∈ sectorsOf pa bs.length, g ∉ s.poison) →
     ∃ t, exec .globalWritePerform s = .next t ∧ t.homeOps = rest ∧ t.cores = s.cores ∧ t.core = s.core ∧ t.strand = s.strand ∧
     ∀ x, mget t.mem x = if pa ≤ x ∧ x < pa + bs.length then bs.getD (x - pa) 0 else mget s.mem x)

/-- R133, R148, R385. The model's choices: log 31. -/
def Obligations.WaitersOfFutures : Prop :=
 (∀ (s s' : State) (o : LOp) (pa u pg : Nat),
  let a := (s.x o.rs1).toNat
  o.hint ≠ 3 → s.heldHere = false → s.acting → a % 16 = 0 → pa < 2 ^ 60 → s.find s.here .object a 16 = (s', .ok [.here pa 16 0 u pg]) →
  FitsMooring s (s.leaveRecord o.ls.toNat (some o.rd) [] 0 (s.strand.pc + 4)) →
   ∃ t r, exec (.waitfL o) s = .next t ∧ t.acting ∧ t.mem = s.mem ∧ r ∈ t.core.records ∧ r.dseq = provisional s.slot ∧ r.kind = .leave ∧
    r.ready = false ∧ r.pc = s.strand.pc + 4 ∧ r.on = .future a o.rd s.strand.pc ∧ r.waitAddr = a ∧ (o.rd ≠ 0 → r.smask.getLsbD o.rd.toNat) ∧
    t.strand = { s.strand with wait := .registration s.fabric.node (provisional s.slot) } ∧
    t.agenda = todo .futureRegistration { Input.none with
     core := s.here, slot := s.core.ctx.getD 64, n := provisional s.slot, addr := pa } :: s.agenda) ∧
  (∀ (s : State) (r : Record) (va sl : Nat) (rd : BitVec 5) (fpc : Word),
   let i := s.inp
   let u := s.park.focus i.core sl
   let d := u.core.dseq
   (s.getCore i.core).ctx = some i.slot → (s.getCore i.core).record i.n = some r → r.on = .future va rd fpc →
   (s.park.getCore i.core).waitingSlot (.registration s.fabric.node i.n) = some sl → (∀ q ∈ u.core.records, q.dseq ≠ d) →
    (i.ok → ∃ t, exec .registrationAnswer s = .next t ∧ t.acting = false ∧ tget (t.getCore i.core).slots sl = none ∧
     (t.getCore i.core).record d = some { r with dseq := d }) ∧
    (i.ok = false → i.queue = 0 → ∃ t, exec .registrationAnswer s = .next t ∧ t.acting ∧ t.here = i.core ∧ t.slot = sl ∧
     t.x rd = (if rd = 0 then 0 else i.data) ∧ (∀ q, q ≠ rd → t.x q = u.x q) ∧ t.strand.pc = u.strand.pc + 4 ∧
     t.core.record i.n = none ∧ t.mem = s.mem) ∧
    (u.strand.waited s.time.toNat → ∃ t, exec .registrationTimeout s = .next t ∧ t.acting = false ∧
     tget (t.getCore i.core).slots sl = none ∧ (t.getCore i.core).record d = some { r with regp := true, dseq := d })) ∧
  ∀ (s : State) (r : Record) (va : Nat) (rd : BitVec 5) (fpc : Word),
   let i := s.inp
   (s.getCore i.core).ctx = some i.slot → (s.getCore i.core).record i.n = some r → r.on = .future va rd fpc → r.ready = false → i.ok →
    ∃ t, exec .waiterReady s = .next t ∧ (r.spilled = false → t.mem = s.mem) ∧
     (t.getCore i.core).record i.n = some { r with
     next := 0, regp := false, ready := true, on := .nothing,
     regs := { r.regs with xs := if rd = 0 then r.regs.xs else r.regs.xs.set rd.toNat i.data } } ∧
     ((tget (t.getCore i.core).order r.prio).getD []).getLast? = some i.n

/-- R371, R361. The model's choices: log 23, 25, 26. -/
def Obligations.ConsumingLoadsAndAppends : Prop :=
 (∀ (s : State) (o : VOp),
  let w := widthOf s.sew
  let n := w / 8
  let is := s.activeFrom s.startAt o.msel
  let place (i : Nat) : Nat × Nat := (s.here + (if (s.localPlace .unit i).1 then 1 else 0), (s.localPlace .unit i).2)
  let touched (c g : Nat) : Prop := ∃ i ∈ is, (place i).1 = c ∧ g ∈ granulesOf (place i).2 n
  s.acting → (∀ b ∈ s.core.board, b.cell ≠ s.strand.cell) → s.core.board.length < 64 → (∀ c, Memory.wf (s.getCore c).loc) → WordRuns s (.vldC o) → 8 ≤ w →
  (∀ i ∈ is, (s.getCore (place i).1).localOk false (place i).2 n) → (∀ c g, touched c g → g ∈ (s.getCore c).full ∧ g ∉ (s.getCore c).locPoison) →
  (∀ r : Fin 32, s.strand.regs.vs[r].bits.toNat < 2 ^ (8 * s.strand.regs.vs[r].tag)) →
   ∃ u : State, exec (.vldC o) s = .next u.wordDone ∧ u.mem = s.mem ∧ u.strand.cv = s.clearStart.strand.cv ∧
    (∀ k, (k + 1) * w ≤ 65536 → elemOf (u.v o.vd.toNat) k w =
     if k ∈ is then bytesValue (s.getCore (place k).1).loc (place k).2 n else elemOf (s.v o.vd.toNat) k w) ∧
    (∀ r : Fin 32, r.val ≠ o.vd.toNat → u.strand.regs.vs[r] = s.strand.regs.vs[r]) ∧ u.strand.regs.xs = s.strand.regs.xs ∧
    ∀ c, (u.getCore c).loc = (s.getCore c).loc ∧ ∀ g, g ∈ (u.getCore c).full ↔ g ∈ (s.getCore c).full ∧ (o.vs2.getLsbD 4 = true ∨ ¬ touched c g)) ∧
  ∀ (s : State) (o : VOp),
   let a := s.capA.toNat
   let act := s.active o.msel
   let m := s.core.loc
   let f (off : Nat) : Nat := bytesValue m (a + off) 4
   let end_ := f 8 + 4 * f 4
   s.vl ≠ 0 → (∀ b ∈ s.core.board, b.cell ≠ s.strand.cell) → s.core.board.length < 64 → Memory.wf m → WordRuns s (.vcapp o) → a % 16 = 0 → LocalWritable s a 16 →
   LocalWritable s (f 8) (4 * f 4) → s.core.locBad a 16 = false → f 12 = 0 → f 4 ≠ 0 → f 8 % 4 = 0 → (end_ ≤ a ∨ a + 16 ≤ f 8) →
    (f 0 + act.length ≤ f 4 → ∃ u : State, exec (.vcapp o) s = .next u.wordDone ∧ bytesValue u.core.loc a 4 = f 0 + act.length ∧
     (∀ j, j < act.length → bytesValue u.core.loc (f 8 + 4 * (f 0 + j)) 4 = (s.capB.toNat + act.getD j 0) % 2 ^ 32) ∧
     (∀ x, (x < a ∨ a + 4 ≤ x) → (x < f 8 + 4 * f 0 ∨ f 8 + 4 * (f 0 + act.length) ≤ x) → mget u.core.loc x = mget m x) ∧
     ScalarDue { s with core := u.core } u o.vd
     (w64 ((if s.vlmax ≤ f 0 + act.length then 2 ^ 63 else 0) + (f 0 + act.length))) []) ∧
    (f 4 < f 0 + act.length → ∃ u : State, exec (.vcapp o) s = .next u.wordDone ∧
     ScalarDue s u o.vd (w64 ((if s.vlmax ≤ f 0 then 2 ^ 63 else 0) + 2 ^ 62 + f 0)) [])

/-- R241, R398, R405, R407, R409, R411. The model's choices: log 16, 37, 39. -/
def Obligations.MatrixCommandsPerform : Prop :=
 ∀ (s : State) (m : MatCmd),
  let c := s.inp.core
  let k := s.park.getCore c
  let cell (k : Core) (q : Nat) : BitVec 32 := (tget k.acc q).getD 0
  let r0 := ctlRow m.ctl
  let c0 := ctlCol m.ctl
  let inTile (q : Nat) : Prop := r0 ≤ q / 512 ∧ q / 512 < r0 + m.tm ∧ c0 ≤ q % 512 ∧ q % 512 < c0 + m.tn
  let done (p : Core → Prop) : Prop := ∃ t, exec .matrixCommandFinish s = .next t ∧ t.acting = false ∧ t.mem = s.mem ∧
   (t.getCore c).mat = k.mat.filter (fun n => n.order != m.order) ∧ p (t.getCore c)
  s.park.nextMat c = some m → m.drain = none → (∀ sl st, m.slot = some sl → tget k.slots sl = some st → st.trapping = none) →
   (∀ o, decode m.word = .ok (.mzero o) → ctlBad m.ctl m.tm m.tn = false →
    done (fun k' => ∀ q, (inTile q → cell k' q = 0) ∧ (¬ inTile q → cell k' q = cell k q))) ∧
   (∀ o, decode m.word = .ok (.mma o) ∨ decode m.word = .ok (.mmaS o) → m.sew = 0 → m.sew2 = 0 → m.mkstep = 0 → m.mrow = 0 →
    ctlBad m.ctl m.tm m.tn = false → k.accBad = [] → k.opPoison = [] →
    let a (i n : Nat) : Int := toSigned 8 (mload k.opMem (16384 * ctlA m.ctl + (i * m.tk + n)) 1)
    let b (j n : Nat) : Int := toSigned 8 (mload k.opMem (16384 * ctlB m.ctl + (j * m.tk + n)) 1)
    done (fun k' => ∀ q,
     (inTile q → cell k' q = cell k q + BitVec.ofInt 32 ((List.range m.tk).map (fun n => a (q / 512 - r0) n * b (q % 512 - c0) n)).sum) ∧
     (¬ inTile q → cell k' q = cell k q))) ∧
   (∀ o, decode m.word = .ok (.trelease o) → (k.step m.cell).live →
    let slots := BitVec.ofNat 32 m.ctl.toNat
    let bands := BitVec.ofNat 8 (m.ctl.toNat / 2 ^ 32)
    done (fun k' => k'.step m.cell = { k.step m.cell with
     slots := (k.step m.cell).slots &&& ~~~(slots &&& (k.step m.cell).slots), bands := (k.step m.cell).bands &&& ~~~bands } ∧
     k'.acc = k.acc ∧ ∀ p, p ∈ k'.tags ↔ p ∈ k.tags ∧ (slots &&& (k.step m.cell).slots).getLsbD p.1 = false)) ∧
   (∀ o, decode m.word = .ok (.mmark o) → m.fut = none → (k.step m.cell).live → (k.records.map (·.dseq)).Nodup →
    done (fun k' => (k'.step m.cell).mpassed = max (k.step m.cell).mpassed m.marker ∧ k'.acc = k.acc ∧
     ∀ r ∈ k.records, ∀ w, r.cell = m.cell → r.on = .marker w → w / 2 ^ 60 = 0 → w % 2 ^ 48 ≤ m.marker →
     ∃ r' ∈ k'.records, r'.dseq = r.dseq ∧ r'.ready))

/-- R193, R269, R384. The model's choice, of a table that came back damaged: log 73. -/
def Obligations.BindTable : Prop :=
 ∀ (s s' : State) (rd rs1 rs2 : BitVec 5),
  let sa := (s.x rs1).toNat
  let sl := (s.x rd).toNat
  let sb := s.x rs2
  let loc := sb.getLsbD 63
  let bol := if loc then sb.toNat % 2 ^ 22 else sb.toNat
  let b : Bind :=
   { base := sa - sa % 64, len := (sa + sl + 63) / 64 * 64 - (sa - sa % 64), loc := loc, bollard := bol }
  let out (u : State) (bs : List Bind) (ov : Bool) : State :=
   { u with
     core := { u.core with binds := bs, bindOver := ov }
     strand := { u.strand with pc := u.strand.pc + 4, waits := none } }
  let ok := if loc then s' = s ∧ LocalWritable s bol 8 else ∃ ps, s.find s.here .object bol 8 = (s', .ok ps)
  (sl ≠ 0 → sl ≤ 2 ^ 32 → bol % 8 = 0 → s.core.bindBad →
   exec (.bind rd rs1 rs2) s = .next (s.trapScalar 0x40 bol) ∧ exec (.unbind rd rs1 rs2) s = .next (s.trapScalar 0x40 bol)) ∧
  (sl ≠ 0 → sl ≤ 2 ^ 32 → bol % 8 = 0 → ok → s.acting → s.core.bindBad = false →
   (s.core.binds.contains b → exec (.bind rd rs1 rs2) s = .next (out s' s.core.binds s.core.bindOver)) ∧
   (s.core.binds.contains b = false → s.core.binds.length < 32 → exec (.bind rd rs1 rs2) s = .next (out s' (s.core.binds ++ [b]) s.core.bindOver)) ∧
   (s.core.binds.contains b = false → 32 ≤ s.core.binds.length → exec (.bind rd rs1 rs2) s = .next (out s' s.core.binds true)) ∧
   exec (.unbind rd rs1 rs2) s = .next (out s' (s.core.binds.filter (fun c => c != b))
    (!(s.core.binds.filter (fun c => c != b)).isEmpty && s.core.bindOver))) ∧
  (sl = 0 → exec (.bind rd rs1 rs2) s = .next s.next ∧ exec (.unbind rd rs1 rs2) s = .next s.next) ∧ (sl ≠ 0 → 2 ^ 32 < sl ∨ bol % 8 ≠ 0 →
   exec (.bind rd rs1 rs2) s = .next (s.trapScalar 0x11 bol) ∧ exec (.unbind rd rs1 rs2) s = .next (s.trapScalar 0x11 bol))

/-- R136, R262. The model's choices: log 14, 20. -/
def Obligations.RestartTakesUpTheRecord : Prop :=
 ∀ (s : State) (core : Nat) (r : Record),
  let st := s.strandOf core r
  st.pc = r.pc ∧ st.cell = r.cell ∧ st.regs.vl = r.regs.vl ∧ st.regs.vtype = r.regs.vtype ∧ st.regs.sstat = r.regs.sstat ∧ st.regs.eix = r.regs.eix ∧
   (∀ n : Fin 32, n.val ≠ 3 → st.regs.xs[n] = if r.smask.getLsbD n then r.regs.xs[n] else 0) ∧
   (∀ n : Fin 32, st.regs.vs[n] = if r.vmask.getLsbD n then
     { bits := BitVec.ofNat 65536 r.regs.vs[n].read, tag := 64 * r.vecUnits n }
    else { bits := 0, tag := 0 }) ∧
   (∀ n : Fin 8, st.regs.ms[n] = if r.mmask.getLsbD n then r.regs.ms[n] else 0) ∧ (r.smask.getLsbD 3 → st.regs.xs[3] = r.regs.xs[3]) ∧
   (r.smask.getLsbD 3 = false → st.regs.xs[3] = w64 ((s.getCore core).cellAddr r.cell)) ∧
   ((r.kind = .leave ∨ r.kind = .fork) → st.queue = [] ∧ st.resume = none) ∧ ((r.kind = .preempt ∨ r.kind = .fault) → st.queue = r.convoys ∧
     (r.convoys ≠ [] → st.resume = some (r.trap.fword, r.trap.estart, r.trap.mstop, r.trap.mkstep, r.trap.mrow)))

/-- R252, R254, R257, R259, R261: taking a trap in a scalar-stream word. TRAP is one such word (R342). -/
def Obligations.ScalarTrapSavesTheStrand : Prop :=
 ∀ (s : State) (cause faddr : Nat) (ctx : Nat) (c : Context),
  let r := s.trapRecord s.strand.pc
   { TrapBlock.none with cause := cause, scalar := true, fpc := s.strand.pc, faddr := w64 faddr } []
  s.core.ctx = some ctx → tget s.contexts ctx = some c → s.core.mat.all (fun m => m.slot != some s.slot) →
  FitsTrap s r → RingRoom s c (ceilDiv r.length 64) → TrapTaken s (s.trapScalar cause faddr) ctx c r ∧
    r.kind = .fault ∧ r.pc = s.strand.pc ∧ r.convoys = [] ∧ r.trap.scalar ∧ r.trap.async = false ∧ r.trap.cause = cause ∧
    r.trap.fpc = s.strand.pc ∧ r.trap.faddr = w64 faddr ∧ r.trap.asid = s.core.asid.toNat ∧
    r.trap.when_ = s.time.toNat ∧ r.trap.rescyc = s.myStep.rescyc ∧ r.trap.dirtyV = s.strand.dirtyV ∧
    r.trap.dirtyM = s.strand.dirtyM ∧ r.regs = s.strand.regs ∧ r.smask = 0xFFFFFFFE ∧ r.mmask = 0xFE ∧
    (∀ n : Fin 32, r.vmask.getLsbD n = decide (s.strand.regs.vs[n].tag ≠ 0)) ∧ r.cell = s.strand.cell ∧ exec (.trap 0) s = .next (s.trapScalar 0x01 0)

/-- R128, R252, R254, R258, R261: taking a trap in the convoy in execution. -/
def Obligations.ConvoyTrapKeepsTheQueue : Prop :=
 ∀ (s : State) (tb : TrapBlock) (ctx : Nat) (c : Context),
  let cv := s.strand.cv
  let u := s.discard
  let r := u.trapRecord s.strand.pc
   { tb with scalar := false, fword := cv.k, fpc := cv.entry.cpc + w64 (4 * cv.k) }
   ({ cv.entry with started := true } :: s.strand.queue)
  cv.live → tb.async = false → s.core.ctx = some ctx → tget s.contexts ctx = some c →
  s.core.mat.all (fun m => m.slot != some s.slot) → s.spent s.myStep = false → FitsTrap u r → RingRoom s c (ceilDiv r.length 64) →
   TrapTaken s (s.trapConvoy tb) ctx c r ∧
    r.kind = .fault ∧ r.pc = s.strand.pc ∧ r.trap.cause = tb.cause ∧ r.trap.scalar = false ∧ r.trap.fword = cv.k ∧
    r.trap.fpc = cv.entry.cpc + w64 (4 * cv.k) ∧ r.trap.estart = tb.estart ∧ r.regs.vs = cv.vs0 ∧
    r.regs.ms = cv.ms0 ∧ r.regs.xs = s.strand.regs.xs ∧ r.trap.dirtyV = cv.dirtyV0 ∧ r.convoys = { cv.entry with started := true } :: s.strand.queue

/-- R128, R249, R345: the end of a word and of its convoy. -/
def Obligations.ConvoyRetires : Prop :=
 ∀ s : State,
  let cv := s.strand.cv
  let t := s.wordDone
  (cv.k + 1 < cv.entry.words.length → t = { s with strand := { s.strand with cv := { cv with k := cv.k + 1, since := none }, waits := none } }) ∧
  (cv.entry.words.length ≤ cv.k + 1 → t.strand.cv.live = false ∧ (∀ b, b < 64 → t.strand.regs.sstat.getLsbD b =
    (s.strand.regs.sstat.getLsbD b || cv.flags.any (fun f => f.1.bitNo == b) || (b == 8 && cv.sat))) ∧
   (∀ n : Fin 5, t.strand.regs.eix[n] =
    ((cv.flags.reverse.find? (fun f => f.1.eixNo == n.val)).map (fun f => w64 f.2)).getD s.strand.regs.eix[n]) ∧
   (∀ r : BitVec 5, t.x r = if r = 0 then 0 else ((cv.scalars.reverse.find? (fun p => p.1 == r)).map (·.2)).getD (s.x r)) ∧
   { t with strand := { t.strand with
     cv := cv
     fetched := s.strand.fetched
     waits := s.strand.waits
     bad := s.strand.bad
     regs := { t.strand.regs with xs := s.strand.regs.xs, sstat := s.strand.regs.sstat, eix := s.strand.regs.eix } } } = s)

/-- R137, R431 (DSEQ counts a core's deposits; a registering record's blocks are taken first): the invariant behind the premise of the statements
about deposits, kept by the operations that touch the records, while a strand awaits a registration's answer too. -/
def Obligations.DepositNumbersStayFresh : Prop :=
 Numbered Core.reset ∧ (∀ k : Core, Numbered k → k.dseq < 2 ^ 48 → FreshDeposit k) ∧
  (∀ (s s' : State) (c : Nat) (r r' : Record), (∀ d, Numbered (s.getCore d)) → s.deposit c r = some (s', r') →
   (∀ d, Numbered (s'.getCore d)) ∧ r'.dseq = (s.getCore c).dseq) ∧
  (∀ (s s' : State) (c slot : Nat) (r r' : Record), (∀ d, Numbered (s.getCore d)) → s.depositAs c r (provisional slot) = some (s', r') →
   (∀ d, Numbered (s'.getCore d) ∧ (s'.getCore d).dseq = (s.getCore d).dseq) ∧ 2 ^ 48 ≤ r'.dseq) ∧
  (∀ (s : State) (c key : Nat), (∀ d, Numbered (s.getCore d)) → ∀ d, Numbered ((s.firm c key).getCore d)) ∧
  (∀ (k : Core) (n : Nat), Numbered k → Numbered (k.makeReady n) ∧ Numbered (k.dropRecord n)) ∧
  ∀ (k : Core) (n : Nat) (f : Record → Record), (∀ r, (f r).dseq = r.dseq) → Numbered k → Numbered (k.modRecord n f)

/-- R274, R283, R290: what no table defines is refused, by name; R323, R328, R331: worked encodings. -/
def Obligations.WordsDecodeOrAreRefused : Prop :=
 ((∀ w : BitVec 32, w.extractLsb' 0 2 ≠ 3#2 → decode w = .error .notWord) ∧ (∀ w : BitVec 32, w.extractLsb' 0 2 = 3#2 →
    w.extractLsb' 2 5 ∈ [0b00010#5, 0b00110#5, 0b00111#5, 0b01110#5, 0b01111#5, 0b11111#5] → decode w = .error .reservedMajor) ∧
   ∀ bs : List (BitVec 8), bs.length < 4 → decodeBytes bs = .error .truncated) ∧
 (decode 0x02524433#32 = .ok (.div 8 4 5) ∧ decode 0x04523333#32 = .ok (.lea 6 4 5 3) ∧
   decode 0xFE028CE3#32 = .ok (.beq 5 0 0xFFC) ∧ decode 0x00008067#32 = .ok (.jalr 0 1 0) ∧
   decode 0x01012383#32 = .ok (.ldW 7 2 16) ∧ decode 0xFEC13C23#32 = .ok (.stD 12 2 0xFF8))

/-- R274-R290: for every word of the tables, whatever its operands, decoding its encoding gives it back. -/
def Obligations.EncodedWordDecodesBack : Prop :=
 ∀ i : Instr, i.isWord → i.unusedZero → decode (encode i) = .ok i

/-- R274-R290: a word that decodes is the encoding of what it decodes to, which is well formed. -/
def Obligations.DecodedWordEncodesBack : Prop :=
 ∀ (w : BitVec 32) (i : Instr), decode w = .ok i → encode i = w ∧ i.isWord ∧ i.unusedZero

/-- R128, R129, R261, R274, R281, with the order of turns of log 2: what one step of the module is. -/
def Obligations.StepRunsTheDecodedWord : Prop :=
 ∀ s : State,
  let t := s.tick.showAll
  let v : State := { t with turn := t.turn - 1 };
  s.power ≠ .off →
   (∀ c cell, t.due = some (c, cell) → step s = exec .stepBudgetExpiry { t with inp := { Input.none with core := c, slot := cell } }) ∧
   (t.due = none → ∀ x r, s.struck = x :: r → step s = .next ({ t with struck := r }.strike x)) ∧ (t.due = none → s.struck = [] →
    (∀ e r, s.agenda = e :: r → step s = exec e.what { t with agenda := r, inp := e.inp }) ∧
    (s.agenda = [] → s.acting → 0 < s.turn → t.runnable s.here t.core t.strand →
     let passes := v.turn % 2 = 1 ∧ v.runAhead ≠ none
     (s.strand.unretired ≠ [] → v.turn % 2 = 1 →
     (∀ u, v.runAhead = some (.done u) → step s = .next u) ∧ (∀ i u, v.runAhead = some (.run i u) → step s = exec i u)) ∧
     (s.strand.cv.live → ¬ passes → RunsWord s v (s.strand.cv.entry.words.getD s.strand.cv.k 0)) ∧ (s.strand.cv.live = false → s.strand.queue = [] →
     (∀ u va, v.fetch s.strand.pc = (u, .miss va) → step s = .next (u.missScalar va)) ∧
     (∀ u c va, v.fetch s.strand.pc = (u, .bad c va) → step s = .next (u.trapScalar c va)) ∧ (∀ u w, v.fetch s.strand.pc = (u, .word w) →
      (isVectorWord w = false → (badScalarC w → step s = .next (u.trapScalar 0x04 0)) ∧ (badScalarC w = false → RunsWord s u w)) ∧
      (isVectorWord w → cBit w = false → u.ahead = 0 → (u.capturesBad [w] → step s = .next (u.trapScalar 0x40 0)) ∧
      (u.capturesBad [w] = false → ∃ e : ConvoyEntry, e.words = [w] ∧ e.cpc = s.strand.pc ∧ e.vl = s.strand.regs.vl ∧
       e.vtype = s.strand.regs.vtype ∧ e.caps = u.captures w ∧ RunsWord s ((u.setPc (s.strand.pc + 4)).openConvoy e) w)))) ∧
     (∀ e r, s.strand.cv.live = false → s.strand.queue = e :: r → ¬ passes →
     let o := { v with strand := { v.strand with queue := r } }.openConvoy e
     (e.damaged → step s = .next o.parityTrap) ∧ (e.damaged = false → RunsWord s o (e.words.getD o.strand.cv.k 0)))))

/-- R61, R62, R69, R77, R158, R297. The model's choices: log 13, and log 1 that memory lists nothing after reset, every byte reading 0. -/
def Obligations.ResetState : Prop :=
 let s := State.reset;
 Memory.wf s.mem ∧ s.mem = [] ∧ s.acting = false ∧ s.queues = [] ∧ s.contexts = [] ∧ s.apertures = [] ∧ s.agenda = [] ∧
  s.work = [todo .boot Input.none] ∧ s.time = 0 ∧ s.mbx.ready = false ∧ s.mbx.swap = false ∧ s.mbx.admen = false ∧ s.mbx.qerr = 0 ∧
  (∀ h, (s.hart h).irqEn = 0 ∧ (s.hart h).wdw = false) ∧ (∀ d, (s.harbour d).submit = [] ∧ (s.harbour d).launches = [] ∧ (s.harbour d).done = []) ∧
  ∀ c, (s.getCore c).cstate = .inReset ∧ (s.getCore c).loc = [] ∧ (s.getCore c).full = [] ∧ (s.getCore c).opMem = [] ∧ (s.getCore c).acc = [] ∧
   (s.getCore c).ctx = none ∧ (s.getCore c).slots = [] ∧ (s.getCore c).records = [] ∧ (s.getCore c).vlcap = 12 ∧ (s.getCore c).lpart = 1 ∧
   (s.getCore c).detm = false ∧ (s.getCore c).gangEn = false

/-- R26, R252. The model's choices: log 2, 7. -/
def Obligations.NoStepStops : Prop :=
 ∀ s : State, (s.power ≠ .off → ∃ t, step s = .next t) ∧ (s.power = .off → (∃ x ∈ s.agenda, x.what = .boot) → ∃ t, step s = .next t) ∧
  (s.power = .off → (∀ x ∈ s.agenda, x.what ≠ .boot) → step s = .fault .off)

/-- The memory's canonical form (log 1), which R4's bytes and R163's spaces are laid in. -/
def Obligations.MemoryStaysCanonical : Prop :=
 ∀ s t : State, Memory.wf s.mem → step s = .next t → Memory.wf t.mem
end

