-- ==== Sys2Proof/Laws/Memory.lean ====
section
/-!
SUPPORT. Byte memory: what a store leaves at every address, that it keeps the canonical form, and what a load of what was stored gives
(R4). Tables: a read after a write.
-/

namespace Sys2Proof.Machine

open Sys2Proof

/-! Tables. -/

@[simp] theorem tget_nil {α : Type} (k : Nat) : tget ([] : Table α) k = none := rfl

theorem tget_cons {α : Type} (p : Nat × α) (t : Table α) (k : Nat) : tget (p :: t) k = if p.1 = k then some p.2 else tget t k := by
  unfold tget
  rw [List.find?_cons]
  by_cases h : p.1 = k
  · simp [h]
  · rw [if_neg h, show (p.1 == k) = false from beq_false_of_ne h]

/-- A table read after a write at the same key. -/
@[simp] theorem tget_tset_self {α : Type} (t : Table α) (k : Nat) (v : α) : tget (tset t k v) k = some v := by
  induction t with
  | nil => simp [tset, tget_cons]
  | cons p r ih =>
    unfold tset
    split
    · simp [tget_cons]
    · split
      · simp [tget_cons]
      · rename_i h1 h2
        rw [tget_cons, if_neg (fun e => h2 e.symm), ih]

/-- A table read after a write at another key. -/
theorem tget_tset_ne {α : Type} (t : Table α) (k j : Nat) (v : α) (h : j ≠ k) : tget (tset t k v) j = tget t j := by
  induction t with
  | nil => simp [tset, tget_cons, Ne.symm h]
  | cons p r ih =>
    unfold tset
    split
    · rw [tget_cons, if_neg (Ne.symm h)]
    · split
      · rename_i h1 h2
        rw [tget_cons, tget_cons, if_neg (Ne.symm h), if_neg (fun e => h (by rw [← e, h2]))]
      · rw [tget_cons, tget_cons, ih]

/-! Cells of a store. -/

theorem cellsOf_key (bs : List Byte) : ∀ (a : Nat) (c : Host.Cell), c ∈ cellsOf a bs → a ≤ c.1 ∧ c.1 < a + bs.length ∧ c.2 ≠ 0 := by
  induction bs with
  | nil => intro a c h; simp [cellsOf] at h
  | cons b r ih =>
    intro a c h
    unfold cellsOf at h
    split at h
    · have := ih _ _ h
      simp only [List.length_cons]
      exact ⟨by omega, by omega, this.2.2⟩
    · rcases List.mem_cons.mp h with rfl | h
      · simp only [List.length_cons]
        exact ⟨Nat.le_refl _, by omega, by assumption⟩
      · have := ih _ _ h
        simp only [List.length_cons]
        exact ⟨by omega, by omega, this.2.2⟩

theorem cellsOf_rising (bs : List Byte) : ∀ a : Nat, ((cellsOf a bs).map (·.1)).Pairwise (· < ·) := by
  induction bs with
  | nil => intro a; exact List.Pairwise.nil
  | cons b r ih =>
    intro a
    unfold cellsOf
    split
    · exact ih _
    · rw [List.map_cons, List.pairwise_cons]
      refine ⟨fun x hx => ?_, ih _⟩
      obtain ⟨c, hc, rfl⟩ := List.mem_map.mp hx
      exact (cellsOf_key _ _ _ hc).1

theorem rising_filter (m : Mem) (p : Host.Cell → Bool) (h : (m.map (·.1)).Pairwise (· < ·)) :
    ((m.filter p).map (·.1)).Pairwise (· < ·) :=
  List.Pairwise.sublist (List.Sublist.map _ List.filter_sublist) h

/-- A store keeps memory in its canonical form. -/
theorem mstore_wf (m : Mem) (a : Nat) (bs : List Byte) (h : Memory.wf m) : Memory.wf (mstore m a bs) := by
  obtain ⟨h1, h2⟩ := h
  unfold mstore
  refine ⟨?_, ?_⟩
  · rw [List.map_append, List.map_append]
    refine List.pairwise_append.mpr ⟨List.pairwise_append.mpr ⟨rising_filter m _ h1, cellsOf_rising bs a, ?_⟩, rising_filter m _ h1, ?_⟩
    · intro x hx y hy
      obtain ⟨c, hc, rfl⟩ := List.mem_map.mp hx
      obtain ⟨d, hd, rfl⟩ := List.mem_map.mp hy
      have := (cellsOf_key _ _ _ hd).1
      have := of_decide_eq_true (List.mem_filter.mp hc).2
      omega
    · intro x hx y hy
      obtain ⟨d, hd, rfl⟩ := List.mem_map.mp hy
      have h3 := of_decide_eq_true (List.mem_filter.mp hd).2
      rcases List.mem_append.mp hx with hx | hx
      · obtain ⟨c, hc, rfl⟩ := List.mem_map.mp hx
        have := of_decide_eq_true (List.mem_filter.mp hc).2
        omega
      · obtain ⟨c, hc, rfl⟩ := List.mem_map.mp hx
        have := (cellsOf_key _ _ _ hc).2.1
        omega
  · intro c hc
    rcases List.mem_append.mp hc with hc | hc
    · rcases List.mem_append.mp hc with hc | hc
      · exact h2 _ (List.mem_filter.mp hc).1
      · exact (cellsOf_key _ _ _ hc).2.2
    · exact h2 _ (List.mem_filter.mp hc).1

/-! One byte read. -/

@[simp] theorem mget_nil (x : Nat) : mget [] x = 0 := rfl

theorem mget_cons (c : Host.Cell) (m : Mem) (x : Nat) : mget (c :: m) x = if c.1 = x then c.2 else mget m x := by
  unfold mget
  rw [List.find?_cons]
  by_cases h : c.1 = x
  · simp [h]
  · rw [if_neg h, show (c.1 == x) = false from beq_false_of_ne h]

theorem mget_none (m : Mem) (x : Nat) (h : ∀ c ∈ m, c.1 ≠ x) : mget m x = 0 := by
  induction m with
  | nil => rfl
  | cons c r ih =>
    rw [mget_cons, if_neg (h c (List.mem_cons_self ..)), ih (fun d hd => h d (List.mem_cons_of_mem _ hd))]

theorem mget_append (m n : Mem) (x : Nat) (h : ∀ c ∈ m, c.1 ≠ x) : mget (m ++ n) x = mget n x := by
  induction m with
  | nil => rfl
  | cons c r ih =>
    rw [List.cons_append, mget_cons, if_neg (h c (List.mem_cons_self ..)), ih (fun d hd => h d (List.mem_cons_of_mem _ hd))]

theorem mget_append_left (m n : Mem) (x : Nat) (h : ∀ c ∈ n, c.1 ≠ x) : mget (m ++ n) x = mget m x := by
  induction m with
  | nil => rw [List.nil_append, mget_none n x h]; rfl
  | cons c r ih => rw [List.cons_append, mget_cons, mget_cons, ih]

theorem mget_filter (m : Mem) (p : Nat → Bool) (x : Nat) (h : p x = true) : mget (m.filter (fun c => p c.1)) x = mget m x := by
  induction m with
  | nil => rfl
  | cons c r ih =>
    rw [List.filter_cons]
    split
    · rw [mget_cons, mget_cons, ih]
    · rename_i hc
      rw [ih, mget_cons, if_neg]
      intro e
      rw [e] at hc
      exact hc h

theorem mget_cellsOf (bs : List Byte) : ∀ a x : Nat, a ≤ x → x < a + bs.length → mget (cellsOf a bs) x = bs.getD (x - a) 0 := by
  induction bs with
  | nil => intro a x h1 h2; simp only [List.length_nil] at h2; omega
  | cons b r ih =>
    intro a x h1 h2
    simp only [List.length_cons] at h2
    by_cases e : a = x
    · subst e
      unfold cellsOf
      split
      · rename_i hb
        rw [mget_none _ _ (fun c hc => by have := (cellsOf_key _ _ _ hc).1; omega)]
        simp [hb]
      · rw [mget_cons, if_pos rfl]
        simp
    · have e' : x - a = (x - (a + 1)) + 1 := by omega
      rw [e', List.getD_cons_succ, ← ih (a + 1) x (by omega) (by omega)]
      rw [cellsOf]
      split
      · rfl
      · rw [mget_cons, if_neg e]

/-- What every address reads after a store. -/
theorem mget_mstore (m : Mem) (a : Nat) (bs : List Byte) (x : Nat) :
    mget (mstore m a bs) x = if a ≤ x ∧ x < a + bs.length then bs.getD (x - a) 0 else mget m x := by
  unfold mstore
  split
  · rename_i h
    rw [mget_append_left _ _ _ (fun c hc => by have := of_decide_eq_true (List.mem_filter.mp hc).2; omega),
      mget_append _ _ _ (fun c hc => by have := of_decide_eq_true (List.mem_filter.mp hc).2; omega)]
    exact mget_cellsOf bs a x h.1 h.2
  · rename_i h
    by_cases hx : x < a
    · rw [mget_append_left _ _ _ (fun c hc => by have := of_decide_eq_true (List.mem_filter.mp hc).2; omega),
        mget_append_left _ _ _ (fun c hc => by have := (cellsOf_key _ _ _ hc).1; omega)]
      exact mget_filter m (fun k => decide (k < a)) x (decide_eq_true hx)
    · rw [mget_append]
      · exact mget_filter m (fun k => decide (a + bs.length ≤ k)) x (decide_eq_true (by omega))
      · intro c hc
        rcases List.mem_append.mp hc with hc | hc
        · have := of_decide_eq_true (List.mem_filter.mp hc).2; omega
        · have := (cellsOf_key _ _ _ hc).2.1; omega

/-- A store leaves every other address alone. -/
theorem mget_mstore_ne (m : Mem) (a : Nat) (bs : List Byte) (x : Nat) (h : x < a ∨ a + bs.length ≤ x) :
    mget (mstore m a bs) x = mget m x := by
  rw [mget_mstore, if_neg (by omega)]

/-! Words read. -/

@[simp] theorem bytesOf_length (n : Nat) : ∀ v : Nat, (bytesOf n v).length = n := by
  induction n with
  | zero => intro v; rfl
  | succ n ih => intro v; simp [bytesOf, ih]

/-- The little-endian value of the bytes that `mget` reads. -/
def mvalue (m : Mem) : Nat → Nat → Nat
  | _, 0 => 0
  | a, n + 1 => (mget m a).toNat + 256 * mvalue m (a + 1) n

theorem mwalk_eq (n : Nat) : ∀ (m : Mem) (a : Nat), (m.map (·.1)).Pairwise (· < ·) → (∀ c ∈ m, a ≤ c.1) → mwalk m a n = mvalue m a n := by
  induction n with
  | zero => intro m a _ _; cases m <;> rfl
  | succ n ih =>
    intro m a h1 h2
    cases m with
    | nil =>
      have h0 : ∀ (k b : Nat), mvalue [] b k = 0 := by
        intro k
        induction k with
        | zero => intro b; rfl
        | succ k ihk => intro b; rw [mvalue, ihk]; rfl
      rw [h0]; rfl
    | cons c r =>
      rw [List.map_cons, List.pairwise_cons] at h1
      have hr : ∀ d ∈ r, c.1 < d.1 := fun d hd => h1.1 _ (List.mem_map_of_mem hd)
      have hc := h2 c (List.mem_cons_self ..)
      unfold mwalk mvalue
      split
      · rename_i e
        rw [ih r (a + 1) h1.2 (fun d hd => by have := hr d hd; omega), mget_cons, if_pos e]
        congr 1
        have hv : ∀ (k b : Nat), a < b → mvalue r b k = mvalue (c :: r) b k := by
          intro k
          induction k with
          | zero => intro b _; rfl
          | succ k ihk =>
            intro b hb
            rw [mvalue, mvalue, ihk (b + 1) (by omega), mget_cons, if_neg (by omega)]
        rw [hv n (a + 1) (by omega)]
      · rename_i e
        rw [ih (c :: r) (a + 1) (by rw [List.map_cons, List.pairwise_cons]; exact h1)
          (fun d hd => by
            rcases List.mem_cons.mp hd with rfl | hd
            · omega
            · have := hr d hd; omega),
          mget_none (c :: r) a (fun d hd => by
            rcases List.mem_cons.mp hd with rfl | hd
            · exact e
            · have := hr d hd; omega)]
        simp

/-- A load is the little-endian value of its bytes. -/
theorem mload_eq (m : Mem) (a n : Nat) (h : Memory.wf m) : mload m a n = mvalue m a n := by
  have hs : ∀ (l : Mem), (l.map (·.1)).Pairwise (· < ·) →
      (∀ (k b : Nat), a ≤ b → mvalue (l.dropWhile (fun c => decide (c.1 < a))) b k = mvalue l b k) ∧
        ((l.dropWhile (fun c => decide (c.1 < a))).map (·.1)).Pairwise (· < ·) ∧
        ∀ c ∈ l.dropWhile (fun c => decide (c.1 < a)), a ≤ c.1 := by
    intro l
    induction l with
    | nil => intro _; exact ⟨fun _ _ _ => rfl, List.Pairwise.nil, fun c hc => by cases hc⟩
    | cons c r ih =>
      intro hl
      rw [List.map_cons, List.pairwise_cons] at hl
      rw [List.dropWhile_cons]
      split
      · rename_i hc
        have hc := of_decide_eq_true hc
        refine ⟨fun k b hb => ?_, (ih hl.2).2.1, (ih hl.2).2.2⟩
        rw [(ih hl.2).1 k b hb]
        clear ih
        revert b
        induction k with
        | zero => intro b _; rfl
        | succ k ihk => intro b hb; rw [mvalue, mvalue, ihk (b + 1) (by omega), mget_cons, if_neg (by omega)]
      · rename_i hc
        have hc : ¬ c.1 < a := fun e => hc (decide_eq_true e)
        refine ⟨fun _ _ _ => rfl, by rw [List.map_cons, List.pairwise_cons]; exact hl, fun d hd => ?_⟩
        rcases List.mem_cons.mp hd with rfl | hd
        · omega
        · have := hl.1 _ (List.mem_map_of_mem hd); omega
  unfold mload
  rw [mwalk_eq n _ a (hs m h.1).2.1 (hs m h.1).2.2, (hs m h.1).1 n a (Nat.le_refl _)]

theorem mvalue_range (m : Mem) (n : Nat) : ∀ a : Nat, mvalue m a n = valueOf ((List.range n).map (fun i => mget m (a + i))) := by
  induction n with
  | zero => intro a; rfl
  | succ n ih =>
    intro a
    rw [mvalue, ih (a + 1), List.range_succ_eq_map, List.map_cons, List.map_map, valueOf, Nat.add_zero]
    congr 3
    apply List.map_congr_left
    intro i _
    show mget m (a + 1 + i) = mget m (a + (i + 1))
    rw [Nat.add_assoc, Nat.add_comm 1 i]

/-- A load as the little-endian value of the bytes that it reads one by one (R4). -/
theorem mload_range (m : Mem) (a n : Nat) (h : Memory.wf m) :
    mload m a n = valueOf ((List.range n).map (fun i => mget m (a + i))) := by
  rw [mload_eq m a n h, mvalue_range]

theorem bytesOf_getD (n : Nat) : ∀ (v i : Nat), i < n → (bytesOf n v).getD i 0 = BitVec.ofNat 8 (v / 256 ^ i) := by
  induction n with
  | zero => intro v i h; omega
  | succ n ih =>
    intro v i h
    cases i with
    | zero => simp [bytesOf]
    | succ i =>
      rw [bytesOf, List.getD_cons_succ, ih (v / 256) i (by omega), Nat.div_div_eq_div_mul, Nat.pow_succ, Nat.mul_comm 256]

/-- What was stored is loaded (R4). -/
theorem mload_mstore_self (m : Mem) (a n v : Nat) (h : Memory.wf m) : mload (mstore m a (bytesOf n v)) a n = v % 256 ^ n := by
  rw [mload_eq _ _ _ (mstore_wf m a _ h)]
  have hg : ∀ (k j w : Nat) (f : Nat → Byte), (∀ i, i < k → f (j + i) = (bytesOf k w).getD i 0) →
      (∀ M : Mem, (∀ i, i < k → mget M (j + i) = f (j + i)) → mvalue M j k = w % 256 ^ k) := by
    intro k
    induction k with
    | zero => intro j w f _ M _; simp [mvalue, Nat.mod_one]
    | succ k ih =>
      intro j w f hf M hM
      rw [mvalue, ih (j + 1) (w / 256) f _ M _, show mget M j = f j from hM 0 (by omega)]
      · have h0 := hf 0 (by omega)
        rw [Nat.add_zero] at h0
        rw [h0]
        simp only [bytesOf, List.getD_cons_zero, BitVec.toNat_ofNat]
        show w % 256 + 256 * (w / 256 % 256 ^ k) = w % 256 ^ (k + 1)
        rw [Nat.pow_succ 256 k, Nat.mul_comm (256 ^ k) 256, Nat.mod_mul]
      · intro i hi
        have := hf (i + 1) (by omega)
        rw [show j + 1 + i = j + (i + 1) by omega, this]
        simp [bytesOf]
      · intro i hi
        rw [show j + 1 + i = j + (i + 1) by omega, hM (i + 1) (by omega)]
  refine hg n a v (fun x => mget (mstore m a (bytesOf n v)) x) ?_ _ (fun _ _ => rfl)
  intro i hi
  rw [mget_mstore, if_pos (by rw [bytesOf_length]; omega), Nat.add_sub_cancel_left]

/-- A load of bytes that a store does not touch. -/
theorem mload_mstore_ne (m : Mem) (a : Nat) (bs : List Byte) (x n : Nat) (h : Memory.wf m) (hd : x + n ≤ a ∨ a + bs.length ≤ x) :
    mload (mstore m a bs) x n = mload m x n := by
  rw [mload_eq _ _ _ (mstore_wf m a _ h), mload_eq _ _ _ h]
  revert x
  induction n with
  | zero => intro x _; rfl
  | succ n ih => intro x hd; rw [mvalue, mvalue, ih (x + 1) (by omega), mget_mstore_ne _ _ _ _ (by omega)]

/-- Memory with a range cleared stays in its canonical form. -/
theorem mclear_wf (m : Mem) (a n : Nat) (h : Memory.wf m) : Memory.wf (mclear m a n) :=
  ⟨rising_filter m _ h.1, fun c hc => h.2 c (List.mem_filter.mp hc).1⟩

/-- A cleared range reads as memory that nothing has written, and every other address as before. -/
theorem mget_mclear (m : Mem) (a n x : Nat) : mget (mclear m a n) x = if a ≤ x ∧ x < a + n then 0 else mget m x := by
  unfold mclear
  split
  · rename_i h
    exact mget_none _ _ (fun c hc e => by
      have hp := (List.mem_filter.mp hc).2
      simp only [Bool.or_eq_true, decide_eq_true_eq] at hp
      omega)
  · rename_i h
    refine mget_filter m (fun k => decide (k < a) || decide (a + n ≤ k)) x ?_
    simp only [Bool.or_eq_true, decide_eq_true_eq]
    omega

/-- Global memory stays in its canonical form when a range is cleared. -/
theorem State.clear_wf (s : State) (a n : Nat) (h : Memory.wf s.mem) : Memory.wf (s.clear a n).mem := mclear_wf _ _ _ h

/-- Global memory stays in its canonical form under a write of bytes. -/
theorem State.put_wf (s : State) (a : Nat) (bs : List Byte) (h : Memory.wf s.mem) : Memory.wf (s.put a bs).mem := mstore_wf _ _ _ h

end Sys2Proof.Machine
end

