-- ==== Sys2Proof/Laws/Home.lean ====
section
/-!
SUPPORT. What a write and a read at the home of physical bytes leave (R14, R15, R28), and that they keep memory in its canonical form.
-/

namespace Sys2Proof.Machine

open Sys2Proof

@[simp] theorem State.wakeHome_mem (s : State) (pa : Nat) : (s.wakeHome pa).mem = s.mem := rfl
@[simp] theorem State.countRead_mem (s : State) (pa n : Nat) : (s.countRead pa n).mem = s.mem := rfl
@[simp] theorem State.countRead_cores (s : State) (pa n : Nat) : (s.countRead pa n).cores = s.cores := rfl
@[simp] theorem State.countRead_core (s : State) (pa n : Nat) : (s.countRead pa n).core = s.core := rfl
@[simp] theorem State.countRead_strand (s : State) (pa n : Nat) : (s.countRead pa n).strand = s.strand := rfl
@[simp] theorem State.countRead_poison (s : State) (pa n : Nat) : (s.countRead pa n).poison = s.poison := rfl

/-- A write that memory takes lies in memory behind a port that is up, meets no poisoned sector that it covers in part, and changes the bytes, what
is known of their sectors, the reservations and frame tables they lie in, and the sleep of their die alone. -/
theorem State.writePhys_ok (s t : State) (pa : Nat) (bs : List Byte) (h : s.writePhys pa bs = .ok t) :
    inMemory pa bs.length = true ∧ s.portDown pa = false ∧ t.mem = mstore s.mem pa bs ∧
      { t with
        mem := s.mem, fronts := s.fronts, reservations := s.reservations, hbmce := s.hbmce, poison := s.poison, soft := s.soft
        dieSleep := s.dieSleep } = s := by
  simp only [State.writePhys] at h
  split at h
  · cases h
  · split at h
    · cases h
    · split at h
      · cases h
      · rename_i hm hp _
        injection h with h
        subst h
        exact ⟨by simpa using hm, by simpa using hp, rfl, rfl⟩

/-- Bytes put at their home are stored, or memory stays as it was. -/
theorem State.putHome_mem (s : State) (pa : Nat) (bs : List Byte) : (s.putHome pa bs).mem = mstore s.mem pa bs ∨ (s.putHome pa bs).mem = s.mem := by
  cases h : s.writePhys pa bs with
  | error c => exact .inr (by simp [State.putHome, h, Except.toOption])
  | ok t => exact .inl (by simpa [State.putHome, h, Except.toOption] using (State.writePhys_ok s t pa bs h).2.2.1)

/-- Memory stays in its canonical form under a write at the home, and under a merge. -/
theorem State.putHome_wf (s : State) (pa : Nat) (bs : List Byte) (h : Memory.wf s.mem) : Memory.wf (s.putHome pa bs).mem := by
  rcases s.putHome_mem pa bs with e | e <;> rw [e]
  · exact mstore_wf _ _ _ h
  · exact h
theorem State.merge_wf (s : State) (pa n v : Nat) (h : Memory.wf s.mem) : Memory.wf (s.merge pa n v).mem := State.putHome_wf _ _ _ h

end Sys2Proof.Machine
end

