-- ==== Sys2Proof/Laws/Links.lean ====
section
/-!
SUPPORT. What scheduling a packet on a link gives: its own bytes, or a code from which the far end has the packet back (R23).
-/

namespace Sys2Proof.Machine

open Sys2Proof

/-- A packet goes out as its bytes, or coded, in fewer flits, as what decodes to it: the coder is lossless (R23). -/
theorem Link.schedule_lossless (l : Link) (p : Packet) :
    l.schedule p = flitsOf (opClass p.op) l.lseq false p.bytes ∨
      (l.schedule p = flitsOf (opClass p.op) l.lseq true (Config.zeroRunEncode p.bytes) ∧ packetOfFlits (l.schedule p) = some p ∧
        ceilDiv (Config.zeroRunEncode p.bytes).length 112 < ceilDiv p.bytes.length 112) := by
  unfold Link.schedule
  dsimp only
  split
  · rename_i h
    simp only [Bool.and_eq_true, decide_eq_true_eq, beq_iff_eq] at h
    exact .inr ⟨rfl, h.2, h.1.2⟩
  · exact .inl rfl

end Sys2Proof.Machine
end

