-- ==== Sys2Proof/Laws/State.lean ====
section
/-!
SUPPORT. What each named update of the state leaves: one lemma per field, so that no proof unfolds a record update.
-/

namespace Sys2Proof.Machine

open Sys2Proof

/-! `State.setPc`. -/

@[simp] theorem State.setPc_agenda (s : State) (pc : Word) : (s.setPc pc).agenda = s.agenda := rfl
@[simp] theorem State.setPc_work (s : State) (pc : Word) : (s.setPc pc).work = s.work := rfl
@[simp] theorem State.setPc_clock (s : State) (pc : Word) : (s.setPc pc).clock = s.clock := rfl
@[simp] theorem State.setPc_turn (s : State) (pc : Word) : (s.setPc pc).turn = s.turn := rfl
@[simp] theorem State.setPc_phase (s : State) (pc : Word) : (s.setPc pc).phase = s.phase := rfl
@[simp] theorem State.setPc_serveFrom (s : State) (pc : Word) : (s.setPc pc).serveFrom = s.serveFrom := rfl
@[simp] theorem State.setPc_ahead (s : State) (pc : Word) : (s.setPc pc).ahead = s.ahead := rfl
@[simp] theorem State.setPc_draws (s : State) (pc : Word) : (s.setPc pc).draws = s.draws := rfl
@[simp] theorem State.setPc_inp (s : State) (pc : Word) : (s.setPc pc).inp = s.inp := rfl
@[simp] theorem State.setPc_acting (s : State) (pc : Word) : (s.setPc pc).acting = s.acting := rfl
@[simp] theorem State.setPc_here (s : State) (pc : Word) : (s.setPc pc).here = s.here := rfl
@[simp] theorem State.setPc_slot (s : State) (pc : Word) : (s.setPc pc).slot = s.slot := rfl
@[simp] theorem State.setPc_core (s : State) (pc : Word) : (s.setPc pc).core = s.core := rfl
@[simp] theorem State.setPc_cores (s : State) (pc : Word) : (s.setPc pc).cores = s.cores := rfl
@[simp] theorem State.setPc_mem (s : State) (pc : Word) : (s.setPc pc).mem = s.mem := rfl
@[simp] theorem State.setPc_poison (s : State) (pc : Word) : (s.setPc pc).poison = s.poison := rfl
@[simp] theorem State.setPc_soft (s : State) (pc : Word) : (s.setPc pc).soft = s.soft := rfl
@[simp] theorem State.setPc_struck (s : State) (pc : Word) : (s.setPc pc).struck = s.struck := rfl
@[simp] theorem State.setPc_hbmce (s : State) (pc : Word) : (s.setPc pc).hbmce = s.hbmce := rfl
@[simp] theorem State.setPc_hbmue (s : State) (pc : Word) : (s.setPc pc).hbmue = s.hbmue := rfl
@[simp] theorem State.setPc_units (s : State) (pc : Word) : (s.setPc pc).units = s.units := rfl
@[simp] theorem State.setPc_replicas (s : State) (pc : Word) : (s.setPc pc).replicas = s.replicas := rfl
@[simp] theorem State.setPc_homeOps (s : State) (pc : Word) : (s.setPc pc).homeOps = s.homeOps := rfl
@[simp] theorem State.setPc_engineWaits (s : State) (pc : Word) : (s.setPc pc).engineWaits = s.engineWaits := rfl
@[simp] theorem State.setPc_fronts (s : State) (pc : Word) : (s.setPc pc).fronts = s.fronts := rfl
@[simp] theorem State.setPc_reservations (s : State) (pc : Word) : (s.setPc pc).reservations = s.reservations := rfl
@[simp] theorem State.setPc_portHeld (s : State) (pc : Word) : (s.setPc pc).portHeld = s.portHeld := rfl
@[simp] theorem State.setPc_publishes (s : State) (pc : Word) : (s.setPc pc).publishes = s.publishes := rfl
@[simp] theorem State.setPc_cxl (s : State) (pc : Word) : (s.setPc pc).cxl = s.cxl := rfl
@[simp] theorem State.setPc_expanders (s : State) (pc : Word) : (s.setPc pc).expanders = s.expanders := rfl
@[simp] theorem State.setPc_cxlTrained (s : State) (pc : Word) : (s.setPc pc).cxlTrained = s.cxlTrained := rfl
@[simp] theorem State.setPc_cxlSilent (s : State) (pc : Word) : (s.setPc pc).cxlSilent = s.cxlSilent := rfl
@[simp] theorem State.setPc_hostMem (s : State) (pc : Word) : (s.setPc pc).hostMem = s.hostMem := rfl
@[simp] theorem State.setPc_contexts (s : State) (pc : Word) : (s.setPc pc).contexts = s.contexts := rfl
@[simp] theorem State.setPc_ptPool (s : State) (pc : Word) : (s.setPc pc).ptPool = s.ptPool := rfl
@[simp] theorem State.setPc_harbours (s : State) (pc : Word) : (s.setPc pc).harbours = s.harbours := rfl
@[simp] theorem State.setPc_harts (s : State) (pc : Word) : (s.setPc pc).harts = s.harts := rfl
@[simp] theorem State.setPc_queues (s : State) (pc : Word) : (s.setPc pc).queues = s.queues := rfl
@[simp] theorem State.setPc_cmdSeq (s : State) (pc : Word) : (s.setPc pc).cmdSeq = s.cmdSeq := rfl
@[simp] theorem State.setPc_haltDies (s : State) (pc : Word) : (s.setPc pc).haltDies = s.haltDies := rfl
@[simp] theorem State.setPc_mbx (s : State) (pc : Word) : (s.setPc pc).mbx = s.mbx := rfl
@[simp] theorem State.setPc_apertures (s : State) (pc : Word) : (s.setPc pc).apertures = s.apertures := rfl
@[simp] theorem State.setPc_fw (s : State) (pc : Word) : (s.setPc pc).fw = s.fw := rfl
@[simp] theorem State.setPc_wdCount (s : State) (pc : Word) : (s.setPc pc).wdCount = s.wdCount := rfl
@[simp] theorem State.setPc_clkFail (s : State) (pc : Word) : (s.setPc pc).clkFail = s.clkFail := rfl
@[simp] theorem State.setPc_dieSleep (s : State) (pc : Word) : (s.setPc pc).dieSleep = s.dieSleep := rfl
@[simp] theorem State.setPc_power (s : State) (pc : Word) : (s.setPc pc).power = s.power := rfl
@[simp] theorem State.setPc_time (s : State) (pc : Word) : (s.setPc pc).time = s.time := rfl
@[simp] theorem State.setPc_log (s : State) (pc : Word) : (s.setPc pc).log = s.log := rfl
@[simp] theorem State.setPc_fabric (s : State) (pc : Word) : (s.setPc pc).fabric = s.fabric := rfl

/-! `State.next`. -/

@[simp] theorem State.next_agenda (s : State) : (s.next).agenda = s.agenda := rfl
@[simp] theorem State.next_work (s : State) : (s.next).work = s.work := rfl
@[simp] theorem State.next_clock (s : State) : (s.next).clock = s.clock := rfl
@[simp] theorem State.next_turn (s : State) : (s.next).turn = s.turn := rfl
@[simp] theorem State.next_phase (s : State) : (s.next).phase = s.phase := rfl
@[simp] theorem State.next_serveFrom (s : State) : (s.next).serveFrom = s.serveFrom := rfl
@[simp] theorem State.next_ahead (s : State) : (s.next).ahead = s.ahead := rfl
@[simp] theorem State.next_draws (s : State) : (s.next).draws = s.draws := rfl
@[simp] theorem State.next_inp (s : State) : (s.next).inp = s.inp := rfl
@[simp] theorem State.next_acting (s : State) : (s.next).acting = s.acting := rfl
@[simp] theorem State.next_here (s : State) : (s.next).here = s.here := rfl
@[simp] theorem State.next_slot (s : State) : (s.next).slot = s.slot := rfl
@[simp] theorem State.next_core (s : State) : (s.next).core = s.core := rfl
@[simp] theorem State.next_cores (s : State) : (s.next).cores = s.cores := rfl
@[simp] theorem State.next_mem (s : State) : (s.next).mem = s.mem := rfl
@[simp] theorem State.next_poison (s : State) : (s.next).poison = s.poison := rfl
@[simp] theorem State.next_soft (s : State) : (s.next).soft = s.soft := rfl
@[simp] theorem State.next_struck (s : State) : (s.next).struck = s.struck := rfl
@[simp] theorem State.next_hbmce (s : State) : (s.next).hbmce = s.hbmce := rfl
@[simp] theorem State.next_hbmue (s : State) : (s.next).hbmue = s.hbmue := rfl
@[simp] theorem State.next_units (s : State) : (s.next).units = s.units := rfl
@[simp] theorem State.next_replicas (s : State) : (s.next).replicas = s.replicas := rfl
@[simp] theorem State.next_homeOps (s : State) : (s.next).homeOps = s.homeOps := rfl
@[simp] theorem State.next_engineWaits (s : State) : (s.next).engineWaits = s.engineWaits := rfl
@[simp] theorem State.next_fronts (s : State) : (s.next).fronts = s.fronts := rfl
@[simp] theorem State.next_reservations (s : State) : (s.next).reservations = s.reservations := rfl
@[simp] theorem State.next_portHeld (s : State) : (s.next).portHeld = s.portHeld := rfl
@[simp] theorem State.next_publishes (s : State) : (s.next).publishes = s.publishes := rfl
@[simp] theorem State.next_cxl (s : State) : (s.next).cxl = s.cxl := rfl
@[simp] theorem State.next_expanders (s : State) : (s.next).expanders = s.expanders := rfl
@[simp] theorem State.next_cxlTrained (s : State) : (s.next).cxlTrained = s.cxlTrained := rfl
@[simp] theorem State.next_cxlSilent (s : State) : (s.next).cxlSilent = s.cxlSilent := rfl
@[simp] theorem State.next_hostMem (s : State) : (s.next).hostMem = s.hostMem := rfl
@[simp] theorem State.next_contexts (s : State) : (s.next).contexts = s.contexts := rfl
@[simp] theorem State.next_ptPool (s : State) : (s.next).ptPool = s.ptPool := rfl
@[simp] theorem State.next_harbours (s : State) : (s.next).harbours = s.harbours := rfl
@[simp] theorem State.next_harts (s : State) : (s.next).harts = s.harts := rfl
@[simp] theorem State.next_queues (s : State) : (s.next).queues = s.queues := rfl
@[simp] theorem State.next_cmdSeq (s : State) : (s.next).cmdSeq = s.cmdSeq := rfl
@[simp] theorem State.next_haltDies (s : State) : (s.next).haltDies = s.haltDies := rfl
@[simp] theorem State.next_mbx (s : State) : (s.next).mbx = s.mbx := rfl
@[simp] theorem State.next_apertures (s : State) : (s.next).apertures = s.apertures := rfl
@[simp] theorem State.next_fw (s : State) : (s.next).fw = s.fw := rfl
@[simp] theorem State.next_wdCount (s : State) : (s.next).wdCount = s.wdCount := rfl
@[simp] theorem State.next_clkFail (s : State) : (s.next).clkFail = s.clkFail := rfl
@[simp] theorem State.next_dieSleep (s : State) : (s.next).dieSleep = s.dieSleep := rfl
@[simp] theorem State.next_power (s : State) : (s.next).power = s.power := rfl
@[simp] theorem State.next_time (s : State) : (s.next).time = s.time := rfl
@[simp] theorem State.next_log (s : State) : (s.next).log = s.log := rfl
@[simp] theorem State.next_fabric (s : State) : (s.next).fabric = s.fabric := rfl

/-! `State.modRegs`. -/

@[simp] theorem State.modRegs_agenda (s : State) (f : Regs → Regs) : (s.modRegs f).agenda = s.agenda := rfl
@[simp] theorem State.modRegs_work (s : State) (f : Regs → Regs) : (s.modRegs f).work = s.work := rfl
@[simp] theorem State.modRegs_clock (s : State) (f : Regs → Regs) : (s.modRegs f).clock = s.clock := rfl
@[simp] theorem State.modRegs_turn (s : State) (f : Regs → Regs) : (s.modRegs f).turn = s.turn := rfl
@[simp] theorem State.modRegs_phase (s : State) (f : Regs → Regs) : (s.modRegs f).phase = s.phase := rfl
@[simp] theorem State.modRegs_serveFrom (s : State) (f : Regs → Regs) : (s.modRegs f).serveFrom = s.serveFrom := rfl
@[simp] theorem State.modRegs_ahead (s : State) (f : Regs → Regs) : (s.modRegs f).ahead = s.ahead := rfl
@[simp] theorem State.modRegs_draws (s : State) (f : Regs → Regs) : (s.modRegs f).draws = s.draws := rfl
@[simp] theorem State.modRegs_inp (s : State) (f : Regs → Regs) : (s.modRegs f).inp = s.inp := rfl
@[simp] theorem State.modRegs_acting (s : State) (f : Regs → Regs) : (s.modRegs f).acting = s.acting := rfl
@[simp] theorem State.modRegs_here (s : State) (f : Regs → Regs) : (s.modRegs f).here = s.here := rfl
@[simp] theorem State.modRegs_slot (s : State) (f : Regs → Regs) : (s.modRegs f).slot = s.slot := rfl
@[simp] theorem State.modRegs_core (s : State) (f : Regs → Regs) : (s.modRegs f).core = s.core := rfl
@[simp] theorem State.modRegs_cores (s : State) (f : Regs → Regs) : (s.modRegs f).cores = s.cores := rfl
@[simp] theorem State.modRegs_mem (s : State) (f : Regs → Regs) : (s.modRegs f).mem = s.mem := rfl
@[simp] theorem State.modRegs_poison (s : State) (f : Regs → Regs) : (s.modRegs f).poison = s.poison := rfl
@[simp] theorem State.modRegs_soft (s : State) (f : Regs → Regs) : (s.modRegs f).soft = s.soft := rfl
@[simp] theorem State.modRegs_struck (s : State) (f : Regs → Regs) : (s.modRegs f).struck = s.struck := rfl
@[simp] theorem State.modRegs_hbmce (s : State) (f : Regs → Regs) : (s.modRegs f).hbmce = s.hbmce := rfl
@[simp] theorem State.modRegs_hbmue (s : State) (f : Regs → Regs) : (s.modRegs f).hbmue = s.hbmue := rfl
@[simp] theorem State.modRegs_units (s : State) (f : Regs → Regs) : (s.modRegs f).units = s.units := rfl
@[simp] theorem State.modRegs_replicas (s : State) (f : Regs → Regs) : (s.modRegs f).replicas = s.replicas := rfl
@[simp] theorem State.modRegs_homeOps (s : State) (f : Regs → Regs) : (s.modRegs f).homeOps = s.homeOps := rfl
@[simp] theorem State.modRegs_engineWaits (s : State) (f : Regs → Regs) : (s.modRegs f).engineWaits = s.engineWaits := rfl
@[simp] theorem State.modRegs_fronts (s : State) (f : Regs → Regs) : (s.modRegs f).fronts = s.fronts := rfl
@[simp] theorem State.modRegs_reservations (s : State) (f : Regs → Regs) : (s.modRegs f).reservations = s.reservations := rfl
@[simp] theorem State.modRegs_portHeld (s : State) (f : Regs → Regs) : (s.modRegs f).portHeld = s.portHeld := rfl
@[simp] theorem State.modRegs_publishes (s : State) (f : Regs → Regs) : (s.modRegs f).publishes = s.publishes := rfl
@[simp] theorem State.modRegs_cxl (s : State) (f : Regs → Regs) : (s.modRegs f).cxl = s.cxl := rfl
@[simp] theorem State.modRegs_expanders (s : State) (f : Regs → Regs) : (s.modRegs f).expanders = s.expanders := rfl
@[simp] theorem State.modRegs_cxlTrained (s : State) (f : Regs → Regs) : (s.modRegs f).cxlTrained = s.cxlTrained := rfl
@[simp] theorem State.modRegs_cxlSilent (s : State) (f : Regs → Regs) : (s.modRegs f).cxlSilent = s.cxlSilent := rfl
@[simp] theorem State.modRegs_hostMem (s : State) (f : Regs → Regs) : (s.modRegs f).hostMem = s.hostMem := rfl
@[simp] theorem State.modRegs_contexts (s : State) (f : Regs → Regs) : (s.modRegs f).contexts = s.contexts := rfl
@[simp] theorem State.modRegs_ptPool (s : State) (f : Regs → Regs) : (s.modRegs f).ptPool = s.ptPool := rfl
@[simp] theorem State.modRegs_harbours (s : State) (f : Regs → Regs) : (s.modRegs f).harbours = s.harbours := rfl
@[simp] theorem State.modRegs_harts (s : State) (f : Regs → Regs) : (s.modRegs f).harts = s.harts := rfl
@[simp] theorem State.modRegs_queues (s : State) (f : Regs → Regs) : (s.modRegs f).queues = s.queues := rfl
@[simp] theorem State.modRegs_cmdSeq (s : State) (f : Regs → Regs) : (s.modRegs f).cmdSeq = s.cmdSeq := rfl
@[simp] theorem State.modRegs_haltDies (s : State) (f : Regs → Regs) : (s.modRegs f).haltDies = s.haltDies := rfl
@[simp] theorem State.modRegs_mbx (s : State) (f : Regs → Regs) : (s.modRegs f).mbx = s.mbx := rfl
@[simp] theorem State.modRegs_apertures (s : State) (f : Regs → Regs) : (s.modRegs f).apertures = s.apertures := rfl
@[simp] theorem State.modRegs_fw (s : State) (f : Regs → Regs) : (s.modRegs f).fw = s.fw := rfl
@[simp] theorem State.modRegs_wdCount (s : State) (f : Regs → Regs) : (s.modRegs f).wdCount = s.wdCount := rfl
@[simp] theorem State.modRegs_clkFail (s : State) (f : Regs → Regs) : (s.modRegs f).clkFail = s.clkFail := rfl
@[simp] theorem State.modRegs_dieSleep (s : State) (f : Regs → Regs) : (s.modRegs f).dieSleep = s.dieSleep := rfl
@[simp] theorem State.modRegs_power (s : State) (f : Regs → Regs) : (s.modRegs f).power = s.power := rfl
@[simp] theorem State.modRegs_time (s : State) (f : Regs → Regs) : (s.modRegs f).time = s.time := rfl
@[simp] theorem State.modRegs_log (s : State) (f : Regs → Regs) : (s.modRegs f).log = s.log := rfl
@[simp] theorem State.modRegs_fabric (s : State) (f : Regs → Regs) : (s.modRegs f).fabric = s.fabric := rfl

/-! `State.modHere`. -/

@[simp] theorem State.modHere_agenda (s : State) (f : Core → Core) : (s.modHere f).agenda = s.agenda := rfl
@[simp] theorem State.modHere_work (s : State) (f : Core → Core) : (s.modHere f).work = s.work := rfl
@[simp] theorem State.modHere_clock (s : State) (f : Core → Core) : (s.modHere f).clock = s.clock := rfl
@[simp] theorem State.modHere_turn (s : State) (f : Core → Core) : (s.modHere f).turn = s.turn := rfl
@[simp] theorem State.modHere_phase (s : State) (f : Core → Core) : (s.modHere f).phase = s.phase := rfl
@[simp] theorem State.modHere_serveFrom (s : State) (f : Core → Core) : (s.modHere f).serveFrom = s.serveFrom := rfl
@[simp] theorem State.modHere_ahead (s : State) (f : Core → Core) : (s.modHere f).ahead = s.ahead := rfl
@[simp] theorem State.modHere_draws (s : State) (f : Core → Core) : (s.modHere f).draws = s.draws := rfl
@[simp] theorem State.modHere_inp (s : State) (f : Core → Core) : (s.modHere f).inp = s.inp := rfl
@[simp] theorem State.modHere_acting (s : State) (f : Core → Core) : (s.modHere f).acting = s.acting := rfl
@[simp] theorem State.modHere_here (s : State) (f : Core → Core) : (s.modHere f).here = s.here := rfl
@[simp] theorem State.modHere_slot (s : State) (f : Core → Core) : (s.modHere f).slot = s.slot := rfl
@[simp] theorem State.modHere_strand (s : State) (f : Core → Core) : (s.modHere f).strand = s.strand := rfl
@[simp] theorem State.modHere_cores (s : State) (f : Core → Core) : (s.modHere f).cores = s.cores := rfl
@[simp] theorem State.modHere_mem (s : State) (f : Core → Core) : (s.modHere f).mem = s.mem := rfl
@[simp] theorem State.modHere_poison (s : State) (f : Core → Core) : (s.modHere f).poison = s.poison := rfl
@[simp] theorem State.modHere_soft (s : State) (f : Core → Core) : (s.modHere f).soft = s.soft := rfl
@[simp] theorem State.modHere_struck (s : State) (f : Core → Core) : (s.modHere f).struck = s.struck := rfl
@[simp] theorem State.modHere_hbmce (s : State) (f : Core → Core) : (s.modHere f).hbmce = s.hbmce := rfl
@[simp] theorem State.modHere_hbmue (s : State) (f : Core → Core) : (s.modHere f).hbmue = s.hbmue := rfl
@[simp] theorem State.modHere_units (s : State) (f : Core → Core) : (s.modHere f).units = s.units := rfl
@[simp] theorem State.modHere_replicas (s : State) (f : Core → Core) : (s.modHere f).replicas = s.replicas := rfl
@[simp] theorem State.modHere_homeOps (s : State) (f : Core → Core) : (s.modHere f).homeOps = s.homeOps := rfl
@[simp] theorem State.modHere_engineWaits (s : State) (f : Core → Core) : (s.modHere f).engineWaits = s.engineWaits := rfl
@[simp] theorem State.modHere_fronts (s : State) (f : Core → Core) : (s.modHere f).fronts = s.fronts := rfl
@[simp] theorem State.modHere_reservations (s : State) (f : Core → Core) : (s.modHere f).reservations = s.reservations := rfl
@[simp] theorem State.modHere_portHeld (s : State) (f : Core → Core) : (s.modHere f).portHeld = s.portHeld := rfl
@[simp] theorem State.modHere_publishes (s : State) (f : Core → Core) : (s.modHere f).publishes = s.publishes := rfl
@[simp] theorem State.modHere_cxl (s : State) (f : Core → Core) : (s.modHere f).cxl = s.cxl := rfl
@[simp] theorem State.modHere_expanders (s : State) (f : Core → Core) : (s.modHere f).expanders = s.expanders := rfl
@[simp] theorem State.modHere_cxlTrained (s : State) (f : Core → Core) : (s.modHere f).cxlTrained = s.cxlTrained := rfl
@[simp] theorem State.modHere_cxlSilent (s : State) (f : Core → Core) : (s.modHere f).cxlSilent = s.cxlSilent := rfl
@[simp] theorem State.modHere_hostMem (s : State) (f : Core → Core) : (s.modHere f).hostMem = s.hostMem := rfl
@[simp] theorem State.modHere_contexts (s : State) (f : Core → Core) : (s.modHere f).contexts = s.contexts := rfl
@[simp] theorem State.modHere_ptPool (s : State) (f : Core → Core) : (s.modHere f).ptPool = s.ptPool := rfl
@[simp] theorem State.modHere_harbours (s : State) (f : Core → Core) : (s.modHere f).harbours = s.harbours := rfl
@[simp] theorem State.modHere_harts (s : State) (f : Core → Core) : (s.modHere f).harts = s.harts := rfl
@[simp] theorem State.modHere_queues (s : State) (f : Core → Core) : (s.modHere f).queues = s.queues := rfl
@[simp] theorem State.modHere_cmdSeq (s : State) (f : Core → Core) : (s.modHere f).cmdSeq = s.cmdSeq := rfl
@[simp] theorem State.modHere_haltDies (s : State) (f : Core → Core) : (s.modHere f).haltDies = s.haltDies := rfl
@[simp] theorem State.modHere_mbx (s : State) (f : Core → Core) : (s.modHere f).mbx = s.mbx := rfl
@[simp] theorem State.modHere_apertures (s : State) (f : Core → Core) : (s.modHere f).apertures = s.apertures := rfl
@[simp] theorem State.modHere_fw (s : State) (f : Core → Core) : (s.modHere f).fw = s.fw := rfl
@[simp] theorem State.modHere_wdCount (s : State) (f : Core → Core) : (s.modHere f).wdCount = s.wdCount := rfl
@[simp] theorem State.modHere_clkFail (s : State) (f : Core → Core) : (s.modHere f).clkFail = s.clkFail := rfl
@[simp] theorem State.modHere_dieSleep (s : State) (f : Core → Core) : (s.modHere f).dieSleep = s.dieSleep := rfl
@[simp] theorem State.modHere_power (s : State) (f : Core → Core) : (s.modHere f).power = s.power := rfl
@[simp] theorem State.modHere_time (s : State) (f : Core → Core) : (s.modHere f).time = s.time := rfl
@[simp] theorem State.modHere_log (s : State) (f : Core → Core) : (s.modHere f).log = s.log := rfl
@[simp] theorem State.modHere_fabric (s : State) (f : Core → Core) : (s.modHere f).fabric = s.fabric := rfl

/-! `State.soon`. -/

@[simp] theorem State.soon_work (s : State) (w : Instr) (i : Input) : (s.soon w i).work = s.work := rfl
@[simp] theorem State.soon_clock (s : State) (w : Instr) (i : Input) : (s.soon w i).clock = s.clock := rfl
@[simp] theorem State.soon_turn (s : State) (w : Instr) (i : Input) : (s.soon w i).turn = s.turn := rfl
@[simp] theorem State.soon_phase (s : State) (w : Instr) (i : Input) : (s.soon w i).phase = s.phase := rfl
@[simp] theorem State.soon_serveFrom (s : State) (w : Instr) (i : Input) : (s.soon w i).serveFrom = s.serveFrom := rfl
@[simp] theorem State.soon_ahead (s : State) (w : Instr) (i : Input) : (s.soon w i).ahead = s.ahead := rfl
@[simp] theorem State.soon_draws (s : State) (w : Instr) (i : Input) : (s.soon w i).draws = s.draws := rfl
@[simp] theorem State.soon_inp (s : State) (w : Instr) (i : Input) : (s.soon w i).inp = s.inp := rfl
@[simp] theorem State.soon_acting (s : State) (w : Instr) (i : Input) : (s.soon w i).acting = s.acting := rfl
@[simp] theorem State.soon_here (s : State) (w : Instr) (i : Input) : (s.soon w i).here = s.here := rfl
@[simp] theorem State.soon_slot (s : State) (w : Instr) (i : Input) : (s.soon w i).slot = s.slot := rfl
@[simp] theorem State.soon_core (s : State) (w : Instr) (i : Input) : (s.soon w i).core = s.core := rfl
@[simp] theorem State.soon_strand (s : State) (w : Instr) (i : Input) : (s.soon w i).strand = s.strand := rfl
@[simp] theorem State.soon_cores (s : State) (w : Instr) (i : Input) : (s.soon w i).cores = s.cores := rfl
@[simp] theorem State.soon_mem (s : State) (w : Instr) (i : Input) : (s.soon w i).mem = s.mem := rfl
@[simp] theorem State.soon_poison (s : State) (w : Instr) (i : Input) : (s.soon w i).poison = s.poison := rfl
@[simp] theorem State.soon_soft (s : State) (w : Instr) (i : Input) : (s.soon w i).soft = s.soft := rfl
@[simp] theorem State.soon_struck (s : State) (w : Instr) (i : Input) : (s.soon w i).struck = s.struck := rfl
@[simp] theorem State.soon_hbmce (s : State) (w : Instr) (i : Input) : (s.soon w i).hbmce = s.hbmce := rfl
@[simp] theorem State.soon_hbmue (s : State) (w : Instr) (i : Input) : (s.soon w i).hbmue = s.hbmue := rfl
@[simp] theorem State.soon_units (s : State) (w : Instr) (i : Input) : (s.soon w i).units = s.units := rfl
@[simp] theorem State.soon_replicas (s : State) (w : Instr) (i : Input) : (s.soon w i).replicas = s.replicas := rfl
@[simp] theorem State.soon_homeOps (s : State) (w : Instr) (i : Input) : (s.soon w i).homeOps = s.homeOps := rfl
@[simp] theorem State.soon_engineWaits (s : State) (w : Instr) (i : Input) : (s.soon w i).engineWaits = s.engineWaits := rfl
@[simp] theorem State.soon_fronts (s : State) (w : Instr) (i : Input) : (s.soon w i).fronts = s.fronts := rfl
@[simp] theorem State.soon_reservations (s : State) (w : Instr) (i : Input) : (s.soon w i).reservations = s.reservations := rfl
@[simp] theorem State.soon_portHeld (s : State) (w : Instr) (i : Input) : (s.soon w i).portHeld = s.portHeld := rfl
@[simp] theorem State.soon_publishes (s : State) (w : Instr) (i : Input) : (s.soon w i).publishes = s.publishes := rfl
@[simp] theorem State.soon_cxl (s : State) (w : Instr) (i : Input) : (s.soon w i).cxl = s.cxl := rfl
@[simp] theorem State.soon_expanders (s : State) (w : Instr) (i : Input) : (s.soon w i).expanders = s.expanders := rfl
@[simp] theorem State.soon_cxlTrained (s : State) (w : Instr) (i : Input) : (s.soon w i).cxlTrained = s.cxlTrained := rfl
@[simp] theorem State.soon_cxlSilent (s : State) (w : Instr) (i : Input) : (s.soon w i).cxlSilent = s.cxlSilent := rfl
@[simp] theorem State.soon_hostMem (s : State) (w : Instr) (i : Input) : (s.soon w i).hostMem = s.hostMem := rfl
@[simp] theorem State.soon_contexts (s : State) (w : Instr) (i : Input) : (s.soon w i).contexts = s.contexts := rfl
@[simp] theorem State.soon_ptPool (s : State) (w : Instr) (i : Input) : (s.soon w i).ptPool = s.ptPool := rfl
@[simp] theorem State.soon_harbours (s : State) (w : Instr) (i : Input) : (s.soon w i).harbours = s.harbours := rfl
@[simp] theorem State.soon_harts (s : State) (w : Instr) (i : Input) : (s.soon w i).harts = s.harts := rfl
@[simp] theorem State.soon_queues (s : State) (w : Instr) (i : Input) : (s.soon w i).queues = s.queues := rfl
@[simp] theorem State.soon_cmdSeq (s : State) (w : Instr) (i : Input) : (s.soon w i).cmdSeq = s.cmdSeq := rfl
@[simp] theorem State.soon_haltDies (s : State) (w : Instr) (i : Input) : (s.soon w i).haltDies = s.haltDies := rfl
@[simp] theorem State.soon_mbx (s : State) (w : Instr) (i : Input) : (s.soon w i).mbx = s.mbx := rfl
@[simp] theorem State.soon_apertures (s : State) (w : Instr) (i : Input) : (s.soon w i).apertures = s.apertures := rfl
@[simp] theorem State.soon_fw (s : State) (w : Instr) (i : Input) : (s.soon w i).fw = s.fw := rfl
@[simp] theorem State.soon_wdCount (s : State) (w : Instr) (i : Input) : (s.soon w i).wdCount = s.wdCount := rfl
@[simp] theorem State.soon_clkFail (s : State) (w : Instr) (i : Input) : (s.soon w i).clkFail = s.clkFail := rfl
@[simp] theorem State.soon_dieSleep (s : State) (w : Instr) (i : Input) : (s.soon w i).dieSleep = s.dieSleep := rfl
@[simp] theorem State.soon_power (s : State) (w : Instr) (i : Input) : (s.soon w i).power = s.power := rfl
@[simp] theorem State.soon_time (s : State) (w : Instr) (i : Input) : (s.soon w i).time = s.time := rfl
@[simp] theorem State.soon_log (s : State) (w : Instr) (i : Input) : (s.soon w i).log = s.log := rfl
@[simp] theorem State.soon_fabric (s : State) (w : Instr) (i : Input) : (s.soon w i).fabric = s.fabric := rfl

/-! `State.later`. -/

@[simp] theorem State.later_agenda (s : State) (w : Instr) (i : Input) : (s.later w i).agenda = s.agenda := rfl
@[simp] theorem State.later_clock (s : State) (w : Instr) (i : Input) : (s.later w i).clock = s.clock := rfl
@[simp] theorem State.later_turn (s : State) (w : Instr) (i : Input) : (s.later w i).turn = s.turn := rfl
@[simp] theorem State.later_phase (s : State) (w : Instr) (i : Input) : (s.later w i).phase = s.phase := rfl
@[simp] theorem State.later_serveFrom (s : State) (w : Instr) (i : Input) : (s.later w i).serveFrom = s.serveFrom := rfl
@[simp] theorem State.later_ahead (s : State) (w : Instr) (i : Input) : (s.later w i).ahead = s.ahead := rfl
@[simp] theorem State.later_draws (s : State) (w : Instr) (i : Input) : (s.later w i).draws = s.draws := rfl
@[simp] theorem State.later_inp (s : State) (w : Instr) (i : Input) : (s.later w i).inp = s.inp := rfl
@[simp] theorem State.later_acting (s : State) (w : Instr) (i : Input) : (s.later w i).acting = s.acting := rfl
@[simp] theorem State.later_here (s : State) (w : Instr) (i : Input) : (s.later w i).here = s.here := rfl
@[simp] theorem State.later_slot (s : State) (w : Instr) (i : Input) : (s.later w i).slot = s.slot := rfl
@[simp] theorem State.later_core (s : State) (w : Instr) (i : Input) : (s.later w i).core = s.core := rfl
@[simp] theorem State.later_strand (s : State) (w : Instr) (i : Input) : (s.later w i).strand = s.strand := rfl
@[simp] theorem State.later_cores (s : State) (w : Instr) (i : Input) : (s.later w i).cores = s.cores := rfl
@[simp] theorem State.later_mem (s : State) (w : Instr) (i : Input) : (s.later w i).mem = s.mem := rfl
@[simp] theorem State.later_poison (s : State) (w : Instr) (i : Input) : (s.later w i).poison = s.poison := rfl
@[simp] theorem State.later_soft (s : State) (w : Instr) (i : Input) : (s.later w i).soft = s.soft := rfl
@[simp] theorem State.later_struck (s : State) (w : Instr) (i : Input) : (s.later w i).struck = s.struck := rfl
@[simp] theorem State.later_hbmce (s : State) (w : Instr) (i : Input) : (s.later w i).hbmce = s.hbmce := rfl
@[simp] theorem State.later_hbmue (s : State) (w : Instr) (i : Input) : (s.later w i).hbmue = s.hbmue := rfl
@[simp] theorem State.later_units (s : State) (w : Instr) (i : Input) : (s.later w i).units = s.units := rfl
@[simp] theorem State.later_replicas (s : State) (w : Instr) (i : Input) : (s.later w i).replicas = s.replicas := rfl
@[simp] theorem State.later_homeOps (s : State) (w : Instr) (i : Input) : (s.later w i).homeOps = s.homeOps := rfl
@[simp] theorem State.later_engineWaits (s : State) (w : Instr) (i : Input) : (s.later w i).engineWaits = s.engineWaits := rfl
@[simp] theorem State.later_fronts (s : State) (w : Instr) (i : Input) : (s.later w i).fronts = s.fronts := rfl
@[simp] theorem State.later_reservations (s : State) (w : Instr) (i : Input) : (s.later w i).reservations = s.reservations := rfl
@[simp] theorem State.later_portHeld (s : State) (w : Instr) (i : Input) : (s.later w i).portHeld = s.portHeld := rfl
@[simp] theorem State.later_publishes (s : State) (w : Instr) (i : Input) : (s.later w i).publishes = s.publishes := rfl
@[simp] theorem State.later_cxl (s : State) (w : Instr) (i : Input) : (s.later w i).cxl = s.cxl := rfl
@[simp] theorem State.later_expanders (s : State) (w : Instr) (i : Input) : (s.later w i).expanders = s.expanders := rfl
@[simp] theorem State.later_cxlTrained (s : State) (w : Instr) (i : Input) : (s.later w i).cxlTrained = s.cxlTrained := rfl
@[simp] theorem State.later_cxlSilent (s : State) (w : Instr) (i : Input) : (s.later w i).cxlSilent = s.cxlSilent := rfl
@[simp] theorem State.later_hostMem (s : State) (w : Instr) (i : Input) : (s.later w i).hostMem = s.hostMem := rfl
@[simp] theorem State.later_contexts (s : State) (w : Instr) (i : Input) : (s.later w i).contexts = s.contexts := rfl
@[simp] theorem State.later_ptPool (s : State) (w : Instr) (i : Input) : (s.later w i).ptPool = s.ptPool := rfl
@[simp] theorem State.later_harbours (s : State) (w : Instr) (i : Input) : (s.later w i).harbours = s.harbours := rfl
@[simp] theorem State.later_harts (s : State) (w : Instr) (i : Input) : (s.later w i).harts = s.harts := rfl
@[simp] theorem State.later_queues (s : State) (w : Instr) (i : Input) : (s.later w i).queues = s.queues := rfl
@[simp] theorem State.later_cmdSeq (s : State) (w : Instr) (i : Input) : (s.later w i).cmdSeq = s.cmdSeq := rfl
@[simp] theorem State.later_haltDies (s : State) (w : Instr) (i : Input) : (s.later w i).haltDies = s.haltDies := rfl
@[simp] theorem State.later_mbx (s : State) (w : Instr) (i : Input) : (s.later w i).mbx = s.mbx := rfl
@[simp] theorem State.later_apertures (s : State) (w : Instr) (i : Input) : (s.later w i).apertures = s.apertures := rfl
@[simp] theorem State.later_fw (s : State) (w : Instr) (i : Input) : (s.later w i).fw = s.fw := rfl
@[simp] theorem State.later_wdCount (s : State) (w : Instr) (i : Input) : (s.later w i).wdCount = s.wdCount := rfl
@[simp] theorem State.later_clkFail (s : State) (w : Instr) (i : Input) : (s.later w i).clkFail = s.clkFail := rfl
@[simp] theorem State.later_dieSleep (s : State) (w : Instr) (i : Input) : (s.later w i).dieSleep = s.dieSleep := rfl
@[simp] theorem State.later_power (s : State) (w : Instr) (i : Input) : (s.later w i).power = s.power := rfl
@[simp] theorem State.later_time (s : State) (w : Instr) (i : Input) : (s.later w i).time = s.time := rfl
@[simp] theorem State.later_log (s : State) (w : Instr) (i : Input) : (s.later w i).log = s.log := rfl
@[simp] theorem State.later_fabric (s : State) (w : Instr) (i : Input) : (s.later w i).fabric = s.fabric := rfl

/-! `State.logError`. -/

@[simp] theorem State.logError_agenda (s : State) (r a : Nat) : (s.logError r a).agenda = s.agenda := rfl
@[simp] theorem State.logError_work (s : State) (r a : Nat) : (s.logError r a).work = s.work := rfl
@[simp] theorem State.logError_clock (s : State) (r a : Nat) : (s.logError r a).clock = s.clock := rfl
@[simp] theorem State.logError_turn (s : State) (r a : Nat) : (s.logError r a).turn = s.turn := rfl
@[simp] theorem State.logError_phase (s : State) (r a : Nat) : (s.logError r a).phase = s.phase := rfl
@[simp] theorem State.logError_serveFrom (s : State) (r a : Nat) : (s.logError r a).serveFrom = s.serveFrom := rfl
@[simp] theorem State.logError_ahead (s : State) (r a : Nat) : (s.logError r a).ahead = s.ahead := rfl
@[simp] theorem State.logError_draws (s : State) (r a : Nat) : (s.logError r a).draws = s.draws := rfl
@[simp] theorem State.logError_inp (s : State) (r a : Nat) : (s.logError r a).inp = s.inp := rfl
@[simp] theorem State.logError_acting (s : State) (r a : Nat) : (s.logError r a).acting = s.acting := rfl
@[simp] theorem State.logError_here (s : State) (r a : Nat) : (s.logError r a).here = s.here := rfl
@[simp] theorem State.logError_slot (s : State) (r a : Nat) : (s.logError r a).slot = s.slot := rfl
@[simp] theorem State.logError_core (s : State) (r a : Nat) : (s.logError r a).core = s.core := rfl
@[simp] theorem State.logError_strand (s : State) (r a : Nat) : (s.logError r a).strand = s.strand := rfl
@[simp] theorem State.logError_cores (s : State) (r a : Nat) : (s.logError r a).cores = s.cores := rfl
@[simp] theorem State.logError_mem (s : State) (r a : Nat) : (s.logError r a).mem = s.mem := rfl
@[simp] theorem State.logError_poison (s : State) (r a : Nat) : (s.logError r a).poison = s.poison := rfl
@[simp] theorem State.logError_soft (s : State) (r a : Nat) : (s.logError r a).soft = s.soft := rfl
@[simp] theorem State.logError_struck (s : State) (r a : Nat) : (s.logError r a).struck = s.struck := rfl
@[simp] theorem State.logError_hbmce (s : State) (r a : Nat) : (s.logError r a).hbmce = s.hbmce := rfl
@[simp] theorem State.logError_hbmue (s : State) (r a : Nat) : (s.logError r a).hbmue = s.hbmue := rfl
@[simp] theorem State.logError_units (s : State) (r a : Nat) : (s.logError r a).units = s.units := rfl
@[simp] theorem State.logError_replicas (s : State) (r a : Nat) : (s.logError r a).replicas = s.replicas := rfl
@[simp] theorem State.logError_homeOps (s : State) (r a : Nat) : (s.logError r a).homeOps = s.homeOps := rfl
@[simp] theorem State.logError_engineWaits (s : State) (r a : Nat) : (s.logError r a).engineWaits = s.engineWaits := rfl
@[simp] theorem State.logError_fronts (s : State) (r a : Nat) : (s.logError r a).fronts = s.fronts := rfl
@[simp] theorem State.logError_reservations (s : State) (r a : Nat) : (s.logError r a).reservations = s.reservations := rfl
@[simp] theorem State.logError_portHeld (s : State) (r a : Nat) : (s.logError r a).portHeld = s.portHeld := rfl
@[simp] theorem State.logError_publishes (s : State) (r a : Nat) : (s.logError r a).publishes = s.publishes := rfl
@[simp] theorem State.logError_cxl (s : State) (r a : Nat) : (s.logError r a).cxl = s.cxl := rfl
@[simp] theorem State.logError_expanders (s : State) (r a : Nat) : (s.logError r a).expanders = s.expanders := rfl
@[simp] theorem State.logError_cxlTrained (s : State) (r a : Nat) : (s.logError r a).cxlTrained = s.cxlTrained := rfl
@[simp] theorem State.logError_cxlSilent (s : State) (r a : Nat) : (s.logError r a).cxlSilent = s.cxlSilent := rfl
@[simp] theorem State.logError_hostMem (s : State) (r a : Nat) : (s.logError r a).hostMem = s.hostMem := rfl
@[simp] theorem State.logError_contexts (s : State) (r a : Nat) : (s.logError r a).contexts = s.contexts := rfl
@[simp] theorem State.logError_ptPool (s : State) (r a : Nat) : (s.logError r a).ptPool = s.ptPool := rfl
@[simp] theorem State.logError_harbours (s : State) (r a : Nat) : (s.logError r a).harbours = s.harbours := rfl
@[simp] theorem State.logError_harts (s : State) (r a : Nat) : (s.logError r a).harts = s.harts := rfl
@[simp] theorem State.logError_queues (s : State) (r a : Nat) : (s.logError r a).queues = s.queues := rfl
@[simp] theorem State.logError_cmdSeq (s : State) (r a : Nat) : (s.logError r a).cmdSeq = s.cmdSeq := rfl
@[simp] theorem State.logError_haltDies (s : State) (r a : Nat) : (s.logError r a).haltDies = s.haltDies := rfl
@[simp] theorem State.logError_mbx (s : State) (r a : Nat) : (s.logError r a).mbx = s.mbx := rfl
@[simp] theorem State.logError_apertures (s : State) (r a : Nat) : (s.logError r a).apertures = s.apertures := rfl
@[simp] theorem State.logError_fw (s : State) (r a : Nat) : (s.logError r a).fw = s.fw := rfl
@[simp] theorem State.logError_wdCount (s : State) (r a : Nat) : (s.logError r a).wdCount = s.wdCount := rfl
@[simp] theorem State.logError_clkFail (s : State) (r a : Nat) : (s.logError r a).clkFail = s.clkFail := rfl
@[simp] theorem State.logError_dieSleep (s : State) (r a : Nat) : (s.logError r a).dieSleep = s.dieSleep := rfl
@[simp] theorem State.logError_power (s : State) (r a : Nat) : (s.logError r a).power = s.power := rfl
@[simp] theorem State.logError_time (s : State) (r a : Nat) : (s.logError r a).time = s.time := rfl
@[simp] theorem State.logError_fabric (s : State) (r a : Nat) : (s.logError r a).fabric = s.fabric := rfl

/-! `State.put`. -/

@[simp] theorem State.put_agenda (s : State) (a : Nat) (bs : List Byte) : (s.put a bs).agenda = s.agenda := rfl
@[simp] theorem State.put_work (s : State) (a : Nat) (bs : List Byte) : (s.put a bs).work = s.work := rfl
@[simp] theorem State.put_clock (s : State) (a : Nat) (bs : List Byte) : (s.put a bs).clock = s.clock := rfl
@[simp] theorem State.put_turn (s : State) (a : Nat) (bs : List Byte) : (s.put a bs).turn = s.turn := rfl
@[simp] theorem State.put_phase (s : State) (a : Nat) (bs : List Byte) : (s.put a bs).phase = s.phase := rfl
@[simp] theorem State.put_serveFrom (s : State) (a : Nat) (bs : List Byte) : (s.put a bs).serveFrom = s.serveFrom := rfl
@[simp] theorem State.put_ahead (s : State) (a : Nat) (bs : List Byte) : (s.put a bs).ahead = s.ahead := rfl
@[simp] theorem State.put_draws (s : State) (a : Nat) (bs : List Byte) : (s.put a bs).draws = s.draws := rfl
@[simp] theorem State.put_inp (s : State) (a : Nat) (bs : List Byte) : (s.put a bs).inp = s.inp := rfl
@[simp] theorem State.put_acting (s : State) (a : Nat) (bs : List Byte) : (s.put a bs).acting = s.acting := rfl
@[simp] theorem State.put_here (s : State) (a : Nat) (bs : List Byte) : (s.put a bs).here = s.here := rfl
@[simp] theorem State.put_slot (s : State) (a : Nat) (bs : List Byte) : (s.put a bs).slot = s.slot := rfl
@[simp] theorem State.put_core (s : State) (a : Nat) (bs : List Byte) : (s.put a bs).core = s.core := rfl
@[simp] theorem State.put_strand (s : State) (a : Nat) (bs : List Byte) : (s.put a bs).strand = s.strand := rfl
@[simp] theorem State.put_cores (s : State) (a : Nat) (bs : List Byte) : (s.put a bs).cores = s.cores := rfl
@[simp] theorem State.put_poison (s : State) (a : Nat) (bs : List Byte) : (s.put a bs).poison = s.poison := rfl
@[simp] theorem State.put_soft (s : State) (a : Nat) (bs : List Byte) : (s.put a bs).soft = s.soft := rfl
@[simp] theorem State.put_struck (s : State) (a : Nat) (bs : List Byte) : (s.put a bs).struck = s.struck := rfl
@[simp] theorem State.put_hbmce (s : State) (a : Nat) (bs : List Byte) : (s.put a bs).hbmce = s.hbmce := rfl
@[simp] theorem State.put_hbmue (s : State) (a : Nat) (bs : List Byte) : (s.put a bs).hbmue = s.hbmue := rfl
@[simp] theorem State.put_units (s : State) (a : Nat) (bs : List Byte) : (s.put a bs).units = s.units := rfl
@[simp] theorem State.put_replicas (s : State) (a : Nat) (bs : List Byte) : (s.put a bs).replicas = s.replicas := rfl
@[simp] theorem State.put_homeOps (s : State) (a : Nat) (bs : List Byte) : (s.put a bs).homeOps = s.homeOps := rfl
@[simp] theorem State.put_engineWaits (s : State) (a : Nat) (bs : List Byte) : (s.put a bs).engineWaits = s.engineWaits := rfl
@[simp] theorem State.put_fronts (s : State) (a : Nat) (bs : List Byte) : (s.put a bs).fronts = s.fronts := rfl
@[simp] theorem State.put_reservations (s : State) (a : Nat) (bs : List Byte) : (s.put a bs).reservations = s.reservations := rfl
@[simp] theorem State.put_portHeld (s : State) (a : Nat) (bs : List Byte) : (s.put a bs).portHeld = s.portHeld := rfl
@[simp] theorem State.put_publishes (s : State) (a : Nat) (bs : List Byte) : (s.put a bs).publishes = s.publishes := rfl
@[simp] theorem State.put_cxl (s : State) (a : Nat) (bs : List Byte) : (s.put a bs).cxl = s.cxl := rfl
@[simp] theorem State.put_expanders (s : State) (a : Nat) (bs : List Byte) : (s.put a bs).expanders = s.expanders := rfl
@[simp] theorem State.put_cxlTrained (s : State) (a : Nat) (bs : List Byte) : (s.put a bs).cxlTrained = s.cxlTrained := rfl
@[simp] theorem State.put_cxlSilent (s : State) (a : Nat) (bs : List Byte) : (s.put a bs).cxlSilent = s.cxlSilent := rfl
@[simp] theorem State.put_hostMem (s : State) (a : Nat) (bs : List Byte) : (s.put a bs).hostMem = s.hostMem := rfl
@[simp] theorem State.put_contexts (s : State) (a : Nat) (bs : List Byte) : (s.put a bs).contexts = s.contexts := rfl
@[simp] theorem State.put_ptPool (s : State) (a : Nat) (bs : List Byte) : (s.put a bs).ptPool = s.ptPool := rfl
@[simp] theorem State.put_harbours (s : State) (a : Nat) (bs : List Byte) : (s.put a bs).harbours = s.harbours := rfl
@[simp] theorem State.put_harts (s : State) (a : Nat) (bs : List Byte) : (s.put a bs).harts = s.harts := rfl
@[simp] theorem State.put_queues (s : State) (a : Nat) (bs : List Byte) : (s.put a bs).queues = s.queues := rfl
@[simp] theorem State.put_cmdSeq (s : State) (a : Nat) (bs : List Byte) : (s.put a bs).cmdSeq = s.cmdSeq := rfl
@[simp] theorem State.put_haltDies (s : State) (a : Nat) (bs : List Byte) : (s.put a bs).haltDies = s.haltDies := rfl
@[simp] theorem State.put_mbx (s : State) (a : Nat) (bs : List Byte) : (s.put a bs).mbx = s.mbx := rfl
@[simp] theorem State.put_apertures (s : State) (a : Nat) (bs : List Byte) : (s.put a bs).apertures = s.apertures := rfl
@[simp] theorem State.put_fw (s : State) (a : Nat) (bs : List Byte) : (s.put a bs).fw = s.fw := rfl
@[simp] theorem State.put_wdCount (s : State) (a : Nat) (bs : List Byte) : (s.put a bs).wdCount = s.wdCount := rfl
@[simp] theorem State.put_clkFail (s : State) (a : Nat) (bs : List Byte) : (s.put a bs).clkFail = s.clkFail := rfl
@[simp] theorem State.put_dieSleep (s : State) (a : Nat) (bs : List Byte) : (s.put a bs).dieSleep = s.dieSleep := rfl
@[simp] theorem State.put_power (s : State) (a : Nat) (bs : List Byte) : (s.put a bs).power = s.power := rfl
@[simp] theorem State.put_time (s : State) (a : Nat) (bs : List Byte) : (s.put a bs).time = s.time := rfl
@[simp] theorem State.put_log (s : State) (a : Nat) (bs : List Byte) : (s.put a bs).log = s.log := rfl
@[simp] theorem State.put_fabric (s : State) (a : Nat) (bs : List Byte) : (s.put a bs).fabric = s.fabric := rfl

@[simp] theorem State.setPc_pc (s : State) (pc : Word) : (s.setPc pc).strand.pc = pc := rfl
@[simp] theorem State.next_pc (s : State) : s.next.strand.pc = s.strand.pc + 4 := rfl
@[simp] theorem State.setPc_strand_regs (s : State) (pc : Word) : (s.setPc pc).strand.regs = s.strand.regs := rfl
@[simp] theorem State.next_strand_regs (s : State) : s.next.strand.regs = s.strand.regs := rfl
@[simp] theorem State.setPc_strand_cell (s : State) (pc : Word) : (s.setPc pc).strand.cell = s.strand.cell := rfl
@[simp] theorem State.next_strand_cell (s : State) : s.next.strand.cell = s.strand.cell := rfl
@[simp] theorem State.setPc_strand_dirtyV (s : State) (pc : Word) : (s.setPc pc).strand.dirtyV = s.strand.dirtyV := rfl
@[simp] theorem State.next_strand_dirtyV (s : State) : s.next.strand.dirtyV = s.strand.dirtyV := rfl
@[simp] theorem State.setPc_strand_dirtyM (s : State) (pc : Word) : (s.setPc pc).strand.dirtyM = s.strand.dirtyM := rfl
@[simp] theorem State.next_strand_dirtyM (s : State) : s.next.strand.dirtyM = s.strand.dirtyM := rfl
@[simp] theorem State.setPc_strand_running (s : State) (pc : Word) : (s.setPc pc).strand.running = s.strand.running := rfl
@[simp] theorem State.next_strand_running (s : State) : s.next.strand.running = s.strand.running := rfl
@[simp] theorem State.setPc_strand_granted (s : State) (pc : Word) : (s.setPc pc).strand.granted = s.strand.granted := rfl
@[simp] theorem State.next_strand_granted (s : State) : s.next.strand.granted = s.strand.granted := rfl
@[simp] theorem State.setPc_strand_cv (s : State) (pc : Word) : (s.setPc pc).strand.cv = s.strand.cv := rfl
@[simp] theorem State.next_strand_cv (s : State) : s.next.strand.cv = s.strand.cv := rfl
@[simp] theorem State.setPc_strand_queue (s : State) (pc : Word) : (s.setPc pc).strand.queue = s.strand.queue := rfl
@[simp] theorem State.next_strand_queue (s : State) : s.next.strand.queue = s.strand.queue := rfl
@[simp] theorem State.setPc_strand_resume (s : State) (pc : Word) : (s.setPc pc).strand.resume = s.strand.resume := rfl
@[simp] theorem State.next_strand_resume (s : State) : s.next.strand.resume = s.strand.resume := rfl
@[simp] theorem State.setPc_strand_wait (s : State) (pc : Word) : (s.setPc pc).strand.wait = s.strand.wait := rfl
@[simp] theorem State.next_strand_wait (s : State) : s.next.strand.wait = s.strand.wait := rfl
@[simp] theorem State.setPc_strand_fetched (s : State) (pc : Word) : (s.setPc pc).strand.fetched = s.strand.fetched := rfl
@[simp] theorem State.next_strand_fetched (s : State) : s.next.strand.fetched = s.strand.fetched := rfl
@[simp] theorem State.setPc_strand_src (s : State) (pc : Word) : (s.setPc pc).strand.src = s.strand.src := rfl
@[simp] theorem State.setPc_strand_trapping (s : State) (pc : Word) : (s.setPc pc).strand.trapping = s.strand.trapping := rfl
@[simp] theorem State.setPc_strand_waits (s : State) (pc : Word) : (s.setPc pc).strand.waits = none := rfl
@[simp] theorem State.setPc_strand_leaving (s : State) (pc : Word) : (s.setPc pc).strand.leaving = s.strand.leaving := rfl
@[simp] theorem State.setPc_strand_bad (s : State) (pc : Word) : (s.setPc pc).strand.bad = s.strand.bad := rfl
@[simp] theorem State.next_strand_src (s : State) : s.next.strand.src = s.strand.src := rfl
@[simp] theorem State.next_strand_trapping (s : State) : s.next.strand.trapping = s.strand.trapping := rfl
@[simp] theorem State.next_strand_waits (s : State) : s.next.strand.waits = none := rfl
@[simp] theorem State.next_strand_leaving (s : State) : s.next.strand.leaving = s.strand.leaving := rfl
@[simp] theorem State.next_strand_bad (s : State) : s.next.strand.bad = s.strand.bad := rfl
@[simp] theorem State.modRegs_strand_pc (s : State) (f : Regs → Regs) : (s.modRegs f).strand.pc = s.strand.pc := rfl
@[simp] theorem State.modRegs_strand_cell (s : State) (f : Regs → Regs) : (s.modRegs f).strand.cell = s.strand.cell := rfl
@[simp] theorem State.modRegs_strand_dirtyV (s : State) (f : Regs → Regs) : (s.modRegs f).strand.dirtyV = s.strand.dirtyV := rfl
@[simp] theorem State.modRegs_strand_dirtyM (s : State) (f : Regs → Regs) : (s.modRegs f).strand.dirtyM = s.strand.dirtyM := rfl
@[simp] theorem State.modRegs_strand_running (s : State) (f : Regs → Regs) : (s.modRegs f).strand.running = s.strand.running := rfl
@[simp] theorem State.modRegs_strand_granted (s : State) (f : Regs → Regs) : (s.modRegs f).strand.granted = s.strand.granted := rfl
@[simp] theorem State.modRegs_strand_cv (s : State) (f : Regs → Regs) : (s.modRegs f).strand.cv = s.strand.cv := rfl
@[simp] theorem State.modRegs_strand_queue (s : State) (f : Regs → Regs) : (s.modRegs f).strand.queue = s.strand.queue := rfl
@[simp] theorem State.modRegs_strand_resume (s : State) (f : Regs → Regs) : (s.modRegs f).strand.resume = s.strand.resume := rfl
@[simp] theorem State.modRegs_strand_wait (s : State) (f : Regs → Regs) : (s.modRegs f).strand.wait = s.strand.wait := rfl
@[simp] theorem State.modRegs_strand_fetched (s : State) (f : Regs → Regs) : (s.modRegs f).strand.fetched = s.strand.fetched := rfl
@[simp] theorem State.modRegs_strand_src (s : State) (f : Regs → Regs) : (s.modRegs f).strand.src = s.strand.src := rfl
@[simp] theorem State.modRegs_strand_trapping (s : State) (f : Regs → Regs) : (s.modRegs f).strand.trapping = s.strand.trapping := rfl
@[simp] theorem State.modRegs_strand_waits (s : State) (f : Regs → Regs) : (s.modRegs f).strand.waits = s.strand.waits := rfl
@[simp] theorem State.modRegs_strand_leaving (s : State) (f : Regs → Regs) : (s.modRegs f).strand.leaving = s.strand.leaving := rfl
@[simp] theorem State.modRegs_strand_bad (s : State) (f : Regs → Regs) : (s.modRegs f).strand.bad = s.strand.bad := rfl
@[simp] theorem State.modRegs_strand_regs (s : State) (f : Regs → Regs) : (s.modRegs f).strand.regs = f s.strand.regs := rfl
@[simp] theorem State.modHere_core (s : State) (f : Core → Core) : (s.modHere f).core = f s.core := rfl
@[simp] theorem State.soon_agenda (s : State) (w : Instr) (i : Input) : (s.soon w i).agenda = { what := w, inp := i } :: s.agenda := rfl
@[simp] theorem State.later_work (s : State) (w : Instr) (i : Input) : (s.later w i).work = s.work ++ [{ what := w, inp := i }] := rfl
@[simp] theorem State.logError_log (s : State) (r a : Nat) : (s.logError r a).log = s.log ++ [(r, a)] := rfl
@[simp] theorem State.put_mem (s : State) (a : Nat) (bs : List Byte) : (s.put a bs).mem = mstore s.mem a bs := rfl

/-! `State.setX`: a write to s0 changes nothing (R320). -/

@[simp] theorem State.setX_agenda (s : State) (r : BitVec 5) (v : Word) : (s.setX r v).agenda = s.agenda := by
  unfold State.setX; split <;> rfl
@[simp] theorem State.setX_work (s : State) (r : BitVec 5) (v : Word) : (s.setX r v).work = s.work := by
  unfold State.setX; split <;> rfl
@[simp] theorem State.setX_clock (s : State) (r : BitVec 5) (v : Word) : (s.setX r v).clock = s.clock := by
  unfold State.setX; split <;> rfl
@[simp] theorem State.setX_turn (s : State) (r : BitVec 5) (v : Word) : (s.setX r v).turn = s.turn := by
  unfold State.setX; split <;> rfl
@[simp] theorem State.setX_phase (s : State) (r : BitVec 5) (v : Word) : (s.setX r v).phase = s.phase := by
  unfold State.setX; split <;> rfl
@[simp] theorem State.setX_serveFrom (s : State) (r : BitVec 5) (v : Word) : (s.setX r v).serveFrom = s.serveFrom := by
  unfold State.setX; split <;> rfl
@[simp] theorem State.setX_ahead (s : State) (r : BitVec 5) (v : Word) : (s.setX r v).ahead = s.ahead := by
  unfold State.setX; split <;> rfl
@[simp] theorem State.setX_draws (s : State) (r : BitVec 5) (v : Word) : (s.setX r v).draws = s.draws := by
  unfold State.setX; split <;> rfl
@[simp] theorem State.setX_inp (s : State) (r : BitVec 5) (v : Word) : (s.setX r v).inp = s.inp := by
  unfold State.setX; split <;> rfl
@[simp] theorem State.setX_acting (s : State) (r : BitVec 5) (v : Word) : (s.setX r v).acting = s.acting := by
  unfold State.setX; split <;> rfl
@[simp] theorem State.setX_here (s : State) (r : BitVec 5) (v : Word) : (s.setX r v).here = s.here := by
  unfold State.setX; split <;> rfl
@[simp] theorem State.setX_slot (s : State) (r : BitVec 5) (v : Word) : (s.setX r v).slot = s.slot := by
  unfold State.setX; split <;> rfl
@[simp] theorem State.setX_core (s : State) (r : BitVec 5) (v : Word) : (s.setX r v).core = s.core := by
  unfold State.setX; split <;> rfl
@[simp] theorem State.setX_cores (s : State) (r : BitVec 5) (v : Word) : (s.setX r v).cores = s.cores := by
  unfold State.setX; split <;> rfl
@[simp] theorem State.setX_mem (s : State) (r : BitVec 5) (v : Word) : (s.setX r v).mem = s.mem := by
  unfold State.setX; split <;> rfl
@[simp] theorem State.setX_poison (s : State) (r : BitVec 5) (v : Word) : (s.setX r v).poison = s.poison := by
  unfold State.setX; split <;> rfl
@[simp] theorem State.setX_soft (s : State) (r : BitVec 5) (v : Word) : (s.setX r v).soft = s.soft := by
  unfold State.setX; split <;> rfl
@[simp] theorem State.setX_struck (s : State) (r : BitVec 5) (v : Word) : (s.setX r v).struck = s.struck := by
  unfold State.setX; split <;> rfl
@[simp] theorem State.setX_hbmce (s : State) (r : BitVec 5) (v : Word) : (s.setX r v).hbmce = s.hbmce := by
  unfold State.setX; split <;> rfl
@[simp] theorem State.setX_hbmue (s : State) (r : BitVec 5) (v : Word) : (s.setX r v).hbmue = s.hbmue := by
  unfold State.setX; split <;> rfl
@[simp] theorem State.setX_units (s : State) (r : BitVec 5) (v : Word) : (s.setX r v).units = s.units := by
  unfold State.setX; split <;> rfl
@[simp] theorem State.setX_replicas (s : State) (r : BitVec 5) (v : Word) : (s.setX r v).replicas = s.replicas := by
  unfold State.setX; split <;> rfl
@[simp] theorem State.setX_homeOps (s : State) (r : BitVec 5) (v : Word) : (s.setX r v).homeOps = s.homeOps := by
  unfold State.setX; split <;> rfl
@[simp] theorem State.setX_engineWaits (s : State) (r : BitVec 5) (v : Word) : (s.setX r v).engineWaits = s.engineWaits := by
  unfold State.setX; split <;> rfl
@[simp] theorem State.setX_fronts (s : State) (r : BitVec 5) (v : Word) : (s.setX r v).fronts = s.fronts := by
  unfold State.setX; split <;> rfl
@[simp] theorem State.setX_reservations (s : State) (r : BitVec 5) (v : Word) : (s.setX r v).reservations = s.reservations := by
  unfold State.setX; split <;> rfl
@[simp] theorem State.setX_portHeld (s : State) (r : BitVec 5) (v : Word) : (s.setX r v).portHeld = s.portHeld := by
  unfold State.setX; split <;> rfl
@[simp] theorem State.setX_publishes (s : State) (r : BitVec 5) (v : Word) : (s.setX r v).publishes = s.publishes := by
  unfold State.setX; split <;> rfl
@[simp] theorem State.setX_cxl (s : State) (r : BitVec 5) (v : Word) : (s.setX r v).cxl = s.cxl := by
  unfold State.setX; split <;> rfl
@[simp] theorem State.setX_expanders (s : State) (r : BitVec 5) (v : Word) : (s.setX r v).expanders = s.expanders := by
  unfold State.setX; split <;> rfl
@[simp] theorem State.setX_cxlTrained (s : State) (r : BitVec 5) (v : Word) : (s.setX r v).cxlTrained = s.cxlTrained := by
  unfold State.setX; split <;> rfl
@[simp] theorem State.setX_cxlSilent (s : State) (r : BitVec 5) (v : Word) : (s.setX r v).cxlSilent = s.cxlSilent := by
  unfold State.setX; split <;> rfl
@[simp] theorem State.setX_hostMem (s : State) (r : BitVec 5) (v : Word) : (s.setX r v).hostMem = s.hostMem := by
  unfold State.setX; split <;> rfl
@[simp] theorem State.setX_contexts (s : State) (r : BitVec 5) (v : Word) : (s.setX r v).contexts = s.contexts := by
  unfold State.setX; split <;> rfl
@[simp] theorem State.setX_ptPool (s : State) (r : BitVec 5) (v : Word) : (s.setX r v).ptPool = s.ptPool := by
  unfold State.setX; split <;> rfl
@[simp] theorem State.setX_harbours (s : State) (r : BitVec 5) (v : Word) : (s.setX r v).harbours = s.harbours := by
  unfold State.setX; split <;> rfl
@[simp] theorem State.setX_harts (s : State) (r : BitVec 5) (v : Word) : (s.setX r v).harts = s.harts := by
  unfold State.setX; split <;> rfl
@[simp] theorem State.setX_queues (s : State) (r : BitVec 5) (v : Word) : (s.setX r v).queues = s.queues := by
  unfold State.setX; split <;> rfl
@[simp] theorem State.setX_cmdSeq (s : State) (r : BitVec 5) (v : Word) : (s.setX r v).cmdSeq = s.cmdSeq := by
  unfold State.setX; split <;> rfl
@[simp] theorem State.setX_haltDies (s : State) (r : BitVec 5) (v : Word) : (s.setX r v).haltDies = s.haltDies := by
  unfold State.setX; split <;> rfl
@[simp] theorem State.setX_mbx (s : State) (r : BitVec 5) (v : Word) : (s.setX r v).mbx = s.mbx := by
  unfold State.setX; split <;> rfl
@[simp] theorem State.setX_apertures (s : State) (r : BitVec 5) (v : Word) : (s.setX r v).apertures = s.apertures := by
  unfold State.setX; split <;> rfl
@[simp] theorem State.setX_fw (s : State) (r : BitVec 5) (v : Word) : (s.setX r v).fw = s.fw := by
  unfold State.setX; split <;> rfl
@[simp] theorem State.setX_wdCount (s : State) (r : BitVec 5) (v : Word) : (s.setX r v).wdCount = s.wdCount := by
  unfold State.setX; split <;> rfl
@[simp] theorem State.setX_clkFail (s : State) (r : BitVec 5) (v : Word) : (s.setX r v).clkFail = s.clkFail := by
  unfold State.setX; split <;> rfl
@[simp] theorem State.setX_dieSleep (s : State) (r : BitVec 5) (v : Word) : (s.setX r v).dieSleep = s.dieSleep := by
  unfold State.setX; split <;> rfl
@[simp] theorem State.setX_power (s : State) (r : BitVec 5) (v : Word) : (s.setX r v).power = s.power := by
  unfold State.setX; split <;> rfl
@[simp] theorem State.setX_time (s : State) (r : BitVec 5) (v : Word) : (s.setX r v).time = s.time := by
  unfold State.setX; split <;> rfl
@[simp] theorem State.setX_log (s : State) (r : BitVec 5) (v : Word) : (s.setX r v).log = s.log := by
  unfold State.setX; split <;> rfl
@[simp] theorem State.setX_fabric (s : State) (r : BitVec 5) (v : Word) : (s.setX r v).fabric = s.fabric := by
  unfold State.setX; split <;> rfl
@[simp] theorem State.setX_strand_pc (s : State) (r : BitVec 5) (v : Word) : (s.setX r v).strand.pc = s.strand.pc := by
  unfold State.setX; split <;> rfl
@[simp] theorem State.setX_strand_cell (s : State) (r : BitVec 5) (v : Word) : (s.setX r v).strand.cell = s.strand.cell := by
  unfold State.setX; split <;> rfl
@[simp] theorem State.setX_strand_dirtyV (s : State) (r : BitVec 5) (v : Word) : (s.setX r v).strand.dirtyV = s.strand.dirtyV := by
  unfold State.setX; split <;> rfl
@[simp] theorem State.setX_strand_dirtyM (s : State) (r : BitVec 5) (v : Word) : (s.setX r v).strand.dirtyM = s.strand.dirtyM := by
  unfold State.setX; split <;> rfl
@[simp] theorem State.setX_strand_running (s : State) (r : BitVec 5) (v : Word) : (s.setX r v).strand.running = s.strand.running := by
  unfold State.setX; split <;> rfl
@[simp] theorem State.setX_strand_granted (s : State) (r : BitVec 5) (v : Word) : (s.setX r v).strand.granted = s.strand.granted := by
  unfold State.setX; split <;> rfl
@[simp] theorem State.setX_strand_cv (s : State) (r : BitVec 5) (v : Word) : (s.setX r v).strand.cv = s.strand.cv := by
  unfold State.setX; split <;> rfl
@[simp] theorem State.setX_strand_queue (s : State) (r : BitVec 5) (v : Word) : (s.setX r v).strand.queue = s.strand.queue := by
  unfold State.setX; split <;> rfl
@[simp] theorem State.setX_strand_resume (s : State) (r : BitVec 5) (v : Word) : (s.setX r v).strand.resume = s.strand.resume := by
  unfold State.setX; split <;> rfl
@[simp] theorem State.setX_strand_wait (s : State) (r : BitVec 5) (v : Word) : (s.setX r v).strand.wait = s.strand.wait := by
  unfold State.setX; split <;> rfl
@[simp] theorem State.setX_strand_fetched (s : State) (r : BitVec 5) (v : Word) : (s.setX r v).strand.fetched = s.strand.fetched := by
  unfold State.setX; split <;> rfl
@[simp] theorem State.setX_strand_src (s : State) (r : BitVec 5) (v : Word) : (s.setX r v).strand.src = s.strand.src := by
  unfold State.setX; split <;> rfl
@[simp] theorem State.setX_strand_trapping (s : State) (r : BitVec 5) (v : Word) : (s.setX r v).strand.trapping = s.strand.trapping := by
  unfold State.setX; split <;> rfl
@[simp] theorem State.setX_strand_waits (s : State) (r : BitVec 5) (v : Word) : (s.setX r v).strand.waits = s.strand.waits := by
  unfold State.setX; split <;> rfl
@[simp] theorem State.setX_strand_leaving (s : State) (r : BitVec 5) (v : Word) : (s.setX r v).strand.leaving = s.strand.leaving := by
  unfold State.setX; split <;> rfl
@[simp] theorem State.setX_strand_bad (s : State) (r : BitVec 5) (v : Word) :
    (s.setX r v).strand.bad = if r = 0 then s.strand.bad else s.strand.bad.filter (fun b => b.1 != r.toNat) := by
  unfold State.setX; split <;> rfl
@[simp] theorem State.setX_vs (s : State) (r : BitVec 5) (v : Word) : (s.setX r v).strand.regs.vs = s.strand.regs.vs := by
  unfold State.setX; split <;> rfl
@[simp] theorem State.setX_ms (s : State) (r : BitVec 5) (v : Word) : (s.setX r v).strand.regs.ms = s.strand.regs.ms := by
  unfold State.setX; split <;> rfl
@[simp] theorem State.setX_vl (s : State) (r : BitVec 5) (v : Word) : (s.setX r v).strand.regs.vl = s.strand.regs.vl := by
  unfold State.setX; split <;> rfl
@[simp] theorem State.setX_vtype (s : State) (r : BitVec 5) (v : Word) : (s.setX r v).strand.regs.vtype = s.strand.regs.vtype := by
  unfold State.setX; split <;> rfl
@[simp] theorem State.setX_sstat (s : State) (r : BitVec 5) (v : Word) : (s.setX r v).strand.regs.sstat = s.strand.regs.sstat := by
  unfold State.setX; split <;> rfl
@[simp] theorem State.setX_eix (s : State) (r : BitVec 5) (v : Word) : (s.setX r v).strand.regs.eix = s.strand.regs.eix := by
  unfold State.setX; split <;> rfl
@[simp] theorem State.setX_estart (s : State) (r : BitVec 5) (v : Word) : (s.setX r v).strand.regs.estart = s.strand.regs.estart := by
  unfold State.setX; split <;> rfl
@[simp] theorem State.setX_mrow (s : State) (r : BitVec 5) (v : Word) : (s.setX r v).strand.regs.mrow = s.strand.regs.mrow := by
  unfold State.setX; split <;> rfl
@[simp] theorem State.setX_mkstep (s : State) (r : BitVec 5) (v : Word) : (s.setX r v).strand.regs.mkstep = s.strand.regs.mkstep := by
  unfold State.setX; split <;> rfl

/-! Scalar registers read back (R320). -/

@[simp] theorem State.x_zero (s : State) : s.x 0#5 = 0#64 := if_pos rfl

@[simp] theorem State.x_setX_self (s : State) (r : BitVec 5) (v : Word) : (s.setX r v).x r = if r = 0 then 0 else v := by
  unfold State.x State.setX
  split <;> simp_all

theorem State.x_setX_ne (s : State) (r q : BitVec 5) (v : Word) (h : q ≠ r) : (s.setX r v).x q = s.x q := by
  have h' : ¬ r.toNat = q.toNat := fun e => h (BitVec.eq_of_toNat_eq e.symm)
  unfold State.x State.setX
  split
  · rfl
  · split
    · rfl
    · simp [h']

@[simp] theorem State.x_setPc (s : State) (pc : Word) (r : BitVec 5) : (s.setPc pc).x r = s.x r := rfl
@[simp] theorem State.x_next (s : State) (r : BitVec 5) : s.next.x r = s.x r := rfl
@[simp] theorem State.x_modHere (s : State) (f : Core → Core) (r : BitVec 5) : (s.modHere f).x r = s.x r := rfl

/-- A result: the destination reads the value, or zero where it is s0. -/
@[simp] theorem State.x_result_self (s : State) (r : BitVec 5) (v : Word) : (s.result r v).x r = if r = 0 then 0 else v := by
  simp [State.result]

theorem State.x_result_ne (s : State) (r q : BitVec 5) (v : Word) (h : q ≠ r) : (s.result r v).x q = s.x q := by
  simp [State.result, State.x_setX_ne s r q v h]

@[simp] theorem State.result_pc (s : State) (r : BitVec 5) (v : Word) : (s.result r v).strand.pc = s.strand.pc + 4 := by
  simp [State.result]

@[simp] theorem State.result_agenda (s : State) (r : BitVec 5) (v : Word) : (s.result r v).agenda = s.agenda := by simp [State.result]
@[simp] theorem State.result_work (s : State) (r : BitVec 5) (v : Word) : (s.result r v).work = s.work := by simp [State.result]
@[simp] theorem State.result_clock (s : State) (r : BitVec 5) (v : Word) : (s.result r v).clock = s.clock := by simp [State.result]
@[simp] theorem State.result_turn (s : State) (r : BitVec 5) (v : Word) : (s.result r v).turn = s.turn := by simp [State.result]
@[simp] theorem State.result_phase (s : State) (r : BitVec 5) (v : Word) : (s.result r v).phase = s.phase := by simp [State.result]
@[simp] theorem State.result_serveFrom (s : State) (r : BitVec 5) (v : Word) : (s.result r v).serveFrom = s.serveFrom := by simp [State.result]
@[simp] theorem State.result_ahead (s : State) (r : BitVec 5) (v : Word) : (s.result r v).ahead = s.ahead := by simp [State.result]
@[simp] theorem State.result_draws (s : State) (r : BitVec 5) (v : Word) : (s.result r v).draws = s.draws := by simp [State.result]
@[simp] theorem State.result_inp (s : State) (r : BitVec 5) (v : Word) : (s.result r v).inp = s.inp := by simp [State.result]
@[simp] theorem State.result_acting (s : State) (r : BitVec 5) (v : Word) : (s.result r v).acting = s.acting := by simp [State.result]
@[simp] theorem State.result_here (s : State) (r : BitVec 5) (v : Word) : (s.result r v).here = s.here := by simp [State.result]
@[simp] theorem State.result_slot (s : State) (r : BitVec 5) (v : Word) : (s.result r v).slot = s.slot := by simp [State.result]
@[simp] theorem State.result_core (s : State) (r : BitVec 5) (v : Word) : (s.result r v).core = s.core := by simp [State.result]
@[simp] theorem State.result_cores (s : State) (r : BitVec 5) (v : Word) : (s.result r v).cores = s.cores := by simp [State.result]
@[simp] theorem State.result_mem (s : State) (r : BitVec 5) (v : Word) : (s.result r v).mem = s.mem := by simp [State.result]
@[simp] theorem State.result_poison (s : State) (r : BitVec 5) (v : Word) : (s.result r v).poison = s.poison := by simp [State.result]
@[simp] theorem State.result_soft (s : State) (r : BitVec 5) (v : Word) : (s.result r v).soft = s.soft := by simp [State.result]
@[simp] theorem State.result_struck (s : State) (r : BitVec 5) (v : Word) : (s.result r v).struck = s.struck := by simp [State.result]
@[simp] theorem State.result_hbmce (s : State) (r : BitVec 5) (v : Word) : (s.result r v).hbmce = s.hbmce := by simp [State.result]
@[simp] theorem State.result_hbmue (s : State) (r : BitVec 5) (v : Word) : (s.result r v).hbmue = s.hbmue := by simp [State.result]
@[simp] theorem State.result_units (s : State) (r : BitVec 5) (v : Word) : (s.result r v).units = s.units := by simp [State.result]
@[simp] theorem State.result_replicas (s : State) (r : BitVec 5) (v : Word) : (s.result r v).replicas = s.replicas := by simp [State.result]
@[simp] theorem State.result_homeOps (s : State) (r : BitVec 5) (v : Word) : (s.result r v).homeOps = s.homeOps := by simp [State.result]
@[simp] theorem State.result_engineWaits (s : State) (r : BitVec 5) (v : Word) : (s.result r v).engineWaits = s.engineWaits := by simp [State.result]
@[simp] theorem State.result_fronts (s : State) (r : BitVec 5) (v : Word) : (s.result r v).fronts = s.fronts := by simp [State.result]
@[simp] theorem State.result_reservations (s : State) (r : BitVec 5) (v : Word) : (s.result r v).reservations = s.reservations := by simp [State.result]
@[simp] theorem State.result_portHeld (s : State) (r : BitVec 5) (v : Word) : (s.result r v).portHeld = s.portHeld := by simp [State.result]
@[simp] theorem State.result_publishes (s : State) (r : BitVec 5) (v : Word) : (s.result r v).publishes = s.publishes := by simp [State.result]
@[simp] theorem State.result_cxl (s : State) (r : BitVec 5) (v : Word) : (s.result r v).cxl = s.cxl := by simp [State.result]
@[simp] theorem State.result_expanders (s : State) (r : BitVec 5) (v : Word) : (s.result r v).expanders = s.expanders := by simp [State.result]
@[simp] theorem State.result_cxlTrained (s : State) (r : BitVec 5) (v : Word) : (s.result r v).cxlTrained = s.cxlTrained := by simp [State.result]
@[simp] theorem State.result_cxlSilent (s : State) (r : BitVec 5) (v : Word) : (s.result r v).cxlSilent = s.cxlSilent := by simp [State.result]
@[simp] theorem State.result_hostMem (s : State) (r : BitVec 5) (v : Word) : (s.result r v).hostMem = s.hostMem := by simp [State.result]
@[simp] theorem State.result_contexts (s : State) (r : BitVec 5) (v : Word) : (s.result r v).contexts = s.contexts := by simp [State.result]
@[simp] theorem State.result_ptPool (s : State) (r : BitVec 5) (v : Word) : (s.result r v).ptPool = s.ptPool := by simp [State.result]
@[simp] theorem State.result_harbours (s : State) (r : BitVec 5) (v : Word) : (s.result r v).harbours = s.harbours := by simp [State.result]
@[simp] theorem State.result_harts (s : State) (r : BitVec 5) (v : Word) : (s.result r v).harts = s.harts := by simp [State.result]
@[simp] theorem State.result_queues (s : State) (r : BitVec 5) (v : Word) : (s.result r v).queues = s.queues := by simp [State.result]
@[simp] theorem State.result_cmdSeq (s : State) (r : BitVec 5) (v : Word) : (s.result r v).cmdSeq = s.cmdSeq := by simp [State.result]
@[simp] theorem State.result_haltDies (s : State) (r : BitVec 5) (v : Word) : (s.result r v).haltDies = s.haltDies := by simp [State.result]
@[simp] theorem State.result_mbx (s : State) (r : BitVec 5) (v : Word) : (s.result r v).mbx = s.mbx := by simp [State.result]
@[simp] theorem State.result_apertures (s : State) (r : BitVec 5) (v : Word) : (s.result r v).apertures = s.apertures := by simp [State.result]
@[simp] theorem State.result_fw (s : State) (r : BitVec 5) (v : Word) : (s.result r v).fw = s.fw := by simp [State.result]
@[simp] theorem State.result_wdCount (s : State) (r : BitVec 5) (v : Word) : (s.result r v).wdCount = s.wdCount := by simp [State.result]
@[simp] theorem State.result_clkFail (s : State) (r : BitVec 5) (v : Word) : (s.result r v).clkFail = s.clkFail := by simp [State.result]
@[simp] theorem State.result_dieSleep (s : State) (r : BitVec 5) (v : Word) : (s.result r v).dieSleep = s.dieSleep := by simp [State.result]
@[simp] theorem State.result_power (s : State) (r : BitVec 5) (v : Word) : (s.result r v).power = s.power := by simp [State.result]
@[simp] theorem State.result_time (s : State) (r : BitVec 5) (v : Word) : (s.result r v).time = s.time := by simp [State.result]
@[simp] theorem State.result_log (s : State) (r : BitVec 5) (v : Word) : (s.result r v).log = s.log := by simp [State.result]
@[simp] theorem State.result_fabric (s : State) (r : BitVec 5) (v : Word) : (s.result r v).fabric = s.fabric := by simp [State.result]
@[simp] theorem State.result_strand_cell (s : State) (r : BitVec 5) (v : Word) : (s.result r v).strand.cell = s.strand.cell := by simp [State.result]
@[simp] theorem State.result_strand_dirtyV (s : State) (r : BitVec 5) (v : Word) : (s.result r v).strand.dirtyV = s.strand.dirtyV := by simp [State.result]
@[simp] theorem State.result_strand_dirtyM (s : State) (r : BitVec 5) (v : Word) : (s.result r v).strand.dirtyM = s.strand.dirtyM := by simp [State.result]
@[simp] theorem State.result_strand_running (s : State) (r : BitVec 5) (v : Word) : (s.result r v).strand.running = s.strand.running := by simp [State.result]
@[simp] theorem State.result_strand_granted (s : State) (r : BitVec 5) (v : Word) : (s.result r v).strand.granted = s.strand.granted := by simp [State.result]
@[simp] theorem State.result_strand_cv (s : State) (r : BitVec 5) (v : Word) : (s.result r v).strand.cv = s.strand.cv := by simp [State.result]
@[simp] theorem State.result_strand_queue (s : State) (r : BitVec 5) (v : Word) : (s.result r v).strand.queue = s.strand.queue := by simp [State.result]
@[simp] theorem State.result_strand_resume (s : State) (r : BitVec 5) (v : Word) : (s.result r v).strand.resume = s.strand.resume := by simp [State.result]
@[simp] theorem State.result_strand_wait (s : State) (r : BitVec 5) (v : Word) : (s.result r v).strand.wait = s.strand.wait := by simp [State.result]
@[simp] theorem State.result_strand_fetched (s : State) (r : BitVec 5) (v : Word) : (s.result r v).strand.fetched = s.strand.fetched := by simp [State.result]
@[simp] theorem State.result_strand_src (s : State) (r : BitVec 5) (v : Word) : (s.result r v).strand.src = s.strand.src := by simp [State.result]
@[simp] theorem State.result_strand_trapping (s : State) (r : BitVec 5) (v : Word) : (s.result r v).strand.trapping = s.strand.trapping := by simp [State.result]
@[simp] theorem State.result_strand_waits (s : State) (r : BitVec 5) (v : Word) : (s.result r v).strand.waits = none := by simp [State.result]
@[simp] theorem State.result_strand_leaving (s : State) (r : BitVec 5) (v : Word) : (s.result r v).strand.leaving = s.strand.leaving := by simp [State.result]
@[simp] theorem State.result_strand_bad (s : State) (r : BitVec 5) (v : Word) :
    (s.result r v).strand.bad = if r = 0 then s.strand.bad else s.strand.bad.filter (fun b => b.1 != r.toNat) := by simp [State.result]
@[simp] theorem State.result_vs (s : State) (r : BitVec 5) (v : Word) : (s.result r v).strand.regs.vs = s.strand.regs.vs := by simp [State.result]
@[simp] theorem State.result_ms (s : State) (r : BitVec 5) (v : Word) : (s.result r v).strand.regs.ms = s.strand.regs.ms := by simp [State.result]
@[simp] theorem State.result_vl (s : State) (r : BitVec 5) (v : Word) : (s.result r v).strand.regs.vl = s.strand.regs.vl := by simp [State.result]
@[simp] theorem State.result_vtype (s : State) (r : BitVec 5) (v : Word) : (s.result r v).strand.regs.vtype = s.strand.regs.vtype := by simp [State.result]
@[simp] theorem State.result_sstat (s : State) (r : BitVec 5) (v : Word) : (s.result r v).strand.regs.sstat = s.strand.regs.sstat := by simp [State.result]
@[simp] theorem State.result_eix (s : State) (r : BitVec 5) (v : Word) : (s.result r v).strand.regs.eix = s.strand.regs.eix := by simp [State.result]
@[simp] theorem State.result_estart (s : State) (r : BitVec 5) (v : Word) : (s.result r v).strand.regs.estart = s.strand.regs.estart := by simp [State.result]
@[simp] theorem State.result_mrow (s : State) (r : BitVec 5) (v : Word) : (s.result r v).strand.regs.mrow = s.strand.regs.mrow := by simp [State.result]
@[simp] theorem State.result_mkstep (s : State) (r : BitVec 5) (v : Word) : (s.result r v).strand.regs.mkstep = s.strand.regs.mkstep := by simp [State.result]

end Sys2Proof.Machine
end

