-- ==== Sys2Proof/Laws/Scalar.lean ====
section
/-!
SUPPORT. What the shared operations of the scalar words do: a result, a branch, a jump, a local load and a local store (spec 14).
-/

namespace Sys2Proof.Machine

open Sys2Proof

/-- A result is the whole effect of the word that gives it. -/
theorem State.result_effect (s : State) (rd : BitVec 5) (v : Word) : ScalarEffect s (s.result rd v) rd v (s.strand.pc + 4) := by
  refine ⟨s.x_result_self rd v, fun q h => s.x_result_ne rd q v h, s.result_pc rd v, by simp, by simp, ?_⟩
  unfold State.result State.next State.setPc State.setX
  split <;> rfl

/-- Moving the scalar stream changes nothing else. -/
theorem State.setPc_effect (s : State) (pc : Word) : ScalarEffect s (s.setPc pc) 0 0 pc :=
  ⟨by simp, fun _ _ => rfl, rfl, rfl, rfl, rfl⟩

/-- A linking jump to a multiple of 4. -/
theorem State.jumpLink_effect (s : State) (rd : BitVec 5) (t : Word) (h : t.extractLsb' 0 2 = 0) :
    ScalarEffect s (s.jumpLink rd t) rd (s.strand.pc + 4) t := by
  unfold State.jumpLink
  rw [if_pos h]
  refine ⟨by simp, fun q hq => by simp [State.x_setX_ne s rd q _ hq], rfl, rfl, by simp, ?_⟩
  unfold State.setPc State.setX
  split <;> rfl

/-- A jump to a multiple of 4. -/
theorem State.jump_aligned (s : State) (t : Word) (h : t.extractLsb' 0 2 = 0) : s.jump t = s.setPc t := if_pos h

/-- A jump elsewhere is cause 0x01 at the jump (R328). -/
theorem State.jump_misaligned (s : State) (t : Word) (h : t.extractLsb' 0 2 ≠ 0) : s.jump t = s.trapScalar 0x01 0 := if_neg h

theorem State.jumpLink_misaligned (s : State) (rd : BitVec 5) (t : Word) (h : t.extractLsb' 0 2 ≠ 0) :
    s.jumpLink rd t = s.trapScalar 0x01 0 := if_neg h

/-- Bits 1:0 of a word as a remainder. -/
theorem low2_iff (t : Word) : t.extractLsb' 0 2 = 0 ↔ t.toNat % 4 = 0 := by
  rw [← BitVec.toNat_inj, BitVec.extractLsb'_toNat, Nat.shiftRight_zero]
  simp

/-- A word that waits for no held write runs at once (R189). -/
theorem State.afterHeld_of_none (s : State) (f : State → State) (h : s.heldHere = false) : s.afterHeld f = f s := by
  unfold State.afterHeld
  simp [h]

end Sys2Proof.Machine
end

