-- ==== Sys2Proof/Laws/Trap.lean ====
section
/-!
SUPPORT. Taking a trap: the length of a record's bytes (R137, R257), a strand without matrix commands (R399), and what an append to the
fault queue does (R254).
-/

namespace Sys2Proof.Machine

open Sys2Proof

/-! Record lengths. -/

theorem padTo_length (n : Nat) (bs : List Byte) (h : bs.length ≤ n) : (padTo n bs).length = n := by
  unfold padTo
  rw [List.length_append, List.length_replicate]
  omega

theorem flatMap_bytes_length {α : Type} (l : List α) (f : α → List Byte) (k : Nat) (h : ∀ x ∈ l, (f x).length = k) :
    (l.flatMap f).length = k * l.length := by
  induction l with
  | nil => rfl
  | cons x r ih =>
    rw [List.flatMap_cons, List.length_append, h x (List.mem_cons_self ..), ih (fun y hy => h y (List.mem_cons_of_mem _ hy)),
      List.length_cons, Nat.mul_succ, Nat.add_comm]

theorem Record.header_length (r : Record) : r.header.length = 192 := by
  unfold Record.header
  apply padTo_length
  have h1 : (r.regs.eix.toList.flatMap (fun w => bytesOf 8 w.toNat)).length = 8 * r.regs.eix.toList.length :=
    flatMap_bytes_length _ _ 8 (fun _ _ => bytesOf_length _ _)
  have h2 : ((List.range 32).flatMap (fun n => bytesOf 1 (r.vecUnits n))).length = 1 * (List.range 32).length :=
    flatMap_bytes_length _ _ 1 (fun _ _ => bytesOf_length _ _)
  rw [Vector.length_toList] at h1
  simp only [List.length_append, bytesOf_length, h1, h2, List.length_range]
  decide

theorem TrapBlock.bytes_length (t : TrapBlock) (n : Nat) : (t.bytes n).length = 128 := by
  unfold TrapBlock.bytes
  apply padTo_length
  have h2 : ((List.range 16).flatMap (fun g => bytesOf 2 (t.lgc.getD g 0))).length = 2 * (List.range 16).length :=
    flatMap_bytes_length _ _ 2 (fun _ _ => bytesOf_length _ _)
  simp only [List.length_append, bytesOf_length, h2, List.length_range]
  decide

theorem ConvoyEntry.bytes_length (e : ConvoyEntry) : e.bytes.length = 128 := by
  unfold ConvoyEntry.bytes
  apply padTo_length
  have h1 : ((List.range 4).flatMap (fun i => bytesOf 4 (e.words.getD i 0).toNat)).length = 4 * (List.range 4).length :=
    flatMap_bytes_length _ _ 4 (fun _ _ => bytesOf_length _ _)
  have h2 : ((List.range 8).flatMap (fun i => bytesOf 8 (e.caps.getD i 0).toNat)).length = 8 * (List.range 8).length :=
    flatMap_bytes_length _ _ 8 (fun _ _ => bytesOf_length _ _)
  simp only [List.length_append, bytesOf_length, h1, h2, List.length_range]
  decide

theorem sum_units (f : Nat → Nat) (v : Nat) (h : ∀ n, v.testBit n = false → f n = 0) (k : Nat) :
    ((bitsSet k v).map f).sum = ((List.range k).map f).sum := by
  unfold bitsSet
  induction k with
  | zero => rfl
  | succ k ih =>
    rw [List.range_succ, List.filter_append, List.map_append, List.sum_append, List.map_append, List.sum_append, ih]
    congr 1
    by_cases hb : v.testBit k
    · simp [hb]
    · simp [hb, h k (by simpa using hb)]

theorem flatMap_units_length (l : List Nat) (f : Nat → List Byte) (g : Nat → Nat) (h : ∀ n, (f n).length = 64 * g n) :
    (l.flatMap f).length = 64 * (l.map g).sum := by
  induction l with
  | nil => rfl
  | cons x r ih => rw [List.flatMap_cons, List.length_append, h, ih, List.map_cons, List.sum_cons, Nat.mul_add]

theorem le_roundUp (a : Nat) : a ≤ roundUp a 64 := by
  unfold roundUp ceilDiv
  omega

theorem Record.image_length (r : Record) : 192 + r.image.length = r.imageEnd := by
  unfold Record.image Record.imageEnd Record.vecAt
  have hx : ((bitsSet 32 r.smask.toNat).flatMap (fun n => bytesOf 8 (r.regs.xs.toList.getD n 0).toNat)).length
      = 8 * (bitsSet 32 r.smask.toNat).length := flatMap_bytes_length _ _ 8 (fun _ _ => bytesOf_length _ _)
  have hm : ((bitsSet 8 r.mmask.toNat).flatMap (fun n => bytesOf r.maskLen (r.regs.ms.toList.getD n 0).toNat)).length
      = r.maskLen * (bitsSet 8 r.mmask.toNat).length := flatMap_bytes_length _ _ _ (fun _ _ => bytesOf_length _ _)
  have hv : ((bitsSet 32 r.vmask.toNat).flatMap
      (fun n => bytesOf (64 * r.vecUnits n) (r.regs.vs.toList.getD n { bits := 0, tag := 0 }).read)).length
      = 64 * ((List.range 32).map r.vecUnits).sum := by
    rw [flatMap_units_length _ _ r.vecUnits (fun _ => bytesOf_length _ _), sum_units]
    intro n hn
    unfold Record.vecUnits
    rw [hn]
    rfl
  have hp : 192 + 8 * (bitsSet 32 r.smask.toNat).length ≤ r.maskAt := le_roundUp _
  rw [List.length_append, List.length_append, hm, hv, padTo_length _ _ (by omega), Nat.mul_comm r.maskLen]
  omega

/-- A record's bytes fill its LENGTH (R137, R257). -/
theorem Record.bytes_length (r : Record) : r.bytes.length = r.fullLength := by
  unfold Record.bytes Record.fullLength
  have hi := r.image_length
  have hc : (r.convoys.flatMap ConvoyEntry.bytes).length = 128 * r.convoys.length :=
    flatMap_bytes_length _ _ 128 (fun _ _ => ConvoyEntry.bytes_length _)
  cases r.kind <;> simp only [List.length_append, Record.header_length, TrapBlock.bytes_length, hc] <;> omega

/-! A strand without matrix commands under way. -/

theorem State.withdraw_of_none (s : State) (h : s.core.mat.all (fun m => m.slot != some s.slot) = true) :
    s.withdraw = ([], none, s) := by
  have away {m : MatCmd} (hm : m ∈ s.core.mat) : (m.slot == some s.slot) = false := by
    simpa using List.all_eq_true.mp h m hm
  have hf : s.core.mat.filter (fun m => m.slot == some s.slot && m.drain.isNone) = [] := by
    rw [List.filter_eq_nil_iff]
    intro m hm
    simp [away hm]
  have hk : s.core.mat.filter (fun m => !(m.slot == some s.slot && m.drain.isNone)) = s.core.mat := by
    rw [List.filter_eq_self]
    intro m hm
    simp [away hm]
  have hd : s.core.mat.map (fun m => if m.slot == some s.slot then { m with slot := none } else m) = s.core.mat := by
    rw [List.map_congr_left (g := id) (fun m hm => by rw [away hm]; rfl), List.map_id]
  have hb (l : List Region) : l.filter (fun r => !(r.engine == 0 && ([] : List MatCmd).any (fun m => m.order == r.id))) = l := by
    rw [List.filter_eq_self]
    intro r _
    simp
  have hs : s.modHere (fun k => { k with
      mat := (k.mat.filter (fun m => !(m.slot == some s.slot && m.drain.isNone))).map
        (fun m => if m.slot == some s.slot then { m with slot := none } else m)
      board := k.board.filter (fun r => !(r.engine == 0 && ([] : List MatCmd).any (fun m => m.order == r.id)))
      gboard := k.gboard.filter (fun r => !(r.engine == 0 && ([] : List MatCmd).any (fun m => m.order == r.id))) }) = s := by
    unfold State.modHere
    dsimp only
    rw [hk, hd, hb, hb]
  unfold State.withdraw
  simp only [hf, hs]
  rfl

/-- The trap of a strand without matrix commands: its record goes to the fault queue once the slot is free. -/
theorem State.trap_of_none (s : State) (t : TrapBlock) (pc : Word) (es : List ConvoyEntry)
    (h : s.core.mat.all (fun m => m.slot != some s.slot) = true) :
    s.trap t pc es = s.vacate.queueFault s.here (s.core.ctx.getD 64) (s.fullRecord .fault pc t es) := by
  have ho : s.amaxOut = false := by
    unfold State.amaxOut
    rw [List.any_eq_false]
    intro m hm
    simp [by simpa using List.all_eq_true.mp h m hm]
  unfold State.trap
  rw [if_neg (by simp [ho]), s.withdraw_of_none h]
  rfl

/-! The fault queue. -/

theorem hart_modHart (s : State) (h : Nat) (f : Hart → Hart) : (s.modHart h f).hart h = f (s.hart h) := by
  unfold State.modHart State.hart
  simp

/-- What is in memory after the writes of an append, by address (R254). -/
theorem append_mem (m : Mem) (base size tail n : Nat) (skip : Nat) (bs : List Byte) (hskip : skip = skipBlocks tail size n)
    (hlen : bs.length ≤ 64 * n) (hn : n ≤ size) (hz : 0 < size) (x : Nat) :
    let m1 := mstore m (base + 8) (bytesOf 8 (tail + skip + n))
    let m2 := if skip = 0 then m1 else mstore m1 (base + 64 + 64 * (tail % size)) (bytesOf 4 0xFF ++ bytesOf 4 (64 * skip))
    let at_ := base + 64 + 64 * ((tail + skip) % size)
    let m3 := mstore m2 at_ bs
    (at_ ≤ x ∧ x < at_ + bs.length → mget m3 x = bs.getD (x - at_) 0) ∧
      (base + 8 ≤ x ∧ x < base + 16 → mget m3 x = BitVec.ofNat 8 ((tail + skip + n) / 256 ^ (x - (base + 8)))) ∧
      (x < base + 8 ∨ (base + 16 ≤ x ∧ x < base + 64) ∨ base + 64 + 64 * size ≤ x → mget m3 x = mget m x) := by
  intro m1 m2 at_ m3
  have hlt := Nat.mod_lt tail hz
  have hfit : (tail + skip) % size + n ≤ size := by
    rw [hskip]
    unfold skipBlocks
    split
    · have h0 : (tail + (size - tail % size)) % size = 0 := by
        have h2 := Nat.div_add_mod tail size
        have : tail + (size - tail % size) = size * (tail / size + 1) := by
          rw [Nat.mul_add, Nat.mul_one]; omega
        rw [this]; exact Nat.mul_mod_right _ _
      omega
    · rw [Nat.add_zero]; omega
  have h2 : ∀ y, (y < base + 64 ∨ base + 64 + 64 * size ≤ y) → mget m2 y = mget m1 y := by
    intro y hy
    show mget (if skip = 0 then m1 else _) y = _
    split
    · rfl
    · exact mget_mstore_ne _ _ _ _ (by rw [List.length_append, bytesOf_length, bytesOf_length]; omega)
  refine ⟨fun h => ?_, fun h => ?_, fun h => ?_⟩
  · show mget (mstore m2 at_ bs) x = _
    rw [mget_mstore, if_pos h]
  · show mget (mstore m2 at_ bs) x = _
    rw [mget_mstore_ne _ _ _ _ (by omega), h2 x (by omega)]
    show mget (mstore m _ _) x = _
    rw [mget_mstore, bytesOf_length, if_pos (by omega), bytesOf_getD _ _ _ (by omega)]
  · show mget (mstore m2 at_ bs) x = _
    rw [mget_mstore_ne _ _ _ _ (by omega), h2 x (by omega)]
    exact mget_mstore_ne _ _ _ _ (by rw [bytesOf_length]; omega)

/-- What an append to a context's fault queue does (R254): memory as `append_mem` says, the record among those that no BFLTACT has taken,
the serving hart told; the cores and what is in hand stay. -/
theorem State.ringAppend_some (s : State) (core ctx : Nat) (r : Record) (c : Context) (hc : tget s.contexts ctx = some c)
    (hr : RingRoom s c (ceilDiv r.length 64)) (hl : r.bytes.length = r.length) :
    ∃ t, s.ringAppend core ctx r = some t ∧ t.acting = s.acting ∧ t.cores = s.cores ∧ t.core = s.core ∧ t.strand = s.strand ∧
      tget t.contexts ctx =
        some { c with pendingFaults := tset c.pendingFaults (ringPlace s c (ceilDiv r.length 64)) (core, r) } ∧
      (t.hart (hartOf core)).fltCtx = (s.hart (hartOf core)).fltCtx ||| BitVec.ofNat 64 (2 ^ (ctx % 64)) ∧
      (∀ i, i < r.bytes.length → mget t.mem (ringPlace s c (ceilDiv r.length 64) + i) = r.bytes.getD i 0) ∧
      (∀ i, i < 8 → mget t.mem (c.fqBase + 8 + i) = BitVec.ofNat 8
        ((s.peek (c.fqBase + 8) 8 + skipBlocks (s.peek (c.fqBase + 8) 8) (2 ^ c.fqLog2) (ceilDiv r.length 64) + ceilDiv r.length 64)
          / 256 ^ i)) ∧
      ∀ x, (x < c.fqBase + 8 ∨ (c.fqBase + 16 ≤ x ∧ x < c.fqBase + 64) ∨ c.fqBase + 64 + 64 * 2 ^ c.fqLog2 ≤ x) →
        mget t.mem x = mget s.mem x := by
  have hroom : ¬ 2 ^ c.fqLog2 < (s.peek (c.fqBase + 8) 8 + 2 ^ 64 - s.peek c.fqBase 8) % 2 ^ 64
      + skipBlocks (s.peek (c.fqBase + 8) 8) (2 ^ c.fqLog2) (ceilDiv r.length 64) + ceilDiv r.length 64 := by
    unfold RingRoom at hr
    omega
  have hn : ceilDiv r.length 64 ≤ 2 ^ c.fqLog2 := by omega
  have hlen : r.bytes.length ≤ 64 * ceilDiv r.length 64 := by
    rw [hl]
    unfold ceilDiv
    omega
  have hm := append_mem s.mem c.fqBase (2 ^ c.fqLog2) (s.peek (c.fqBase + 8) 8) (ceilDiv r.length 64) _ r.bytes rfl hlen hn
    (Nat.two_pow_pos _)
  generalize hk : skipBlocks (s.peek (c.fqBase + 8) 8) (2 ^ c.fqLog2) (ceilDiv r.length 64) = skip at *
  have hplace : ringPlace s c (ceilDiv r.length 64) = c.fqBase + 64 + 64 * ((s.peek (c.fqBase + 8) 8 + skip) % 2 ^ c.fqLog2) := by
    unfold ringPlace
    dsimp only
    rw [hk]
  rw [hplace]
  have finish : ∀ (u : State) (at_ : Nat), u.contexts = s.contexts → u.harts = s.harts → u.acting = s.acting → u.cores = s.cores →
      u.core = s.core → u.strand = s.strand → ∃ t,
        ((u.put at_ r.bytes).modContext ctx (fun c => { c with pendingFaults := tset c.pendingFaults at_ (core, r) })).raiseFault core ctx
          r.trap.cause = t ∧ t.acting = s.acting ∧ t.cores = s.cores ∧ t.core = s.core ∧ t.strand = s.strand ∧
        tget t.contexts ctx = some { c with pendingFaults := tset c.pendingFaults at_ (core, r) } ∧
        (t.hart (hartOf core)).fltCtx = (s.hart (hartOf core)).fltCtx ||| BitVec.ofNat 64 (2 ^ (ctx % 64)) ∧
        t.mem = mstore u.mem at_ r.bytes := by
    intro u at_ h1 h2 h3 h4 h5 h6
    have hg : tget (u.put at_ r.bytes).contexts ctx = some c := by rw [State.put_contexts, h1, hc]
    refine ⟨_, rfl, ?_, ?_, ?_, ?_, ?_, ?_, ?_⟩
    · unfold State.raiseFault State.modHart State.modContext; rw [hg]; exact h3
    · unfold State.raiseFault State.modHart State.modContext; rw [hg]; exact h4
    · unfold State.raiseFault State.modHart State.modContext; rw [hg]; exact h5
    · unfold State.raiseFault State.modHart State.modContext; rw [hg]; exact h6
    · unfold State.raiseFault State.modHart State.modContext; rw [hg]; exact tget_tset_self _ _ _
    · unfold State.raiseFault
      rw [hart_modHart]
      unfold State.modContext
      rw [hg]
      show (u.hart (hartOf core)).fltCtx ||| _ = _
      unfold State.hart
      rw [h2]
    · unfold State.raiseFault State.modHart State.modContext; rw [hg]; rfl
  unfold State.ringAppend
  rw [hc]
  dsimp only
  rw [hk, if_neg hroom]
  have hu : ∃ u : State, (if skip = 0 then s.poke (c.fqBase + 8) 8 (s.peek (c.fqBase + 8) 8 + skip + ceilDiv r.length 64)
        else (s.poke (c.fqBase + 8) 8 (s.peek (c.fqBase + 8) 8 + skip + ceilDiv r.length 64)).put
          (c.fqBase + 64 + 64 * (s.peek (c.fqBase + 8) 8 % 2 ^ c.fqLog2)) (bytesOf 4 255 ++ bytesOf 4 (64 * skip))) = u ∧
      u.contexts = s.contexts ∧ u.harts = s.harts ∧ u.acting = s.acting ∧ u.cores = s.cores ∧ u.core = s.core ∧ u.strand = s.strand ∧
      u.mem = (if skip = 0 then mstore s.mem (c.fqBase + 8) (bytesOf 8 (s.peek (c.fqBase + 8) 8 + skip + ceilDiv r.length 64))
        else mstore (mstore s.mem (c.fqBase + 8) (bytesOf 8 (s.peek (c.fqBase + 8) 8 + skip + ceilDiv r.length 64)))
          (c.fqBase + 64 + 64 * (s.peek (c.fqBase + 8) 8 % 2 ^ c.fqLog2)) (bytesOf 4 255 ++ bytesOf 4 (64 * skip))) := by
    refine ⟨_, rfl, ?_⟩
    split <;> exact ⟨rfl, rfl, rfl, rfl, rfl, rfl, rfl⟩
  obtain ⟨u, hu, g1, g2, g3, g4, g5, g6, g7⟩ := hu
  rw [hu]
  obtain ⟨t, ht, f1, f2, f3, f4, f5, f6, f7⟩ :=
    finish u (c.fqBase + 64 + 64 * ((s.peek (c.fqBase + 8) 8 + skip) % 2 ^ c.fqLog2)) g1 g2 g3 g4 g5 g6
  refine ⟨t, congrArg some ht, f1, f2, f3, f4, f5, f6, fun i hi => ?_, fun i hi => ?_, fun x hx => ?_⟩
  · rw [f7, g7, (hm _).1 ⟨by omega, by omega⟩, Nat.add_sub_cancel_left]
  · rw [f7, g7, (hm _).2.1 ⟨by omega, by omega⟩, Nat.add_sub_cancel_left]
  · rw [f7, g7, (hm _).2.2 hx]

/-- A record that fits the mooring area of a core and the fault queue is deposited, appended, and gone from the core (R252): the queue holds
it under the core's next deposit number, which has advanced. -/
theorem State.queueFault_fits (s : State) (core ctx : Nat) (r : Record) (c : Context) (b : Nat) (ha : s.acting = false)
    (hc : tget s.contexts ctx = some c)
    (hb : firstFit (s.getCore core).usedBlocks (ceilDiv r.fullLength 64) (((s.getCore core).moorSize - 0x4000) / 64) = some b)
    (hr : RingRoom s c (ceilDiv r.fullLength 64)) :
    let q : Record := { r with
      length := r.fullLength, ready := false, on := .nothing, dseq := (s.getCore core).dseq, block := b, spilled := false }
    let t := s.queueFault core ctx r
    t.acting = false ∧ (t.getCore core).dseq = (s.getCore core).dseq + 1 ∧
      tget t.contexts ctx =
        some { c with pendingFaults := tset c.pendingFaults (ringPlace s c (ceilDiv r.fullLength 64)) (core, q) } ∧
      (t.hart (hartOf core)).fltCtx = (s.hart (hartOf core)).fltCtx ||| BitVec.ofNat 64 (2 ^ (ctx % 64)) ∧
      (∀ i, i < q.bytes.length → mget t.mem (ringPlace s c (ceilDiv r.fullLength 64) + i) = q.bytes.getD i 0) ∧
      (∀ i, i < 8 → mget t.mem (c.fqBase + 8 + i) = BitVec.ofNat 8
        ((s.peek (c.fqBase + 8) 8 + skipBlocks (s.peek (c.fqBase + 8) 8) (2 ^ c.fqLog2) (ceilDiv r.fullLength 64)
          + ceilDiv r.fullLength 64) / 256 ^ i)) ∧
      ∀ x, (x < c.fqBase + 8 ∨ (c.fqBase + 16 ≤ x ∧ x < c.fqBase + 64) ∨ c.fqBase + 64 + 64 * 2 ^ c.fqLog2 ≤ x) →
        mget t.mem x = mget s.mem x := by
  intro q t
  have hset : ∀ (u : State) (k : Core), u.acting = false → u.setCore core k = { u with cores := tset u.cores core k } := by
    intro u k hu
    unfold State.setCore
    rw [if_neg (by simp [hu])]
  have hget : ∀ u : State, u.acting = false → u.getCore core = (tget u.cores core).getD Core.reset := by
    intro u hu
    unfold State.getCore
    rw [if_neg (by simp [hu])]
  let k0 := s.getCore core
  let k1 : Core := { k0.writtenOver (k0.moorBase + 0x2000 + 64 * b) (64 * ceilDiv r.fullLength 64) with records := k0.records ++ [q] }
  let s0 : State := { s with cores := tset s.cores core k1 }
  let s1 : State := { s0 with cores := tset s0.cores core { k1 with dseq := k0.dseq + 1 } }
  have hg0 : s0.getCore core = k1 := by
    rw [hget s0 ha]
    simp only [s0, tget_tset_self, Option.getD_some]
  have hdep : s.deposit core { r with length := r.fullLength, ready := false, on := .nothing } = some (s1, q) := by
    unfold State.deposit State.depositAs
    have hb' : firstFit (s.getCore core).usedBlocks
        (ceilDiv (Record.fullLength { r with length := r.fullLength, ready := false, on := .nothing }) 64)
        (((s.getCore core).moorSize - 0x4000) / 64) = some b := hb
    dsimp only
    rw [hb']
    dsimp only [Option.map_some]
    rw [hset s _ ha]
    show some (s0.setCore core { s0.getCore core with dseq := k0.dseq + 1 }, q) = _
    rw [hg0, hset s0 _ ha]
  obtain ⟨t', ht, f1, f2, f3, f4, f5, f6, f7, f8, f9⟩ :=
    State.ringAppend_some s1 core ctx q c hc hr (by rw [Record.bytes_length]; rfl)
  have htq : t = t'.dropRecord core q := by
    show s.queueFault core ctx r = _
    unfold State.queueFault
    dsimp only
    rw [hdep]
    dsimp only
    rw [ht]
  have ha' : t'.acting = false := f1.trans ha
  have hdrop : t'.dropRecord core q = { t' with cores := tset t'.cores core ((t'.getCore core).dropRecord q.dseq) } := by
    unfold State.dropRecord State.freeChunks State.modCore
    rw [hset _ _ ha']
    rfl
  rw [htq, hdrop]
  refine ⟨ha', ?_, f5, f6, f7, f8, f9⟩
  rw [hget _ (by exact ha')]
  simp only [tget_tset_self, Option.getD_some]
  show (t'.getCore core).dseq = _
  rw [hget _ ha', f2]
  simp only [s1, tget_tset_self, Option.getD_some]
  rfl

end Sys2Proof.Machine
end

