-- ==== Sys2Proof/Tests/Slice0.lean ====
section
/-! SUPPORT. Tests: the words of the opcode table, ill-formed terms refused, single steps, and a state that meets the hypotheses of each
statement. -/

namespace Sys2Proof.Tests
open Sys2Proof Sys2Proof.Machine

set_option maxRecDepth 100000
set_option Elab.async false

/-- Each word decodes to the instruction beside it, whose unused fields are zero. -/
def Read (l : List (BitVec 32 × Instr)) : Bool := l.all (fun p => decide (decode p.1 = .ok p.2) && p.2.unusedZero)

/-! States that meet the hypotheses of the statements, one theorem for each statement. -/

/-- A context with its fault queue at 0x100000, of 8,192 blocks. -/
def ctx0 : Context where
  asid := 1
  fqBase := 0x100000
  fqLog2 := 13
  vlcap := 12
  lpart := 1
  detm := false
  gang := false
  destroying := false
  swapped := []
  floor := 0
  home := []
  saved := []
  siglog := []
  pendingFaults := []

/-- A running core of context 0, and a state with its strand in hand at 0x1000. -/
def core0 : Core := { Core.reset with cstate := .running, ctx := some 0, lastCtx := some 0, asid := 1 }
def strand0 : Strand := { Strand.fresh with running := true, pc := 0x1000 }
def sA : State := { State.reset with acting := true, turn := 8, work := [], core := core0, strand := strand0, contexts := [(0, ctx0)], ahead := 0 }

/-- The state with scalar registers set. -/
def regs (s : State) (xs : List (BitVec 5 × Word)) : State := xs.foldl (fun s p => s.setX p.1 p.2) s

/-- A state with a convoy open. -/
def sV (w : BitVec 32) (vl : Nat) (vtype : Word) : State :=
  { sA with strand := { strand0 with
    regs := { strand0.regs with vl := vl, vtype := vtype }
    cv := { Convoy.closed with live := true, entry := { ConvoyEntry.empty with words := [w], cpc := 0x1000, vl := vl, vtype := vtype } } } }
/-- The step of the strand in hand with a number of strands. -/
def withStrands (n : Nat) : State := { sA with core := { core0 with steps := [(0, { Step.fresh with live := true, strands := n })] } }
/-- A state whose core holds the translation of a page at 0x10000, with a leaf. -/
def sT (leaf : BitVec 64) : State := { sA with core := { core0 with tlb := [⟨1, 0x10000, 0x10000, leaf⟩] } }
/-- An ordinary page that may be read, written and executed. -/
def sG : State := sT 0x10073
/-- What an access of the core in hand finds: the second component of `State.find`, whose first is the state after the walk. -/
def found (s : State) (acc : Access) (a n : Nat) : Found := (s.find s.here acc a n).2
/-- A LEAVE record of the strand in hand, numbered 0, that waits. -/
def waiting (on : WaitOn) : Record := { sA.blankRecord .leave 0x1004 with on := on, ready := false, trap := { TrapBlock.none with asid := 1 } }
/-- The state whose core also holds a record, and whose step has operands for core 0, context 0 and record 0. -/
def holding (s : State) (r : Record) : State :=
  { s with core := { s.core with records := [r], dseq := 1 }, inp := { Input.none with core := 0, slot := 0, n := 0 } }
/-- A held release write of the strand in hand. -/
def held0 (loc : Bool) (a : Nat) : HeldRel := { seqB := false, cell := 0, pc := 0x1000, loc := loc, addr := a, size := 8, value := 0x1122334455667788 }
/-- A launch of context 0 with two stages, and the state with it in slot 0 of die 0, its stage queue of depth 1 holding some entries. -/
def launch0 (qs : List StageQ) : Launch where
  st := .active
  record := 0x30000
  ctx := 0
  asid := 1
  det := false
  gang := false
  moor := 8
  vlcapl := 12
  lpartreq := 0
  diemask := 1
  hbint := 0
  topb := 0
  qarea := 0x40000
  ovfBase := 0
  ovfSize := 0
  donef := 0
  levels := []
  stages := [Stage.none, Stage.none]
  seed0 := 0
  seed1 := 0
  modidx := 0
  loops := []
  chunk := 1
  walked := 0
  queues := qs
  faulted := 0
  byDevice := false
  who := none
  cores := [0]
  chunks := []
  progress := 0
def launched (s : State) (qs : List StageQ) : State :=
  s.modHarbour 0 (fun h => { h with launches := [(0, launch0 qs)] })
/-- A core whose local memory holds a queue header at 0x1000, of two entries of 64 bytes at 0x2000. -/
def withQueue (k : Core) (tail : Nat) : Core :=
  { k with loc := mstore k.loc 0x1000 (bytesOf 4 0x2000 ++ bytesOf 2 64 ++ bytesOf 2 2 ++ bytesOf 4 0 ++ bytesOf 4 tail ++ bytesOf 8 0 ++ bytesOf 8 1) }
/-- A convoy of one element in a state, whose word has captured two scalars. -/
def sC (s : State) (vtype a b : Nat) : State :=
  let cv := (sV 0x47 1 (BitVec.ofNat 64 vtype)).strand.cv
  { s with strand := { s.strand with cv := { cv with entry := { cv.entry with caps := [BitVec.ofNat 64 a, BitVec.ofNat 64 b] } } } }
def sL (vtype a : Nat) : State := sC sA vtype a 1
/-- Page tables of ASID 1 in memory: two ordinary pages at 0x10000 and 0x20000. -/
def tables : Mem :=
  let m := mstore [] 0x200000 (bytesOf 8 0x400001)
  let m := mstore m 0x400000 (bytesOf 8 0x401001)
  let m := mstore m 0x401000 (bytesOf 8 0x402001)
  let m := mstore m 0x402008 (bytesOf 8 0x10073 ++ bytesOf 8 0x20073)
  mstore m (reserveLo + 8) (bytesOf 8 0x200001)
/-- A link of two lanes each way. -/
def link0 : Link where
  txLanes := 2
  rxLanes := 2
  compressing := false
  queues := []
  tx := []
  again := []
  replay := []
  going := []
  held := []
  owed := []
  wire := []
  port := []
  low := false
  lseq := 0
  rxLseq := 5
  credits := [(0, 256)]
  rr := 0
  retraining := false
  rx := []
  askReplay := none
/-- Words of major opcode 00000, written from their rows of the opcode table. -/
theorem test_words_loadLocal :
    Read [
      (0b10110101101000110000001010000011, .ldB 5 6 0xb5a),
      (0b10110101101000110001001010000011, .ldH 5 6 0xb5a),
      (0b10110101101000110010001010000011, .ldW 5 6 0xb5a),
      (0b10110101101000110011001010000011, .ldD 5 6 0xb5a),
      (0b10110101101000110100001010000011, .ldBu 5 6 0xb5a),
      (0b10110101101000110101001010000011, .ldHu 5 6 0xb5a),
      (0b10110101101000110110001010000011, .ldWu 5 6 0xb5a)] := by decide +kernel

/-- Words of major opcode 00001, written from their rows of the opcode table. -/
theorem test_words_loadGlobal :
    Read [
      (0b01010010011100110000001010000111, .ldgLB ⟨0, 2, 9, 7, 6, 5⟩),
      (0b01010010011100110001001010000111, .ldgLH ⟨0, 2, 9, 7, 6, 5⟩),
      (0b01010010011100110010001010000111, .ldgLW ⟨0, 2, 9, 7, 6, 5⟩),
      (0b01010010011100110011001010000111, .ldgLD ⟨0, 2, 9, 7, 6, 5⟩),
      (0b01010010011100110100001010000111, .ldgLBu ⟨0, 2, 9, 7, 6, 5⟩),
      (0b01010010011100110101001010000111, .ldgLHu ⟨0, 2, 9, 7, 6, 5⟩),
      (0b01010010011100110110001010000111, .ldgLWu ⟨0, 2, 9, 7, 6, 5⟩)] := by decide +kernel

/-- Words of major opcode 00011, written from their rows of the opcode table. -/
theorem test_words_misc :
    Read [
      (0b00000000110000000000000000001111, .fence 1 4),
      (0b00000000000000000001000000001111, .fenceSv),
      (0b00000000000000000010000000001111, .fenceVs)] := by decide +kernel

/-- Words of major opcode 00100, written from their rows of the opcode table. -/
theorem test_words_opImm :
    Read [
      (0b10110101101000110000001010010011, .addi 5 6 0xb5a),
      (0b10110101101000110010001010010011, .slti 5 6 0xb5a),
      (0b10110101101000110011001010010011, .sltiu 5 6 0xb5a),
      (0b10110101101000110100001010010011, .xori 5 6 0xb5a),
      (0b10110101101000110110001010010011, .ori 5 6 0xb5a),
      (0b10110101101000110111001010010011, .andi 5 6 0xb5a),
      (0b00000010110100110001001010010011, .slli 5 6 45),
      (0b00000010110100110101001010010011, .srli 5 6 45),
      (0b01000010110100110101001010010011, .srai 5 6 45)] := by decide +kernel

/-- Words of major opcode 00101, written from their rows of the opcode table. -/
theorem test_words_addpc :
    Read [
      (0b10110101101011010110001010010111, .addpc 5 0xb5ad6)] := by decide +kernel

/-- Words of major opcode 01000, written from their rows of the opcode table. -/
theorem test_words_storeLocal :
    Read [
      (0b10110100011100110000011010100011, .stB 7 6 0xb4d),
      (0b10110100011100110001011010100011, .stH 7 6 0xb4d),
      (0b10110100011100110010011010100011, .stW 7 6 0xb4d),
      (0b10110100011100110011011010100011, .stD 7 6 0xb4d)] := by decide +kernel

/-- Words of major opcode 01001, written from their rows of the opcode table. -/
theorem test_words_storeGlobal :
    Read [
      (0b10110100011100110000011010100111, .stgB 7 6 0xb4d),
      (0b10110100011100110001011010100111, .stgH 7 6 0xb4d),
      (0b10110100011100110010011010100111, .stgW 7 6 0xb4d),
      (0b10110100011100110011011010100111, .stgD 7 6 0xb4d)] := by decide +kernel

/-- Words of major opcode 01010, written from their rows of the opcode table. -/
theorem test_words_amo :
    Read [
      (0b00000100011100110100001010101011, .amoAddB ⟨2, 7, 6, 4, 5⟩),
      (0b00001100011100110100001010101011, .amoAddH ⟨2, 7, 6, 4, 5⟩),
      (0b00010100011100110100001010101011, .amoAddW ⟨2, 7, 6, 4, 5⟩),
      (0b00011100011100110100001010101011, .amoAddD ⟨2, 7, 6, 4, 5⟩),
      (0b00100100011100110100001010101011, .amoSwapB ⟨2, 7, 6, 4, 5⟩),
      (0b00101100011100110100001010101011, .amoSwapH ⟨2, 7, 6, 4, 5⟩),
      (0b00110100011100110100001010101011, .amoSwapW ⟨2, 7, 6, 4, 5⟩),
      (0b00111100011100110100001010101011, .amoSwapD ⟨2, 7, 6, 4, 5⟩),
      (0b01000100011100110100001010101011, .amoCasB ⟨2, 7, 6, 4, 5⟩),
      (0b01001100011100110100001010101011, .amoCasH ⟨2, 7, 6, 4, 5⟩),
      (0b01010100011100110100001010101011, .amoCasW ⟨2, 7, 6, 4, 5⟩),
      (0b01011100011100110100001010101011, .amoCasD ⟨2, 7, 6, 4, 5⟩),
      (0b01100100011100110100001010101011, .amoAndW ⟨2, 7, 6, 4, 5⟩),
      (0b01101100011100110100001010101011, .amoAndD ⟨2, 7, 6, 4, 5⟩),
      (0b01110100011100110100001010101011, .amoOrW ⟨2, 7, 6, 4, 5⟩),
      (0b01111100011100110100001010101011, .amoOrD ⟨2, 7, 6, 4, 5⟩),
      (0b10000100011100110100001010101011, .amoXorW ⟨2, 7, 6, 4, 5⟩),
      (0b10001100011100110100001010101011, .amoXorD ⟨2, 7, 6, 4, 5⟩),
      (0b10010100011100110100001010101011, .amoMinW ⟨2, 7, 6, 4, 5⟩),
      (0b10011100011100110100001010101011, .amoMinD ⟨2, 7, 6, 4, 5⟩),
      (0b10100100011100110100001010101011, .amoMaxW ⟨2, 7, 6, 4, 5⟩),
      (0b10101100011100110100001010101011, .amoMaxD ⟨2, 7, 6, 4, 5⟩),
      (0b10110100011100110100001010101011, .amoAddBf16 ⟨2, 7, 6, 4, 5⟩),
      (0b10111100011100110100001010101011, .amoAddF32 ⟨2, 7, 6, 4, 5⟩),
      (0b11000100011100110100001010101011, .amoAddF64 ⟨2, 7, 6, 4, 5⟩),
      (0b11001100011100110100001010101011, .amoAmaxBf16 ⟨2, 7, 6, 4, 5⟩),
      (0b11010100011100110100001010101011, .amoAmaxF16 ⟨2, 7, 6, 4, 5⟩),
      (0b11011100011100110100001010101011, .amoAmaxF32 ⟨2, 7, 6, 4, 5⟩),
      (0b11100100011100110100001010101011, .amoAmaxF64 ⟨2, 7, 6, 4, 5⟩),
      (0b11101000011100110000001010101011, .append ⟨0, 7, 6, 0, 5⟩),
      (0b11110000011100110000001010101011, .seal ⟨0, 7, 6, 0, 5⟩)] := by decide +kernel

/-- Words of major opcode 01011, written from their rows of the opcode table. -/
theorem test_words_sync :
    Read [
      (0b00000010110000110000001010101111, .ldAcq 5 6 2 true 4),
      (0b00000000011100110001011000101111, .stRel 7 6 0 true 4),
      (0b00000000011100110010010110101111, .bind 11 6 7),
      (0b00000010011100110010010110101111, .unbind 11 6 7),
      (0b00000100011100110010000000101111, .fres 6 7),
      (0b00000110011100110010000000101111, .barinit 6 7),
      (0b00001000011100110010000000101111, .barexp 6 7),
      (0b00001010011100110010000000101111, .bararr 6 7),
      (0b01010010000000110011001010101111, .waitfL ⟨0, 2, 9, 0, 6, 5⟩),
      (0b01010010000000110100001010101111, .barwL ⟨0, 2, 9, 0, 6, 5⟩)] := by decide +kernel

/-- Words of major opcode 01100, written from their rows of the opcode table. -/
theorem test_words_op :
    Read [
      (0b00000000011100110000001010110011, .add 5 6 7),
      (0b01000000011100110000001010110011, .sub 5 6 7),
      (0b00000000011100110001001010110011, .sll 5 6 7),
      (0b00000000011100110010001010110011, .slt 5 6 7),
      (0b00000000011100110011001010110011, .sltu 5 6 7),
      (0b00000000011100110100001010110011, .xor 5 6 7),
      (0b00000000011100110101001010110011, .srl 5 6 7),
      (0b01000000011100110101001010110011, .sra 5 6 7),
      (0b00000000011100110110001010110011, .or 5 6 7),
      (0b00000000011100110111001010110011, .and 5 6 7),
      (0b00000010011100110000001010110011, .mul 5 6 7),
      (0b00000010011100110001001010110011, .mulh 5 6 7),
      (0b00000010011100110011001010110011, .mulhu 5 6 7),
      (0b00000010011100110100001010110011, .div 5 6 7),
      (0b00000010011100110101001010110011, .divu 5 6 7),
      (0b00000010011100110110001010110011, .rem 5 6 7),
      (0b00000010011100110111001010110011, .remu 5 6 7),
      (0b00000100011100110011001010110011, .lea 5 6 7 3),
      (0b00001010011100110000001010110011, .min 5 6 7),
      (0b00001010011100110001001010110011, .max 5 6 7),
      (0b00001010011100110010001010110011, .minu 5 6 7),
      (0b00001010011100110011001010110011, .maxu 5 6 7),
      (0b01100000000000110000001010110011, .clz 5 6),
      (0b01100000000000110001001010110011, .ctz 5 6),
      (0b01100000000000110010001010110011, .popc 5 6)] := by decide +kernel

/-- Words of major opcode 01101, written from their rows of the opcode table. -/
theorem test_words_lui :
    Read [
      (0b10110101101011010110001010110111, .lui 5 0xb5ad6)] := by decide +kernel

/-- Words of major opcode 10000, written from their rows of the opcode table. -/
theorem test_words_vcfg :
    Read [
      (0b01000000000000110000001011000011, .vsetvl ⟨0, 2, 0, 6, 0, 5⟩),
      (0b01000010011100110000001011000011, .vsettype ⟨0, 2, 7, 6, 0, 5⟩)] := by decide +kernel

/-- Words of major opcode 10001, written from their rows of the opcode table. -/
theorem test_words_vint :
    Read [
      (0b11000000011100110011001011000111, .vadd ⟨1, 2, 7, 6, 3, 5⟩),
      (0b11000010011100110011001011000111, .vsub ⟨1, 2, 7, 6, 3, 5⟩),
      (0b11000100011100110011001011000111, .vmul ⟨1, 2, 7, 6, 3, 5⟩),
      (0b11000110011100110011001011000111, .vmulh ⟨1, 2, 7, 6, 3, 5⟩),
      (0b11001000011100110011001011000111, .vmulhu ⟨1, 2, 7, 6, 3, 5⟩),
      (0b11001010011100110011001011000111, .vand ⟨1, 2, 7, 6, 3, 5⟩),
      (0b11001100011100110011001011000111, .vor ⟨1, 2, 7, 6, 3, 5⟩),
      (0b11001110011100110011001011000111, .vxor ⟨1, 2, 7, 6, 3, 5⟩),
      (0b11010000011100110011001011000111, .vsll ⟨1, 2, 7, 6, 3, 5⟩),
      (0b11010010011100110011001011000111, .vsrl ⟨1, 2, 7, 6, 3, 5⟩),
      (0b11010100011100110011001011000111, .vsra ⟨1, 2, 7, 6, 3, 5⟩),
      (0b11010110011100110011001011000111, .vmin ⟨1, 2, 7, 6, 3, 5⟩),
      (0b11011000011100110011001011000111, .vmax ⟨1, 2, 7, 6, 3, 5⟩),
      (0b11011010011100110011001011000111, .vsadd ⟨1, 2, 7, 6, 3, 5⟩),
      (0b11011100011100110011001011000111, .vssub ⟨1, 2, 7, 6, 3, 5⟩),
      (0b11011111011000110011001011000111, .vaddi ⟨1, 2, 22, 6, 3, 5⟩)] := by decide +kernel

/-- Words of major opcode 10010, written from their rows of the opcode table. -/
theorem test_words_vfp :
    Read [
      (0b11000000011100110011001011001011, .vfadd ⟨1, 2, 7, 6, 3, 5⟩),
      (0b11000010011100110011001011001011, .vfsub ⟨1, 2, 7, 6, 3, 5⟩),
      (0b11000100011100110011001011001011, .vfmul ⟨1, 2, 7, 6, 3, 5⟩),
      (0b11000110011100110011001011001011, .vfma ⟨1, 2, 7, 6, 3, 5⟩),
      (0b11001000011100110011001011001011, .vfdiv ⟨1, 2, 7, 6, 3, 5⟩),
      (0b11001010000000110011001011001011, .vfsqrt ⟨1, 2, 0, 6, 3, 5⟩),
      (0b11001100011100110011001011001011, .vfmin ⟨1, 2, 7, 6, 3, 5⟩),
      (0b11001110011100110011001011001011, .vfmax ⟨1, 2, 7, 6, 3, 5⟩),
      (0b11010000000000110011001011001011, .vcvt ⟨1, 2, 0, 6, 3, 5⟩),
      (0b11010010011000110000001011001011, .vquant ⟨1, 2, 6, 6, 0, 5⟩),
      (0b11010100011100110000001011001011, .vdequant ⟨1, 2, 7, 6, 0, 5⟩),
      (0b11010110011100110011001011001011, .vredsumO ⟨1, 2, 7, 6, 3, 5⟩),
      (0b11011000011100110011001011001011, .vredsumU ⟨1, 2, 7, 6, 3, 5⟩),
      (0b11011010000000110011001011001011, .vscanO ⟨1, 2, 0, 6, 3, 5⟩),
      (0b11011100000000110011001011001011, .vscanF ⟨1, 2, 0, 6, 3, 5⟩),
      (0b11011110000000110011001011001011, .vrand ⟨1, 2, 0, 6, 3, 5⟩)] := by decide +kernel

/-- Words of major opcode 10011, written from their rows of the opcode table. -/
theorem test_words_vmask :
    Read [
      (0b11000000011100110011001011001111, .vcmpEq ⟨1, 2, 7, 6, 3, 5⟩),
      (0b11000010011100110011001011001111, .vcmpNe ⟨1, 2, 7, 6, 3, 5⟩),
      (0b11000100011100110011001011001111, .vcmpLt ⟨1, 2, 7, 6, 3, 5⟩),
      (0b11000110011100110011001011001111, .vcmpLe ⟨1, 2, 7, 6, 3, 5⟩),
      (0b11001000011100110011001011001111, .vcmpLtu ⟨1, 2, 7, 6, 3, 5⟩),
      (0b11001010011100110011001011001111, .vcmpLeu ⟨1, 2, 7, 6, 3, 5⟩),
      (0b11001100011100110000001011001111, .mand ⟨1, 2, 7, 6, 0, 5⟩),
      (0b11001110011100110000001011001111, .mor ⟨1, 2, 7, 6, 0, 5⟩),
      (0b11010000011100110000001011001111, .mxor ⟨1, 2, 7, 6, 0, 5⟩),
      (0b11010010000000110000001011001111, .mnot ⟨1, 2, 0, 6, 0, 5⟩),
      (0b11010100000000110011001011001111, .mpop ⟨1, 2, 0, 6, 3, 5⟩),
      (0b11010110000000110011001011001111, .mfirst ⟨1, 2, 0, 6, 3, 5⟩),
      (0b11011000011100110011001011001111, .vredmax ⟨1, 2, 7, 6, 3, 5⟩),
      (0b11011010011100110011001011001111, .vredmin ⟨1, 2, 7, 6, 3, 5⟩),
      (0b11011100011100110011001011001111, .vredamax ⟨1, 2, 7, 6, 3, 5⟩),
      (0b11011110000000110011001011001111, .vargmax ⟨1, 2, 0, 6, 3, 5⟩)] := by decide +kernel

/-- Words of major opcode 10100, written from their rows of the opcode table. -/
theorem test_words_vperm :
    Read [
      (0b11000000011100110011001011010011, .vperm ⟨1, 2, 7, 6, 3, 5⟩),
      (0b11000010011100110011001011010011, .vslideup ⟨1, 2, 7, 6, 3, 5⟩),
      (0b11000100011100110011001011010011, .vslidedn ⟨1, 2, 7, 6, 3, 5⟩),
      (0b11000110000000110011001011010011, .vcompress ⟨1, 2, 0, 6, 3, 5⟩),
      (0b11001000000000110011001011010011, .vexpand ⟨1, 2, 0, 6, 3, 5⟩),
      (0b11001010011100000011001011010011, .vbcast ⟨1, 2, 7, 0, 3, 5⟩),
      (0b11001100011100110000001011010011, .vmovsv ⟨1, 2, 7, 6, 0, 5⟩),
      (0b11001110011100110000001011010011, .vmovvs ⟨1, 2, 7, 6, 0, 5⟩),
      (0b11010000011100110011001011010011, .vgperm ⟨1, 2, 7, 6, 3, 5⟩),
      (0b11010010000000110011001011010011, .vgred ⟨1, 2, 0, 6, 3, 5⟩),
      (0b11010100011100110011001011010011, .vcapp ⟨1, 2, 7, 6, 3, 5⟩)] := by decide +kernel

/-- Words of major opcode 10101, written from their rows of the opcode table. -/
theorem test_words_vmemLocal :
    Read [
      (0b11000000000000110011001011010111, .vld ⟨1, 2, 0, 6, 3, 5⟩),
      (0b11000010011100110011001011010111, .vlds ⟨1, 2, 7, 6, 3, 5⟩),
      (0b11000100011100110011001011010111, .vldx ⟨1, 2, 7, 6, 3, 5⟩),
      (0b01000111100100110011001011010111, .vldC ⟨0, 2, 25, 6, 3, 5⟩),
      (0b11010000000000110011001011010111, .vst ⟨1, 2, 0, 6, 3, 5⟩),
      (0b11010010011100110011001011010111, .vsts ⟨1, 2, 7, 6, 3, 5⟩),
      (0b11010100011100110011001011010111, .vstx ⟨1, 2, 7, 6, 3, 5⟩),
      (0b11010110000000110011001011010111, .vstF ⟨1, 2, 0, 6, 3, 5⟩)] := by decide +kernel

/-- Words of major opcode 10110, written from their rows of the opcode table. -/
theorem test_words_vmemGlobal :
    Read [
      (0b01010010011100110000001011011011, .vldgL ⟨0, 2, 9, 7, 6, 5⟩),
      (0b01010010011100110001001011011011, .vldgxL ⟨0, 2, 9, 7, 6, 5⟩),
      (0b01010010011100110010001011011011, .vldsegL ⟨0, 2, 9, 7, 6, 5⟩),
      (0b11000000011100110100001011011011, .vstg ⟨1, 2, 0, 7, 6, 5⟩),
      (0b11000000011100110110001011011011, .vscatadd ⟨1, 2, 0, 7, 6, 5⟩)] := by decide +kernel

/-- Words of major opcode 10111, written from their rows of the opcode table. -/
theorem test_words_posn :
    Read [
      (0b11000000011100110011001011011111, .pmake ⟨1, 2, 7, 6, 3, 5⟩),
      (0b11000010011100110011001011011111, .ptag ⟨1, 2, 7, 6, 3, 5⟩),
      (0b11000100011100110011001011011111, .psub ⟨1, 2, 7, 6, 3, 5⟩),
      (0b11000110011100110011001011011111, .padd ⟨1, 2, 7, 6, 3, 5⟩),
      (0b11001000011100110011001011011111, .dadd ⟨1, 2, 7, 6, 3, 5⟩),
      (0b11001010011100110011001011011111, .pcvt ⟨1, 2, 7, 6, 3, 5⟩),
      (0b11001100011100110011001011011111, .pdist2 ⟨1, 2, 7, 6, 3, 5⟩),
      (0b11001110011100110011001011011111, .vdmin ⟨1, 2, 7, 6, 3, 5⟩),
      (0b11010000000000110011001011011111, .frhome ⟨1, 2, 0, 6, 3, 5⟩),
      (0b11010010011100110011001011011111, .daddSub ⟨1, 2, 7, 6, 3, 5⟩)] := by decide +kernel

/-- Words of major opcode 11000, written from their rows of the opcode table. -/
theorem test_words_branch :
    Read [
      (0b10110100011100110000011011100011, .beq 6 7 0xda6),
      (0b10110100011100110001011011100011, .bne 6 7 0xda6),
      (0b10110100011100110100011011100011, .blt 6 7 0xda6),
      (0b10110100011100110101011011100011, .bge 6 7 0xda6),
      (0b10110100011100110110011011100011, .bltu 6 7 0xda6),
      (0b10110100011100110111011011100011, .bgeu 6 7 0xda6)] := by decide +kernel

/-- Words of major opcode 11001, written from their rows of the opcode table. -/
theorem test_words_jalr :
    Read [
      (0b10110101101000110000001011100111, .jalr 5 6 0xb5a)] := by decide +kernel

/-- Words of major opcode 11010, written from their rows of the opcode table. -/
theorem test_words_matrix :
    Read [
      (0b11000000011100110000001011101011, .tshape ⟨1, 2, 7, 6, 0, 5⟩),
      (0b11000010000000110000001011101011, .tclaim ⟨1, 2, 0, 6, 0, 5⟩),
      (0b11000100000000110000000001101011, .trelease ⟨1, 2, 0, 6, 0, 0⟩),
      (0b11000110011100110000000111101011, .tload ⟨1, 2, 7, 6, 0, 3⟩),
      (0b11001000000000110000000001101011, .mma ⟨1, 2, 0, 6, 0, 0⟩),
      (0b11001010011100110000000001101011, .mmaS ⟨1, 2, 7, 6, 0, 0⟩),
      (0b11001100000000110000000001101011, .mzero ⟨1, 2, 0, 6, 0, 0⟩),
      (0b11001110000000110011001011101011, .macc2v ⟨1, 2, 0, 6, 3, 5⟩),
      (0b11010000000000110011001011101011, .mv2acc ⟨1, 2, 0, 6, 3, 5⟩),
      (0b11010010011100110000000001101011, .macc2l ⟨1, 2, 7, 6, 0, 0⟩),
      (0b11010100011100110000000001101011, .mamax ⟨1, 2, 7, 6, 0, 0⟩),
      (0b11010110000000110000001011101011, .mmark ⟨1, 2, 0, 6, 0, 5⟩)] := by decide +kernel

/-- Words of major opcode 11011, written from their rows of the opcode table. -/
theorem test_words_jal :
    Read [
      (0b10110101101011010110001011101111, .jal 5 0xeb1ad)] := by decide +kernel

/-- Words of major opcode 11100, written from their rows of the opcode table. -/
theorem test_words_system :
    Read [
      (0b00000000000000000000000001110011, .exit),
      (0b10110101101000110001000001110011, .csrw 0xb5a 6),
      (0b10110101101000110010000001110011, .csrs 0xb5a 6),
      (0b10110101101000110011000001110011, .csrc 0xb5a 6),
      (0b10110101101000000100001011110011, .csrr 5 0xb5a),
      (0b01010010000000000101001011110011, .fork ⟨0, 2, 9, 0, 0, 5⟩),
      (0b01010010000000000110000001110011, .yieldL ⟨0, 2, 9, 0, 0, 0⟩),
      (0b10110101101000000111000001110011, .trap 0xb5a)] := by decide +kernel

/-- Words of major opcode 11101, written from their rows of the opcode table. -/
theorem test_words_engine :
    Read [
      (0b00000000011100110000001011110111, .cpy 5 6 7),
      (0b00000010011100110000001011110111, .stream 5 6 7),
      (0b00000100011100110000001011110111, .xform 5 6 7),
      (0b00000110011100110000000001110111, .publish 6 7),
      (0b00001000011100110000001011110111, .subscr 5 6 7),
      (0b00001010011100110000000001110111, .subrel 6 7),
      (0b00001100000000110000001011110111, .deviceLaunch 5 6),
      (0b01010010011100110001000001110111, .cpywaitL ⟨0, 2, 9, 7, 6, 0⟩),
      (0b01010010000000110010000001110111, .vwaitL ⟨0, 2, 9, 0, 6, 0⟩)] := by decide +kernel

/-- Words of major opcode 11110, written from their rows of the opcode table. -/
theorem test_words_msg :
    Read [
      (0b01011010011100110000001011111011, .msend 5 6 7 45),
      (0b01011010011100110001000001111011, .msendMc 6 7 45),
      (0b00000000011100110010001011111011, .signal 5 6 7),
      (0b01010010011100110011001011111011, .mrecvL ⟨0, 2, 9, 7, 6, 5⟩),
      (0b01010010000000110100000001111011, .qpushL ⟨0, 2, 9, 0, 6, 0⟩)] := by decide +kernel
/-! Ill-formed terms. -/

/-- R290: a term with one unused field set, or a control field out of its range, for each check of well-formedness. -/
theorem test_ill_formed_refused : ([
      .ldgLB ⟨1, 2, 9, 7, 6, 5⟩,
      .ldgLH ⟨1, 2, 9, 7, 6, 5⟩,
      .ldgLW ⟨1, 2, 9, 7, 6, 5⟩,
      .ldgLD ⟨1, 2, 9, 7, 6, 5⟩,
      .ldgLBu ⟨1, 2, 9, 7, 6, 5⟩,
      .ldgLHu ⟨1, 2, 9, 7, 6, 5⟩,
      .ldgLWu ⟨1, 2, 9, 7, 6, 5⟩,
      .waitfL ⟨1, 2, 9, 0, 6, 5⟩,
      .waitfL ⟨0, 2, 9, 1, 6, 5⟩,
      .barwL ⟨1, 2, 9, 0, 6, 5⟩,
      .barwL ⟨0, 2, 9, 1, 6, 5⟩,
      .append ⟨1, 7, 6, 0, 5⟩,
      .append ⟨0, 7, 6, 1, 5⟩,
      .seal ⟨1, 7, 6, 0, 5⟩,
      .seal ⟨0, 7, 6, 1, 5⟩,
      .fork ⟨1, 2, 9, 0, 0, 5⟩,
      .fork ⟨0, 2, 9, 1, 0, 5⟩,
      .fork ⟨0, 2, 9, 0, 1, 5⟩,
      .yieldL ⟨1, 2, 9, 0, 0, 0⟩,
      .yieldL ⟨0, 2, 9, 1, 0, 0⟩,
      .yieldL ⟨0, 2, 9, 0, 1, 0⟩,
      .yieldL ⟨0, 2, 9, 0, 0, 1⟩,
      .mrecvL ⟨1, 2, 9, 7, 6, 5⟩,
      .qpushL ⟨1, 2, 9, 0, 6, 0⟩,
      .qpushL ⟨0, 2, 9, 1, 6, 0⟩,
      .qpushL ⟨0, 2, 9, 0, 6, 1⟩,
      .cpywaitL ⟨1, 2, 9, 7, 6, 0⟩,
      .cpywaitL ⟨0, 2, 9, 7, 6, 1⟩,
      .vwaitL ⟨1, 2, 9, 0, 6, 0⟩,
      .vwaitL ⟨0, 2, 9, 1, 6, 0⟩,
      .vwaitL ⟨0, 2, 9, 0, 6, 1⟩,
      .vsetvl ⟨1, 2, 0, 6, 0, 5⟩,
      .vsetvl ⟨0, 2, 1, 6, 0, 5⟩,
      .vsetvl ⟨0, 2, 0, 6, 1, 5⟩,
      .vsettype ⟨1, 2, 7, 6, 0, 5⟩,
      .vsettype ⟨0, 2, 7, 6, 1, 5⟩,
      .vfsqrt ⟨1, 2, 1, 6, 3, 5⟩,
      .vcvt ⟨1, 2, 2, 6, 3, 5⟩,
      .vquant ⟨1, 2, 8, 6, 0, 5⟩,
      .vquant ⟨1, 2, 6, 6, 1, 5⟩,
      .vdequant ⟨1, 2, 7, 6, 1, 5⟩,
      .vscanO ⟨1, 2, 1, 6, 3, 5⟩,
      .vscanF ⟨1, 2, 1, 6, 3, 5⟩,
      .vrand ⟨1, 2, 1, 6, 3, 5⟩,
      .mand ⟨1, 2, 7, 6, 1, 5⟩,
      .mor ⟨1, 2, 7, 6, 1, 5⟩,
      .mxor ⟨1, 2, 7, 6, 1, 5⟩,
      .mnot ⟨1, 2, 1, 6, 0, 5⟩,
      .mnot ⟨1, 2, 0, 6, 1, 5⟩,
      .mpop ⟨1, 2, 1, 6, 3, 5⟩,
      .mfirst ⟨1, 2, 1, 6, 3, 5⟩,
      .vargmax ⟨1, 2, 1, 6, 3, 5⟩,
      .vcompress ⟨1, 2, 1, 6, 3, 5⟩,
      .vexpand ⟨1, 2, 1, 6, 3, 5⟩,
      .vbcast ⟨1, 2, 7, 1, 3, 5⟩,
      .vmovsv ⟨1, 2, 7, 6, 1, 5⟩,
      .vmovvs ⟨1, 2, 7, 6, 1, 5⟩,
      .vgred ⟨1, 2, 1, 6, 3, 5⟩,
      .vld ⟨1, 2, 1, 6, 3, 5⟩,
      .vldC ⟨1, 2, 25, 6, 3, 5⟩,
      .vst ⟨1, 2, 1, 6, 3, 5⟩,
      .vstF ⟨1, 2, 1, 6, 3, 5⟩,
      .vldgL ⟨1, 2, 9, 7, 6, 5⟩,
      .vldgxL ⟨1, 2, 9, 7, 6, 5⟩,
      .vldsegL ⟨1, 2, 9, 7, 6, 5⟩,
      .vstg ⟨1, 2, 1, 7, 6, 5⟩,
      .vscatadd ⟨1, 2, 1, 7, 6, 5⟩,
      .frhome ⟨1, 2, 1, 6, 3, 5⟩,
      .tshape ⟨1, 2, 7, 6, 1, 5⟩,
      .tclaim ⟨1, 2, 1, 6, 0, 5⟩,
      .tclaim ⟨1, 2, 0, 6, 1, 5⟩,
      .trelease ⟨1, 2, 1, 6, 0, 0⟩,
      .trelease ⟨1, 2, 0, 6, 1, 0⟩,
      .trelease ⟨1, 2, 0, 6, 0, 1⟩,
      .tload ⟨1, 2, 7, 6, 1, 3⟩,
      .mma ⟨1, 2, 1, 6, 0, 0⟩,
      .mma ⟨1, 2, 0, 6, 1, 0⟩,
      .mma ⟨1, 2, 0, 6, 0, 1⟩,
      .mmaS ⟨1, 2, 7, 6, 1, 0⟩,
      .mmaS ⟨1, 2, 7, 6, 0, 1⟩,
      .mzero ⟨1, 2, 1, 6, 0, 0⟩,
      .mzero ⟨1, 2, 0, 6, 1, 0⟩,
      .mzero ⟨1, 2, 0, 6, 0, 1⟩,
      .macc2v ⟨1, 2, 1, 6, 3, 5⟩,
      .mv2acc ⟨1, 2, 1, 6, 3, 5⟩,
      .macc2l ⟨1, 2, 7, 6, 1, 0⟩,
      .macc2l ⟨1, 2, 7, 6, 0, 1⟩,
      .mamax ⟨1, 2, 7, 6, 1, 0⟩,
      .mamax ⟨1, 2, 7, 6, 0, 1⟩,
      .mmark ⟨1, 2, 1, 6, 0, 5⟩,
      .mmark ⟨1, 2, 0, 6, 1, 5⟩] : List Instr).all (fun i => !i.unusedZero) = true := by decide +kernel

/-- R383: a SCOPE of 6 or 7, and an unordered word with a SCOPE. -/
theorem test_scope_refused : scopeOk 5 = true ∧ scopeOk 6 = false ∧ scopeOk 7 = false ∧ AOp.orderOk ⟨0, 2, 3, 1, 5⟩ = false ∧
    AOp.orderOk ⟨0, 2, 3, 0, 5⟩ = true ∧ AOp.orderOk ⟨1, 2, 3, 6, 5⟩ = false := by decide

/-- R290: words that no table defines, by reserved major, f3, f7, FN4 or AOP. -/
theorem test_reserved_refused : [0x00000000, 0xFFFFFFFF, 0x0000007F, 0x00003063, 0x00007013 ||| 0x0000000B].all (fun w => !(decode w).isOk) = true := by
  decide


theorem witness_EncodedWordDecodesBack : ∀ i ∈ [Instr.add 31 0 31, .vadd ⟨1, 3, 31, 31, 7, 31⟩, .exit, .trap 0xFFF],
    i.isWord = true ∧ i.unusedZero = true := by decide +kernel
theorem witness_DecodedWordEncodesBack : decode 0x00700293 = .ok (.addi 5 0 7) := by decide +kernel
theorem witness_WordsDecodeOrAreRefused :
    (0 : BitVec 32).extractLsb' 0 2 ≠ 3#2 ∧ (0xB : BitVec 32).extractLsb' 0 2 = 3#2 ∧ (0xB : BitVec 32).extractLsb' 2 5 = 0b00010#5 ∧
      ([0, 0, 0] : List (BitVec 8)).length < 4 := by decide +kernel
theorem witness_BranchTargets :
    let s := regs sA [(1, 5), (2, 5)];
    s.x 1 = s.x 2 ∧ (s.strand.pc + BitVec.ofInt 64 (2 * (0x800 : BitVec 12).toInt)).toNat % 4 = 0 ∧ ¬ (s.x 1 ≠ s.x 2) := by decide +kernel
theorem witness_JumpsLinkAndGo :
    (sA.strand.pc + BitVec.ofInt 64 (2 * (0x80000 : BitVec 20).toInt)).toNat % 4 = 0 ∧
      ((regs sA [(1, 4)]).x 1 + BitVec.ofInt 64 (0xFFC : BitVec 12).toInt).toNat % 4 = 0 := by decide +kernel
theorem witness_LocalLoadResults :
    ∀ p ∈ [(0x27FFF8, 8), (0x281FFF, 1)], let s := regs sA [(1, BitVec.ofNat 64 p.1)];
      Memory.wf s.core.loc ∧ s.heldHere = false ∧ LocalReadable s (s.x 1 + BitVec.ofInt 64 (0 : BitVec 12).toInt).toNat p.2 ∧
        s.core.locBad p.1 p.2 = false := by decide +kernel
theorem witness_LocalStoreBytes :
    let s := regs sA [(1, 0x280000)]; s.heldHere = false ∧ LocalWritable s (s.x 1 + BitVec.ofInt 64 (0xFF8 : BitVec 12).toInt).toNat 8 := by decide +kernel
theorem witness_ScalarWordsThatTrap :
    let bad := { sA with core := { core0 with locPoison := [0] } };
    sA.heldHere = false ∧ ¬ LocalReadable sA 0x280000 1 ∧ (LocalReadable bad 15 1 ∧ bad.core.locBad 15 1 = true) ∧ ¬ LocalWritable sA 0x27FFFF 2 ∧
      sA.strand.cv.live = false ∧ (sA.x 1 = sA.x 2 ∧ (sA.strand.pc + BitVec.ofInt 64 (2 * (1 : BitVec 12).toInt)).toNat % 4 ≠ 0) ∧
      (let t := regs sA [(2, 1)]; t.x 1 ≠ t.x 2 ∧ (t.x 1).toInt < (t.x 2).toInt ∧ (t.x 1).toInt ≤ (t.x 2).toInt ∧ (t.x 1).toNat < (t.x 2).toNat) ∧
      (sA.strand.pc + BitVec.ofInt 64 (2 * (1 : BitVec 20).toInt)).toNat % 4 ≠ 0 ∧ (sA.x 1 + BitVec.ofInt 64 (2 : BitVec 12).toInt).toNat % 4 ≠ 0 := by
  decide +kernel
theorem witness_ControlRegisterReads :
    sA.core.mat.all (fun m => m.cell != sA.strand.cell) = true ∧ sA.withdrawn sA.here sA.strand.cell = [] ∧
      ∀ idx ∈ [(0x009 : BitVec 12), 0x00F, 0x015, 0x023, 0x02F, 0x042, 0x0FF, 0x106, 0xFFF],
        ¬ (idx.toNat ≤ 0x008 ∨ (0x010 ≤ idx.toNat ∧ idx.toNat ≤ 0x014) ∨ (0x020 ≤ idx.toNat ∧ idx.toNat ≤ 0x022) ∨
          (0x030 ≤ idx.toNat ∧ idx.toNat ≤ 0x03F) ∨ idx.toNat = 0x040 ∨ idx.toNat = 0x041 ∨ (0x100 ≤ idx.toNat ∧ idx.toNat ≤ 0x105)) := by decide +kernel
theorem witness_ControlRegisterWrites :
    0x100 ≤ (0x100 : BitVec 12).toNat ∧ (0x0FF : BitVec 12).toNat < 0x100 ∧ ¬ ((0x0FF : BitVec 12).toNat ≤ 0x008 ∨
      (0x0FF : BitVec 12).toNat ≤ 0x041) := by decide +kernel
theorem witness_ScalarTrapSavesTheStrand :
    let r := sA.trapRecord sA.strand.pc { TrapBlock.none with cause := 1, scalar := true, fpc := sA.strand.pc, faddr := 0 } []
    sA.core.ctx = some 0 ∧ tget sA.contexts 0 = some ctx0 ∧ sA.core.mat.all (fun m => m.slot != some sA.slot) = true ∧
      FitsTrap sA r ∧ RingRoom sA ctx0 (ceilDiv r.length 64) := by decide +kernel
theorem witness_ConvoyTrapKeepsTheQueue :
    let s := sV 0x47 1 2
    let r := s.discard.trapRecord s.strand.pc { TrapBlock.none with fpc := 0x1000 } [{ s.strand.cv.entry with started := true }];
    s.strand.cv.live = true ∧ TrapBlock.none.async = false ∧ s.core.ctx = some 0 ∧ tget s.contexts 0 = some ctx0 ∧
      s.core.mat.all (fun m => m.slot != some s.slot) = true ∧ s.spent s.myStep = false ∧ FitsTrap s.discard r ∧
      RingRoom s ctx0 (ceilDiv r.length 64) := by decide +kernel
theorem witness_RestartTakesUpTheRecord :
    ((sA.blankRecord .leave 0).kind = .leave ∧ (sA.blankRecord .leave 0).smask.getLsbD 3 = false) ∧ (sA.blankRecord .fault 0).kind = .fault ∧
      (sA.fullRecord .fault 0 TrapBlock.none [ConvoyEntry.empty]).convoys ≠ [] ∧ (sA.fullRecord .fault 0 TrapBlock.none []).smask.getLsbD 3 = true := by
  decide +kernel
theorem witness_ForkDepositsTheChild :
    let o : LOp := ⟨0, 0, 0, 0, 0, 5⟩; (withStrands 64).heldHere = false ∧ (withStrands 64).storesOut = false ∧ o.hint ≠ 3 ∧ 64 ≤ (withStrands 64).myStep.strands ∧
      (withStrands 63).myStep.strands < 64 ∧ (withStrands 63).acting = true ∧ FreshDeposit (withStrands 63).core ∧
      FitsMooring (withStrands 63) ((withStrands 63).forkRecord o) := by decide +kernel
theorem witness_YieldLeavesReady :
    let o : LOp := ⟨0, 0, 15, 0, 0, 0⟩; sA.heldHere = false ∧ o.hint ≠ 3 ∧ sA.acting = true ∧ FreshDeposit sA.core ∧ tget sA.core.slots sA.slot = none ∧
      FitsMooring sA (sA.leaveRecord o.ls.toNat none [] 0 (sA.strand.pc + 4)) := by decide +kernel
theorem witness_ExitEndsTheStrand :
    ∀ n ∈ [1, 2], (withStrands n).heldHere = false ∧ (withStrands n).acting = true ∧ tget (withStrands n).core.slots (withStrands n).slot = none ∧
      ((withStrands n).myStep.strands ≤ 1 ∨ 1 < (withStrands n).myStep.strands) := by decide +kernel
theorem witness_DepositNumbersStayFresh :
    (∀ d, Numbered (sA.getCore d)) ∧ (sA.deposit 0 (sA.blankRecord .leave 0)).isSome = true ∧
      (sA.depositAs 0 (sA.blankRecord .leave 0) (provisional 3)).isSome = true ∧ core0.dseq < 2 ^ 48 := by
  refine ⟨fun d => ?_, by decide +kernel⟩
  show ∀ r ∈ (if true = true ∧ 0 = d then core0 else Core.reset).records, _
  split <;> exact fun r h => absurd h List.not_mem_nil

theorem witness_GlobalStoreBytes :
    let s := regs sG [(1, 0x1FFF8), (2, 0xFFF8)];
    sG.heldHere = false ∧ s.acting = true ∧ (s.x 1 + BitVec.ofInt 64 (0 : BitVec 12).toInt).toNat = 0x1FFF8 ∧
      found s .store 0x1FFF8 8 = .ok [.here 0x1FFF8 8 0 256 0x10000] ∧ inMemory 0x1FFF8 8 = true ∧ s.portDown 0x1FFF8 = false ∧
      (∀ g ∈ sectorsOf 0x1FFF8 8, g ∉ s.poison) ∧ found (sT 0x10013) .store 0x10000 8 = .prot 0x11 0x10000 := by decide +kernel
theorem witness_ScalarGlobalLoadsLeave :
    let s := regs sG [(1, 0x1FFF8)]; let o : LOp := ⟨0, 0, 15, 0, 1, 31⟩;
    (s.x o.rs1 + s.x o.rs2).toNat = 0x1FFF8 ∧ 0x1FFF8 % 0x10000 + 8 ≤ 0x10000 ∧ o.hint ≠ 3 ∧ s.heldHere = false ∧ s.acting = true ∧
      FreshDeposit s.core ∧ tget s.core.slots s.slot = none ∧ found s .load 0x1FFF8 8 = .ok [.here 0x1FFF8 8 0 256 0x10000] ∧
      FitsMooring s (s.leaveRecord o.ls.toNat (some o.rd) [] 0 (s.strand.pc + 4)) := by decide +kernel
theorem witness_HomesPerformAndAnswer :
    let e : LoadElem := ⟨0x10000, 8, 0, 0, 0⟩
    let r := waiting (.load ⟨[e], some (5, true), 0x1000⟩)
    let s := holding sG r
    let s1 := { s with inp := { s.inp with queue := e.key } }
    let s2 := { s1 with inp := { s1.inp with ok := true, bytes := [1, 2, 3, 4, 5, 6, 7, 0x88] } }
    let withHeld (h : HeldRel) : State := { sG with core := { sG.core with heldRels := [h] } }
    ((s1.getCore 0).ctx = some 0 ∧ (s1.getCore 0).record 0 = some r ∧ [e].find? (fun x => x.key == s1.inp.queue) = some e ∧
      (s1.findAs 0 r.trap.asid .load 0x10000 8).2 = .ok [.here 0x10000 8 0 256 0x10000] ∧ s1.bad 0x10000 8 = false) ∧
    (s2.inp.ok = true ∧ s2.inp.bytes.length = e.size ∧ e.size ∈ [1, 2, 4, 8] ∧ r.ready = false ∧ r.regs.xs[5] = 0 ∧ e.at_ = 0) ∧
    (∀ p ∈ [(true, 0x27FFF8), (false, 0x10000)], let h := held0 p.1 p.2
      ((withHeld h).getCore 0).heldRels = [h] ∧ (withHeld h).outstanding 0 h.cell = false) ∧
    (((withHeld (held0 false 0x10000)).modCore 0 (fun k => { k with heldRels := [] })).find 0 .store 0x10000 8).2 =
      .ok [.here 0x10000 8 0 256 0x10000] ∧
    (inMemory 0xBFFFF5FFF8 8 = true ∧ sA.portDown 0xBFFFF5FFF8 = false ∧ ∀ g ∈ sectorsOf 0xBFFFF5FFF8 8, g ∉ sA.poison) := by decide +kernel

theorem witness_FencesAndAcquires :
    let s := regs sG [(1, 0x27FFF8), (2, 0x10000), (3, 0x10001)];
    (s.heldHere = false ∧ s.outstanding s.here s.strand.cell = false ∧ (1 : BitVec 2) ≠ 0 ∧ (5 : BitVec 3).toNat ≤ 5) ∧ 5 < (6 : BitVec 3).toNat ∧
      (LocalWritable s 0x27FFF8 8 ∧ s.core.locBad 0x27FFF8 8 = false ∧ Memory.wf s.core.loc) ∧
      (found s .load 0x10000 8 = .ok [.here 0x10000 8 0 256 0x10000] ∧ s.bad 0x10000 8 = false ∧ Memory.wf s.mem ∧ s.acting = true) ∧
      (s.x 1).toNat % 8 = 0 ∧ (s.x 3).toNat % 2 ^ (1 : BitVec 2).toNat ≠ 0 ∧
      (s.core.heldRels.filter (fun q => q.seqB == slotIsB s.slot)).length < 8 ∧
      found s .store 0x10000 8 = .ok [.here 0x10000 8 0 256 0x10000] := by decide +kernel
theorem witness_BindTable :
    let s := regs sG [(1, 0x10000), (2, 0x8000000000000000), (3, 1), (4, 0x10000), (5, 0x100000000), (6, 0x100000001), (7, 0x8000000000000004)];
    let b (i : Nat) : Bind := ⟨64 * i, 64, true, 0⟩
    (s.x 3).toNat ≠ 0 ∧ (s.x 5).toNat ≤ 2 ^ 32 ∧ ((s.x 2).toNat % 2 ^ 22) % 8 = 0 ∧ LocalWritable s 0 8 ∧ s.acting = true ∧
      found s .object 0x10000 8 = .ok [.here 0x10000 8 0 256 0x10000] ∧ (s.x 0).toNat = 0 ∧ 2 ^ 32 < (s.x 6).toNat ∧
      ((s.x 7).toNat % 2 ^ 22) % 8 ≠ 0 ∧ s.core.bindBad = false ∧ ({ s.core with bindBad := true } : Core).bindBad = true ∧ s.core.binds.contains (b 0) = false ∧ s.core.binds.length < 32 ∧ [b 0].contains (b 0) = true ∧
      32 ≤ ((List.range 32).map b).length ∧ ((List.range 32).map b).contains (b 32) = false := by decide +kernel
theorem witness_FuturesResolveOnce :
    let fut (st : Nat) (s : State) : State := (s.poke 0x10000 8 (futWord st 0 0)).poke 0x10008 8 7
    let s (st : Nat) := fut st { holding sG (waiting (.future 0x10000 5 0x1000)) with
      inp := { Input.none with core := 0, slot := 0, n := 0, addr := 0x10000, ok := true } }
    let u (st : Nat) := regs (fut st sG) [(1, 0x10000), (2, 7)]
    (∀ st ∈ [0, 1, 2, 3], Memory.wf (s st).mem ∧ (s st).bad 0x10000 16 = false ∧ ((s st).getCore 0).ctx = some 0 ∧
      ((s st).getCore 0).record 0 = some (waiting (.future 0x10000 5 0x1000)) ∧ futSt ((s st).peek 0x10000 8) = st ∧ (s st).inp.ok = true) ∧
    ({ s 0 with poison := [0x1000] } : State).bad 0x10000 16 = true ∧
    ∀ st ∈ [0, 2], (u st).acting = true ∧ (u st).heldHere = false ∧ (u st).storesOut = false ∧ Memory.wf (u st).mem ∧ (u st).bad 0x10000 16 = false ∧
      found (u st) .object 0x10000 16 = .ok [.here 0x10000 16 0 256 0x10000] ∧ futSt ((u st).peek 0x10000 8) = st := by decide +kernel
theorem witness_WaitersOfFutures :
    let o : LOp := ⟨0, 0, 15, 0, 1, 5⟩
    let s := regs sG [(1, 0x1FFF0)]
    let r := waiting (.future 0x10000 5 0x1000)
    let w : State := { holding sG r with strand := { strand0 with wait := .registration sG.fabric.node 0 } }
    (o.hint ≠ 3 ∧ s.heldHere = false ∧ s.acting = true ∧ FreshDeposit s.core ∧ (s.x o.rs1).toNat % 16 = 0 ∧
      found s .object 0x1FFF0 16 = .ok [.here 0x1FFF0 16 0 256 0x10000] ∧
      FitsMooring s (s.leaveRecord o.ls.toNat (some o.rd) [] 0 (s.strand.pc + 4))) ∧
    ((w.getCore 0).ctx = some 0 ∧ (w.getCore 0).record 0 = some r ∧
      (w.park.getCore 0).waitingSlot (.registration w.fabric.node 0) = some w.slot) ∧ r.ready = false := by decide +kernel
theorem witness_BarriersCompleteOnce :
    let bar (w : Nat) (s : State) : State := { s with core := { s.core with loc := mstore s.core.loc 0x27FFF8 (bytesOf 8 w) } }
    let s (w : Nat) := bar w (regs sA [(1, 0x27FFE0), (2, 0)])
    let o : LOp := ⟨0, 0, 15, 0, 1, 5⟩
    (∀ w ∈ [0, 2 ^ 62, 2 ^ 63], Memory.wf (s w).core.loc ∧ (s w).heldHere = false ∧ (s w).storesOut = false ∧ LocalWritable (s w) 0x27FFE0 32 ∧
      (s w).core.locBad 0x27FFE0 32 = false ∧ ((s w).x 1).toNat = 0x27FFE0 ∧ bytesValue (s w).core.loc 0x27FFF8 8 = w) ∧
    (s 0).acting = true ∧ FreshDeposit (s 0).core ∧ tget (s 0).core.slots (s 0).slot = none ∧ o.hint ≠ 3 ∧
      FitsMooring (s 0) ((s 0).leaveRecord o.ls.toNat (some o.rd) [] 0 ((s 0).strand.pc + 4)) := by decide +kernel

theorem witness_AtomicResults :
    let s := regs sG [(1, 0x1FFF8), (2, 1), (3, 0x1FFF9)];
    ∀ o ∈ [(⟨0, 2, 1, 0, 5⟩ : AOp), ⟨3, 2, 1, 5, 31⟩], (if o.ord = 0 then o.scope = 0 else o.scope.toNat ≤ 5) ∧ s.heldHere = false ∧
      s.outstanding s.here s.strand.cell = false ∧ s.acting = true ∧ Memory.wf s.mem ∧ s.bad 0x1FFF8 8 = false ∧ (s.x o.rs1).toNat = 0x1FFF8 ∧
      (∀ n ∈ [1, 2, 4, 8], 0x1FFF8 % n = 0 ∧ found s .atomic 0x1FFF8 n = .ok [.here 0x1FFF8 n 0 256 0x10000]) ∧ (s.x 3).toNat % 2 ≠ 0 := by decide +kernel
/-- The core also holds a page of append units at 0x20000, one of them with a tail, a state and written sectors. -/
def sU (st : UnitSt) (tail : Nat) (written : List Nat) : State :=
  let s := regs { sG with core := { sG.core with tlb := [⟨1, 0x10000, 0x10000, 0x10073⟩, ⟨1, 0x20000, 0x10000, 0x20037⟩] } } [(1, 0x20000), (2, 0x10000), (3, 240), (4, 257)]
  { s with units := [(0x20000, { AppUnit.fresh 256 with tail := tail, st := st, written := written, sealAt := tail })] }
theorem witness_AppendAndSeal :
    (∀ p ∈ [(UnitSt.opened, 0, []), (.opened, 16, [0]), (.opened, 16, []), (.opened, 32, []), (.closing, 16, [])], let s := sU p.1 p.2.1 p.2.2
      s.heldHere = false ∧ s.outstanding s.here s.strand.cell = false ∧ s.acting = true ∧ s.portDown 0x20000 = false ∧
        found s .append 0x20000 1 = .ok [.here 0x20000 1 1 256 0x20000] ∧ (s.unit 0x20000 256).st = p.1 ∧ (s.unit 0x20000 256).futs = [] ∧
        found s .object 0x10000 16 = .ok [.here 0x10000 16 0 256 0x10000] ∧ (s.x 2).toNat % 16 = 0 ∧
        ((s.x 3).toNat ≠ 0 ∧ (s.x 3).toNat ≤ 256) ∧ 256 < (s.x 4).toNat ∧
        (256 < (s.unit 0x20000 256).tail + ((s.x 3).toNat + 15) / 16 * 16 ↔ 16 < p.2.1) ∧
        ((List.range (p.2.1 / 16)).all (fun i => p.2.2.contains i) = true ↔ p.2.1 / 16 = p.2.2.length)) ∧
    (let s := sU .sealed 16 [0];
      (s.unit 0x20000 256).st = .sealed ∧ s.portDown 0x20000 = false ∧ found s .append 0x20000 1 = .ok [.here 0x20000 1 1 256 0x20000] ∧ s.acting = true ∧
        found s .object 0x10000 16 = .ok [.here 0x10000 16 0 256 0x10000] ∧ Memory.wf s.mem ∧ s.bad 0x10000 16 = false ∧ futSt (s.peek 0x10000 8) < 2) ∧
    (let s : State := { sU .opened 0 [] with core := { (sU .opened 0 []).core with home := [(0, { first := 0, count := 1, node := 1 })] } };
      found s .append 0x20000 1 = .ok [.peer 1 0x20000 1] ∧ s.fabric.unacked 1 < 4096 ∧ tget s.core.answers (answerKey s.slot) = none ∧
        s.peerWrites s.here s.strand.cell 1 0x20000 8 = false ∧ s.heldHere = false ∧ s.outstanding s.here s.strand.cell = false ∧ s.acting = true) := by
  refine ⟨?_, ?_, ?_⟩ <;> decide +kernel

theorem witness_SignalsAndSends :
    ∀ c ∈ [0, 511], ∀ tail ∈ [0, 1, 2],
      let s0 := regs sA [(1, BitVec.ofNat 64 (c * 2 ^ 22 + 0x1000)), (2, 0x27FFC0), (3, 2 ^ 44), (4, 0x80000000), (5, 0x27FFC8)]
      let s := s0.modCore c (fun _ => withQueue core0 tail)
      let dead := s0.modCore c (fun _ => { core0 with cstate := .inReset })
      let k := s.getCore c
      s.heldHere = false ∧ s.storesOut = false ∧ s.acting = true ∧ (s.x 1).toNat < 2 ^ 44 ∧ (s.x 1).toNat / 2 ^ 31 = s.fabric.node ∧
        (s.x 1).toNat / 2 ^ 22 % 2 ^ 9 = c ∧ (s.x 1).toNat % 2 ^ 22 = 0x1000 ∧ s.core.asid ≠ 0 ∧ k.asid = s.core.asid ∧ k.ctx.isSome = true ∧
        s.asleep c = false ∧ k.cstate ≠ .inReset ∧ Memory.wf k.loc ∧ k.barOk 0x1000 = true ∧ (dead.getCore c).cstate = .inReset ∧
        dead.dieSleep.contains (dieOf c) = false ∧
        LocalReadable s 0x27FFC0 64 ∧ s.core.locBad 0x27FFC0 64 = false ∧ Memory.wf s.core.loc ∧ (s.x 2).toNat % 16 = 0 ∧
        k.qhdr 0x1000 = some ⟨0x2000, 64, 2, 0, tail, 0⟩ ∧ QHdr.used ⟨0x2000, 64, 2, 0, tail, 0⟩ = tail ∧
        2 ^ 44 ≤ (s.x 3).toNat ∧ (s.x 5).toNat % 16 ≠ 0 ∧ ((s.x 4).toNat < 2 ^ 44 ∧ (s.x 4).toNat / 2 ^ 31 ≠ s.fabric.node) ∧
        tget s.core.answers (answerKey s.slot) = none ∧ s.fabric.unacked 1 < 4096 := by decide +kernel
theorem witness_MulticastReceiveAndPush :
    let o : LOp := ⟨0, 0, 15, 2, 1, 5⟩
    let s := regs sA [(1, 0x1000), (2, 0x27FFC0), (3, 0x280001), (4, 5 * 2 ^ 31), (6, 6 * 2 ^ 31)]
    let g : State := { s with fabric := { s.fabric with groups := [(5, [1])], links := [(0, link0)] } }
    let q (tail : Nat) : State := { s with core := withQueue s.core tail }
    let push (es : List QEntry) : State :=
      launched (regs { sA with core := { core0 with steps := [(0, { Step.fresh with live := true })] } } [(1, 0x27FFC0)])
        [⟨[], 0, [], []⟩, ⟨es, 0, [], []⟩]
    let last : State := launched { sA with core := { core0 with steps := [(0, { Step.fresh with live := true, stage := 1 })] } } []
    (g.heldHere = false ∧ g.storesOut = false ∧ LocalReadable g 0x27FFC0 64 ∧ g.core.locBad 0x27FFC0 64 = false ∧ Memory.wf g.core.loc ∧ (∀ m ∈ [1], g.fabric.reaches m = true) ∧
      (∀ r ∈ [4, 6], (g.x r).toNat < 2 ^ 39) ∧ (tget g.fabric.groups ((g.x 4).toNat / 2 ^ 31)).getD [] ≠ [] ∧
      ((tget g.fabric.groups ((g.x 4).toNat / 2 ^ 31)).getD []).contains g.fabric.node = false ∧
      (tget g.fabric.groups ((g.x 6).toNat / 2 ^ 31)).getD [] = []) ∧
    (o.hint ≠ 3 ∧ LocalWritable s 0x1000 64 ∧ s.core.qhdr 0x1000 = none) ∧
    (∀ tail ∈ [0, 2], (q tail).acting = true ∧ (q tail).heldHere = false ∧ (q tail).core.qhdr 0x1000 = some ⟨0x2000, 64, 2, 0, tail, 0⟩ ∧ LocalWritable (q tail) 0x27FFC0 64 ∧
      (q tail).core.locBad 0x1000 64 = false ∧ Memory.wf (q tail).core.loc ∧ (q tail).core.locBad 0x2000 64 = false ∧
      FreshDeposit (q tail).core ∧ tget (q tail).core.slots (q tail).slot = none ∧
      FitsMooring (q tail) ((q tail).leaveRecord o.ls.toNat (some o.rd) [] 0 ((q tail).strand.pc + 4))) ∧
    (s.x 3).toNat % 16 ≠ 0 ∧
    (∀ es ∈ [[], [QEntry.mk 0 0 0 false]], (push es).heldHere = false ∧ (push es).storesOut = false ∧ (push es).acting = true ∧ LocalReadable (push es) 0x27FFC0 48 ∧
      (push es).core.locBad 0x27FFC0 48 = false ∧ (push es).launchOf (push es).myStep = some (launch0 [⟨[], 0, [], []⟩, ⟨es, 0, [], []⟩]) ∧
      (launch0 [⟨[], 0, [], []⟩, ⟨es, 0, [], []⟩]).full 1 = !es.isEmpty ∧ FreshDeposit (push es).core ∧
      tget (push es).core.slots (push es).slot = none ∧
      FitsMooring (push es) ((push es).leaveRecord o.ls.toNat none [] 0 ((push es).strand.pc + 4))) ∧
    (last.launchOf last.myStep = some (launch0 []) ∧ (launch0 []).stages.length ≤ last.myStep.stage + 1) ∧
    let w : State := { sA with strand := { strand0 with wait := .packet 1 9 }, inp := { Input.none with core := 0, slot := 0, queue := 1, n := 9, ok := true } }
    (w.getCore 0).ctx = some 0 ∧ (w.park.getCore 0).waitingSlot (.packet 1 9) = some w.slot ∧ w.inp.bytes = [] := by decide +kernel

theorem witness_ConvoyRetires :
    (sV 0x47 1 2).strand.cv.entry.words.length ≤ (sV 0x47 1 2).strand.cv.k + 1 ∧
      let s : State := { sA with strand := { strand0 with cv := { Convoy.closed with live := true, entry := { ConvoyEntry.empty with words := [0x47, 0x47] } } } };
      s.strand.cv.k + 1 < s.strand.cv.entry.words.length := by decide +kernel
theorem witness_VectorLengthIsSet :
    (⟨0, 0, 0, 2, 1, 5⟩ : VOp).hint ≠ 3 ∧ (⟨0, 3, 0, 2, 1, 5⟩ : VOp).hint = 3 ∧
      ((0x700202#64 &&& ~~~0x731F1F#64) = 0#64 ∧ codeOk ((0x700202#64).toNat % 32) = true ∧ codeOk ((0x700202#64).toNat / 256 % 32) = true ∧ 0x700202 / 2 ^ 16 % 4 ≠ 3) ∧
      (0x20#64 &&& ~~~0x731F1F#64) ≠ 0#64 ∧ codeOk 4 = false ∧ codeOk 0x1F = false ∧ 0x30000 / 2 ^ 16 % 4 = 3 := by decide +kernel
/-- The operands v1, v2 and vd v3 under mask m1. -/
def vop : VOp := ⟨0, 0, 1, 2, 1, 3⟩
theorem witness_VectorIntegerResults :
    let s := launched { sV 0x47 16384 0 with core := { core0 with steps := [(0, { Step.fresh with live := true })] } } []
    (∀ i ∈ [Instr.vadd, .vsub, .vmul, .vmulh, .vmulhu, .vand, .vor, .vxor, .vsll, .vsrl, .vsra, .vmin, .vmax, .vsadd, .vssub, .vaddi],
      ∀ p ∈ [(0, 4096), (0x303, 512)], WordRuns (sV 0x47 p.2 (BitVec.ofNat 64 p.1)) (i vop)) ∧
    WordRuns (sV 0x47 4096 0x201) (.vadd vop) = False ∧ WordRuns (sV 0x47 1 0x102) (.vadd vop) ∧
    (let t := { s with strand := (sV 0x47 1 0x303).strand }; WordRuns t (.vrand vop) ∧ t.launchOf t.myStep = some (launch0 [])) := by
  refine ⟨by decide +kernel, eq_false (by decide +kernel), by decide +kernel, by decide +kernel⟩
theorem witness_VectorFloatResults :
    (∀ i ∈ [Instr.vfadd, .vfsub, .vfmul, .vfma], WordRuns (sV 0x47 1 0xA0C) (i vop)) ∧
    (∀ i ∈ [Instr.vfadd, .vfsub, .vfmul, .vfma, .vfdiv, .vfsqrt, .vfmin, .vfmax], WordRuns (sV 0x47 512 0xD0D) (i vop)) ∧
      WordRuns (sV 0x47 4096 0xD08) (.vcvt ⟨0, 0, 1, 1, 1, 3⟩) ∧ WordRuns (sV 0x47 2048 0x100A) (.vdequant vop) := by decide +kernel
theorem witness_BlockQuantisation :
    WordRuns (sV 0x47 8192 0x20C10) (.vquant ⟨0, 0, 4, 1, 0, 30⟩) ∧ 8192 ≤ 8192 ∧
      ((3 : Nat) < 4 ∧ (62 : Nat) < 63 ∧ (15 : Nat) < 16 ∧ ((3 : Nat) ≠ 0 → ((15 : Nat) / 8 = 1 ↔ true = true)) ∧ (-3 : Int) ≤ 27 - (62 - 32)) ∧
      (f4Code 0 32 false 1 0).2 = [] := by decide +kernel
theorem witness_VectorMaskResults :
    let m : VOp := ⟨0, 0, 1, 2, 1, 7⟩
    (∀ i ∈ [Instr.vcmpEq, .vcmpNe, .vcmpLt, .vcmpLe, .vcmpLtu, .vcmpLeu], WordRuns (sV 0x47 4096 0) (i m) ∧ isInt (sV 0x47 4096 0).sew = true) ∧
    (∀ i ∈ [Instr.vcmpEq, .vcmpNe, .vcmpLt, .vcmpLe], WordRuns (sV 0x47 512 0xD0D) (i m) ∧ isInt (sV 0x47 512 0xD0D).sew = false) ∧
    (∀ i ∈ [Instr.mand, .mor, .mxor, .mnot, .mpop, .mfirst], ∀ vl ∈ [0, 8192], WordRuns (sV 0x47 vl 0x1010) (i m)) ∧
    (sV 0x47 8192 0x1010).vl ≤ 16384 ∧ (sV 0x47 8192 0x1010).vl ≠ 0 ∧ (sV 0x47 0 0x1010).vl = 0 := by decide +kernel
theorem witness_VectorReductions :
    (∀ i ∈ [Instr.vredsumO, .vredsumU, .vscanO, .vscanF, .vredmax, .vredmin, .vargmax], WordRuns (sV 0x47 4096 0) (i vop) ∧
      isInt (sV 0x47 4096 0).sew = true ∧ WordRuns (sV 0x47 1 0xB0B) (i vop) ∧ isInt (sV 0x47 1 0xB0B).sew = false) ∧
    WordRuns (sV 0x47 1 0xB0B) (.vredamax vop) ∧ (sV 0x47 4096 0).vl ≠ 0 ∧ (sV 0x47 1 0xB0B).vl ≠ 0 ∧
    (sV 0x47 1 0xB0B).active 1 = [] ∧ (sV 0x47 1 0).active 0 = [0] := by decide +kernel
theorem witness_VectorPermutations :
    ∀ vl ∈ [0, 1, 512], (∀ i ∈ [Instr.vperm, .vgperm, .vslideup, .vslidedn, .vcompress, .vexpand, .vbcast, .vmovsv, .vmovvs, .vgred, .vredsumO,
      .vredsumU, .vscanO, .vscanF, .vredmax, .vredmin, .vargmax], WordRuns (sV 0x47 vl 0x303) (i vop)) ∧
      WordRuns (sV 0x47 vl 0xD0D) (.vredamax vop) ∧ (sV 0x47 vl 0x303).vl = vl := by decide +kernel
theorem cores_empty (vtype a c : Nat) : ((sL vtype a).getCore c).loc = [] ∧ ((sL vtype a).getCore c).granuleWaits = [] := by
  show (if true = true ∧ 0 = c then core0 else Core.reset).loc = [] ∧ (if true = true ∧ 0 = c then core0 else Core.reset).granuleWaits = []
  split <;> exact ⟨rfl, rfl⟩
theorem witness_LocalVectorAccess :
    let o : VOp := ⟨0, 0, 2, 1, 0, 3⟩
    (∀ a ∈ [0, 0x27FFFF], (sL 0 a).acting = true ∧ (∀ b ∈ (sL 0 a).core.board, b.cell ≠ (sL 0 a).strand.cell) ∧
      (sL 0 a).activeFrom (sL 0 a).startAt o.msel = [0] ∧ (∀ i ∈ [Instr.vld, .vlds, .vldx, .vst, .vsts, .vstx, .vstF], WordRuns (sL 0 a) (i o)) ∧
      (∀ m ∈ [AMode.unit, .strided, .indexed ((sL 0 a).v o.vs2.toNat)], (sL 0 a).localPlace m 0 = (false, a) ∧
        ∀ b ∈ [true, false], (sL 0 a).core.localOk b a 1 = true ∧ (sL 0 a).core.locBad a 1 = false)) ∧
    (∀ m ∈ [AMode.unit, .strided, .indexed ((sL 0 0).v o.vs2.toNat)], ∀ b ∈ [true, false],
      (sL 0 0x280000).localBad m b ((sL 0 0x280000).activeFrom (sL 0 0x280000).startAt o.msel) = some 0x280000) := by decide +kernel

theorem witness_ConsumingLoadsAndAppends :
    let o : VOp := ⟨0, 0, 0, 1, 0, 3⟩
    let s : State := { sL 0 0x27FFFF with core := { core0 with full := [0x27FFF] } }
    let h (count : Nat) : State := { sL 0x202 0x1000 with core := { core0 with loc := mstore [] 0x1000 (bytesOf 4 count ++ bytesOf 4 1 ++ bytesOf 4 0x27FFFC) } }
    (s.acting = true ∧ (∀ b ∈ s.core.board, b.cell ≠ s.strand.cell) ∧ WordRuns s (.vldC o) ∧ 8 ≤ widthOf s.sew ∧ s.activeFrom s.startAt o.msel = [0] ∧
      s.localPlace .unit 0 = (false, 0x27FFFF) ∧ s.core.localOk false 0x27FFFF 1 = true ∧ granulesOf 0x27FFFF 1 = [0x27FFF] ∧
      0x27FFF ∈ s.core.full ∧ 0x27FFF ∉ s.core.locPoison ∧ (∀ v ∈ s.strand.regs.vs.toList, v.bits = 0 ∧ v.tag = 0)) ∧
    ∀ count ∈ [0, 1], (h count).vl ≠ 0 ∧ (∀ b ∈ (h count).core.board, b.cell ≠ (h count).strand.cell) ∧ Memory.wf (h count).core.loc ∧
      WordRuns (h count) (.vcapp o) ∧ (h count).capA = 0x1000 ∧ LocalWritable (h count) 0x1000 16 ∧ LocalWritable (h count) 0x27FFFC 4 ∧
      (h count).core.locBad 0x1000 16 = false ∧ bytesValue (h count).core.loc 0x1000 4 = count ∧ bytesValue (h count).core.loc 0x1004 4 = 1 ∧
      bytesValue (h count).core.loc 0x1008 4 = 0x27FFFC ∧ bytesValue (h count).core.loc 0x100C 4 = 0 ∧ (h count).active o.msel = [0] := by
  decide +kernel
/-- A page that the core in hand holds, and how an address in it meets `HeldPage`. -/
theorem held_page (s : State) (acc : Access) (a n : Nat)
    (h : a + n ≤ 2 ^ 57 ∧ a % 0x10000 + n ≤ 0x10000 ∧ s.core.homeNode s.fabric.node a = s.fabric.node ∧
      s.core.tlb.find? (fun t => t.asid == s.core.asid.toNat && decide (t.base ≤ a) && decide (a < t.base + t.size)) =
        some ⟨1, 0x10000, 0x10000, 0x10073⟩ ∧ admits acc 0x10073 = true) : HeldPage s acc a n (0x10000 + a % 0x10000) :=
  ⟨h.1, h.2.1, h.2.2.1, _, h.2.2.2.1, h.2.2.2.2, by decide +kernel, by rw [show leafAddr 0x10073 = 0x10000 by decide +kernel]; simp⟩
theorem witness_GlobalVectorLoads :
    let o : LOp := ⟨0, 0, 15, 2, 1, 30⟩
    let s (d : Nat) := sC sG 0 0x1FFFE d
    let t0 := (s 2).clearStart.wordDone
    let r0 := t0.leaveRecord o.ls.toNat none [30, 31] 1 t0.strand.pc
    ((s 2).acting = true ∧ (s 2).core.gboard = [] ∧ tget (s 2).core.slots (s 2).slot = none ∧ FreshDeposit (s 2).core ∧
      (s 2).strand.cv.entry.words.length ≤ (s 2).strand.cv.k + 1 ∧ (s 2).activeFrom (s 2).startAt (s 2).lmsel = [0] ∧
      (∀ i ∈ [Instr.vldgL, .vldgxL, .vldsegL], WordRuns (s 2) (i o)) ∧ FitsMooring t0 r0 ∧ (s 2).capB.toNat % 16 = 2) ∧
    (∀ a ∈ [0x1FFFE, 0x1FFFF], HeldPage (s 2) .load a 1 (0x10000 + a % 0x10000)) ∧
    ∀ d ∈ [0x1000000000002, 0x4002, 0x12, 1, 9, 3], (s d).capB.toNat = d ∧
      (d / 2 ^ 48 ≠ 0 ∨ d / 2 ^ 14 % 4 ≠ 0 ∨ d / 2 ^ 4 % 16 ≠ 0 ∨ d % 16 < 2 ∨ 8 < d % 16 ∨ 32 < 30 + d % 16) := by
  refine ⟨by decide +kernel, fun a ha => held_page _ _ _ _ ?_, by decide +kernel⟩
  rcases List.mem_cons.1 ha with rfl | ha
  · decide +kernel
  · rw [List.mem_singleton.1 ha]; decide +kernel
theorem witness_GlobalVectorStores :
    let o : LOp := ⟨0, 0, 0, 2, 1, 3⟩
    let s (a : Nat) := sC sG 0x202 a 4
    (∀ a ∈ [0x1FFFC, 0x10001], (s a).acting = true ∧ (s a).core.gboard = [] ∧ (s a).activeFrom (s a).startAt (s a).lmsel = [0] ∧ WordRuns (s a) (.vstg o) ∧
      WordRuns (s a) (.vscatadd o) ∧ (s a).capA.toNat = a ∧ indexOf (s a).sew (elemOf ((s a).v o.rs2.toNat) 0 32) = 0 ∧ Memory.wf (s a).mem ∧
      (s a).bad a 4 = false) ∧
    (HeldPage (s 0x1FFFC) .store 0x1FFFC 4 0x1FFFC ∧ HeldPage (s 0x1FFFC) .reduce 0x1FFFC 4 0x1FFFC) ∧ 0x10001 % 4 ≠ 0 := by
  exact ⟨by decide +kernel, ⟨held_page _ _ 0x1FFFC _ (by decide +kernel), held_page _ _ 0x1FFFC _ (by decide +kernel)⟩, by decide⟩

/-- A frame table of two nodes in the page at 0x10000: a root, and a child of it of generation 5, displaced by 1. The first elements of v1 and
v2 are positions at the origin with two tags. -/
def sF (vtype x y b : Nat) : State :=
  let s := sC { sG with core := { sG.core with tlb := [⟨1, anchorVa, 0x10000, 0x10073⟩] } } vtype 0 b
  let node (parent depth gen flags t : Nat) : List Byte :=
    bytesOf 4 parent ++ bytesOf 1 depth ++ bytesOf 1 0 ++ bytesOf 1 gen ++ bytesOf 1 flags ++ bytesOf 16 (2 ^ 30) ++ bytesOf 24 t ++ bytesOf 16 0
  let m := mstore [] 0x10000 (bytesOf 16 (anchorVa + 64) ++ bytesOf 16 1 ++ bytesOf 32 2 ++ node 0 0 0 3 0 ++ node 0 1 5 1 1)
  let v (t : Nat) : VReg := { bits := BitVec.ofNat 65536 (2 ^ 96 * t), tag := 16 }
  { s with mem := m, strand := { s.strand with regs := { s.strand.regs with vs := (s.strand.regs.vs.set 1 (v x)).set 2 (v y) } } }
def anF : Anchor := { front := anchorVa + 64, nnode := 2 }
def curF (s : State) (t : Nat) : Bool := (s.current 0 (s.anchor 0) t).toOption.isSome
def convF (s : State) (x : Pos) (a ga b gb : Nat) : Bool := (s.convertPos 0 anF x a ga b gb).toOption.isSome
theorem witness_PositionResults :
    let o : VOp := ⟨0, 0, 2, 1, 0, 3⟩
    let s := sF 0x1818 0x80000105 0x80000000 0
    let p := sF 0x1818 0x00000105 0x00000000 0
    let m := sF 0x1818 0x80000105 0x00000000 0
    let far := sF 0x1818 0x80000200 0x80000000 0
    let root := sF 0x1818 0x80000000 0x80000000 0
    (∀ u ∈ [s, p, m, far, root], u.anchor 0 = .ok anF ∧ u.active o.msel = [0] ∧
      ∀ i ∈ [Instr.psub, .padd, .dadd, .daddSub, .pdist2, .pcvt, .frhome, .pmake, .ptag], WordRuns u (i o)) ∧
    (tagDisp (s.pos o.vs1 0).tag = true ∧ tagDisp (s.pos o.vs2 0).tag = true ∧ curF s (s.pos o.vs1 0).tag = true ∧
      curF s (s.pos o.vs2 0).tag = true ∧ convF s (s.pos o.vs2 0) 0 0 1 5 = true) ∧
    (tagDisp (m.pos o.vs1 0).tag = true ∧ tagDisp (m.pos o.vs2 0).tag = false ∧ tagDisp (p.pos o.vs1 0).tag = false) ∧
    (anF.nnode ≤ tagNode (far.pos o.vs1 0).tag ∧ tagDisp (far.pos o.vs1 0).tag = true ∧ tagDisp (far.pos o.vs2 0).tag = true) ∧
    (tagDisp (p.pos o.vs1 0).tag = false ∧ tagDisp (p.pos o.vs2 0).tag = false ∧ curF p (p.pos o.vs1 0).tag = true ∧
      curF p (p.pos o.vs2 0).tag = true ∧ convF p (p.pos o.vs2 0) 0 0 1 5 = true) ∧
    (curF p (p.capB.toNat % 2 ^ 32) = true ∧ convF p (p.pos o.vs1 0) 1 5 0 0 = true) ∧
    ((s.node 0 anF 1).toOption.map (fun n => (n.valid, n.gen, n.root, n.parent)) = some (true, 5, false, 0) ∧
      (root.node 0 anF 0).toOption.map (fun n => (n.valid, n.gen, n.root)) = some (true, 0, true)) ∧
    WordRuns (sF 0x303 0 0 0) (.vdmin o) ∧ ((s.soundNode 0 anF 1).toOption.isSome = true) := by decide +kernel

/-- A step whose tile is 128 x 512 x 16, with every slot and band claimed, and tagged slots 0 and 31. -/
def sM (s : State) (fmt vtype a b : Nat) : State :=
  let st : Step := { Step.fresh with live := true, slots := BitVec.allOnes 32, bands := BitVec.allOnes 8, tm := 128, tn := 512, tk := 16 }
  let blk := if fmt = 0x10 then 16 else 0;
  let tags : Table SlotTag := [(0, ⟨fmt, blk, 0, 128, 16, 0⟩), (31, ⟨fmt, blk, 1, 512, 16, 31⟩)]
  let desc (base : Nat) : List Byte := bytesOf 8 base ++ bytesOf 4 0 ++ bytesOf 4 128 ++ bytesOf 4 16 ++ bytesOf 4 16
  sC { s with core := { s.core with steps := [(0, st)], tags := tags, loc := mstore (mstore [] 0x1000 (desc (2 ^ 63 + 0x2000))) 0x1100 (desc 0x10000) } } vtype a b
theorem witness_MatrixWordsAct :
    let o : VOp := ⟨0, 0, 2, 1, 0, 31⟩
    let s := sM sG 0 0
    let ready (s : State) (i : Instr) : Bool := (s.defect i).isNone && decide (s.core.mat.length < 8)
    let f4 : State := let u := sM sG 0x10 0x1010 992 0;
      { u with strand := { u.strand with cv := { u.strand.cv with entry := { u.strand.cv.entry with vl := 2048 } } } }
    let marked : State := let u := s 0 0;
      { u with strand := { u.strand with cv := { u.strand.cv with entry := { u.strand.cv.entry with marks := [⟨1, 0, [], none⟩] } } } }
    let desc (a : Nat) : Option TDesc := tdescOf (fun off k => mload (s a 0).core.loc (a + off) k)
    (s 0 0).core.gboard = [] ∧ (s 0 0).core.accBad = [] ∧
    (∀ i ∈ [Instr.trelease, .tload, .mma, .mzero, .mmark], ready (s 0 0) (i o) = true) ∧ 2 ^ 40 - 1 < 2 ^ 40 ∧
    (∀ a ∈ [0x1000, 0x1100], LocalWritable (s a 0) a 32 ∧ overlapIn (s a 0).core.board 0 a (a + 31) false = none ∧ (s a 0).mark = none ∧
      (s a 0).core.locBad a 32 = false ∧ (s a 0).myStep.hasSlots 31 (tileSlots 0 16 128 16) = true ∧ 31 + tileSlots 0 16 128 16 ≤ 32 ∧
      (desc a).map (fun d => (d.loc, mmaFmt d.fmt, d.isF4)) = some (decide (a = 0x1000), true, false)) ∧
    (∀ d ∈ (desc 0x1000).toList, (∀ r ∈ d.ranges (d.tileRows 0 128) 0 16, LocalWritable (s 0 0) r.1 r.2) ∧ d.tileCols 0 16 = 16 ∧
      (s 0 0).core.board = []) ∧
    (∀ d ∈ (desc 0x1100).toList, ((s 0 0).checkRanges 0 .load false (d.ranges (d.tileRows 0 128) 0 16)).2 = none) ∧
    (∀ u ∈ [s 992 0, f4], let c := u.capA
      let blk := if u.sew = 0x10 then vtBlk u.vtype else 0;
      ctlBad c 128 512 = false ∧ mmaPair u.sew u.sew2 = true ∧ u.core.runIs (ctlA c) u.sew blk 0 128 16 = true ∧
      u.core.runIs (ctlB c) u.sew2 blk 1 512 16 = true ∧ u.myStep.hasSlots (ctlA c) (tileSlots u.sew (max blk 1) 128 16) = true ∧
      u.myStep.hasSlots (ctlB c) (tileSlots u.sew2 (max blk 1) 512 16) = true ∧ u.myStep.hasBands (ctlRow c) 128 = true) ∧
    (ready f4 (.mmaS o) = true ∧ f4.sew = 0x10 ∧ 16 % vtBlk f4.vtype = 0 ∧ f4.vl = 128 * 16) ∧
    (let u := sM sG 0 0xC0C 0 0x240000;
      ready u (.macc2l o) = true ∧ cellFmt u.sew = true ∧ ctlPitch u.capA = 0 ∧ LocalWritable u 0x240000 (127 * 2048 + 512 * 4) ∧
      overlapIn u.core.board 0 0x240000 0x27FFFF true = none ∧ u.core.board.length + 1 ≤ 64) ∧
    (let u := sM sG 0 0xC0C 0 0x10000;
      ready u (.mamax o) = true ∧ u.sew = 0x0C ∧ found u .reduce 0x10000 4 = .ok [.here 0x10000 4 0 256 0x10000]) ∧
    ((s 0 0).mark = none ∧ marked.mark = some ⟨1, 0, [], none⟩ ∧ ready marked (.mmark o) = true) ∧
    (WordRuns (s 0xFFFFFFFF 0xFFFFFFFF) (.tshape o) ∧ WordRuns (s 0xFFFFFFFFFF 0) (.tclaim o) ∧ (s 0 0).core.mat = [] ∧
      (s 0 0).withdrawn 0 0 = [] ∧ (s 0 0).fabric.out = [] ∧ (s 0xFFFFFFFF 0xFFFFFFFF).capA.toNat < 2 ^ 32) ∧
    (let u := sM sG 0 0x202 (127 * 2 ^ 16 + 511 * 2 ^ 32) 0;
      ctlRow u.capA * 512 + ctlCol u.capA = 65535 ∧ u.vl = 1 ∧ ctlReserved u.capA = false ∧ u.sew = 2 ∧ WordRuns u (.macc2v o) ∧
      WordRuns u (.mv2acc o) ∧ u.myStep.hasBands 127 1 = true) := by
  refine ⟨?_, ?_, ?_, ?_, ?_, ?_, ?_, ?_, ?_, ?_, ?_, ?_, ?_, ?_⟩ <;> decide +kernel
/-- A matrix command of one cell and one k-step, of a word. -/
def mc (w : BitVec 32) : MatCmd where
  word := w
  cell := 0
  slot := none
  io := EngineIo.none
  cpc := 0x1000
  caps := [992, 0]
  vl := 1
  vtype := 0
  convoy := 0
  order := 0
  tdesc := none
  fut := none
  tm := 1
  tn := 1
  tk := 1
  scales := []
  marker := 1
  drain := none
  mkstep := 0
  mrow := 0
theorem witness_MatrixCommandsPerform :
    let o : VOp := ⟨0, 0, 0, 1, 0, 0⟩
    let r : Record := waiting (.marker 1)
    ∀ i ∈ [Instr.mzero o, .mma o, .mmaS o, .trelease o, .mmark o],
      let s := holding { sA with core := { core0 with mat := [mc (encode i)], steps := [(0, { Step.fresh with live := true })] } } r
      s.park.nextMat 0 = some (mc (encode i)) ∧ decode (encode i) = .ok i ∧ (mc (encode i)).sew = 0 ∧ (mc (encode i)).sew2 = 0 ∧
        ctlBad (mc (encode i)).ctl 1 1 = false ∧ (s.park.getCore 0).opPoison = [] ∧ (mc (encode i)).slot = none ∧ (s.park.getCore 0).accBad = [] ∧
        ((s.park.getCore 0).step 0).live = true ∧ ((s.park.getCore 0).records.map (·.dseq)).Nodup ∧ r ∈ (s.park.getCore 0).records ∧ r.cell = 0 := by
  decide +kernel

/-! Checks that pass, whatever follows. -/
theorem passes_local (s : State) (a n : Nat) (hn : n ≠ 0) (h1 : s.core.localOk false a n = true)
    (h2 : overlapIn s.core.board s.strand.cell a (a + n - 1) false = none) (h3 : s.core.locBad a n = false) :
    ∀ f, s.engineRead true a n f = f s (mload s.core.loc a n) := by
  intro f; simp [State.engineRead, hn, h1, h2, h3]
theorem passes_nothing (s : State) (loc : Bool) (a : Nat) : ∀ f, s.engineRead loc a 0 f = f s 0 := fun _ => rfl
theorem passes_tdesc (s : State) (loc : Bool) (a v : Nat) (d : TDesc) (ha : a % 8 = 0) (hr : ∀ f, s.engineRead loc a 32 f = f s v)
    (hd : tdescOf (fieldAt v) = some d) : ∀ f, s.engineTdesc loc a f = f s d := by
  intro f; simp [State.engineTdesc, ha, hr, hd]
theorem passes_ranges (s : State) (a : Access) (rs : List (Nat × Nat)) (h : rs.find? (fun r => !s.core.localOk false r.1 r.2) = none) :
    ∀ f, s.engineRanges true a rs f = f s := by
  intro f; simp [State.engineRanges, h]
theorem passes_region (s : State) (rs : List (Nat × Nat × Bool)) (h : s.core.board = []) : ∀ f, s.withRegion rs f = f s := by
  intro f; simp [State.withRegion, overlapIn, h, List.findSome?_eq_none_iff.2]
theorem passes_globals (s : State) (rs : List (Nat × Nat × Bool)) (h : s.core.gboard = []) (ho : s.fabric.out = []) :
    ∀ f, s.withGlobals rs f = f s := by
  intro f; simp [State.withGlobals, State.rangeWrites, overlapIn, h, ho, List.findSome?_eq_none_iff.2]
/-- A copy block at 0x1000, whose source is named at 0x1100 and destination at 0x1120, both in local memory; or a drain into the latter. -/
def sY (kind : Nat) (fmt : Nat) : State :=
  let u := sM sA 0 0 (2 ^ 63 + 0x1000) 15
  let desc (base rows cols : Nat) : List Byte := bytesOf 8 (2 ^ 63 + base) ++ bytesOf 4 fmt ++ bytesOf 4 rows ++ bytesOf 4 cols ++ bytesOf 12 cols
  let block := bytesOf 8 kind ++ bytesOf 8 (if kind = 3 then 0 else 0x1100) ++ bytesOf 48 0x1120
  { u with core := { u.core with loc := mstore (mstore [] 0x1000 block) 0x1100 (desc 0x2000 128 4 ++ desc 0x240000 128 512) } }
def vY (kind fmt : Nat) : Nat := mload (sY kind fmt).core.loc 0x1000 64
def dY (fmt rows cols base : Nat) : TDesc :=
  { loc := true, base := base, fmt := fmt, nib := 0, blkc := 0, rows := rows, cols := cols, pitch := cols, sbase := 0 }
theorem witness_EngineWordsIssue :
    (let s := sY 0 2; let v := vY 0 2; let src := dY 2 128 4 0x2000; let d := dY 2 128 512 0x240000
      s.defect (.cpy 1 2 3) = none ∧ (∀ f, s.engineRead true 0x1000 64 f = f s v) ∧
      (fieldAt v 0 1 = 0 ∧ fieldAt v 1 1 = 0 ∧ fieldAt v 2 6 = 0 ∧ fieldAt v 56 8 = 0 ∧ fieldAt v 24 8 = 0 ∧ fieldAt v 32 8 = 0 ∧
        fieldAt v 8 8 = 0x1100 ∧ fieldAt v 16 8 = 0x1120 ∧ s.capA.toNat = 2 ^ 63 + 0x1000 ∧ s.capB.toNat = 15) ∧
      (∀ f, s.engineTdesc true 0x1100 f = f s src) ∧ (∀ f, s.engineTdescs true 0x1120 1 f = f s [d]) ∧ copyFits 0 src [d] = true ∧
      (∀ f, s.engineRead true 0 0 f = f s 0) ∧ (∀ f, s.withShadow false 0 0 src [d] f = f s none [d]) ∧
      (∀ f, s.engineRanges true .load (srcRanges 0 src []) f = f s) ∧ (∀ f, s.engineRanges true .store (destRanges 0 src d) f = f s) ∧
      (∀ f, s.engineFut false 0 f = f s none) ∧ (∀ rs f, s.withRegion rs f = f s) ∧ (∀ rs f, s.withGlobals rs f = f s) ∧ (s.core.onChannel 15).length < 64 ∧
      (∀ f, s.countPend none f = f s)) ∧
    (let s := sY 3 0x0C; let v := vY 3 0x0C; let src := dY 0x0C 128 512 0x240000
      s.defect (.cpy 1 2 3) = none ∧ (∀ f, s.engineRead true 0x1000 64 f = f s v) ∧ fieldAt v 0 1 = 3 ∧ fieldAt v 8 8 = 0 ∧
      fieldAt v 16 8 = 0x1120 ∧ (∀ f, s.engineTdesc true 0x1120 f = f s src) ∧ cellFmt src.fmt = true ∧ ctlBad 0 src.rows src.cols = false ∧
      s.myStep.hasBands 0 src.rows = true ∧ (∀ f, s.engineRanges true .load (srcRanges 3 src []) f = f s) ∧
      (∀ f, s.engineRanges true .store (destRanges 3 src src) f = f s) ∧ s.core.mat.length < 8) ∧
    (let v := bytesOf 8 0x10000 ++ bytesOf 4 65536 ++ bytesOf 4 1 ++ bytesOf 8 0 ++ bytesOf 4 1 ++ bytesOf 12 0 ++ bytesOf 4 0x270000 ++ bytesOf 4 0xFFFFFFFF
      let u := sL 0 0x1000
      let s : State := { u with core := { u.core with loc := mstore [] 0x1000 v } }
      let f (off n : Nat) : Nat := fieldAt (mload s.core.loc 0x1000 64) off n
      s.defect (.stream 1 2 3) = none ∧ LocalWritable s 0x1000 64 ∧ s.core.board = [] ∧ s.core.gboard = [] ∧ s.core.locBad 0x1000 64 = false ∧
        (f 8 4 = 65536 ∧ f 12 4 = 1 ∧ f 24 4 = 1 ∧ f 28 4 = 0 ∧ f 56 8 = 0 ∧ f 40 4 = 0x270000 ∧ f 44 4 = 0xFFFFFFFF ∧ f 48 8 = 0) ∧
        LocalWritable s 0x270000 65536 ∧ (s.core.streams.filter (fun j => j.port == 1)).length < 4 ∧ s.capA.toNat = 0x1000 ∧ s.capB.toNat = 1) ∧
    (∀ sb ∈ [0x10000, 0x40001, 0x0202, 0x20013, 0x40024], let s := sC sA 0 0x27F000 sb
      let w := 2 ^ bitsN sb 5 4
      let n := if bitsN sb 3 0 = 2 then bitsN sb 15 8 * bitsN sb 15 8 * w else bitsN sb 28 16
      s.defect (.xform 1 2 3) = none ∧ s.capA.toNat = 0x27F000 ∧ s.capB.toNat = sb ∧ n ≠ 0 ∧ n % w = 0 ∧
        0x27F000 / 4096 = (0x27F000 + n - 1) / 4096 ∧ LocalWritable s 0x27F000 n ∧ s.core.board = [] ∧ bitsN sb 7 6 = 0 ∧ bitsN sb 31 29 = 0) ∧
    (let s := sC sG 0 0x1FFE0 0
      let p := sC { sG with core := { sG.core with home := [(0, { first := 0, count := 1, node := 1 })] } } 0 0x1FFE0 0
      s.defect (.publish 1 2) = none ∧ s.heldHere = false ∧ s.storesOut = false ∧ p.fabric.unacked 1 < 4096 ∧ found s .object 0x1FFE0 32 = .ok [.here 0x1FFE0 32 0 256 0x10000] ∧
        found p .object 0x1FFE0 32 = .ok [.peer 1 0x1FFE0 32] ∧ s.capB.toNat = 0) := by
  refine ⟨⟨by decide +kernel, passes_local _ _ _ (by decide) (by decide +kernel) (by decide +kernel) (by decide +kernel), by decide +kernel,
      passes_tdesc _ _ _ _ _ (by decide) (passes_local _ _ _ (by decide) (by decide +kernel) (by decide +kernel) (by decide +kernel)) (by decide +kernel),
      ?_, by decide +kernel, passes_nothing _ _ _, fun _ => rfl, passes_ranges _ _ _ (by decide +kernel), passes_ranges _ _ _ (by decide +kernel),
      fun _ => rfl, fun _ => passes_region _ _ (by decide +kernel), fun _ => passes_globals _ _ (by decide +kernel) (by decide +kernel), by decide +kernel, fun _ => rfl⟩,
    ⟨by decide +kernel, passes_local _ _ _ (by decide) (by decide +kernel) (by decide +kernel) (by decide +kernel), by decide +kernel, by decide +kernel,
      by decide +kernel,
      passes_tdesc _ _ _ _ _ (by decide) (passes_local _ _ _ (by decide) (by decide +kernel) (by decide +kernel) (by decide +kernel)) (by decide +kernel),
      by decide +kernel, by decide +kernel, by decide +kernel, passes_ranges _ _ _ (by decide +kernel), passes_ranges _ _ _ (by decide +kernel),
      by decide +kernel⟩, by decide +kernel, by decide +kernel, by decide +kernel⟩
  intro f
  exact passes_tdesc _ _ _ _ _ (by decide) (passes_local _ _ _ (by decide) (by decide +kernel) (by decide +kernel) (by decide +kernel)) (by decide +kernel) _

theorem passes_tdesc' (s t : State) (loc : Bool) (a v : Nat) (d : TDesc) (ha : a % 8 = 0) (hr : ∀ f, s.engineRead loc a 32 f = f t v)
    (hd : tdescOf (fieldAt v) = some d) : ∀ f, s.engineTdesc loc a f = f t d := by
  intro f; simp [State.engineTdesc, ha, hr, hd]
theorem passes_page (s : State) (a n pa u pg : Nat) (hn : n ≠ 0) (hf : s.find s.here .load a n = (s, .ok [.here pa n 0 u pg]))
    (hg : s.core.gboard = []) (ho : s.fabric.out = []) (ha : s.heldAnswer = none) (hb : (s.countRead pa n).bad pa n = false) :
    ∀ f, s.engineRead false a n f = f (s.countRead pa n) (mload s.mem pa n) := by
  intro f
  have hm : (s.countRead pa n).mem = s.mem := rfl
  simp [State.engineRead, hn, hf, State.withGlobals, State.rangeWrites, overlapIn, hg, ho, State.claimBytes, ha, unfetched, State.countPieces,
    State.countPiece, State.readEngine, State.readBy, Piece.farParts, Piece.size, State.readPiece, State.readPhys, hb, hm]
theorem passes_global (s : State) (acc : Access) (a n : Nat) (ps : List Piece) (hf : s.find s.here acc a n = (s, .ok ps)) :
    ∀ f, s.engineRanges false acc [(a, n)] f = f s := by
  intro f; simp [State.engineRanges, State.checkRanges, hf]
/-- A subscription of one row of 16 bytes, of a tensor whose descriptor lies at 0x10000, with two slots. -/
def sub0 (pull : Bool) : Subscription where
  tdesc := 0x10000
  ring := 0x2000
  nslots := 2
  pull := pull
  slotb := 16
  trows := 1
  tcols := 16
  bar := 0xFFFFFFFF
/-- A step of a launch with the subscription, whose ring's slots are in two states; the word has captured two scalars. -/
def sR (pull : Bool) (x y : RingSt) (a b : Nat) : State :=
  let u := sC sG 0 a b
  let slot (x : RingSt) : RingSlot := { st := x, row0 := 0, col0 := 0, marked := false, tdesc := none, io := EngineIo.none, pc := 0, cell := 0 }
  let desc : List Byte := bytesOf 8 0x18000 ++ bytesOf 4 0 ++ bytesOf 4 1 ++ bytesOf 4 16 ++ bytesOf 12 16
  State.modHarbour
    { u with
      mem := mstore [] 0x10000 desc
      core := { u.core with
        steps := [(0, { Step.fresh with live := true })]
        rings := [{ launch := 0, stage := 0, sub := 0, slots := [slot x, slot y], pending := [] }] } } 0
    (fun h => { h with launches := [(0, { launch0 [] with stages := [{ Stage.none with subs := [sub0 pull] }] })] })
def dR : TDesc := { loc := false, base := 0x18000, fmt := 0, nib := 0, blkc := 0, rows := 1, cols := 16, pitch := 16, sbase := 0 }
theorem passes_tile (s t : State) (p : Bool) (acc : Access) (hr : ∀ f, s.engineTdesc false 0x10000 f = f t dR)
    (hf : t.find t.here acc 0x18000 16 = (t, .ok [.here 0x18000 16 0 256 0x10000])) : ∀ f, s.withTile (sub0 p) 0 0 acc f = f t dR := by
  intro f
  have h : tileRanges dR (sub0 p) 0 0 = [(0x18000, 16)] := by cases p <;> decide +kernel
  have h2 : ¬ (dR.loc = true ∨ (sub0 p).slotb < (sub0 p).trows * (sub0 p).rowGranules dR.w * 16) := by cases p <;> decide +kernel
  show s.engineTdesc false 0x10000 _ = _
  rw [hr, if_neg h2, h]
  exact passes_global t acc _ _ _ hf _
/-- What reading the tensor descriptor at 0x10000 leaves. -/
def afterDesc (s : State) : State := s.countRead 0x10000 32
/-- A launch record at 0x10000 for a context and dies, and the harbourmaster's queue holding `n` entries. -/
def sH (ctx dies n : Nat) : State :=
  State.modHarbour { sC sG 0 0x10000 0 with mem := mstore [] 0x1000A (bytesOf 2 (ctx * 256 + dies)) } 0
    (fun h => { h with submit := List.replicate n (0x10000, false, none) })
theorem witness_StreamsAndLaunchesIssue :
    (∀ b ∈ [true, false], ∀ p ∈ [(RingSt.free, RingSt.free), (.ready, .free), (.filling, .ready)], let s := sR b p.1 p.2 0 0
      let st := s.myStep
      s.defect (.subscr 1 2 3) = none ∧ s.defect (.subrel 2 3) = none ∧ s.capA.toNat = 0 ∧
        (s.stageOf st).subs[0]? = some (sub0 b) ∧ (s.core.ring st.launch st.stage 0 (sub0 b)).slots.map (·.st) = [p.1, p.2]) ∧
    ((sR true .free .free 1 0).stageOf (sR true .free .free 1 0).myStep).subs[1]? = none ∧
    (∀ f, (sR false .free .free 0 0).withTile (sub0 false) 0 0 .load f = f (afterDesc (sR false .free .free 0 0)) dR) ∧
    (∀ f, (sR true .filling .ready 0 0).withTile (sub0 true) 0 0 .store f = f (afterDesc (sR true .filling .ready 0 0)) dR) ∧
    (∀ p ∈ [(0, 1, 0), (0, 0, 0), (1, 1, 0), (0, 2, 0), (0, 1, 63), (0, 1, 64)], let s := sH p.1 p.2.1 p.2.2
      s.defect (.deviceLaunch 1 2) = none ∧ s.heldHere = false ∧ s.storesOut = false ∧ s.capA.toNat = 0x10000 ∧ s.bad 0x1000A 2 = false ∧
        found s .load 0x10000 512 = .ok [.here 0x10000 512 0 256 0x10000] ∧ mload s.mem 0x1000A 2 / 256 = p.1 ∧ mload s.mem 0x1000A 2 % 256 = p.2.1 ∧
        s.core.ctx = some 0 ∧ dieOf s.here = 0 ∧ (s.harbour 0).submit.length = p.2.2) ∧
    (let o : LOp := ⟨0, 0, 15, 2, 1, 5⟩
      let st : Step := { Step.fresh with live := true, mmark := 3, mpassed := 1, nextId := Vector.replicate 16 3, chdone := Vector.replicate 16 1 }
      ∀ p ∈ [(0, 15), (1, 15), (2, 15), (3, 15), (1, 16), (3 * 2 ^ 60, 0)],
        let s := regs { sA with core := { core0 with steps := [(0, st)] } } [(1, BitVec.ofNat 64 p.1), (2, BitVec.ofNat 64 p.2)]
        o.hint ≠ 3 ∧ s.heldHere = false ∧ (s.x o.rs1).toNat = p.1 ∧ (s.x o.rs2).toNat = p.2 ∧ s.myStep = st ∧ s.acting = true ∧
          FreshDeposit s.core ∧ tget s.core.slots s.slot = none ∧ FitsMooring s (s.leaveRecord o.ls.toNat none [] 0 (s.strand.pc + 4))) := by
  refine ⟨by decide +kernel, by decide +kernel, ?_, ?_, by decide +kernel, by decide +kernel⟩
  · exact passes_tile _ _ _ _ (passes_tdesc' _ _ _ _ _ _ (by decide) (passes_page _ _ _ _ _ _ (by decide) (by decide +kernel : _ = ((_ : State), Found.ok [.here 0x10000 32 0 256 0x10000]))
      (by decide +kernel) (by decide +kernel) (by decide +kernel) (by decide +kernel)) (by decide +kernel)) (by decide +kernel)
  · exact passes_tile _ _ _ _ (passes_tdesc' _ _ _ _ _ _ (by decide) (passes_page _ _ _ _ _ _ (by decide) (by decide +kernel : _ = ((_ : State), Found.ok [.here 0x10000 32 0 256 0x10000]))
      (by decide +kernel) (by decide +kernel) (by decide +kernel) (by decide +kernel)) (by decide +kernel)) (by decide +kernel)

theorem witness_EngineJobsFinish :
    let i (sl q n a : Nat) : Input := { Input.none with core := 0, slot := sl, queue := q, n := n, addr := a }
    let st : Step := { Step.fresh with live := true, smark := 2, xmark := 2 }
    let core : Core := { core0 with steps := [(0, st)] }
    (let j : CopyJob := { cell := 0, chan := 15, id := 1, pc := 0, asid := 1, kind := 0, src := dY 2 2 1 0x2000, ctl := 0, dsts := [dY 2 2 2 0x27FFF0]
                          aux := 0, auxLoc := true, shadow := none, fut := none, bar := none, cells := [], rows := [], io := EngineIo.none }
      let s : State := { sA with core := { core with copies := [j] }, inp := i 0 15 1 0 }
      let k := s.park.getCore 0
      k.granuleWaits = [] ∧ Memory.wf k.loc ∧ Memory.wf s.mem ∧ k.copies.find? (fun x => x.cell == 0 && x.chan == 15 && x.id == 1) = some j ∧
        widthOf 2 % 8 = 0 ∧ s.park.engineBusy 0 0 (15 * 2 ^ 48 + 1) = false ∧ (∀ r, r < 2 → k.locBad (0x2000 + r * 4) 4 = false)) ∧
    (let j : StreamJob := { cell := 0, port := 1, num := 1, pc := 0, asid := 1, src := 0x1FFFF, run := 1, cnt1 := 1, stride1 := 0, cnt2 := 1, stride2 := 0
                            dst := 0x27FFFF, bar := none, fut := none, io := EngineIo.none }
      let s : State := { sG with core := { core with tlb := sG.core.tlb, streams := [j] }, inp := i 0 1 0 0 }
      let t := (s.park.streamPages 0 j j.runs).1
      j.runs = [0x1FFFF] ∧ (s.park.getCore 0).streams.find? (fun x => x.port == 1) = some j ∧ s.park.engineBusy 0 0 (2 ^ 60 + 1) = false ∧
        s.park.engineWait (s.park.portRef 0 j) = none ∧
        (s.park.streamPages 0 j j.runs).2 = none ∧ t.peerNeeds 0 1 j.io.got (j.runs.map (fun a => (a, 1))) = [] ∧
        (t.getCore 0).loc = (s.park.getCore 0).loc ∧ (t.getCore 0).granuleWaits = [] ∧
        (t.readBytes 0 1 j.io.got false 0x1FFFF 1).toOption = some 0 ∧ ((t.getCore 0).step 0).live = true ∧
        (tget (t.getCore 0).steps 0).isSome = true ∧ (∀ x ∈ (t.getCore 0).streams, x.num = 1)) ∧
    (∀ ctl ∈ [0x10000, 0x40001, 0x0202, 0x20013, 0x40024], let j : XformJob := { cell := 0, num := 1, pc := 0, addr := 0x27F000, ctl := ctl }
      let s : State := { sA with core := { core with xforms := [j] }, inp := i 0 0 1 0 }
      let k := s.park.getCore 0
      k.xforms.find? (fun x => x.cell == 0 && x.num == 1) = some j ∧ bitsN ctl 3 0 ≤ 4 ∧
        (bitsN ctl 3 0 ≠ 2 → bitsN ctl 28 16 % 2 ^ bitsN ctl 5 4 = 0) ∧ k.locBad 0x27F000 8 = false ∧ (k.step 0).live = true ∧
        (tget k.steps 0).isSome = true ∧ (∀ x ∈ k.xforms, x.num = 1)) ∧
    (let j : PublishJob := { pa := 0x30000, asid := 1, fut := none, core := 0, cell := 0, pc := 0 }
      let v : List Byte := bytesOf 8 0x10000 ++ bytesOf 8 0x20000 ++ bytesOf 4 1
      let s : State := { sA with mem := mstore tables 0x30000 v, publishes := [j], inp := i 0 0 0 0x30000 }
      let sh := shadowOf (mload s.mem 0x30000 32)
      s.park.publishes.find? (fun p => p.pa == 0x30000) = some j ∧
        s.park.shadowLeaves 0 1 sh (mload s.mem 0x30000 32) = some [(0x402008, 0x402010)] ∧ s.bad 0x30000 32 = false ∧ sh.pend = 0 ∧ s.park.holdsAsid 1 = none ∧ Memory.wf s.mem ∧
        [0x402008, 0x402010].Pairwise (fun x y => x + 8 ≤ y ∨ y + 8 ≤ x) ∧ (∀ x ∈ [0x402008, 0x402010], x + 8 ≤ 0x30000 ∨ 0x30000 + 32 ≤ x)) ∧
    (∀ p ∈ [(false, RingSt.filling), (true, .draining)],
      let x : RingSlot := { st := p.2, row0 := 0, col0 := 0, marked := true, tdesc := some dR, io := { EngineIo.none with written := p.1 }, pc := 0, cell := 0 }
      let u := sR p.1 .free .free 0 0
      let s : State := { u with
        core := { u.core with rings := [{ launch := 0, stage := 0, sub := 0, slots := [x], pending := [0] }] }, inp := i 0 0 0 0 }
      (s.park.request? s.inp).map (fun r => (r.1, r.2.1.pending, r.2.2)) = some (sub0 p.1, [0], x) ∧ (s.park.getCore 0).granuleWaits = [] ∧
        s.park.engineBusy 0 0 (ringKey 0 0 0 0) = false ∧ (p.1 = false → s.park.peerNeeds 0 1 x.io.got (tileRanges dR (sub0 p.1) 0 0) = []) ∧
        (p.1 = true → x.io.written = true)) := by
  refine ⟨?_, ?_, ?_, ?_, ?_⟩ <;> decide +kernel

/-- A state outside every step, whose host queue 5 has started command 7, with the command's parameters and context. -/
def c0 : Started := { uid := 7, cid := 7, opc := 0, sqhd := 0, ctx := 0, record := 0, dies := [], faulted := 0, refusal := none, resubmit := [] }
def q0 : HostQueue := { HostQueue.fresh 0x50000 0x60000 6 0 0 0 with started := [c0] }
def sP (ps : List Nat) (ctx : Nat) : State :=
  { State.reset with
    work := [], mem := tables, contexts := [(0, ctx0)], queues := [(5, q0), (6, HostQueue.fresh 0 0 6 0 0 0)]
    inp := { Input.none with queue := 5, n := 7, slot := ctx, bytes := ps.flatMap (bytesOf 8) } }
theorem witness_HostCommandsComplete :
    (InProgress (sP [] 0) q0 c0 ∧ (sP [] 0).park.contexts = (sP [] 0).contexts) ∧
    (∀ p ∈ [0x6003F, 0xC0001, 0x50001, 0], let s := sP [p, 0x1000, 0x2000, 0x1FFF, 8, 2 ^ 64 - 1] 0
      s.createQueueOk ↔ p = 0x6003F ∨ p = 0xC0001) ∧
    (∀ p ∈ [5, 6, 7], let s := sP [p] 0
      s.paramsOk [maskOf 5 0] = true ∧ s.param 0 = p ∧ (tget s.queues p).map (fun q => q.started.isEmpty) =
        (if p = 5 then some false else if p = 6 then some true else none)) ∧
    (∀ p ∈ [0x1000010F, 0x11FF0000, 0xFFF0000], let s := sP [p, 0x10000, 0x10000] 0
      s.openApertureOk ↔ p ≠ 0xFFF0000) ∧
    (sP [15] 0).paramsOk [maskOf 3 0] = true ∧
    (∀ p ∈ [0xD0002, 0xC0002], let s := sP [p, 0x100000, 0x100010D] 1
      (s.createContextOk ↔ p = 0xD0002) ∧ tget s.contexts 1 = none ∧ tget (sP [] 0).contexts 0 ≠ none) ∧
    (let s := sP [] 0; s.paramsOk [] = true ∧ tget s.contexts 0 = some ctx0 ∧ ctx0.saved = [] ∧ s.park.coresHolding 0 = [] ∧ s.park.launches 0 = false ∧
      (∀ q ∈ s.queues, ∀ d ∈ q.2.started, d.opc = 0x20 → d.ctx ≠ 0)) ∧
    (∀ n ∈ [1, 256], let s := sP [0x10000, n] 0
      s.paramsOk [maskOf 51 4, maskOf 8 0] = true ∧ (s.readPhys (s.param 0) (16 * s.param 1)).toOption.isSome = true) ∧
    (∀ p ∈ [(0, 1), (1, 1), (0, 2), (0, 15)], let s : State := { sP [0x10000, 1] 0 with mem := mstore [] 0x1000A (bytesOf 2 (256 * p.1 + p.2)) }
      let bad : State := { s with poison := [0x1000] }
      s.paramsOk [maskOf 51 9, maskOf 3 0] = true ∧ (s.readPhys 0x1000A 2).toOption = some (256 * p.1 + p.2) ∧
        (bad.readPhys 0x1000A 2).toOption = none ∧ (∀ d, d < 4 → (s.harbour d).submit.length < 64) ∧ (∀ d ∈ q0.started, d.resubmit = [])) ∧
    (let s := sP [0x30000, 0x30000, 1, 0x70] 0
      let none_ : State := { s with mem := [], ptPool := hbmEnd }
      tget s.contexts 0 ≠ none ∧ tget (sP [] 1).contexts 1 = none ∧ s.mapOk (BitVec.ofNat 64 0x30073) ∧ s.cmdAsid = 1 ∧ s.slotAt 1 0x30000 0 = .empty ∧ s.park.holdsAny 1 = none ∧
        (s.park.rootTable 1).map (·.1) = some 0x200000 ∧ ((s.park.rootTable 1).bind (fun r => r.2.entryPlace 0x30000 0 3 r.1)).map (·.1) = some 0x402018 ∧
        (none_.park.rootTable 1).isNone = true ∧ none_.slotAt 1 0x30000 0 = .empty ∧ none_.park.holdsAny 1 = none) ∧
    (∀ va ∈ [0x20000, 0x30000], let s := sP [va, 0, 1, 0] 0
      s.paramsOk [maskOf 56 16, 0, maskOf 31 0, maskOf 1 0] = true ∧ s.park.holdsAny 1 = none ∧ s.park.heldByLaunch 1 va 0x10000 = false ∧
        s.slotAt 1 va 0 = (if va = 0x20000 then .leaf 0x402010 0x20073 else .empty)) ∧
    (sP [0, 0, 1, 1] 0).slotAt 1 0 1 = .other ∧
    (∀ va ∈ [0x40000, 0x10000], let s : State := { sP [va] 0 with mem := mstore tables 0x402020 (bytesOf 8 0x40037) }
      s.paramsOk [maskOf 56 16] = true ∧ s.walk 1 va = .leaf 0 (if va = 0x40000 then 0x40037 else 0x10073) ∧ s.park.holdsAny 1 = none ∧
        s.units = []) ∧
    (let s := sP [0x10000] 0; s.paramsOk [maskOf 51 12] = true ∧ inMemory 0x10000 4096 = true ∧ s.portDown 0x10000 = false) ∧
    (let s : State := { sP [] 0 with inp := { Input.none with n := 0, ok := true } }
      let held : State := { s with cores := [(0, core0)] }
      tget s.contexts 0 = some ctx0 ∧ (s.queues.map (·.1)).Nodup ∧ s.park.coresHolding 0 = [] ∧ held.park.coresHolding 0 = [0]) ∧
    (let x : Context := { ctx0 with saved := [(511, core0)], swapped := [0, 1, 2, 3] }
      let s : State := { sP [] 0 with inp := { Input.none with n := 0 }, contexts := [(0, x)], cores := [(511, { Core.reset with cstate := .running })] }
      tget x.siglog 511 = none ∧ core0.granuleWaits = [] ∧ (s.park.harbour 3).launches = [] ∧ dieOf 511 = 3 ∧ s.park.coresHolding 0 = [] ∧
        (s.park.getCore 511).slots = [] ∧ (s.park.getCore 511).records = [] ∧ s.park.unsettled 511 = none ∧ (s.park.getCore 511).cstate = .running) := by
  refine ⟨?_, ?_, ?_, ?_, ?_, ?_, ?_, ?_, ?_, ?_, ?_, ?_, ?_, ?_, ?_, ?_⟩ <;> decide +kernel

/-- The module with its firmware state in place. -/
def sW (ps : List Nat) (fw : Firmware) : State := { sP ps 0 with fw := fw }
def fw0 (l : Lifecycle) : Firmware := { Firmware.reset with lifecycle := l }
def slot0 (st : SlotSt) (n fails : Nat) : FwSlot := { st := st, image := List.replicate n 0, fails := fails }
/-- The swap in progress for command 7 of queue 5, with harts that took over. -/
def swapping (t : Nat) (taken : List Nat) : State :=
  let s := sW [] { fw0 .manufacture with activating := some (5, 7), slotB := slot0 .staged 1 0, taken := taken }
  { s with mbx := { s.mbx with swap := true }, time := BitVec.ofNat 64 t, inp := { s.inp with hart := 7 } }
/-- A token's bytes: kind, target, signer, serial 0, nonce 0, the last expiry. -/
def token (kind target signer : Nat) : List Byte :=
  padTo 1536 (ascii "G5TOKEN1" ++ bytesOf 1 kind ++ bytesOf 1 target ++ bytesOf 54 signer ++ bytesOf 8 (2 ^ 64 - 1))
/-- Where signatures verify, a token is accepted whose key's hash is the Cesis fuse or the owner's: what signatures verify is open (log 4). -/
theorem token_accepted (h : ∀ m b g, Config.pssVerify m b g = true) (kind target signer : Nat)
    (hk : (kind, target, signer) ∈ [(1, 1, 0), (1, 1, 1), (1, 2, 0), (1, 2, 1), (2, 2, 0), (2, 3, 0)]) :
    let x := Config.sha512 (((token kind target signer).drop 512).take 512)
    tokenOk { fw0 .production with keyFuse := Vector.replicate 4 x, ownerRows := [x] } 0 (token kind target signer) kind target [0, 1] = true := by
  intro x
  have key : keyOk (token kind target signer) x false = true := by simp [keyOk, h, x]
  unfold tokenOk
  rw [Bool.and_eq_true]
  constructor
  · revert hk; simp only [List.mem_cons, List.not_mem_nil, or_false, Prod.mk.injEq]
    rintro (⟨rfl, rfl, rfl⟩ | ⟨rfl, rfl, rfl⟩ | ⟨rfl, rfl, rfl⟩ | ⟨rfl, rfl, rfl⟩ | ⟨rfl, rfl, rfl⟩ | ⟨rfl, rfl, rfl⟩) <;> decide +kernel
  · have e1 : ({ fw0 .production with keyFuse := Vector.replicate 4 x, ownerRows := [x] } : Firmware).keyFuse.toList.getD 0 0 = x := rfl
    have e2 : ({ fw0 .production with keyFuse := Vector.replicate 4 x, ownerRows := [x] } : Firmware).keyRevoked.toList.getD 0 false = false := rfl
    have e3 : ({ fw0 .production with keyFuse := Vector.replicate 4 x, ownerRows := [x] } : Firmware).owner = some x := rfl
    simp only [e1, e2, e3, key, ite_self]
theorem witness_FirmwareCommandsComplete :
    (InProgress (sW [] (fw0 .manufacture)) q0 c0 ∧ (sW [] (fw0 .manufacture)).fw.activating = none ∧ (sW [] (fw0 .manufacture)).fw.committing = none ∧ (swapping 0 []).fw.activating ≠ none ∧
      InProgress (swapping 0 []) q0 c0) ∧
    (∀ l ∈ [Lifecycle.manufacture, .provisioned], let s := sW [0x10000, 1, 1] (fw0 l)
      s.paramsOk [maskOf 63 0, maskOf 63 0, 1] = true ∧ decide (s.param 2 = 1) = !s.fw.activeB ∧ s.physBytes 0x10000 1 = some [0] ∧
        imageStatus s.fw [0] true ≠ 0 ∧ s.fw.enforced = decide (l ≠ .manufacture)) ∧
    (∀ l ∈ [Lifecycle.manufacture, .provisioned], ∀ st ∈ [SlotSt.staged, .good], let s := sW [] { fw0 l with slotB := slot0 st 1 0 }
      s.paramsOk [] = true ∧ (s.fw.slot true).st = st ∧ imageStatus s.fw (s.fw.slot true).image true ≠ 0) ∧
    (∀ mode ∈ [1, 2], (sW [0, mode, 0] (fw0 .manufacture)).paramsOk [maskOf 63 0, 3, maskOf 63 0] = true ∧
      (sW [0, mode, 0] (fw0 .provisioned)).tokenAt 0 1 mode [0] = false) ∧
    (∀ p ∈ [1, 2, 3], (sW [p, 0] (fw0 .manufacture)).paramsOk [3, maskOf 63 0] = true ∧ (sW [p, 0] (fw0 .provisioned)).tokenAt 0 2 p [0] = false) ∧
    (∀ p ∈ [3, 4, 7], let s := sW [p, 0x10000] (fw0 .manufacture)
      s.paramsOk [7, maskOf 63 0] = true ∧ s.param 0 = p ∧ (s.physBytes 0x10000 64).isSome = true) ∧
    (∀ n ∈ [0, 3, 4], let s := sW [0x10000, 0x20000] { fw0 .provisioned with ownerRows := List.replicate n 0 }
      s.paramsOk [maskOf 63 0, maskOf 63 0] = true ∧ s.fw.ownerRows.length = n ∧ (s.physBytes 0x10000 1536).isSome = true ∧
        (s.physBytes 0x20000 512).isSome = true ∧ tokenOk s.fw 0 ((s.physBytes 0x10000 1536).getD []) 3 0 [0, 1] = false) ∧
    (∀ t ∈ [179999, 180000], ∀ taken ∈ [[], [0, 1, 2, 3, 4, 5], [0, 1, 2, 3, 4, 5, 6]], let s := swapping t taken
      s.fw.activating = some (5, 7) ∧ s.mbx.swap = true ∧ s.inp.hart % 8 = 7 ∧ 7 ∉ s.fw.taken ∧ tget s.queues 5 = some q0 ∧
        q0.started.find? (fun c => c.uid == 7) = some c0 ∧ (s.time.toNat < s.fw.swapAt + 180000 ↔ t = 179999)) ∧
    (∀ l ∈ [Lifecycle.manufacture, .provisioned], ∀ svn ∈ [2, 3],
      let s : State := { sW [] { fw0 l with activating := some (5, 7), committing := some (5, 7), slotB := slot0 .staged 1 0, svn := svn, counter := 2 } with
        inp := { (sW [] (fw0 l)).inp with ok := false } }
      s.inp.ok = false ∧ s.fw.activating = some (s.inp.queue, s.inp.n) ∧ s.fw.committing = some (s.inp.queue, s.inp.n) ∧ s.mbx.swap = false ∧
        imageStatus s.fw (s.fw.slot true).image true ≠ 0 ∧ s.fw.enforced = decide (l ≠ .manufacture) ∧ (s.fw.counter < min 64 s.fw.svn ↔ svn = 3)) ∧
    (∀ p ∈ [(true, 7, [6]), (true, 7, [7]), (false, 8, []), (false, 8, [8])],
      let u := swapping 0 (if p.1 then [0, 1, 2, 3, 4, 5, 6] else List.range 8)
      let s : State := { u with
        mbx := { u.mbx with swap := p.1 }, inp := { u.inp with hart := p.2.1 }, fw := { u.fw with written := p.2.2 } }
      s.fw.activating ≠ none ∧ s.mbx.swap = p.1 ∧ s.inp.hart ∉ s.fw.taken ∧ (s.inp.hart = 8 → 8 ≤ s.fw.taken.length) ∧
        (s.inp.hart ∈ s.fw.written ↔ p.2.2 = [s.inp.hart]) ∧ (p.1 = true → s.inp.hart < 8)) ∧
    (∀ st ∈ [SlotSt.staged, .good], ∀ fails ∈ [1, 2], let s := sW [] { fw0 .manufacture with slotA := slot0 st 1536 fails, slotB := slot0 st 0 0 }
      s.power ≠ .off ∧ s.mbx.ready = false ∧ (s.fw.slot s.fw.activeB).st = st ∧ (s.fw.slot s.fw.activeB).image.length = 1536 ∧
        s.fw.enforced = false) ∧
    (∀ st ∈ [SlotSt.empty, .failed], ∀ other ∈ [SlotSt.empty, .failed, .staged, .good], ∀ fails ∈ [1, 2],
      let u := sW [] { fw0 .manufacture with slotA := slot0 st 0 fails, slotB := slot0 other 0 0 }
      let s : State := { u with time := 5000000000 }
      s.power ≠ .off ∧ s.mbx.ready = false ∧ s.acting = false ∧ s.fw.recovery = false ∧ s.fw.bootAt + 5000000000 ≤ s.time.toNat ∧
        (s.fw.slot s.fw.activeB).st = st ∧ (s.fw.slot (!s.fw.activeB)).st = other ∧ (s.fw.slot s.fw.activeB).fails = fails) := by
  refine ⟨?_, ?_, ?_, ?_, ?_, ?_, ?_, ?_, ?_, ?_, ?_, ?_⟩ <;> decide +kernel

/-- A queue whose first entry is due, with the entry's bytes. -/
def sE (opc : Nat) : State :=
  { sP [] 0 with
    queues := [(5, { HostQueue.fresh 0x50000 0x60000 6 0 0 0 with sqTail := 1 })]
    mem := mstore [] 0x50000 (bytesOf 2 opc ++ bytesOf 2 9) }
/-- A core of the module in a run state, and a pending fault record of it. -/
def sO (cs : CoreSt) : State :=
  { State.reset with work := [], contexts := [(0, ctx0)], cores := [(0, { core0 with cstate := cs })], inp := { Input.none with core := 0, n := 1 } }
def rF : Record := { sA.blankRecord .fault 0x1004 with length := 512, stepAddr := 0x281000 }
def sB : State :=
  { sO .running with
    mem := mstore [] 0x100040 rF.bytes
    contexts := [(0, { ctx0 with pendingFaults := [(0x100040, 0, rF)] })]
    cores := [(0, { core0 with steps := [(0, { Step.fresh with live := true })] })]
    inp := { Input.none with addr := 0x100040 } }
theorem witness_QueuesAndRegistersAct :
    (∀ opc ∈ [0x20, 0xFF], let s := sE opc
      let q : HostQueue := { HostQueue.fresh 0x50000 0x60000 6 0 0 0 with sqTail := 1 }
      s.park.turnQueue (5 % 8) = some (5, q) ∧ tget s.queues 5 = some q ∧ q.fenced = none ∧ (s.readPhys 0x50000 64).toOption = some (opc + 9 * 2 ^ 16) ∧
        (opc + 9 * 2 ^ 16).testBit 32 = false ∧ s.park.entryStatus 5 (opc + 9 * 2 ^ 16) = (if opc = 0x20 then 0 else 1) ∧
        (opc = 0x20 → commandOf ((opc + 9 * 2 ^ 16) % 2 ^ 16) = some (.launch, false)) ∧ Instr.launch ≠ .preempt ∧ Instr.launch ≠ .resume ∧ (∀ d ∈ q.started, d.uid ≠ s.cmdSeq)) ∧
    (∀ tail ∈ [0, 63], let q : HostQueue := { HostQueue.fresh 0x50000 0x60000 6 0 0 0 with ready := [{ cid := 9, sqhd := 1, status := 0, result := 0 }], cqTail := tail, cqHead := 5 }
      q.full = false ∧ q.stopped = false ∧ q.ready ≠ [] ∧ (q.cq + 16 * q.cqTail) % 16 = 0 ∧ inMemory (q.cq + 16 * q.cqTail) 16 = true ∧ State.reset.portDown (q.cq + 16 * q.cqTail) = false) ∧
    (let p : Packet := { Packet.empty with src := 0x1000, addr := mbxBase + 0xFFF8, data := List.replicate 8 0 }
      let s : State := { sP [] 0 with fabric := { State.reset.fabric with adapters := [(0x1000, true)] } }
      let early : WinEntry := { sseq := 0, st := .inProgress, op := opAck, resp := [] }
      let late : State := { s with fabric := { s.fabric with windows := [(0x1000, [early])] } }
      s.power ≠ .p4 ∧ s.fromHost p = true ∧ inMbx p.addr = true ∧ p.addr % 8 = 0 ∧ s.windowOf 0x1000 = [] ∧ s.mbx.input.length < 256 ∧
        s.park.earlierDone p = true ∧ late.park.earlierDone { p with sseq := 1 } = false ∧ (late.windowOf 0x1000).length < 4096 ∧
        (∀ e ∈ late.windowOf 0x1000, e.sseq ≠ 1)) ∧
    (tget (sP [] 0).queues 5 = some q0 ∧ 63 < 2 ^ q0.log2 ∧ 2 ^ q0.log2 ≤ 64) ∧
    (((sO .running).hart 0).rv.mode = .m ∧ (sO .running).portHeld = []) ∧
    (∀ cs ∈ [CoreSt.running, .quiesced, .inReset], let k := (sO cs).park.getCore 0
      k.cstate = cs ∧ k.invalidating = none ∧ k.slots = [] ∧ k.steps = [] ∧ (sO cs).inp.ok = true ∧ (sO cs).park.holdsOn 0 k 1 = none ∧
        (sO cs).park.publishHolds (fun p => p.core == 0 && p.asid == 1) = none) ∧
    (∀ n ∈ [63, 64], ((State.reset.modHarbour 3 (fun h => { h with submit := List.replicate n (0, false, none) })).park.harbour (7 / 2)).submit.length = n) ∧
    (∀ st ∈ [0, 1, 2, 3], let s := State.reset.poke 0xBFFFFDFFF0 8 (futWord st 0 0)
      inMemory (0xBFFFFDFFF0 &&& maskOf 51 4) 16 = true ∧ (0xBFFFFDFFF0 &&& maskOf 51 4) < 0xBFFFFE0000 ∧ futSt (mload s.mem 0xBFFFFDFFF0 8) = st ∧
        s.bad 0xBFFFFDFFF0 16 = false ∧ ({ s with poison := [0xBFFFFDFFF] } : State).bad 0xBFFFFDFFF0 16 = true) ∧
    ((sO .running).faultAtAddr 0x100040 = none ∧ sB.faultAtAddr 0x100040 = some (0, 0, rF) ∧ rF.trap.killed = false ∧ rF.trap.image = false ∧
      rF.trap.async = false ∧ (sB.park.getCore 0).ctx = some 0 ∧ FreshDeposit (sB.park.getCore 0) ∧ rF.stepAddr ≠ 0 ∧
      ((sB.park.getCore 0).step rF.cell).live = true ∧
      let r1 := rF.ofBytes (mbytes sB.mem 0x100040 rF.length)
      RoomFor (sB.park.getCore 0) r1.fullLength) := by
  refine ⟨?_, ?_, ?_, ?_, ?_, ?_, ?_, ?_, ?_⟩ <;> decide +kernel

/-- A core of context 0, and die 0 with one launch in slot 0. -/
def sK (k : Core) (l : Launch) (i : Input) : State :=
  { launched { State.reset with work := [], mem := tables, contexts := [(0, ctx0)], cores := [(0, k)], inp := i } [] with
    harbours := State.reset.harbours.set 0 { Harbour.reset with launches := [(0, l)] } }
/-- A stage with a depth and priority; a queue entry; a record's bytes with the least a launch needs: one CORE level, one stage, QAREA. -/
def stage1 (depth prio : Nat) : Stage := { Stage.none with qdepth := depth, prio := prio }
def entry0 (since : Nat) : QEntry := { place := 0, lcore := 0, since := since, aged := false }
def recordBytes : List Byte :=
  bytesOf 4 1 ++ bytesOf 8 (0x0101 + 2 ^ 48) ++ bytesOf 4 0 ++ bytesOf 8 0x10000 ++ bytesOf 8 0x20000 ++ bytesOf 32 0 ++ bytesOf 4 1 ++ bytesOf 4 0x0401 ++
    bytesOf 56 0 ++ bytesOf 8 0x10000 ++ bytesOf 8 0x10100 ++ bytesOf 8 0 ++ bytesOf 2 1 ++ bytesOf 1 0 ++ bytesOf 1 1
def recordMem : Mem :=
  mstore (mstore tables 0x30000 recordBytes) 0x10000 (bytesOf 4 1 ++ bytesOf 2 1 ++ bytesOf 2 1 ++ bytesOf 4 3)
def sT0 (m : Mem) : State :=
  { State.reset with
    work := [], mem := m, contexts := [(0, ctx0)]
    harbours := State.reset.harbours.set 0 { Harbour.reset with submit := [(0x30000, false, none), (0x40000, true, none)] } }
theorem taken_record :
    (let s := sT0 tables;
      (s.readPhys 0x30000 512).toOption = some 0 ∧ ((((s.modHarbour 0 (fun h => { h with submit := [(0x40000, true, none)] })).countRead 0x30000 512).countTables 0).checkRecord 0x30000 0 false none).1.min? = some 0) ∧
    (let s := sT0 recordMem;
      (s.park.harbour 0).submit = [(0x30000, false, none), (0x40000, true, none)] ∧ (s.park.harbour 0).freeSlot = some 0 ∧
        (s.readPhys 0x30000 512).toOption = some (mload s.mem 0x30000 512) ∧
        ((((s.modHarbour 0 (fun h => { h with submit := [(0x40000, true, none)] })).countRead 0x30000 512).countTables (mload s.mem 0x30000 512)).checkRecord 0x30000 (mload s.mem 0x30000 512) false none).1 = []) := by
  decide +kernel

/-- Operands by field. -/
def opnd (core slot n : Nat) : Input := { Input.none with core := core, slot := slot, n := n }
def q1 (es : List QEntry) : List StageQ := [{ entries := es, placed := 0, stepno := [], waits := [] }]
def l1 (es : List QEntry) : Launch := { launch0 (q1 es) with stages := [stage1 2 0], qarea := 0x20000, vlcapl := 0, loops := [(2, 1, 0)] }
def levelCore : List Level := [{ extent := 2, domain := 1, scope := 4 }]
def pastWalk (l : Launch) : Launch := { l with loops := [], walked := 1 }
/-- A strand that may be stopped at once, whose step is of stage 0 of the launch. -/
def kRun (st : Strand) : Core := { core0 with slots := [(0, st)], steps := [(0, { Step.fresh with live := true, strands := 1 })] }
def sF0 (st : Strand) : State := sK (kRun st) (l1 []) (opnd 0 0 0)
def cvOpen (k : Nat) : Convoy :=
  { Convoy.closed with live := true, k := k, entry := { ConvoyEntry.empty with words := [0x47, 0x47], cpc := 0x1000, vl := 1 } }
def recordReady : Record := { sA.blankRecord .leave 0x1004 with ready := true, vlenbl := 12, isa := 3 }
theorem witness_HarbourmastersAct :
    ((let s := sT0 tables;
      (s.park.harbour 0).submit = [(0x30000, false, none), (0x40000, true, none)] ∧ (s.readPhys 0x30000 512).toOption = some 0 ∧
        ((((s.modHarbour 0 (fun h => { h with submit := [(0x40000, true, none)] })).countRead 0x30000 512).countTables 0).checkRecord 0x30000 0 false none).1.min? = some 0) ∧
      (let s := sT0 recordMem;
      (s.park.harbour 0).freeSlot = some 0 ∧ (s.readPhys 0x30000 512).toOption = some (mload s.mem 0x30000 512) ∧
        ((((s.modHarbour 0 (fun h => { h with submit := [(0x40000, true, none)] })).countRead 0x30000 512).countTables (mload s.mem 0x30000 512)).checkRecord 0x30000 (mload s.mem 0x30000 512) false none).1 = [])) ∧
    (∀ gang ∈ [false, true],
      let l : Launch := { launch0 [] with gang := gang, lpartreq := 2 }
      let k : Core := { Core.reset with cstate := .running }
      let b : State := { sK k l Input.none with cores := [(0, k), (1, k)] }
      tget (b.harbour 0).launches 0 = some l ∧ ctx0.swapped.contains 0 = false ∧ (b.getCore 0).suits l = false ∧ b.mayConfigure 0 0 0 l = true ∧
        b.mayConfigure 1 0 0 l = true ∧ l.moor ≠ 0 ∧ l.vlcapl ≠ 0 ∧ (b.getCore 0).lastCtx ≠ some l.ctx) ∧
    (let l : Launch := { launch0 [] with cores := [] }
      let b := sK (kRun strand0) l Input.none
      tget (b.harbour 0).launches 0 = some l ∧ l.st = .active ∧ 0 ∉ l.cores ∧ b.mayConfigure 0 0 0 l = false) ∧
    (∀ p ∈ [(1, 0), (3, 1)],
      let l : Launch := { l1 [] with levels := levelCore, diemask := p.1 }
      let lcore := l.walked / max l.chunk 1 % max l.ncore 1
      l.st = .active ∧ l.walked < l.total ∧ l.full 0 = false ∧ l.loops.length ≤ 6 ∧ 0 < l.queues.length ∧
        (l.place lcore).any (fun c => dieOf c == p.2) = (p.2 == 0) ∧ (sK core0 l Input.none).physOf l.asid (l.qbase 0 0) = some 0x20000) ∧
    (tget (sK core0 (l1 [entry0 0]) Input.none |>.harbour 0).launches 0 = some (l1 [entry0 0]) ∧ (entry0 0).aged = false ∧ (0 : Nat) < (l1 [entry0 0]).queues.length ∧
      819 < (entry0 0).since + 820 ∧ (entry0 0).since + 820 ≤ 820) ∧
    ((let k : Core := { core0 with records := [recordReady], order := [(0, [0])], dseq := 1 }
      let b := sK k (l1 []) Input.none
      b.park.grantable 0 = true ∧ k.fillable 0 false = true ∧ k.fillable 0 true = false ∧ tget k.order 0 = some [0] ∧ k.record 0 = some recordReady ∧
        2 ^ recordReady.vlenbl = k.vlenb ∧ recordReady.isa = 3 ∧ recordReady.spilled = false ∧ recordReady.damaged = false ∧
          k.locBad (k.moorBase + 0x2000 + 64 * recordReady.block) recordReady.length = false) ∧
      (let l := l1 [entry0 0]
      let b := sK core0 l Input.none
      b.park.grantable 0 = true ∧ core0.fillable 0 false = true ∧ core0.fillable 0 true = false ∧ core0.order = [] ∧
        b.park.candidates 0 0 = [(0, l, 0, entry0 0)] ∧ core0.suits l = true ∧ (l.queue 0).waits = [] ∧ 0 ∈ l.cores)) ∧
    (let k : Core := { core0 with slots := [(0, strand0), (1, strand0)], steps := [(0, { Step.fresh with live := true, stage := 1, strands := 2 })] }
      let l : Launch := { l1 [entry0 0] with stages := [stage1 2 0, stage1 2 1], queues := q1 [entry0 0] ++ q1 [] }
      let b := (sK k l (opnd 0 0 0)).park
      (b.getCore 0).cstate = .running ∧ (b.getCore 0).fillable 0 false = false ∧ (b.getCore 0).fillable 0 true = false ∧ b.barred 0 = false ∧ (∀ x ∈ (b.getCore 0).slots, x.2.leaving = false) ∧
        (List.range 8).find? (fun p => !((tget (b.getCore 0).order p).getD []).isEmpty || !(b.candidates 0 p).isEmpty) = some 0 ∧
        (b.victim 0 0).isSome = true) ∧
    ((let st : Strand := { strand0 with cv := cvOpen 1 }
      tget (((sF0 st).park).getCore 0).slots 0 = some st ∧ st.granted = (opnd 0 0 0).addr ∧ st.waiting = none ∧ (let f := (sF0 st).park.focus 0 0; f.core.mayStop f.slot f.strand = false)) ∧
      (∀ p ∈ [(409, false), (410, true)],
        let st : Strand := { strand0 with cv := cvOpen 1, waits := some (0, true) }
        let s : State := { sF0 st with time := BitVec.ofNat 64 p.1 }
        tget (s.park.getCore 0).slots 0 = some st ∧ st.waiting ≠ none ∧ st.waited s.time.toNat = p.2 ∧ (let f := s.park.focus 0 0; f.core.mayStop f.slot f.strand = true)) ∧
      (∀ st ∈ [strand0, { strand0 with cv := cvOpen 0 }],
        let f := (sF0 st).park.focus 0 0
        let p := f.stopStrand .preempt TrapBlock.none 0
        let k := (p.2.vacate).getCore 0
        f.core.mayStop f.slot f.strand = true ∧ st.running = true ∧ st.wait = .none ∧ FreshDeposit k ∧ RoomFor k p.1.fullLength) ∧
      (let r := recordReady
      let st : Strand := { strand0 with running := false, src := some r }
      (let f := (sF0 st).park.focus 0 0; f.core.mayStop f.slot f.strand = true) ∧ st.src = some r)) ∧
    (∀ m ∈ [1, 3],
      let l : Launch := { pastWalk (l1 []) with diemask := m, donef := 0x20000 }
      let b := (sK core0 l Input.none).park
      tget (b.harbour 0).launches 0 = some l ∧ l.st = .active ∧ b.launchDone 0 0 l = true ∧ b.twins 0 l = [] ∧ b.bad 0x20000 16 = false ∧
        (((b.twins 0 l).length + 1 = (bitsSet 4 l.diemask).length ∧ ∀ x ∈ b.twins 0 l, x.2.2.st = .ended) ↔ m = 1) ∧ b.physOf l.asid l.donef = some 0x20000 ∧ futSt (mload b.mem 0x20000 8) < 2) ∧
    (∀ n ∈ [0, 63, 64], ∀ st ∈ [LaunchSt.ended, .refused 12],
      let l : Launch := { launch0 [] with st := st }
      let e : HmDone := { slot := 0, record := 0, faulted := 0, offset := 0, status := 0, byDevice := false, who := none }
      let s := (sK core0 l Input.none).modHarbour 0 (fun h => { h with done := List.replicate n e })
      tget (s.park.harbour 0).launches 0 = some l ∧ l.st ≠ .active ∧ (s.park.harbour 0).done.length = n) ∧
    (let c : Started := { c0 with opc := 0x20, record := 0x30000, dies := [0] }
      let q : HostQueue := { q0 with started := [c] }
      ∀ dev ∈ [false, true], ∀ status ∈ [0, 2],
      let e : HmDone := { slot := 0, record := 0x30000, faulted := 1, offset := 12, status := status, byDevice := dev, who := some c.uid }
      let s : State := { sP [] 0 with queues := [(5, q)], harbours := State.reset.harbours.set 0 { Harbour.reset with done := [e] } }
      (s.harbour 0).done = [e] ∧ s.queues = [(5, q)] ∧ q.started = [c] ∧ e.who = some c.uid ∧ c.dies = [0]) ∧
    (∀ n ∈ [63, 64],
      let c : Started := { c0 with resubmit := [0] }
      let q : HostQueue := { q0 with started := [c] }
      let s : State := { sP [] 0 with
        queues := [(5, q)], harbours := State.reset.harbours.set 0 { Harbour.reset with submit := List.replicate n (0, false, none) } }
      InProgress s q c ∧ c.resubmit = [0] ∧ (s.harbour 0).submit.length = n) ∧
    (∀ base ∈ [0, 0x200000000],
      let x : Context := { ctx0 with swapped := [0] }
      let s : State := { sK core0 (l1 []) (opnd 0 0 0) with contexts := [(0, x)], mem := mstore [] 0x100010 (bytesOf 8 base) }
      tget s.contexts 0 = some x ∧ (s.park.getCore 0).ctx = some 0 ∧ x.swapped.contains (dieOf 0) = true ∧ s.park.unsettled 0 = none ∧
        s.peek (x.fqBase + 16) 8 = base ∧ Memory.wf core0.loc ∧ Memory.wf core0.opMem) ∧
    (∀ tail ∈ [8191, 8192],
      let r : Record := { sA.blankRecord .fault 0x1000 with held := true }
      let k : Core := { core0 with records := [r], dseq := 1 }
      let s : State := { sK k (l1 []) (opnd 0 0 0) with mem := mstore [] 0x100008 (bytesOf 8 (if tail = 8192 then 8192 else 0)) }
      (s.park.getCore 0).ctx = some 0 ∧ tget s.contexts 0 = some ctx0 ∧ (s.park.getCore 0).record 0 = some r ∧ r.held = true ∧ r.trap.killed = false ∧
        (RingRoom s.park ctx0 (ceilDiv r.fullLength 64) ↔ tail = 8191) ∧ Memory.wf s.mem) ∧
    (∀ late ∈ [5, 6],
      let k : Core := { core0 with slots := [(0, strand0)], steps := [(0, { Step.fresh with live := true, strands := 1, rescyc := late })] }
      let l : Launch := { l1 [] with stages := [{ stage1 2 0 with budget := 5 }] }
      let s := sK k l (opnd 0 0 0)
      let b := s.park
      tget k.slots 0 = some strand0 ∧ k.slots.find? (fun p => p.2.cell == 0 && p.2.running) = some (0, strand0) ∧ k.ctx.isSome = true ∧ (k.step 0).live = true ∧
        (b.stageOf (k.step 0)).budget = 5 ∧ (b.stageOf (k.step 0)).budget ≤ (k.step 0).rescyc ∧ (let f := b.focus 0 0; f.core.mayStop f.slot f.strand = true)) ∧
    (let s : State := { sK (kRun strand0) { l1 [] with hbint := 100 } (opnd 0 0 0) with time := BitVec.ofNat 64 (10 ^ 12) }
      let ls := ((s.park.harbour 0).launches.filter (fun p => p.2.ctx == 0 && decide (p.2.st = .active))).map (·.2)
      (tget s.park.contexts 0).isSome = true ∧ ls ≠ [] ∧ (∃ c ∈ s.park.coresHolding 0, dieOf c = 0 ∧ ∃ p ∈ (s.park.getCore c).steps, p.2.live = true) ∧ (∀ l ∈ ls, l.progress + l.beat ≤ s.time.toNat)) := by
  refine ⟨?_, ?_, ?_, ?_, ?_, ?_, ?_, ?_, ?_, ?_, ?_, ?_, ?_, ?_, ?_, ?_⟩ <;> decide +kernel

/-- A hart of command processor 1 last kicked at 0, at a time, with restarts counted. -/
def sWd (t restarts at_ : Nat) (ok : Bool) : State :=
  { State.reset with
    work := [], time := BitVec.ofNat 64 t, harts := State.reset.harts.set 1 { Hart.reset with restarts := restarts, restartAt := at_ }
    inp := { Input.none with hart := 9, die := 5, ok := ok } }
/-- A recovery request of a type with its field and data, in recovery. -/
def sRcvy (type n : Nat) (data : List Byte) (fw : Firmware) : State :=
  { sP [] 0 with
    fw := { fw with recovery := true }
    inp := { Input.none with pkt := { Packet.empty with src := 3, op := 0x09, data := ascii "RCVY" ++ bytesOf 1 type ++ bytesOf 3 0 ++ bytesOf 8 n ++ data } } }
/-- What the standard's bytes of an answer are is open (log 4), so whether one exceeds 1,024 bytes hangs on it; both clauses' other
hypotheses are met. An image that verifies hangs on it too; where images are not enforced none need. -/
theorem witness_WatchdogAndManagementAct :
    (∀ t ∈ [4999999, 5000000, 9999999, 10000000], let s := sWd t 0 0 true;
      let last := (s.hart (s.inp.hart % 8)).lastKick
      (t < last + 5000000 ↔ t = 4999999) ∧ (last + 10000000 ≤ t ↔ t = 10000000) ∧ s.mbx.swap = false ∧ s.dieSleep.contains (s.inp.hart % 8 / 2) = false) ∧
    (let s : State := { sWd 10000000 0 0 true with dieSleep := [0] }; s.dieSleep.contains (s.inp.hart % 8 / 2) = true) ∧
    (let s : State := { sWd 10000000 0 0 true with mbx := { Mailbox.reset with swap := true } };
      s.mbx.swap = true ∧ s.fw.taken.contains (s.inp.hart % 8) = false) ∧
    (∀ p ∈ [(1010000000, 2, 10000000), (1010000001, 2, 10000000), (1010000000, 1, 10000000), (10000000, 0, 0)], let s := sWd p.1 p.2.1 p.2.2 true;
      let ht := s.hart (s.inp.hart % 8)
      let again : Prop := ht.restarts ≠ 0 ∧ s.time.toNat ≤ ht.restartAt + 1000000000;
      ht.lastKick + 10000000 ≤ s.time.toNat ∧ ((again ∧ 2 ≤ ht.restarts) ↔ p.1 = 1010000000 ∧ p.2.1 = 2)) ∧
    ((sWd 0 0 0 true).inp.ok = true ∧ (sWd 0 0 0 false).inp.ok = false ∧ (sWd 0 0 0 true).inp.die % 4 = 1 ∧
      ((sWd 0 0 0 false).park.getCore 128).cstate = .inReset ∧ ((sWd 0 0 0 false).park.getCore 255).cstate = .inReset) ∧
    (∀ t ∈ [99999999, 100000000], let s := sWd t 0 0 true;
      (t < (s.hart 8).lastKick + 100000000 ↔ t = 99999999) ∧ (s.hart 8).power = .p0 ∧ s.fabric.unacked s.fw.reportNode < 4096 ∧ s.queues = []) ∧
    (FreshRequest (sRcvy 1 0 [] Firmware.reset) (sRcvy 1 0 [] Firmware.reset).inp.pkt ∧ (sRcvy 1 0 [] Firmware.reset).fw.idKey ≠ .usable ∧
      (sRcvy 1 0 [] { Firmware.reset with idKey := .usable }).fw.idKey = .usable ∧ FreshRequest State.reset Packet.empty ∧ State.reset.fw.recovery = false) ∧
    (let s := sRcvy 1 0 [] { Firmware.reset with activating := some (0, 0), written := [8] };
      FreshRequest s s.inp.pkt ∧ s.fw.activating.isSome = true ∧ s.fw.written.contains 8 = true) ∧
    (∀ p ∈ [(0x82, 0), (0x82, 1), (0xE0, 0), (0xE0, 16)], let msg := bytesOf 1 0x12 ++ bytesOf 1 p.1 ++ bytesOf 1 1 ++ bytesOf 1 0 ++ bytesOf 32 0 ++ bytesOf 1 p.2
      let m := if p.1 = 0x82 then bytesOf 1 0x12 ++ bytesOf 1 p.1 ++ bytesOf 1 p.2 else msg
      fld m 1 1 = p.1 ∧ (p.1 = 0xE0 → (fld m 2 1).testBit 0 = true ∧ fld m 36 1 = p.2) ∧ (p.1 = 0x82 → fld m 2 1 = p.2)) ∧
    (∀ e ∈ [(0, 0), (1, 1), (1, 0)], (chunkOf (bytesOf 2 0 ++ bytesOf 1 e.1 ++ bytesOf 1 0 ++ bytesOf 4 e.2)).2 = (e.2 == 0, e.1 == 1)) ∧
    (∀ type ∈ [1, 2, 3, 4], ∀ st ∈ [false, true], let s := sRcvy type 1536 [7] { Firmware.reset with staging := st, rcvyNode := 3 }
      let d := s.inp.pkt.data
      FreshRequest s s.inp.pkt ∧ s.fw.recovery = true ∧ d.take 4 = ascii "RCVY" ∧ fld d 4 1 = type ∧ fld d 5 1 ≤ 1 ∧ fld d 6 2 = 0 ∧
        s.fw.rcvyNode = s.inp.pkt.src ∧ fld d 8 8 = 1536) ∧
    (¬ (Packet.empty.data.take 4 = ascii "RCVY")) ∧ ((32 * 1048576 - 4096 + 1536 - 1536) % 4096 = 0) ∧
    (∀ p ∈ [(0, [5]), (1, []), (1, [5])], let s := sRcvy 2 p.1 [7] { Firmware.reset with staging := true, rcvyBytes := p.2, rcvyLen := 2 }
      let d := s.inp.pkt.data
      s.fw.staging = true ∧ (fld d 8 8 < s.fw.rcvyBytes.length ↔ p = (0, [5])) ∧ (fld d 8 8 = s.fw.rcvyBytes.length ↔ p = (1, [5])) ∧
        (d.drop 16).length = 1 ∧ s.fw.rcvyBytes.length + (d.drop 16).length ≤ s.fw.rcvyLen) ∧
    (let s := sRcvy 3 0 [] { fw0 .production with staging := true };
      s.fw.staging = true ∧ fld s.inp.pkt.data 8 8 = 0 ∧ s.fw.rcvyLen ≤ s.fw.rcvyBytes.length ∧ s.fw.enforced = true ∧
        imageStatus s.fw s.fw.rcvyBytes true ≠ 0) ∧
    (sRcvy 3 0 [] { fw0 .manufacture with staging := true }).fw.enforced = false ∧ fld (sRcvy 4 0 [] Firmware.reset).inp.pkt.data 8 8 = 0 := by
  refine ⟨?_, ?_, ?_, ?_, ?_, ?_, ?_, ?_, ?_, ?_, ?_, ?_, ?_, ?_, ?_⟩ <;> decide +kernel

/-- A flit's bytes by its header; a packet. -/
def flit (h : Nat) (payload crc : List Byte) : List Byte := bytesOf 8 h ++ payload ++ crc
def pkt0 (dst : Nat) : Packet := { Packet.empty with dst := dst, src := 1, op := 0x01, data := bytesOf 8 0 }
/-- A payload of 112 bytes with a packet's bytes first. -/
def payload0 (dst : Nat) : List Byte := padTo 112 (pkt0 dst).bytes
def sLk (l : Link) (i : Input) : State := { State.reset with work := [], fabric := { Fabric.reset with links := [(0, l)] }, inp := i }
def sent0 (later : Bool) (resends at_ t : Nat) (purpose : Purpose) : State :=
  { State.reset with
    work := [], time := BitVec.ofNat 64 t, inp := { Input.none with queue := 0x20, n := 0 }
    fabric := { Fabric.reset with out := [{ pkt := pkt0 0x20, purpose := purpose, resends := resends, sentAt := at_, later := later, out := true, parked := false }] } }
/-- Which bytes are a flit's CRC is open (log 4): whatever 64-bit value the checksum of a flit's first 120 bytes is, the flit that carries
it is whole. -/
theorem flit_whole (h : Nat) (payload : List Byte) (hp : payload.length = 112) :
    let bs := flit h payload (bytesOf 8 (Config.crc64 ((flit h payload []).take 120) % 2 ^ 64))
    bs.length = 128 ∧ bs.take 120 = (flit h payload []).take 120 := by
  simp [flit, hp, bytesOf]
theorem witness_LinksAndPowerAct :
    (∀ h ∈ [0, 3, 4, 15, 1 + 5 * 2 ^ 16, 1 + 6 * 2 ^ 16, 2 + 5 * 2 ^ 16], (3 < h % 16 ↔ h = 4 ∨ h = 15) ∧
      (h % 16 = 1 ∧ bitsN h 23 16 = link0.rxLseq ∧ bitsN h 11 8 = 0 ↔ h = 1 + 5 * 2 ^ 16)) ∧
    (¬ (([] : List Byte).length = 128)) ∧
    (∀ dst ∈ [0, 9], packetOfFlits [{ cred := 0, tc := 0, cmp := false, len := 0, lseq := 5, first := true, payload := payload0 dst }] = some (pkt0 dst) ∧
      (pkt0 dst).mc = false ∧ (pkt0 dst).op < 0x10 ∧ State.reset.fabric.reaches dst = false ∧
      ({ Fabric.reset with links := [(0, link0)] } : Fabric).reaches dst = true ∧ ((pkt0 dst).dst = State.reset.fabric.node ↔ dst = 0)) ∧
    (∀ w ∈ [0, 1, 2], (min w 2 ≠ 0 ↔ w ≠ 0)) ∧
    (let l : Link := { link0 with queues := [(0, [pkt0 9])] };
      let f (ls : Table Link) : Fabric := { Fabric.reset with links := tset ls 0 { { l with txLanes := 0 } with queues := [], tx := [], again := [], replay := [], going := [] } }
      (f [(0, l)]).route 9 = none ∧ (f [(0, l), (1, link0)]).route 9 = some 1 ∧ (pkt0 9).mc = false ∧ l.going = [] ∧ l.held = [] ∧ tget (f [(0, l), (1, link0)]).links 1 = some link0 ∧ l.queues = [(0, [pkt0 9])]) ∧
    (let l : Link := { link0 with queues := [(0, [pkt0 9])] };
      tget l.queues 0 = some [pkt0 9] ∧ (∀ e, e < 8 → e ≠ 0 → (tget l.queues e).getD [] = []) ∧ l.retraining = false ∧ l.up = true ∧
        ((Link.send 0 l).schedule (pkt0 9)).length ≤ (tget l.credits 0).getD 0 ∧ (Link.send 0 l).tx.length + ((Link.send 0 l).schedule (pkt0 9)).length ≤ 512) ∧
    (∀ c ∈ [0, 1], let s := sLk { link0 with credits := [(0, c)] } { Input.none with bytes := [0], pkt := pkt0 9 };
      ((∀ n ∈ s.inp.bytes.map (·.toNat), (tget s.fabric.links n).any (fun l => l.hasCredit (opClass s.inp.pkt.op)) = true) ↔ c = 1) ∧ (s.inp.bytes.map (·.toNat)).Nodup ∧ s.fabric.splits = [] ∧ s.inp.bytes ≠ []) ∧
    State.reset.awaited 0 0 = none ∧
    (∀ p ∈ [(false, 0, 99999), (false, 7, 100000), (false, 8, 100000), (true, 0, 100000)],
      let s := sent0 p.1 p.2.1 0 p.2.2 (.answer 0 0)
      ∃ x ∈ s.fabric.out, s.awaited 0x20 0 = some x ∧ x.later = p.1 ∧ x.resends = p.2.1 ∧ x.purpose = .answer 0 0 ∧ (∀ y ∈ s.fabric.out, y.out = true) ∧
        (x.sentAt + 100000 ≤ s.time.toNat ↔ p.2.2 = 100000)) ∧
    (∀ pw ∈ [Power.p0, .p1], let k : Core := { Core.reset with power := pw }
      let s : State := { State.reset with cores := [(0, k)] };
      (s.park.getCore 0).power = pw ∧ (s.park.getCore 0).slots = [] ∧ (s.park.getCore 0).order = [] ∧ s.park.unsettled 0 = none ∧
        (s.park.getCore 0).inbox = []) ∧
    ((∀ n ∈ [0, 1, 2, 3, 4, 5], ∀ w ∈ [false, true], (debugKind n w).isSome = true ∨ (w = true ∧ n ∈ [1, 2])) ∧ debugAllows .production .off false .memory = false ∧
      debugAllows .manufacture .invasive false .write = true ∧ debugAllows .manufacture .invasive true .write = true ∧ DebugKind.write.changes = true ∧ debugAllows .production .observe false .control = true ∧
      DebugKind.control.changes = false ∧ State.reset.poison = [] ∧
      inMemory 0xBFFFFDFFF0 16 = true ∧ State.reset.portDown 0xBFFFFDFFF0 = false ∧
      ({ State.reset with dieSleep := [0] } : State).dieSleep.contains 0 = true) := by
  refine ⟨?_, ?_, ?_, ?_, ?_, ?_, ?_, ?_, ?_, ?_, ?_⟩ <;> decide +kernel

/-- A request in hand: from a peer module under ASID 1, or from a host; its first word is also the length of a read. -/
def sQ (src addr : Nat) (words : List Nat) : State :=
  { State.reset with
    work := [], contexts := [(0, ctx0)], mem := tables, cores := [(0, core0)]
    apertures := [(0, { base := 0x10000, len := 8, node := 0x1000, rw := true }), (1, { base := 0x20000, len := 8, node := 0x1000, rw := false })]
    fabric := { Fabric.reset with adapters := [(0x1000, true)] }
    inp := { Input.none with pkt := { Packet.empty with src := src, addr := addr, asid := if src = 0x1000 then 0 else 1, sseq := 3, data := words.flatMap (bytesOf 8) } } }
/-- The peer's request meets one page under the access, of these bytes, or nothing. -/
def meets (s : State) (a : Access) (va n : Nat) : Found := (s.park.countWalk 1 va).homeFind 1 a (n / 0x10000 + 2) va n
theorem witness_peer :
    (FreshRequest (sQ 7 0x10008 [8]) (sQ 7 0x10008 [8]).inp.pkt ∧ (sQ 7 0x10008 [8]).fromHost (sQ 7 0x10008 [8]).inp.pkt = false ∧
      (sQ 7 0x10008 [8]).inp.pkt.word 0 = 8 ∧ (sQ 7 0x10008 [8]).inp.pkt.asid ≠ 0) ∧
    (∀ a ∈ [0x10000, 0x1FFF8], meets (sQ 7 a [8]) .load a 8 = .ok [.here a 8 0 256 0x10000] ∧ ((sQ 7 a [8]).readPhys a 8).isOk = true ∧
      meets (sQ 7 a [8]) .store a 8 = .ok [.here a 8 0 256 0x10000] ∧ inMemory a 8 = true ∧ (sQ 7 a [8]).portDown a = false) ∧
    (meets (sQ 7 0x30000 [8]) .load 0x30000 8 = .miss 0x30000 ∧ meets (sQ 7 (2 ^ 57) [8]) .load (2 ^ 57) 8 = .prot 0x11 (2 ^ 57)) ∧
    (∀ n ∈ [0, 3, 0x15, 0x18], ∀ more ∈ [0, 0x100], let m := if n = 0 then 1 else 8
      (aopOf n).map (·.2) = some m ∧ n ∉ [0x1E, 0x1F, 0x20, 0x21, 0x22] ∧ 0x10008 % m = 0 ∧ ((sQ 7 0x10008 [n + more]).readPhys 0x10008 m).isOk = true ∧
        meets (sQ 7 0x10008 [n + more]) (if more = 0 then .atomic else .reduce) 0x10008 m = .ok [.here 0x10008 m 0 256 0x10000]) ∧
    (let s := sQ 7 0x10008 [0x22, 8, 5];
      s.inp.pkt.word 0 = 0x22 ∧ s.inp.pkt.word 1 % 16 = 8 ∧ meets s .store 0x10008 8 = .ok [.here 0x10008 8 0 256 0x10000] ∧ s.poison = []) ∧
    (∀ n ∈ [0x20, 0x21], ∀ st ∈ [0, 1, 2, 3],
      let s := (sQ 7 0x10000 [n, 5, 0]).poke 0x10000 8 (futWord st 0 0)
      meets s .object 0x10000 16 = .ok [.here 0x10000 16 0 256 0x10000] ∧ s.bad 0x10000 16 = false ∧ futSt (mload s.mem 0x10000 8) = st ∧
        futHead (mload s.mem 0x10000 8) = 0 ∧ s.inp.pkt.word 0 = n) ∧
    (∀ n ∈ [1, 256, 257], let s : State := { sQ 7 0x10000 [n] with mem := mstore tables 0x402008 (bytesOf 8 0x10037) }
      meets s .append 0x10000 1 = .ok [.here 0x10000 1 1 256 0x10000] ∧ s.portDown 0x10000 = false ∧
        (s.unit 0x10000 256).st = .opened ∧ (n ≤ 256 ∧ (s.unit 0x10000 256).tail + roundUp n 16 ≤ 256 ↔ n ≠ 257)) := by
  refine ⟨?_, ?_, ?_, ?_, ?_, ?_, ?_⟩ <;> decide +kernel
/-- An outstanding request whose answer is in hand. -/
def sAw (purpose : Purpose) (later : Bool) (t : Nat) : State :=
  { State.reset with
    work := [], time := BitVec.ofNat 64 t
    inp := { Input.none with queue := 0x20, n := 0, pkt := { Packet.empty with src := 0x20, sseq := 0 } }
    fabric := { Fabric.reset with
      out := [{ pkt := { Packet.empty with dst := 0x20 }, purpose := purpose, resends := 0, sentAt := 0, later := later, out := true, parked := false }]
      groups := [(9, [0])]
      mcasts := [{ group := 9, sseq := 0, waiting := [0x20], core := 0, cell := 0, pc := 0 }] } }
theorem witness_RequestsAndResponsesAct :
    ({ State.reset with power := .p4 } : State).power = .p4 ∧
    (let s := sQ 0x1000 (mbxBase + 0x10) [8];
      FreshRequest s s.inp.pkt ∧ s.fromHost s.inp.pkt = true ∧ inMbx s.inp.pkt.addr = true ∧ s.inp.pkt.word 0 = 8 ∧ s.inp.pkt.addr % 8 = 0) ∧
    (∀ a ∈ [0x10000, 0x10001, 0x20000, 0xFFF8], let s := sQ 0x1000 a [8];
      s.fromHost s.inp.pkt = true ∧ inMbx s.inp.pkt.addr = false ∧
        (s.apertureFor 0x1000 a 8).map (·.rw) = (if a = 0x10000 then some true else if a = 0x20000 then some false else none) ∧
        (s.readPhys a 8).isOk = true ∧ inMemory a 8 = true ∧ s.portDown a = false ∧ s.inp.pkt.data.length = 8 ∧ s.poison = []) ∧
    (let s := sQ 7 0x10008 [8];
      FreshRequest s s.inp.pkt ∧ s.fromHost s.inp.pkt = false ∧ s.inp.pkt.asid ≠ 0) ∧
    (∀ tail ∈ [1, 2],
      let s : State := { sQ 7 0x1000 [0, 1] with cores := [(0, withQueue core0 tail)] }
      s.park.asleep 0 = false ∧ (s.park.appendMsg 0 0x1000 1 (bytesOf 8 1)).isOk = (tail == 1)) ∧
    (let s : State := { sQ 7 0x1000 [0, 1] with cores := [(0, withQueue core0 1)], dieSleep := [0] };
      s.park.asleep 0 = true ∧ s.inp.pkt.addr / 2 ^ 22 = 0) ∧
    (let e : WinEntry := { sseq := 3, st := .done, op := 0x11, resp := [] };
      let s : State := { sQ 7 0x1000 [0, 1] with fabric := { Fabric.reset with windows := [(7, [e])] }, inp := { Input.none with pkt := { (sQ 7 0x1000 [0, 1]).inp.pkt with op := opWrite } } };
      (s.windowOf s.inp.pkt.src).find? (fun x => x.sseq == s.inp.pkt.sseq) = some e ∧ s.power ≠ .p4 ∧ s.inp.pkt.op ∉ [opRead, opManagement] ∧ e.op ≠ opPager) ∧
    (∀ k ∈ [{ core0 with cstate := .running }, { core0 with cstate := .inReset }, { core0 with power := .p2, inbox := List.replicate 64 ⟨1, 0, 0, 0⟩ }],
      let s : State := { sQ 7 0x1000 [0, 1, 0] with cores := [(0, k)] }
      (match s.park.deliverSignal 0 1 0x1000 1 0 with
      | .applied _ => decide (k.power = .p0 ∧ k.cstate = .running)
      | .error _ => decide (k.cstate = .inReset)
      | .later => decide (k.power = .p2)) = true) ∧
    (((tget State.reset.fabric.groups 9).getD []).contains State.reset.fabric.node = false ∧
      ((tget (sAw .nothing false 0).fabric.groups 9).getD []).contains (sAw .nothing false 0).fabric.node = true) ∧
    (State.reset.awaited 0x20 0 = none ∧ State.reset.fabric.mcasts = [] ∧
      let s : State := { sAw .nothing false 0 with fabric := { (sAw .nothing false 0).fabric with out := [] } }
      s.awaited 0x20 0 = none ∧ (s.fabric.mcasts.find? (fun m => m.sseq == 0 && m.waiting.contains 0x20)).map (·.waiting) = some [0x20]) ∧
    (∀ p ∈ [Purpose.answer 0 0, .load 0 0 0 0, .write 0 0 0], (((sAw p false 0).awaited 0x20 0).map (·.purpose)) = some p) ∧
    (∀ p ∈ [(false, 2000), (true, 1999), (true, 2000)], let s := sAw (.answer 0 0) p.1 p.2
      (s.awaited 0x20 0).map (fun x => (x.later, decide (x.sentAt + 2000 ≤ s.time.toNat))) = some (p.1, p.2 == 2000)) ∧
    ((sQ 7 0 []).getCore 0).granuleWaits = [] ∧ ((sQ 7 0 []).getCore 1).granuleWaits = [] ∧
    ((cxlPort 0x10000).isNone = true ∧ (∀ t ∈ [1999999, 2000000], ((BitVec.ofNat 64 t).toNat < 0 + 2000000 ↔ t = 1999999)) ∧
      (∀ x ∈ (sAw .nothing false 0).fabric.out, x.out = true) ∧
        (cxlPort 0x1000000000000).isSome = true) := by
  refine ⟨?_, ?_, ?_, ?_, ?_, ?_, ?_, ?_, ?_, ?_, ?_, ?_, ?_, ?_, ?_⟩ <;> decide +kernel

/-- Whether a step answers a next state that meets a condition. -/
def Goes (s : State) (p : State → Bool) : Bool :=
  match step s with
  | .next t => p t
  | _ => false
theorem witness_StepRunsTheDecodedWord :
    (let k : Core := { core0 with slots := [(0, strand0)], steps := [(0, { Step.fresh with live := true, strands := 1, rescyc := 0 })] }
      let l : Launch := { l1 [] with stages := [{ stage1 2 0 with budget := 5 }] }
      (sK k l (opnd 0 0 0)).power ≠ .off ∧ (sK k l (opnd 0 0 0)).tick.showAll.due = some (0, 0)) ∧
    ((sV 0x47 1 0).tick.showAll.due = none ∧ (sV 0x47 1 0).struck = [] ∧
      ∀ x ∈ [StorageError.corrected 0 0], ({ sV 0x47 1 0 with struck := [x] } : State).struck = x :: [] ∧ ({ sV 0x47 1 0 with struck := [x] } : State).tick.showAll.due = none) ∧
    ((sV 0x47 1 0).agenda = [] ∧ (sV 0x47 1 0).acting = true ∧ 0 < (sV 0x47 1 0).turn ∧
      (sV 0x47 1 0).tick.showAll.runnable 0 (sV 0x47 1 0).tick.showAll.core (sV 0x47 1 0).tick.showAll.strand = true ∧ (sV 0x47 1 0).strand.cv.live = true) ∧
    (∀ w ∈ [0x00000013, 0x002081CB, 0xFFFFFFFF, 0x00000000, 0x00000053],
      let s := State.reset.withFetchWord 32 w
      let v : State := { s.tick.showAll with turn := s.tick.showAll.turn - 1 }
      s.power ≠ .off ∧ s.agenda = [] ∧ s.acting = true ∧ 0 < s.turn ∧ s.tick.showAll.runnable s.here s.tick.showAll.core s.tick.showAll.strand = true ∧
        s.strand.cv.live = false ∧ s.strand.queue = [] ∧ (v.fetch s.strand.pc).2 = .word (BitVec.ofNat 32 w)) ∧
    (∀ pc ∈ [0x30000, 0x0200000000000000], let s := State.reset.withFetchWord 32 0
      let v : State := { s.tick.showAll with turn := s.tick.showAll.turn - 1 }
      (v.fetch (BitVec.ofNat 64 pc)).2 = if pc = 0x30000 then .miss pc else .bad 0x11 pc) ∧
    (isVectorWord 0x00000013 = false ∧ badScalarC 0x00000013 = false ∧ (decode 0x00000013).isOk = true) ∧
    (isVectorWord 0xFFFFFFFF = false ∧ badScalarC 0x00000000 = false ∧ (decode 0x00000000).isOk = false) ∧
    (isVectorWord 0x002081CB = true ∧ cBit 0x002081CB = false ∧ (decode 0x002081CB).isOk = true) ∧
    (let s := State.reset.withFetchWord 32 0x13
      let e : ConvoyEntry := { ConvoyEntry.empty with words := [0x002081CB] }
      let v : State := { s.tick.showAll with strand := { s.tick.showAll.strand with queue := [e] } }
      v.strand.cv.live = false ∧ v.strand.queue = [e] ∧ (v.runAhead).isNone = true ∧
        ((v.openConvoy e).strand.cv.k = 0) ∧ e.damaged = false ∧ ({ e with damaged := true } : ConvoyEntry).damaged = true) ∧
    (let s := State.reset.withFetchWord 32 0x002081CB
      let u := (State.fetch { s.tick.showAll with turn := s.tick.showAll.turn - 1 } s.strand.pc).1
      u.ahead = 0 ∧ u.capturesBad [0x002081CB] = false) := by
  refine ⟨?_, ?_, ?_, ?_, ?_, ?_, ?_, ?_, ?_, ?_⟩ <;> decide +kernel
theorem witness_NoStepStops :
    State.reset.power ≠ .off ∧ ({ State.reset with power := .off } : State).agenda = [] ∧
    (∃ x ∈ [({ what := .boot, inp := Input.none } : Todo)], x.what = .boot) := by decide +kernel
theorem witness_MemoryStaysCanonical : Goes (State.reset.withFetchWord 32 0x13) (fun t => decide (Memory.wf t.mem)) = true ∧
    Memory.wf (State.reset.withFetchWord 32 0x13).mem := by decide +kernel

/-! Single steps of the worked example of spec 14 (one step, two strands): the words and what each changes are the spec's. -/

/-- The strand in hand at a word, with scalars. -/
def sW1 (w : Nat) (xs : List (BitVec 5 × Word)) : State := regs (State.reset.withFetchWord 32 w) xs
theorem test_worked_addi : Goes (sW1 0x10000513 []) (fun t => t.x 10 == 0x100 && t.strand.pc == 0x10004) = true := by decide +kernel
theorem test_worked_addi_minus : Goes (sW1 0xFFF20593 [(4, 2)]) (fun t => t.x 11 == 1) = true := by decide +kernel
theorem test_worked_lea : Goes (sW1 0x04B53633 [(10, 0x100), (11, 1)]) (fun t => t.x 12 == 0x108) = true := by decide +kernel
theorem test_worked_add : Goes (sW1 0x00B486B3 [(9, 0x40), (11, 1)]) (fun t => t.x 13 == 0x41) = true := by decide +kernel
theorem test_worked_beq :
    Goes (sW1 0x00020C63 [(4, 0)]) (fun t => t.strand.pc == 0x10018) && Goes (sW1 0x00020C63 [(4, 1)]) (fun t => t.strand.pc == 0x10004) = true := by
  decide +kernel
theorem test_worked_store : Goes (sW1 0x00D63023 [(12, 0x108), (13, 0x41)])
    (fun t => (mbytes t.core.loc 0x108 8 == [0x41, 0, 0, 0, 0, 0, 0, 0]) && t.core.full.isEmpty) = true := by decide +kernel
/-- FORK without a claimed step: the step holds the most strands, so the parent's s4 is 0 (R337, R152). -/
theorem test_worked_fork_refused :
    Goes (let s := sW1 0x00005273 [(4, 9)]; { s with core := { s.core with steps := [(0, { Step.fresh with live := true, strands := 64 })] } })
      (fun t => t.x 4 == 0 && t.core.records.isEmpty) = true := by decide +kernel
/-- The loads and stores of s3's cell, and TRAP with no context to report to. -/
theorem test_worked_load : Goes (let s := sW1 0x0001A483 [(3, BitVec.ofNat 64 (Core.reset.cellAddr 0))]
    { s with core := s.core.locWrite (s.core.cellAddr 0) (bytesOf 4 0x40) }) (fun t => t.x 9 == 0x40) = true := by decide +kernel

end Sys2Proof.Tests
end

namespace Sys2Proof.Machine
open Sys2Proof

/-! What a step chooses: a row, or a state that follows, and nothing only in OFF (R26). -/

/-- Every row of the table has a meaning, and every meaning answers a next state (R252). -/
theorem exec_next (i : Instr) (s : State) : ∃ t, exec i s = .next t := by
  cases i <;> exact ⟨_, rfl⟩

theorem State.runWord_ne_off (s : State) (w : BitVec 32) : s.runWord w ≠ .off := by
  fun_cases State.runWord s w <;> simp

theorem State.convoyWord_ne_off (s : State) : s.convoyWord ≠ .off := s.runWord_ne_off _

theorem State.drainQueue_ne_off (s : State) : s.drainQueue ≠ .off := by
  fun_cases State.drainQueue s
  · simp
  · exact State.convoyWord_ne_off _
  · simp

theorem State.issueWord_ne_off (s : State) (w : BitVec 32) : s.issueWord w ≠ .off := by
  fun_cases State.issueWord s w
  case case2 => exact State.drainQueue_ne_off _
  case case8 => exact State.runWord_ne_off _ _
  all_goals simp

theorem State.runAhead_ne_off (s : State) : s.runAhead ≠ some .off := by
  fun_cases State.runAhead s <;> simp

theorem State.vectorTurn_ne_off (s : State) : s.vectorTurn ≠ .off := by
  fun_cases State.vectorTurn s
  · exact State.convoyWord_ne_off _
  · exact State.drainQueue_ne_off _

theorem State.runAhead_or_vectorTurn_ne_off (s : State) : s.runAhead.getD s.vectorTurn ≠ .off := by
  cases h : s.runAhead with
  | none => exact s.vectorTurn_ne_off
  | some c => exact fun e => s.runAhead_ne_off (h.trans (congrArg some e))

theorem State.issue_ne_off (s : State) : s.issue ≠ .off := by
  unfold State.issue
  dsimp only
  split
  · split
    · exact State.issueWord_ne_off _ _
    · simp
    · simp
  · split
    · exact State.runAhead_or_vectorTurn_ne_off _
    · exact State.vectorTurn_ne_off _

theorem State.turnOf_ne_off (s : State) (kind : Nat) : s.turnOf kind ≠ some .off := by
  unfold State.turnOf
  dsimp only
  split
  · split <;> simp
  · split
    · simp
    · simp [State.issue_ne_off]

theorem State.switch_ne_off (s : State) : s.switch ≠ .off := by
  unfold State.switch
  dsimp only
  split
  next h => exact fun e => State.turnOf_ne_off _ _ (h.trans (congrArg some e))
  next =>
    split
    next h => exact fun e => State.turnOf_ne_off _ _ (h.trans (congrArg some e))
    next =>
      cases h : s.park.turnOf ((s.park.phase + 2) % 3) with
        | none => simp
        | some c => exact fun e => State.turnOf_ne_off _ _ (h.trans (congrArg some e))

/-- Outside OFF there is always something that the module does next (R26). -/
theorem State.choose_ne_off (s : State) (h : s.power ≠ .off) : s.choose ≠ .off := by
  unfold State.choose
  rw [if_neg h]
  dsimp only
  split
  · simp
  · simp
  · split
    · simp
    · split
      · exact State.issue_ne_off _
      · exact State.switch_ne_off _

/-- A step whose choice is not nothing answers a next state. -/
theorem step_next (s : State) (h : s.choose ≠ .off) : ∃ t, step s = .next t := by
  unfold step
  split
  · exact exec_next _ _
  · exact ⟨_, rfl⟩
  · contradiction

/-- In OFF the first BOOT of the agenda runs, and without one there is nothing to do (R26). -/
theorem State.choose_off_iff (s : State) (h : s.power = .off) : s.choose = .off ↔ ∀ x ∈ s.agenda, x.what ≠ .boot := by
  unfold State.choose State.powerOn
  rw [if_pos h]
  split
  next hd =>
    simp only [reduceCtorEq, false_iff]
    intro hn
    have hnil := List.dropWhile_eq_nil_iff.mpr (fun x hx => decide_eq_true (hn x hx))
    cases hnil.symm.trans hd
  next hd => simpa [List.dropWhile_eq_nil_iff] using hd

/-- Settles O59: outside OFF `choose` always finds something, in OFF exactly where a BOOT waits, and every row answers a next state. -/
theorem noStepStops : Obligations.NoStepStops := by
  unfold Obligations.NoStepStops
  intro s
  refine ⟨fun h => step_next s (s.choose_ne_off h), fun h hb => step_next s ?_, fun h hb => ?_⟩
  · rw [Ne, s.choose_off_iff h]
    obtain ⟨x, hx, hw⟩ := hb
    exact fun hn => hn x hx hw
  · unfold step
    rw [(s.choose_off_iff h).mpr hb]
end Sys2Proof.Machine

namespace Sys2Proof.Machine
open Sys2Proof

/-! A registration changes every record of the core that has the number it names (R137): where a second one lies in the overflow region,
its bytes there change too (R142). -/

/-- A launch of context 0 whose overflow region lies at virtual address 0x10000 of ASID 1. -/
def spillingLaunch : Launch where
  st := .active
  record := 0
  ctx := 0
  asid := 1
  det := false
  gang := false
  moor := 8
  vlcapl := 12
  lpartreq := 0
  diemask := 1
  hbint := 0
  topb := 0
  qarea := 0
  ovfBase := codeVa
  ovfSize := 1
  donef := 0
  levels := []
  stages := [Stage.none]
  seed0 := 0
  seed1 := 0
  modidx := 0
  loops := []
  chunk := 1
  walked := 0
  queues := []
  faulted := 0
  byDevice := false
  who := none
  cores := [0]
  chunks := [(0, 0)]
  progress := 0

/-- A record numbered 0: in the mooring area with none before it in its list, or spilled with one before it. -/
def twinRecord (spilled : Bool) : Record :=
  { State.reset.blankRecord .leave 0 with spilled := spilled, next := bit spilled }

/-- A core of context 0 whose two records, one of them spilled, have the same number, and a registration of that number at the unresolved future at
physical address 0x20000. -/
def twinState : State :=
  { State.reset with
    cores := [(0, { Core.reset with
      ctx := some 0, records := [twinRecord false, twinRecord true], steps := [(0, { Step.fresh with live := true })] })]
    harbours := Vector.replicate 4 { Harbour.reset with launches := [(0, spillingLaunch)] }
    mem := placeWord [] 0
    inp := { Input.none with addr := 0x20000 } }

/-- The byte at an address after a row has run. -/
def byteAfter (i : Instr) (s : State) (x : Nat) : Option Byte :=
  match exec i s with
  | .next t => some (mget t.mem x)
  | _ => none

theorem byteAfter_next {i : Instr} {s t : State} (x : Nat) (h : exec i s = .next t) : byteAfter i s x = some (mget t.mem x) := by
  rw [byteAfter, h]

/-- The spilled twin's bytes are written at the page of its overflow region. -/
theorem twinState_spill_written : byteAfter .futureRegistration twinState codePa = some 1 ∧ mget twinState.mem codePa = 0 := by
  decide +kernel

theorem twinState_registers :
    Memory.wf twinState.mem ∧ twinState.bad twinState.inp.addr 16 = false ∧
      (twinState.getCore twinState.inp.core).ctx = some twinState.inp.slot ∧
      (twinState.getCore twinState.inp.core).record twinState.inp.n = some (twinRecord false) ∧
      futSt (twinState.peek twinState.inp.addr 8) < 2 ∧ (twinRecord false).spilled = false ∧ codePa < twinState.inp.addr := by
  decide +kernel

/-- Refutes O16: of two records with one number the registration of the first also relinks the second, and the second is spilled, so that its bytes in
the overflow region change although they lie outside the future. -/
theorem not_futuresResolveOnce : ¬ Obligations.FuturesResolveOnce := by
  unfold Obligations.FuturesResolveOnce
  intro ⟨hreg, _⟩
  obtain ⟨hwf, hbad, hctx, hrec, hst, hsp, hlt⟩ := twinState_registers
  obtain ⟨t, ht, _, hframe, _⟩ := (hreg twinState (twinRecord false) hwf hbad hctx hrec).1 hst hsp
  obtain ⟨hafter, hbefore⟩ := twinState_spill_written
  have hsame : mget t.mem codePa = mget twinState.mem codePa := hframe codePa (.inl hlt)
  rw [byteAfter_next codePa ht, hsame, hbefore] at hafter
  exact absurd hafter (by decide)
end Sys2Proof.Machine

namespace Sys2Proof.Machine
open Sys2Proof

/-! Tables and cores: a read after a write. -/

@[simp] theorem tset_tset_self {α : Type} (t : Table α) (k : Nat) (v w : α) : tset (tset t k v) k w = tset t k w := by
  induction t with
  | nil => simp [tset]
  | cons p r ih =>
    rw [tset]
    split
    · simp [tset, *]
    · split
      · simp [tset, *]
      · simp [tset, *]

/-- An entry that is there is replaced by one of which `p` says the same: `p` holds of some entry as before. -/
theorem any_tset {α : Type} (p : α → Bool) (t : Table α) (k : Nat) (u v : α) (hu : tget t k = some u) (h : p v = p u) :
    (tset t k v).any (fun x => p x.2) = t.any (fun x => p x.2) := by
  induction t with
  | nil => simp at hu
  | cons x r ih =>
    rw [tget_cons] at hu
    rw [tset]
    split
    next hlt =>
      rw [if_neg (by omega)] at hu
      have hr : (p u || r.any (fun y => p y.2)) = r.any (fun y => p y.2) := by
        rw [Bool.or_eq_right_iff_imp, List.any_eq_true]
        intro hp
        obtain ⟨y, hy, rfl⟩ := Option.map_eq_some_iff.mp hu
        exact ⟨y, List.mem_of_find?_eq_some hy, hp⟩
      rw [List.any_cons, List.any_cons, h, Bool.or_left_comm, hr]
    next =>
      split
      next he =>
        rw [if_pos he.symm] at hu
        obtain rfl := Option.some.inj hu
        rw [List.any_cons, List.any_cons, h]
      next hne =>
        rw [if_neg (Ne.symm hne)] at hu
        rw [List.any_cons, List.any_cons, ih hu]

@[simp] theorem State.getCore_setCore_self (s : State) (c : Nat) (k : Core) : (s.setCore c k).getCore c = k := by
  by_cases h : s.acting ∧ s.here = c <;> simp [State.setCore, State.getCore, h]

theorem State.getCore_setCore_ne (s : State) (c d : Nat) (k : Core) (h : d ≠ c) : (s.setCore c k).getCore d = s.getCore d := by
  unfold State.setCore State.getCore
  split
  next hc => rw [if_neg (by rintro ⟨_, rfl⟩; exact h hc.2), if_neg (by rintro ⟨_, rfl⟩; exact h hc.2)]
  next hc => simp only [tget_tset_ne _ _ _ _ h]

/-- A core's replacement changes the cores alone. -/
theorem State.setCore_frame (s : State) (c : Nat) (k : Core) : { s.setCore c k with core := s.core, cores := s.cores } = s := by
  unfold State.setCore
  split <;> rfl

theorem State.park_acting (s : State) : s.park.acting = false := by
  unfold State.park
  split
  next => rfl
  next h => exact Bool.eq_false_iff.mpr h

/-- Putting the strand in hand back changes the cores and what is in hand alone. -/
theorem State.park_frame (s : State) : { s.park with acting := s.acting, cores := s.cores } = s := by
  unfold State.park
  split <;> rfl

@[simp] theorem State.park_park (s : State) : s.park.park = s.park := by
  rw [State.park, if_neg (by simp [s.park_acting])]

section
variable (s : State)
@[simp] theorem State.park_inp : s.park.inp = s.inp := (congrArg State.inp s.park_frame :)
@[simp] theorem State.park_mem : s.park.mem = s.mem := (congrArg State.mem s.park_frame :)
@[simp] theorem State.park_poison : s.park.poison = s.poison := (congrArg State.poison s.park_frame :)
@[simp] theorem State.park_cxl : s.park.cxl = s.cxl := (congrArg State.cxl s.park_frame :)
@[simp] theorem State.park_cxlSilent : s.park.cxlSilent = s.cxlSilent := (congrArg State.cxlSilent s.park_frame :)
@[simp] theorem State.park_power : s.park.power = s.power := (congrArg State.power s.park_frame :)
@[simp] theorem State.park_time : s.park.time = s.time := (congrArg State.time s.park_frame :)
@[simp] theorem State.park_log : s.park.log = s.log := (congrArg State.log s.park_frame :)
@[simp] theorem State.park_agenda : s.park.agenda = s.agenda := (congrArg State.agenda s.park_frame :)
@[simp] theorem State.park_work : s.park.work = s.work := (congrArg State.work s.park_frame :)
@[simp] theorem State.park_draws : s.park.draws = s.draws := (congrArg State.draws s.park_frame :)
@[simp] theorem State.park_dieSleep : s.park.dieSleep = s.dieSleep := (congrArg State.dieSleep s.park_frame :)
@[simp] theorem State.park_fabric : s.park.fabric = s.fabric := (congrArg State.fabric s.park_frame :)
@[simp] theorem State.park_mbx : s.park.mbx = s.mbx := (congrArg State.mbx s.park_frame :)
@[simp] theorem State.park_apertures : s.park.apertures = s.apertures := (congrArg State.apertures s.park_frame :)
@[simp] theorem State.park_units : s.park.units = s.units := (congrArg State.units s.park_frame :)
end

/-! Links: a change of one link, and a packet that leaves, change the network alone (R31, R34). -/

theorem State.modLink_some {s : State} {n : Nat} {l : Link} (h : tget s.fabric.links n = some l) (f : Link → Link) :
    s.modLink n f = { s with fabric := { s.fabric with links := tset s.fabric.links n (f l) } } := by
  rw [State.modLink, h]

theorem State.modLink_frame (s : State) (n : Nat) (f : Link → Link) : { s.modLink n f with fabric := s.fabric } = s := by
  unfold State.modLink
  split <;> rfl

/-- Two changes of a link are one. -/
theorem State.modLink_modLink {s : State} {n : Nat} {l : Link} (h : tget s.fabric.links n = some l) (f g : Link → Link) :
    (s.modLink n f).modLink n g = s.modLink n (fun l => g (f l)) := by
  rw [State.modLink_some h, State.modLink_some (l := f l) (by simp), State.modLink_some h]
  simp

theorem State.modLink_sent (s : State) (n : Nat) (f : Link → Link) : (s.modLink n f).fabric.sent = s.fabric.sent := by
  unfold State.modLink
  split <;> rfl

theorem State.modLink_windows (s : State) (n : Nat) (f : Link → Link) : (s.modLink n f).fabric.windows = s.fabric.windows := by
  unfold State.modLink
  split <;> rfl

/-- What a link reads as after a change of a link. -/
theorem State.tget_modLink (s : State) (n m : Nat) (f : Link → Link) :
    tget (s.modLink n f).fabric.links m = if m = n then (tget s.fabric.links n).map f else tget s.fabric.links m := by
  cases h : tget s.fabric.links n with
  | none =>
    simp only [State.modLink, h]
    split
    next e => rw [e, h]; rfl
    next => rfl
  | some l =>
    rw [State.modLink_some h]
    by_cases e : m = n
    · simp [e]
    · rw [if_neg e]
      exact tget_tset_ne _ _ _ _ e

/-- Some link leads to a node exactly where some link is up (R31). -/
theorem Fabric.route_isSome (f : Fabric) (d : Nat) : (f.route d).isSome = f.links.any (fun x => x.2.up) := by
  unfold Fabric.route
  split
  next n h =>
    obtain ⟨hn, hup⟩ := Option.filter_eq_some_iff.mp h
    obtain ⟨l, hl, hlu⟩ : ∃ l, tget f.links n = some l ∧ l.up = true := by
      cases hl : tget f.links n <;> simp_all
    obtain ⟨y, hy, rfl⟩ := Option.map_eq_some_iff.mp hl
    exact (List.any_eq_true.mpr ⟨y, List.mem_of_find?_eq_some hy, hlu⟩).symm
  next =>
    rw [Option.isSome_map, Bool.eq_iff_iff, List.find?_isSome, List.any_eq_true]

/-- A change of a link that leaves it up, or down, leaves the nodes that can be reached (R22, R31). -/
theorem State.reaches_modLink (s : State) (n : Nat) (f : Link → Link) (hf : ∀ l, (f l).up = l.up) (d : Nat) :
    (s.modLink n f).fabric.reaches d = s.fabric.reaches d := by
  cases h : tget s.fabric.links n with
  | none => rw [State.modLink, h]
  | some l =>
    rw [State.modLink_some h]
    unfold Fabric.reaches
    rw [Fabric.route_isSome, Fabric.route_isSome]
    rw [any_tset Link.up _ _ _ _ h (hf l)]

@[simp] theorem State.emit_sent (s : State) (p : Packet) : (s.emit p).fabric.sent = s.fabric.sent ++ [p] := by
  unfold State.emit
  dsimp only
  split
  · rfl
  · rw [State.modLink_sent]

@[simp] theorem State.emit_windows (s : State) (p : Packet) : (s.emit p).fabric.windows = s.fabric.windows := by
  unfold State.emit
  dsimp only
  split
  · rfl
  · rw [State.modLink_windows]

theorem State.emit_frame (s : State) (p : Packet) : { s.emit p with fabric := s.fabric } = s := by
  unfold State.emit
  dsimp only
  split
  · rfl
  · exact congrArg (fun t : State => { t with fabric := s.fabric })
      (State.modLink_frame { s with fabric := { s.fabric with sent := s.fabric.sent ++ [p] } } _ _)

/-- A state and another that differ in the network and in what is due alone. -/
def NetOnly (s t : State) : Prop := { t with fabric := s.fabric, agenda := s.agenda, work := s.work } = s

namespace NetOnly

theorem of_fabric {s t : State} (h : { t with fabric := s.fabric } = s) : NetOnly s t := 
  (congrArg (fun u : State => { u with agenda := s.agenda, work := s.work }) h :)

theorem refl (s : State) : NetOnly s s := rfl

theorem trans {s t u : State} (h : NetOnly s t) (g : NetOnly t u) : NetOnly s u := 
  (congrArg (fun x : State => { x with fabric := s.fabric, agenda := s.agenda, work := s.work }) g :).trans h

theorem foldl {α : Type} (f : State → α → State) (hf : ∀ s x, NetOnly s (f s x)) (l : List α) (s : State) : NetOnly s (l.foldl f s) := by
  induction l generalizing s with
  | nil => exact refl s
  | cons x r ih => exact (hf s x).trans (ih _)

theorem soon (s : State) (w : Instr) (i : Input) : NetOnly s (s.soon w i) := rfl
theorem later (s : State) (w : Instr) (i : Input) : NetOnly s (s.later w i) := rfl
theorem modLink (s : State) (n : Nat) (f : Link → Link) : NetOnly s (s.modLink n f) := of_fabric (s.modLink_frame n f)
theorem emit (s : State) (p : Packet) : NetOnly s (s.emit p) := of_fabric (s.emit_frame p)

theorem emitMc (s : State) (p : Packet) (from_ : Option Nat) : NetOnly s (s.emitMc p from_) := by
  unfold State.emitMc
  split <;> rfl

/-- A packet taken from a link changes the network and what is due alone. -/
theorem takePacket (s : State) (n : Nat) (p : Packet) : NetOnly s (s.takePacket n p) := by
  unfold State.takePacket
  split
  · dsimp only
    split
    · exact (emitMc s p _).trans (soon _ _ _)
    · exact emitMc s p _
  · split
    · exact soon _ _ _
    · split
      · exact emit s p
      · split
        · exact emit s _
        · exact refl s

/-- So do all those that the ports held. -/
theorem takePorts (s : State) : NetOnly s s.takePorts := by
  unfold State.takePorts
  refine trans (t := List.foldl _ { s with agenda := [] } s.fabric.links) ?_ rfl
  refine trans (t := { s with agenda := [] }) rfl (foldl _ (fun u l => ?_) _ _)
  refine (modLink u l.1 _).trans (foldl _ (fun v p => ?_) _ _)
  refine trans (t := { v with agenda := [] }) rfl ?_
  exact ((modLink _ _ _).trans (takePacket _ _ _)).trans rfl

section
variable {s t : State} (h : NetOnly s t)
include h
theorem mem : t.mem = s.mem := (congrArg State.mem h :)
theorem power : t.power = s.power := (congrArg State.power h :)
theorem dieSleep : t.dieSleep = s.dieSleep := (congrArg State.dieSleep h :)
theorem harts : t.harts = s.harts := (congrArg State.harts h :)
theorem log : t.log = s.log := (congrArg State.log h :)
theorem getCore (c : Nat) : t.getCore c = s.getCore c := (congrArg (fun u : State => u.getCore c) h :)
end
end NetOnly
end Sys2Proof.Machine

namespace Sys2Proof.Machine
open Sys2Proof

/-! FLIT_RECEIVE (R20, R21, R28). -/

/-- One link as it becomes, and all outside the network as before. -/
def OnLink (s t : State) (n : Nat) (u : Link) : Prop := tget t.fabric.links n = some u ∧ { t with fabric := s.fabric } = s

theorem State.modLink_onLink {s : State} {n : Nat} {l : Link} (h : tget s.fabric.links n = some l) (f : Link → Link) :
    OnLink s (s.modLink n f) n (f l) :=
  ⟨by rw [State.tget_modLink, if_pos rfl, h]; rfl, s.modLink_frame n f⟩

/-- A flit of 128 bytes whose CRC is right. -/
abbrev Input.flitWhole (i : Input) : Prop := i.bytes.length = 128 ∧ Config.crc64 (i.bytes.take 120) = fld i.bytes 120 8

/-- The header of the flit in hand. -/
def State.flitHead (s : State) : Nat := fld s.inp.bytes 0 8

/-- A link that has taken the credits of a flit's header (R20). -/
def Link.paid (l : Link) (h : Nat) : Link := { l with
  credits := tset l.credits (bitsN h 15 13) ((tget l.credits (bitsN h 15 13)).getD 0 + bitsN h 31 24)
  held := if bitsN h 15 13 = 3 then retireHeld l.held (bitsN h 31 24) else l.held }

/-- A link that has received a packet of one flit in order, whose buffer is free again (R20). -/
def Link.received (l : Link) (h : Nat) : Link := { l.paid h with
  rxLseq := (bitsN h 23 16 + 1) % 256, askReplay := none, rx := []
  owed := tset l.owed (bitsN h 15 13) ((tget l.owed (bitsN h 15 13)).getD 0 + 1) }

theorem Link.received_up (l : Link) (h : Nat) : (l.received h).up = l.up := rfl

/-- The one flit of a packet in a flit's bytes. -/
abbrev State.flitOnly (s : State) : Flit :=
  { cred := bitsN s.flitHead 31 24, tc := bitsN s.flitHead 15 13, cmp := s.flitHead.testBit 12, len := 0, lseq := bitsN s.flitHead 23 16
    first := true, payload := (s.inp.bytes.drop 8).take 112 }

theorem bitsN_three_zero (h : Nat) : bitsN h 3 0 = h % 16 := by simp [bitsN]

section
variable {s : State} {l : Link} (hl : tget s.fabric.links s.inp.n = some l)
include hl

theorem flitReceive_damaged (hw : ¬ s.inp.flitWhole) :
    exec .flitReceive s = .next (s.modLink s.inp.n (fun l => { l with askReplay := some l.rxLseq })) := by
  show execFlitReceive s = _
  simp only [execFlitReceive, hl, bitsN_three_zero, ← State.flitHead.eq_1 s]
  rw [if_pos (by tauto)]

variable (hw : s.inp.flitWhole)
include hw

theorem flitReceive_reserved (h3 : 3 < s.flitHead % 16) :
    exec .flitReceive s =
      .next ((s.modLink s.inp.n (fun l => { l with retraining := true })).later .linkRetrainDone { Input.none with n := s.inp.n }) := by
  show execFlitReceive s = _
  simp only [execFlitReceive, hl, bitsN_three_zero, ← State.flitHead.eq_1 s]
  rw [if_neg (by tauto), if_pos h3]

theorem flitReceive_credits (h : s.flitHead % 16 = 0 ∨ s.flitHead % 16 = 3) :
    exec .flitReceive s = .next (s.modLink s.inp.n (·.paid s.flitHead)) := by
  show execFlitReceive s = _
  simp only [execFlitReceive, hl, bitsN_three_zero, ← State.flitHead.eq_1 s]
  rw [if_neg (by tauto), if_neg (by omega), if_pos h]
  rfl

theorem flitReceive_repeated (h : s.flitHead % 16 = 1 ∨ s.flitHead % 16 = 2) (hq : bitsN s.flitHead 23 16 ≠ l.rxLseq) :
    exec .flitReceive s = .next s := by
  show execFlitReceive s = _
  simp only [execFlitReceive, hl, bitsN_three_zero, ← State.flitHead.eq_1 s]
  rw [if_neg (by tauto), if_neg (by omega), if_neg (by omega), if_pos hq]

theorem flitReceive_packet (h : s.flitHead % 16 = 1) (hq : bitsN s.flitHead 23 16 = l.rxLseq) (hlen : bitsN s.flitHead 11 8 = 0)
    (hp : s.power ≠ .p4) {p : Packet} (hf : packetOfFlits [s.flitOnly] = some p) :
    exec .flitReceive s = .next ((s.modLink s.inp.n (·.received s.flitHead)).takePacket s.inp.n p) := by
  have hpow (f : Link → Link) : (s.modLink s.inp.n f).power = s.power := (NetOnly.modLink s _ f).power
  show execFlitReceive s = _
  simp only [execFlitReceive, hl, bitsN_three_zero, ← State.flitHead.eq_1 s]
  rw [if_neg (by tauto), if_neg (by omega), if_neg (by omega), if_neg (by simpa using hq)]
  simp only [h, decide_true, if_true, hlen, ne_eq, not_true, if_false, hf, hpow, hp]
  rw [State.modLink_modLink hl]
  rfl

end

/-! What a packet received here does (R31, R36, R48). -/

theorem State.takePacket_here (s : State) (n : Nat) (p : Packet) (hm : p.mc = false) (hd : p.dst = s.fabric.node) :
    s.takePacket n p = s.soon (packetRow p) { Input.none with pkt := p } := by
  rw [State.takePacket, if_neg (by simp [hm]), if_pos hd]

theorem State.takePacket_onward (s : State) (n : Nat) (p : Packet) (hm : p.mc = false) (hd : p.dst ≠ s.fabric.node)
    (hr : s.fabric.reaches p.dst = true) : s.takePacket n p = s.emit p := by
  rw [State.takePacket, if_neg (by simp [hm]), if_neg hd, if_pos hr]

theorem State.takePacket_noRoute (s : State) (n : Nat) (p : Packet) (hm : p.mc = false) (hd : p.dst ≠ s.fabric.node)
    (hr : s.fabric.reaches p.dst = false) (ho : p.op < 0x10) : s.takePacket n p = s.emit (noRoute p) := by
  rw [State.takePacket, if_neg (by simp [hm]), if_neg hd, if_neg (by simp [hr]), if_pos ho]
  rfl

theorem State.emit_agenda (s : State) (p : Packet) : (s.emit p).agenda = s.agenda := (congrArg State.agenda (s.emit_frame p) :)

/-- A unicast packet to another node makes nothing happen here. -/
theorem State.takePacket_elsewhere_agenda (s : State) (n : Nat) (p : Packet) (hm : p.mc = false) (hd : p.dst ≠ s.fabric.node) :
    (s.takePacket n p).agenda = s.agenda := by
  rw [State.takePacket, if_neg (by simp [hm]), if_neg hd]
  split
  · exact s.emit_agenda p
  · split
    · exact s.emit_agenda _
    · rfl

theorem State.emitMc_agenda (s : State) (p : Packet) (from_ : Option Nat) : (s.emitMc p from_).agenda = s.agenda := by
  unfold State.emitMc
  split <;> rfl

theorem State.emitMc_groups (s : State) (p : Packet) (from_ : Option Nat) :
    (s.emitMc p from_).fabric.groups = s.fabric.groups ∧ (s.emitMc p from_).fabric.node = s.fabric.node := by
  unfold State.emitMc
  split <;> exact ⟨rfl, rfl⟩

/-- A multicast packet is performed exactly where this module is a member (R48). -/
theorem State.takePacket_multicast_agenda (s : State) (n : Nat) (p : Packet) (hm : p.mc = true) :
    (s.takePacket n p).agenda =
      if ((tget s.fabric.groups p.dst).getD []).contains s.fabric.node then todo (packetRow p) { Input.none with pkt := p } :: s.agenda
      else s.agenda := by
  obtain ⟨hg, hn⟩ := s.emitMc_groups p (some n)
  rw [State.takePacket, if_pos hm]
  dsimp only
  rw [hg, hn, apply_ite State.agenda, State.soon, State.emitMc_agenda]

theorem State.modLink_node (s : State) (n : Nat) (f : Link → Link) :
    (s.modLink n f).fabric.node = s.fabric.node ∧ (s.modLink n f).fabric.groups = s.fabric.groups := by
  unfold State.modLink
  split <;> exact ⟨rfl, rfl⟩

theorem State.modLink_agenda (s : State) (n : Nat) (f : Link → Link) : (s.modLink n f).agenda = s.agenda :=
  (congrArg State.agenda (s.modLink_frame n f) :)

/-! LINK_REPLAY and LINK_RETRAIN_DONE (R21, R22). -/

theorem linkRetrainDone_some {s : State} {l : Link} (hl : tget s.fabric.links s.inp.n = some l) :
    exec .linkRetrainDone s = .next (s.modLink s.inp.n (fun l =>
      if l.retraining then { l with retraining := false, again := l.replay ++ l.again, replay := [] } else l)) := by
  show execLinkRetrainDone s = _
  simp only [execLinkRetrainDone, hl]

/-! LANE_LOSS (R22, R45, R49). -/

/-- A link of which a direction is left with `w` lanes at most. -/
def Link.lanesLeft (l : Link) (tx : Bool) (w : Nat) : Link :=
  if tx then { l with txLanes := min w l.txLanes } else { l with rxLanes := min w l.rxLanes }

/-- A link that has gone down, with nothing on it. -/
def Link.dead (l : Link) (tx : Bool) (w : Nat) : Link :=
  { l.lanesLeft tx w with queues := [], tx := [], again := [], replay := [], going := [], held := [] }

theorem min_two_eq (n : Nat) : min n 2 = if 2 ≤ n then 2 else n := by split <;> omega

theorem laneLoss_retrains {s : State} {l : Link} (hl : tget s.fabric.links s.inp.n = some l) (hw : min s.inp.addr 2 ≠ 0) :
    exec .laneLoss s = .next ((s.modLink s.inp.n (fun _ => { l.lanesLeft s.inp.ok (min s.inp.addr 2) with retraining := true })).later
      .linkRetrainDone { Input.none with n := s.inp.n }) := by
  rw [min_two_eq] at hw ⊢
  show execLaneLoss s = _
  simp only [execLaneLoss, hl]
  rw [if_pos hw]
  rfl

/-- A unicast packet of a link that went down takes the link that now leads to its node. -/
theorem State.reroute_unicast (s : State) (ms : List Nat) (p : Packet) (hm : p.mc = false) :
    s.reroute ms p = (s.fabric.route p.dst).elim s (fun n => s.modLink n (·.enqueue p)) := by
  unfold State.reroute
  rw [if_neg (by simp [hm])]
  cases s.fabric.route p.dst <;> rfl

/-- With no multicast on the link or waiting, the packets that are to take another are those in part sent and those queued. -/
theorem laneLoss_down {s : State} {l : Link} (hl : tget s.fabric.links s.inp.n = some l) (hw : min s.inp.addr 2 = 0)
    (hm : ∀ p ∈ l.going ++ l.queues.flatMap (·.2), p.mc = false) (hh : ∀ p ∈ l.held, p.1.mc = false) (hs : s.fabric.splits = []) :
    exec .laneLoss s = .next ((l.going ++ l.queues.flatMap (·.2)).foldl
      (fun (t : State) p => t.reroute (s.fabric.membersVia p.dst s.inp.n) p)
      { s with
        fabric := { s.fabric with links := tset s.fabric.links s.inp.n (l.dead s.inp.ok (min s.inp.addr 2)) }
        log := s.log ++ [(22, s.inp.n)] }) := by
  have hgoing : l.going.filter (fun p => !p.mc) = l.going :=
    List.filter_eq_self.mpr (fun p hp => by simp [hm p (List.mem_append_left _ hp)])
  have hheld : (l.held.map (·.1)).filter (·.mc) = [] := by
    rw [List.filter_eq_nil_iff]
    intro p hp
    obtain ⟨x, hx, rfl⟩ := List.mem_map.mp hp
    simp [hh x hx]
  rw [min_two_eq] at hw ⊢
  show execLaneLoss s = _
  simp only [execLaneLoss, hl]
  rw [if_neg (by simpa using hw), State.modLink_some hl]
  simp only [hs, hgoing, hheld, List.filter_nil, List.map_nil, List.append_nil]
  rfl

/-- Where no link leads to their nodes the packets are for their sources to send again. -/
theorem State.reroute_all_none (g : Packet → List Nat) (s : State) (ps : List Packet) (hm : ∀ p ∈ ps, p.mc = false)
    (hr : ∀ p ∈ ps, s.fabric.route p.dst = none) : ps.foldl (fun (t : State) p => t.reroute (g p) p) s = s := by
  induction ps with
  | nil => rfl
  | cons p r ih =>
    rw [List.foldl_cons, State.reroute_unicast _ _ _ (hm p (by simp)), hr p (by simp)]
    exact ih (fun q hq => hm q (by simp [hq])) (fun q hq => hr q (by simp [hq]))

/-- A link found up first is still the first after it, or its like, has been put in its place. -/
theorem find?_up_tset (t : Table Link) (m : Nat) (x v : Link) (hx : tget t m = some x) (hv : v.up = x.up)
    (hf : (t.find? (fun p => p.2.up)).map (·.1) = some m) : ((tset t m v).find? (fun p => p.2.up)).map (·.1) = some m := by
  induction t with
  | nil => simp at hx
  | cons y r ih =>
    rw [tget_cons] at hx
    rw [List.find?_cons] at hf
    rw [tset]
    split
    next hlt =>
      rw [List.find?_cons]
      split
      · rfl
      · rwa [List.find?_cons]
    next =>
      split
      next he =>
        rw [if_pos he.symm] at hx
        obtain rfl := Option.some.inj hx
        rw [List.find?_cons, hv]
        split
        · rfl
        next hu => simpa [hu] using hf
      next hne =>
        rw [if_neg (Ne.symm hne)] at hx
        rw [List.find?_cons]
        cases hu : y.2.up with
        | true => simp [hu] at hf; exact absurd hf.symm hne
        | false => rw [hu] at hf; exact ih hx hf

/-- A packet put into the queue of the link that leads to a node leaves it the link that leads there. -/
theorem Fabric.route_enqueue (f : Fabric) (m d : Nat) (x : Link) (p : Packet) (hx : tget f.links m = some x) (h : f.route d = some m) :
    ({ f with links := tset f.links m (x.enqueue p) } : Fabric).route d = some m := by
  have hup : (tget (tset f.links m (x.enqueue p)) m).any Link.up = (tget f.links m).any Link.up := by simp [hx]; rfl
  have hany (n : Nat) : (tget (tset f.links m (x.enqueue p)) n).any Link.up = (tget f.links n).any Link.up := by
    by_cases e : n = m
    · rw [e, hup]
    · rw [tget_tset_ne _ _ _ _ e]
  unfold Fabric.route at h ⊢
  simp only [hany]
  split at h
  next => exact h
  next => exact find?_up_tset _ _ _ _ hx rfl h

/-- Packets whose nodes all lie beyond one link join its queues in order. -/
theorem State.reroute_all_some (g : Packet → List Nat) (m : Nat) (ps : List Packet) (s : State) (x : Link) (hm : ∀ p ∈ ps, p.mc = false)
    (hr : ∀ p ∈ ps, s.fabric.route p.dst = some m) (hx : tget s.fabric.links m = some x) :
    tget (ps.foldl (fun (t : State) p => t.reroute (g p) p) s).fabric.links m = some (ps.foldl Link.enqueue x) ∧
      (ps.foldl (fun (t : State) p => t.reroute (g p) p) s).log = s.log := by
  induction ps generalizing s x with
  | nil => exact ⟨hx, rfl⟩
  | cons p r ih =>
    rw [List.foldl_cons, List.foldl_cons, State.reroute_unicast _ _ _ (hm p (by simp)), hr p (by simp)]
    have hr' (q : Packet) (hq : q ∈ r) : (s.modLink m (·.enqueue p)).fabric.route q.dst = some m := by
      rw [State.modLink_some hx]
      exact Fabric.route_enqueue _ _ _ _ _ hx (hr q (by simp [hq]))
    obtain ⟨hlink, hlog⟩ := ih (s.modLink m (·.enqueue p)) (x.enqueue p) (fun q hq => hm q (by simp [hq])) hr'
      (s.modLink_onLink hx _).1
    exact ⟨hlink, hlog.trans (NetOnly.modLink s m _).log⟩

/-! PACKET_SCHEDULE (R18-R23, R34). -/

/-- What the passing of flit times leaves of a link. -/
structure Link.SameGrants (l u : Link) : Prop where
  queues : u.queues = l.queues
  credits : u.credits = l.credits
  retraining : u.retraining = l.retraining
  up : u.up = l.up

theorem Link.sendOne_sameGrants (l : Link) : l.SameGrants l.sendOne := by
  fun_cases Link.sendOne l <;> exact ⟨rfl, rfl, rfl, rfl⟩

theorem Link.send_sameGrants (n : Nat) : ∀ l : Link, l.SameGrants (Link.send n l) := by
  induction n with
  | zero => exact fun l => ⟨rfl, rfl, rfl, rfl⟩
  | succ n ih =>
    intro l
    rw [Link.send]
    split
    · obtain ⟨hq, hc, hr, hu⟩ := ih l.sendOne
      obtain ⟨gq, gc, gr, gu⟩ := l.sendOne_sameGrants
      exact ⟨hq.trans gq, hc.trans gc, hr.trans gr, hu.trans gu⟩
    · exact ⟨rfl, rfl, rfl, rfl⟩

/-- What becomes of a link that has granted a packet of a class whole (R34), the flits sent meanwhile having left `u` of it: the packet's flits are
behind the transmit queue, and its credits are taken. -/
def Link.granted (l u : Link) (c : Nat) (p : Packet) (r : List Packet) : Link :=
  Link.settle { u with
    queues := tset l.queues c r
    credits := tset l.credits c ((tget l.credits c).getD 0 - (u.schedule p).length)
    tx := u.tx ++ u.schedule p
    going := u.going ++ [p]
    held := if c = 3 then u.held ++ [(p, (u.schedule p).length)] else u.held
    lseq := (u.lseq + (u.schedule p).length) % 256
    rr := c }

/-- The one value that a function has over a round of eight classes is found. -/
theorem findSome?_round {α : Type} (f : Nat → Option α) (rr c : Nat) (v : α) (hc : c < 8) (hv : f c = some v)
    (h : ∀ e, e < 8 → e ≠ c → f e = none) : (List.range 8).findSome? (fun k => f ((rr + 1 + k) % 8)) = some v := by
  have hval (k : Nat) : f ((rr + 1 + k) % 8) = none ∨ f ((rr + 1 + k) % 8) = some v := by
    by_cases e : (rr + 1 + k) % 8 = c
    · exact .inr (e ▸ hv)
    · exact .inl (h _ (Nat.mod_lt _ (by decide)) e)
  cases hs : (List.range 8).findSome? (fun k => f ((rr + 1 + k) % 8)) with
  | none =>
    rw [List.findSome?_eq_none_iff] at hs
    have := hs ((c + 8 * 8 - (rr + 1) % 8) % 8) (List.mem_range.mpr (Nat.mod_lt _ (by decide)))
    rw [show (rr + 1 + (c + 8 * 8 - (rr + 1) % 8) % 8) % 8 = c by omega, hv] at this
    cases this
  | some w =>
    obtain ⟨k, _, hk⟩ := List.exists_of_findSome?_eq_some hs
    rcases hval k with e | e
    · rw [e] at hk; cases hk
    · rw [← hk, e]

/-- The packet of a class that a link can grant: the oldest, with its credits and room for it. -/
def Link.offer (u : Link) (c : Nat) : Option (Nat × Packet × List Packet) :=
  match tget u.queues c with
  | some (p :: r) =>
    if (u.schedule p).length ≤ (tget u.credits c).getD 0 ∧ u.tx.length + (u.schedule p).length ≤ 512 then some (c, p, r) else none
  | _ => none

/-- A link with one packet ready, its credits and room for it, grants it. -/
theorem packetSchedule_grants {s : State} {l : Link} (hl : tget s.fabric.links s.inp.n = some l) {c : Nat} {p : Packet} {r : List Packet}
    (hc : c < 8) (hq : tget l.queues c = some (p :: r)) (ho : ∀ e, e < 8 → e ≠ c → (tget l.queues e).getD [] = [])
    (ht : l.retraining = false) (hu : l.up = true) (hcr : ((Link.send s.inp.addr l).schedule p).length ≤ (tget l.credits c).getD 0)
    (hroom : (Link.send s.inp.addr l).tx.length + ((Link.send s.inp.addr l).schedule p).length ≤ 512) :
    exec .packetSchedule s = .next (s.modLink s.inp.n (fun _ => l.granted (Link.send s.inp.addr l) c p r)) := by
  obtain ⟨gq, gc, gr, gu⟩ := Link.send_sameGrants s.inp.addr l
  show execPacketSchedule s = _
  simp only [execPacketSchedule, hl]
  generalize Link.send s.inp.addr l = u at *
  have hoffer : u.offer c = some (c, p, r) := by
    rw [Link.offer, gq, hq]
    exact if_pos ⟨gc ▸ hcr, hroom⟩
  have hother (e : Nat) (he : e < 8) (hne : e ≠ c) : u.offer e = none := by
    have hnil := ho e he hne
    rw [Link.offer, gq]
    split
    next h => rw [h] at hnil; cases hnil
    next => rfl
  have hround := findSome?_round u.offer u.rr c (c, p, r) hc hoffer hother
  rw [if_neg (by simp [gr, ht, gu, hu])]
  generalize hg : List.findSome? _ _ = o
  obtain rfl : o = some (c, p, r) := hg.symm.trans hround
  dsimp only
  rw [State.modLink_modLink hl, Link.granted, ← gq, ← gc]

/-! MULTICAST_SPLIT (R48, R50). -/

/-- A copy that has a credit on every branch joins the queue of each. -/
theorem State.tget_enqueue_all (ns : List Nat) (p : Packet) (s : State) (hd : ns.Nodup) (n : Nat) (l : Link)
    (hl : tget s.fabric.links n = some l) :
    tget (ns.foldl (fun (t : State) m => t.modLink m (·.enqueue p)) s).fabric.links n = some (if n ∈ ns then l.enqueue p else l) := by
  induction ns generalizing s l with
  | nil => simpa using hl
  | cons m r ih =>
    obtain ⟨hm, hr⟩ := List.nodup_cons.mp hd
    rw [List.foldl_cons]
    by_cases e : n = m
    · subst e
      rw [ih _ hr (l.enqueue p) (s.modLink_onLink hl _).1, if_neg hm, if_pos (by simp)]
    · rw [ih _ hr l (by rw [State.tget_modLink, if_neg e, hl])]
      simp [e]

theorem State.enqueue_all_frame (ns : List Nat) (p : Packet) (s : State) :
    { ns.foldl (fun (t : State) m => t.modLink m (·.enqueue p)) s with fabric := s.fabric } = s := by
  induction ns generalizing s with
  | nil => rfl
  | cons m r ih =>
    exact (congrArg (fun t : State => { t with fabric := s.fabric }) (ih (s.modLink m (·.enqueue p))) :).trans (s.modLink_frame m _)

/-- Whether every branch of the copy in hand has a credit for it. -/
def State.branchesReady (s : State) (ns : List Nat) : Prop :=
  ∀ n ∈ ns, ∃ l, tget s.fabric.links n = some l ∧ l.hasCredit (opClass s.inp.pkt.op) = true

theorem State.all_hasCredit_iff (s : State) (ns : List Nat) :
    ns.all (fun n => (tget s.fabric.links n).any (fun l => l.hasCredit (opClass s.inp.pkt.op))) = true ↔ s.branchesReady ns := by
  rw [List.all_eq_true]
  refine forall₂_congr (fun n _ => ?_)
  cases tget s.fabric.links n <;> simp

/-- One waiting copy goes out on every branch where each has a credit for it, and else waits on. -/
theorem State.advanceSplits_one (s : State) (ns : List Nat) (p : Packet) :
    s.advanceSplits [] [(p, ns)] =
      if ns.all (fun n => (tget s.fabric.links n).any (fun l => l.hasCredit (opClass p.op))) then
        (ns.foldl (fun (t : State) m => t.modLink m (·.enqueue p)) s, [])
      else (s, [(p, ns)]) := by
  simp only [State.advanceSplits, List.contains_nil, List.any_eq_true, Bool.false_eq_true, and_false, exists_const, false_or, Bool.not_eq_true']
  split
  next h => rw [if_neg (by simp [h])]
  next h => rw [if_pos (by simpa using h)]

section
variable {s : State} (hs : s.fabric.splits = []) (hn : s.inp.bytes.map (·.toNat) ≠ [])
include hs hn

theorem multicastSplit_waits (h : ¬ s.branchesReady (s.inp.bytes.map (·.toNat))) :
    exec .multicastSplit s = .next (State.owing
      { s with fabric := { s.fabric with splits := [(s.inp.pkt, s.inp.bytes.map (·.toNat))] } } .multicastSplit Input.none) := by
  have hb : s.inp.bytes.isEmpty = false := by cases hb : s.inp.bytes <;> simp_all
  rw [← State.all_hasCredit_iff] at h
  show execMulticastSplit s = _
  simp only [execMulticastSplit, hs, hb, List.nil_append, Bool.false_eq_true, if_false, State.advanceSplits_one, if_neg h]
  rfl

theorem multicastSplit_advances (h : s.branchesReady (s.inp.bytes.map (·.toNat))) :
    exec .multicastSplit s = .next (
      let t := (s.inp.bytes.map (·.toNat)).foldl (fun (t : State) m => t.modLink m (·.enqueue s.inp.pkt)) s
      { t with fabric := { t.fabric with splits := [] } }) := by
  have hb : s.inp.bytes.isEmpty = false := by cases hb : s.inp.bytes <;> simp_all
  rw [← State.all_hasCredit_iff] at h
  show execMulticastSplit s = _
  simp only [execMulticastSplit, hs, hb, List.nil_append, Bool.false_eq_true, if_false, State.advanceSplits_one, if_pos h]
  rfl

end
end Sys2Proof.Machine

namespace Sys2Proof.Machine
open Sys2Proof

/-! Requests outstanding (R44, R45, R47). -/

/-- The state without an outstanding request. -/
def State.without (s : State) (p : Pending) : State := { s with fabric := { s.fabric with out := s.fabric.out.erase p } }

/-- Where every request has gone out, a request settled lets no other go. -/
theorem State.settled_allOut (s : State) (p : Pending) (h : ∀ x ∈ s.fabric.out, x.out = true) : s.settled p = s.without p := by
  have hnone : (s.fabric.out.erase p).find? (fun x => !x.out && !x.parked && x.pkt.dst == p.pkt.dst) = none := by
    rw [List.find?_eq_none]
    intro x hx
    simp [h x (List.mem_of_mem_erase hx)]
  simp only [State.settled, hnone]
  rfl

/-- The completion of the request that a strand's word waits for. -/
theorem State.complete_answer (s : State) {p : Pending} {ctx core : Nat} (hp : p.purpose = .answer ctx core)
    (h : ∀ x ∈ s.fabric.out, x.out = true) (ok : Bool) (op cause fut : Nat) (data : List Byte) :
    s.complete p ok op cause fut data =
      { s.without p with agenda := answerTo p ctx core ok cause (if ok then valueOf (data.take 8) else fut) :: s.agenda } := by
  unfold State.complete
  simp only [s.settled_allOut p h, State.completeFor, hp]
  rfl

/-! RETRANSMIT_TIMEOUT (R45). -/

theorem retransmitTimeout_none {s : State} (h : s.awaited s.inp.queue s.inp.n = none) : exec .retransmitTimeout s = .next s := by
  show execRetransmitTimeout s = _
  simp only [execRetransmitTimeout, h]

section
variable {s : State} {p : Pending} (h : s.awaited s.inp.queue s.inp.n = some p)
include h

theorem retransmitTimeout_waits (hw : p.later = true ∨ p.out = false ∨ s.time.toNat < p.sentAt + 100000) :
    exec .retransmitTimeout s = .next (s.owing .retransmitTimeout s.inp) := by
  show execRetransmitTimeout s = _
  simp only [execRetransmitTimeout, h]
  rw [if_pos (by simpa using hw)]
  rfl

variable (hl : p.later = false) (ho : p.out = true) (ht : p.sentAt + 100000 ≤ s.time.toNat)
include hl ho ht

theorem retransmitTimeout_resends (hr : p.resends < 8) :
    exec .retransmitTimeout s = .next ((s.resend p (p.resends + 1) false).later .retransmitTimeout s.inp) := by
  show execRetransmitTimeout s = _
  simp only [execRetransmitTimeout, h]
  rw [if_neg (by simp [hl, ho]; omega), if_pos hr]

theorem retransmitTimeout_fails (hr : 8 ≤ p.resends) : exec .retransmitTimeout s = .next (s.park.complete p false opError 0x40 0 []) := by
  show execRetransmitTimeout s = _
  simp only [execRetransmitTimeout, h]
  rw [if_neg (by simp [hl, ho]; omega), if_neg (by omega)]

end

theorem State.emit_out (s : State) (p : Packet) : (s.emit p).fabric.out = s.fabric.out := by
  unfold State.emit
  dsimp only
  split
  · rfl
  · unfold State.modLink
    split <;> rfl

/-! The ports and the scrubber (R14-R17). -/

theorem cxlViral_ports (s : State) (m : Fin 4) :
    (s.cxl.set (s.inp.n % 4) .viral (Nat.mod_lt _ (by decide)))[m] = if m.val = s.inp.n % 4 then .viral else s.cxl[m] := by
  rw [Fin.getElem_fin, Vector.getElem_set]
  simp only [eq_comm (a := s.inp.n % 4)]
  rfl

theorem foldl_logError (s : State) (rule : Nat) (f : Nat → Nat) (gs : List Nat) :
    gs.foldl (fun (s : State) g => s.logError rule (f g)) s = { s with log := s.log ++ gs.map (fun g => (rule, f g)) } := by
  induction gs generalizing s with
  | nil => simp
  | cons g r ih => rw [List.foldl_cons, ih]; simp [State.logError]

theorem getD_set_self {n : Nat} (v : Vector Nat n) (i x d : Nat) (h : i < n) : (v.set i x h).toList.getD i d = x := by
  rw [List.getD_eq_getElem _ _ (by simpa using h)]
  simp

theorem patrolScrub_scrubbed (s : State) : ∃ t, exec .patrolScrub s = .next t ∧ Scrubbed s t (s.inp.n % 12) := by
  refine ⟨_, rfl, ?_⟩
  dsimp only
  rw [foldl_logError]
  exact ⟨rfl, getD_set_self _ _ _ _ (Nat.mod_lt _ (by decide)), getD_set_self _ _ _ _ (Nat.mod_lt _ (by decide)), rfl, rfl⟩

/-! Power states (R25-R28, R51, R52). -/

/-- A core that can enter P1: running, with no resident strand and no ready record (R26). -/
abbrev Core.calm (k : Core) : Prop := k.power = .p0 ∧ k.slots = [] ∧ ∀ p ∈ k.order, p.2 = []

theorem execP1Entry_eq (s : State) :
    exec .p1Entry s = .next (if (s.park.getCore s.inp.core).calm then
      s.park.setCore s.inp.core { s.park.getCore s.inp.core with power := .p1 } else s.park) := by
  show execP1Entry s = _
  simp only [execP1Entry, Core.calm, List.isEmpty_iff, List.all_eq_true]

theorem execP2Entry_eq (s : State) :
    exec .p2Entry s = .next (if (s.park.getCore s.inp.core).power = .p1 ∧ s.park.unsettled s.inp.core = none then
      { s.park with draws := s.draws + 2 }.setCore s.inp.core
        { (s.park.getCore s.inp.core).forget s.draws with power := .p2 } else s.park) := by
  show execP2Entry s = _
  simp only [execP2Entry, Option.isNone_iff_eq_none, State.park_draws, Nat.add_sub_cancel]

theorem State.setCore_mem (s : State) (c : Nat) (k : Core) : (s.setCore c k).mem = s.mem := (congrArg State.mem (s.setCore_frame c k) :)
theorem State.setCore_draws (s : State) (c : Nat) (k : Core) : (s.setCore c k).draws = s.draws := (congrArg State.draws (s.setCore_frame c k) :)
theorem State.setCore_power (s : State) (c : Nat) (k : Core) : (s.setCore c k).power = s.power := (congrArg State.power (s.setCore_frame c k) :)
theorem State.setCore_dieSleep (s : State) (c : Nat) (k : Core) : (s.setCore c k).dieSleep = s.dieSleep :=
  (congrArg State.dieSleep (s.setCore_frame c k) :)
theorem State.setCore_harts (s : State) (c : Nat) (k : Core) : (s.setCore c k).harts = s.harts := (congrArg State.harts (s.setCore_frame c k) :)

theorem mem_nremove (l : List Nat) (k j : Nat) : j ∈ nremove l k ↔ j ∈ l ∧ j ≠ k := by simp [nremove]

theorem State.leaveP4_of_ne (s : State) (h : s.power ≠ .p4) : s.leaveP4 = s := if_neg h

/-- What the module is once it has left P4 (R26, R28). -/
theorem State.leaveP4_frame (s : State) (h : s.power = .p4) :
    NetOnly ({ s with power := .on }.modHart 8 (fun h => { h with power := .p0, lastKick := s.time.toNat })) s.leaveP4 := by
  rw [State.leaveP4, if_pos h]
  exact NetOnly.takePorts _

theorem State.leaveP4_power (s : State) : s.leaveP4.power ≠ .p4 := by
  by_cases h : s.power = .p4
  · rw [(s.leaveP4_frame h).power]
    exact ModPower.noConfusion
  · rwa [s.leaveP4_of_ne h]

/-- A core woken, its inbox emptied: the signals that it held are still to be applied (R51, R52). -/
def State.woken (s : State) (c : Nat) : State :=
  { s with dieSleep := nremove s.dieSleep (dieOf c) }.setCore c { s.getCore c with power := .p0, inbox := [] }

theorem execCoreWake_eq (s : State) :
    exec .coreWake s = .next ((s.park.leaveP4.woken s.inp.core).applyHeld s.inp.core (s.park.leaveP4.getCore s.inp.core).inbox) := rfl

theorem coreWake_awake {s : State} (h : s.power ≠ .p4) :
    exec .coreWake s = .next ((s.park.woken s.inp.core).applyHeld s.inp.core (s.park.getCore s.inp.core).inbox) := by
  rw [execCoreWake_eq, s.park.leaveP4_of_ne (by simpa using h)]

theorem coreWake_fromP4 {s : State} (h : s.power = .p4) (hi : (s.park.getCore s.inp.core).inbox = []) :
    ∃ t, exec .coreWake s = .next t ∧ t.power = .on ∧ dieOf s.inp.core ∉ t.dieSleep ∧ (t.hart 8).power = .p0 ∧
      (t.getCore s.inp.core).power = .p0 ∧ t.mem = s.mem := by
  have hw := s.park.leaveP4_frame (by simpa using h)
  have hinbox : (s.park.leaveP4.getCore s.inp.core).inbox = [] := by rw [hw.getCore]; exact hi
  refine ⟨_, execCoreWake_eq s, ?_⟩
  rw [hinbox]
  refine ⟨?_, ?_, ?_, ?_, ?_⟩
  · exact (State.setCore_power _ _ _).trans hw.power
  · show _ ∉ (State.woken _ _).dieSleep
    rw [State.woken, State.setCore_dieSleep, mem_nremove]
    exact fun h => h.2 rfl
  · show ((State.woken _ _).hart 8).power = _
    rw [State.hart, State.woken, State.setCore_harts]
    show (s.park.leaveP4.hart 8).power = .p0
    rw [State.hart, hw.harts]
    exact congrArg Hart.power (hart_modHart { s.park with power := .on } 8 _)
  · show ((State.woken _ _).getCore s.inp.core).power = _
    rw [State.woken, State.getCore_setCore_self]
  · show (State.woken _ _).mem = _
    rw [State.woken, State.setCore_mem]
    exact hw.mem.trans s.park_mem

/-! The debug port (R89). -/

/-- Whether the access in hand is to a die in P3 or a module in P4. -/
def State.debugAsleep (s : State) : Bool := decide (s.power = ModPower.p4) || s.dieSleep.contains (s.inp.die % 4)

/-- Whether the lifecycle state and the debug mode allow it. -/
def State.debugMay (s : State) (k : DebugKind) : Bool := debugAllows s.fw.lifecycle s.fw.debug s.debugAsleep k

/-- The state with an access of the debug port counted. -/
def State.debugCounted (s : State) : State := { s.park with fw := { s.fw with debugAccesses := s.fw.debugAccesses + 1 } }

/-- The state as a change through the debug port finds it on a die that slept: the module and the die are awake. -/
def State.debugWoken (s : State) (die : Nat) : State := { s.leaveP4 with dieSleep := nremove s.leaveP4.dieSleep (die % 4) }

section
variable {s : State} {k : DebugKind} (hk : debugKind s.inp.n s.inp.ok = some k)
include hk

theorem debugAccess_refused (h : s.debugMay k = false) : exec .debugAccess s = .next s := by
  show execDebugAccess s = _
  simp only [execDebugAccess, hk]
  rw [if_pos]
  rw [Bool.not_eq_true']
  exact h

variable (hm : s.debugMay k = true)
include hm

theorem debugAccess_reads (hc : k.changes = false) :
    exec .debugAccess s = .next { s.debugCounted with
      fw := { s.debugCounted.fw with debugOut := s.fw.debugOut ++ s.debugCounted.debugRead k s.inp } } := by
  show execDebugAccess s = _
  simp only [execDebugAccess, hk]
  rw [if_neg (by rw [Bool.not_eq_true', Bool.not_eq_false]; exact hm), if_neg (by simp [hc])]
  rfl

variable (hc : k.changes = true)
include hc

theorem debugAccess_changes_awake (ha : s.debugAsleep = false) : exec .debugAccess s = .next (s.debugCounted.debugChange k s.inp) := by
  show execDebugAccess s = _
  simp only [execDebugAccess, hk]
  rw [if_neg (by rw [Bool.not_eq_true', Bool.not_eq_false]; exact hm), if_pos hc, if_neg (by rw [Bool.not_eq_true]; exact ha)]
  rfl

theorem debugAccess_changes_asleep (ha : s.debugAsleep = true) :
    exec .debugAccess s = .next ((s.debugCounted.debugWoken s.inp.die).debugChange k s.inp) := by
  show execDebugAccess s = _
  simp only [execDebugAccess, hk]
  rw [if_neg (by rw [Bool.not_eq_true', Bool.not_eq_false]; exact hm), if_pos hc, ← State.debugAsleep.eq_1 s, if_pos ha]
  rfl

end

/-- Memory takes bytes that lie in it, behind a port that is up, where no sector is poisoned. -/
theorem State.writePhys_clean (s : State) (pa : Nat) (bs : List Byte) (hm : inMemory pa bs.length = true) (hp : s.portDown pa = false)
    (h : s.poison = []) : ∃ t, s.writePhys pa bs = .ok t := by
  unfold State.writePhys
  dsimp only
  rw [if_neg (by simp [hm]), if_neg (by simp [hp]), if_neg (by simp [h])]
  exact ⟨_, rfl⟩

/-- A state as awake as another. -/
def StaysAwake (s t : State) : Prop := t.power = s.power ∧ ∀ d ∈ t.dieSleep, d ∈ s.dieSleep

theorem StaysAwake.of_eq {s t : State} (hp : t.power = s.power) (hd : t.dieSleep = s.dieSleep) : StaysAwake s t :=
  ⟨hp, fun _ h => hd ▸ h⟩

theorem State.writePhys_staysAwake (s t : State) (pa : Nat) (bs : List Byte) (h : s.writePhys pa bs = .ok t) : StaysAwake s t := by
  obtain ⟨-, -, -, hframe⟩ := State.writePhys_ok s t pa bs h
  refine ⟨(congrArg State.power hframe :), ?_⟩
  unfold State.writePhys at h
  dsimp only at h
  split at h
  · cases h
  · split at h
    · cases h
    · split at h
      · cases h
      · cases h
        exact fun d hd => ((mem_nremove _ _ _).mp hd).1

theorem State.modCore_staysAwake (s : State) (c : Nat) (f : Core → Core) : StaysAwake s (s.modCore c f) :=
  .of_eq (s.setCore_power c _) (s.setCore_dieSleep c _)

theorem State.modHart_staysAwake (s : State) (h : Nat) (f : Hart → Hart) : StaysAwake s (s.modHart h f) := .of_eq rfl rfl

theorem State.csrWriteRow_staysAwake (s : State) (h idx : Nat) (d : Word) : StaysAwake s (s.csrWriteRow h idx d) := by
  unfold State.csrWriteRow
  dsimp only
  split_ifs
  all_goals exact .of_eq rfl rfl

theorem State.modRv_staysAwake (s : State) (h : Nat) (f : Rv → Rv) : StaysAwake s (s.modRv h f) := s.modHart_staysAwake _ _

theorem State.hartCsrPut_staysAwake (s : State) (h idx : Nat) (d : Word) : StaysAwake s (s.hartCsrPut h idx d) := by
  unfold State.hartCsrPut
  split
  · exact s.csrWriteRow_staysAwake _ _ _
  · exact s.modRv_staysAwake _ _

theorem State.scanHart_staysAwake (s : State) (h n v : Nat) : StaysAwake s (s.scanHart h n v) := by
  unfold State.scanHart
  split_ifs
  · exact s.modRv_staysAwake _ _
  · exact s.modRv_staysAwake _ _
  · exact s.modRv_staysAwake _ _
  · exact s.modRv_staysAwake _ _
  · exact s.hartCsrPut_staysAwake _ _ _
  · exact .of_eq rfl rfl

/-- A change through the debug port puts nothing to sleep. -/
theorem State.debugChange_staysAwake (s : State) (k : DebugKind) (i : Input) : StaysAwake s (s.debugChange k i) := by
  cases k with
  | write =>
    show StaysAwake s (match s.writePhys i.addr i.bytes with | .ok s => s | .error _ => s)
    split
    next t h => exact s.writePhys_staysAwake t _ _ h
    next => exact .of_eq rfl rfl
  | scanHart => exact s.scanHart_staysAwake _ _ _
  | halt on => exact s.modCore_staysAwake _ _
  | writeLocal => exact s.modCore_staysAwake _ _
  | writeOperands => exact s.modCore_staysAwake _ _
  | writeAccumulators => exact s.modCore_staysAwake _ _
  | scan => exact s.modCore_staysAwake _ _
  | _ => exact .of_eq rfl rfl

/-- A change on a die that slept, or in P4, leaves it awake (R89). -/
theorem State.debugChange_debugWoken (s : State) (k : DebugKind) (i : Input) (die : Nat) :
    die % 4 ∉ ((s.debugWoken die).debugChange k i).dieSleep ∧ ((s.debugWoken die).debugChange k i).power ≠ .p4 := by
  obtain ⟨hpower, hsleep⟩ := (s.debugWoken die).debugChange_staysAwake k i
  refine ⟨fun hd => ((mem_nremove _ _ _).mp (hsleep _ hd)).2 rfl, ?_⟩
  rw [hpower]
  exact s.leaveP4_power

theorem debugLimits : DebugLimits := by
  intro l a k
  refine ⟨rfl, rfl, fun h => ?_, fun h => ?_⟩
  · simp [debugAllows, h]
  · cases k <;> cases a <;> simp_all [debugAllows, DebugKind.changes, DebugKind.standing]

/-! The rows of O40 put together. -/

/-! A packet of one flit in order (R20, R31, R36, R48) is acted on here, sent on, answered with no-route, or copied to a group. -/

theorem flitReceive_packet_here {s : State} {l : Link} (hl : tget s.fabric.links s.inp.n = some l) (p : Packet) (hm : p.mc = false)
    (hd : p.dst = s.fabric.node) :
    let t := (s.modLink s.inp.n (·.received s.flitHead)).takePacket s.inp.n p
    tget t.fabric.links s.inp.n = some (l.received s.flitHead) ∧ t.agenda = todo (packetRow p) { Input.none with pkt := p } :: s.agenda := by
  intro t
  have ht : t = (s.modLink s.inp.n (·.received s.flitHead)).soon (packetRow p) { Input.none with pkt := p } :=
    State.takePacket_here _ _ p hm (hd.trans (s.modLink_node _ _).1.symm)
  rw [ht]
  exact ⟨(State.modLink_onLink hl _).1, congrArg (_ :: ·) (s.modLink_agenda _ _)⟩

theorem flitReceive_packet_elsewhere (s : State) (p : Packet) (hm : p.mc = false) (hd : p.dst ≠ s.fabric.node) :
    let t := (s.modLink s.inp.n (·.received s.flitHead)).takePacket s.inp.n p
    t.agenda = s.agenda ∧ (s.fabric.reaches p.dst = true → t.fabric.sent = s.fabric.sent ++ [p]) ∧
      (s.fabric.reaches p.dst = false → p.op < 0x10 → t.fabric.sent = s.fabric.sent ++ [noRoute p]) := by
  intro t
  have hnode : p.dst ≠ (s.modLink s.inp.n (·.received s.flitHead)).fabric.node := by rwa [(s.modLink_node _ _).1]
  have hreach := s.reaches_modLink s.inp.n (·.received s.flitHead) (fun l => l.received_up _) p.dst
  refine ⟨?_, fun hr => ?_, fun hr ho => ?_⟩
  · exact (State.takePacket_elsewhere_agenda _ _ p hm hnode).trans (s.modLink_agenda _ _)
  · rw [show t = _ from State.takePacket_onward _ _ p hm hnode (hreach.trans hr), State.emit_sent, State.modLink_sent]
  · rw [show t = _ from State.takePacket_noRoute _ _ p hm hnode (hreach.trans hr) ho, State.emit_sent, State.modLink_sent]

theorem flitReceive_packet_multicast (s : State) (p : Packet) (hm : p.mc = true) :
    ((s.modLink s.inp.n (·.received s.flitHead)).takePacket s.inp.n p).agenda =
      if ((tget s.fabric.groups p.dst).getD []).contains s.fabric.node then todo (packetRow p) { Input.none with pkt := p } :: s.agenda
      else s.agenda := by
  obtain ⟨hnode, hgroups⟩ := s.modLink_node s.inp.n (·.received s.flitHead)
  rw [State.takePacket_multicast_agenda _ _ p hm, hnode, hgroups, s.modLink_agenda]

theorem linkReplay_some {s : State} :
    exec .linkReplay s = .next (s.modLink s.inp.n (fun l => { l with
      again := l.replay.dropWhile (fun f => f.lseq != s.inp.addr) ++ l.again
      replay := l.replay.takeWhile (fun f => f.lseq != s.inp.addr) })) := rfl

end Sys2Proof.Machine

namespace Sys2Proof.Machine
open Sys2Proof

/-- Settles O40: each row is one case of its meaning, by the lemmas above; what it leaves of the rest is read off the frame of what it calls. -/
theorem linksAndPowerAct : Obligations.LinksAndPowerAct := by
  unfold Obligations.LinksAndPowerAct
  intro s
  refine ⟨fun l hl => ⟨fun hw => ?_, fun hw h3 => ?_, fun hw h => ?_, fun hw h hq => ?_, fun p hw h hq hlen hp hf => ?_, ?_, ?_, ?_, ?_⟩,
    fun hs hn => ⟨fun h => ?_, fun h hd => ?_⟩, retransmitTimeout_none, fun p hp => ⟨?_, ?_, ?_⟩, rfl, ?_, patrolScrub_scrubbed s,
    ?_, ?_, debugLimits⟩
  -- A flit.
  · exact ⟨_, flitReceive_damaged hl hw, State.modLink_onLink hl _⟩
  · exact ⟨_, flitReceive_reserved hl hw h3, (State.modLink_onLink hl _).1, by simp [State.later, todo]⟩
  · exact ⟨_, flitReceive_credits hl hw h, State.modLink_onLink hl _⟩
  · exact flitReceive_repeated hl hw h hq
  · have hexec := flitReceive_packet hl hw h hq hlen hp hf
    exact ⟨fun hm hd => ⟨_, hexec, flitReceive_packet_here hl p hm hd⟩, fun hm hd => ⟨_, hexec, flitReceive_packet_elsewhere s p hm hd⟩,
      fun hm => ⟨_, hexec, flitReceive_packet_multicast s p hm⟩⟩
  -- A link's replay, training, lanes and grants.
  · exact ⟨_, linkReplay_some, State.modLink_onLink hl _⟩
  · exact ⟨_, linkRetrainDone_some hl, State.modLink_onLink hl _⟩
  · refine ⟨fun hw => ⟨_, laneLoss_retrains hl hw, (State.modLink_onLink hl _).1, by simp [State.later, todo]⟩, fun hw hm hh hs => ?_⟩
    have hexec := laneLoss_down hl hw hm hh hs
    exact ⟨fun hr => hexec.trans (congrArg _ (State.reroute_all_none _ _ _ hm hr)),
      fun m x hr hx => ⟨_, hexec, State.reroute_all_some _ m _ _ x hm hr hx⟩⟩
  · intro c p r u fs hc hq ho ht hu hcr hroom
    exact ⟨_, packetSchedule_grants hl hc hq ho ht hu hcr hroom, State.modLink_onLink hl _⟩
  -- A multicast's copies.
  · exact multicastSplit_waits hs hn h
  · refine ⟨_, multicastSplit_advances hs hn h, State.enqueue_all_frame _ _ s, fun n hmem l hl => ?_⟩
    exact (State.tget_enqueue_all _ _ s hd n l hl).trans (by rw [if_pos hmem])
  -- A request without a response.
  · exact retransmitTimeout_waits hp
  · intro hl ho ht hr
    exact ⟨_, retransmitTimeout_resends hp hl ho ht hr, by rw [State.later_fabric, State.resend]; simp, by
      rw [State.later_fabric, State.resend, State.emit_out]; simp⟩
  · intro ctx core hl ho ht hr hout ha
    have hall : ∀ x ∈ s.park.fabric.out, x.out = true := by simpa using hout
    refine ⟨_, retransmitTimeout_fails hp hl ho ht hr, ?_, ?_⟩
    · rw [State.complete_answer _ ha hall]; simp [State.without]
    · rw [State.complete_answer _ ha hall]; simp
  -- The CXL port; then the power states.
  · exact ⟨_, rfl, cxlViral_ports s, rfl⟩
  · refine ⟨fun h => ⟨_, (execP1Entry_eq s).trans (by rw [if_pos h]), State.getCore_setCore_self _ _ _, ?_⟩, fun h => ?_, fun h1 hu => ?_,
      fun h => ?_, ?_, ?_, fun h => ?_, fun h hi => coreWake_fromP4 h hi⟩
    · rw [State.setCore_mem, State.park_mem]
    · rw [execP1Entry_eq, if_neg h]
    · refine ⟨_, (execP2Entry_eq s).trans (by rw [if_pos ⟨h1, hu⟩]), ?_⟩
      dsimp only
      rw [State.getCore_setCore_self, State.setCore_draws, State.setCore_mem]
      exact ⟨rfl, ⟨rfl, rfl, rfl, rfl⟩, rfl, s.park_mem⟩
    · rw [execP2Entry_eq, if_neg (by tauto)]
    · rw [← s.park_dieSleep]; rfl
    · rw [← s.park_fabric]; rfl
    · rw [← s.park_dieSleep]
      refine ⟨fun hi => (coreWake_awake h).trans (by rw [hi]; rfl), fun g u hi hu => (coreWake_awake h).trans ?_⟩
      rw [hi, State.applyHeld]
      rw [show (s.park.woken s.inp.core).applySignal s.inp.core g.asid g.laddr g.credit g.err = .applied u from hu]
      rfl
  -- The debug port.
  · refine fun k hk => ⟨fun hm => debugAccess_refused hk hm, fun hm hc => ?_, fun hm he ha hin hport hpo => ?_, fun on hm he ha => ?_,
      fun hm hc ha => ?_⟩
    · exact debugAccess_reads hk hm hc
    · subst he
      obtain ⟨t, ht⟩ := s.debugCounted.writePhys_clean s.inp.addr s.inp.bytes hin
        (by rw [← hport, State.debugCounted]; simp [State.portDown]) (by simpa [State.debugCounted] using hpo)
      obtain ⟨-, -, hmem, hframe⟩ := State.writePhys_ok _ _ _ _ ht
      refine ⟨t, (debugAccess_changes_awake hk hm rfl ha).trans ?_, hmem.trans ?_, (congrArg State.cores hframe :)⟩
      · simp only [State.debugChange, ht]
      · exact congrArg (mstore · _ _) s.park_mem
    · subst he
      exact debugAccess_changes_awake hk hm rfl ha
    · exact ⟨_, debugAccess_changes_asleep hk hm hc ha, State.debugChange_debugWoken _ _ _ _⟩
end Sys2Proof.Machine

namespace Sys2Proof.Machine
open Sys2Proof

/-! Loads after a store, of memory in any form (R4). -/

theorem mwalk_zero (m : Mem) (a : Nat) : mwalk m a 0 = 0 := by cases m <;> rfl

theorem mwalk_nil (a n : Nat) : mwalk [] a n = 0 := by cases n <;> rfl

/-- A memory that lists nothing at an address or below it reads from the next on. -/
theorem mwalk_above (m : Mem) (a n : Nat) (h : ∀ c ∈ m, a < c.1) : mwalk m a (n + 1) = 256 * mwalk m (a + 1) n := by
  cases m with
  | nil => rw [mwalk_nil, mwalk_nil]
  | cons c r => rw [mwalk, if_neg (by have := h c (by simp); omega)]

/-- The bytes of a store are read back from its cells. -/
theorem mwalk_cellsOf (bs : List Byte) (m : Mem) (a n : Nat) (hn : n ≤ bs.length) (h : ∀ c ∈ m, a + bs.length ≤ c.1) :
    mwalk (cellsOf a bs ++ m) a n = valueOf (bs.take n) := by
  induction bs generalizing a n with
  | nil =>
    obtain rfl : n = 0 := Nat.le_zero.mp hn
    exact mwalk_zero _ _
  | cons b r ih =>
    cases n with
    | zero => exact mwalk_zero _ _
    | succ n =>
      rw [List.length_cons] at hn h
      have hrest := ih (a + 1) n (by omega) (fun c hc => by have := h c hc; omega)
      rw [List.take_succ_cons, valueOf, cellsOf]
      split
      next hb =>
        rw [mwalk_above, hrest, hb]
        · simp
        · intro c hc
          rcases List.mem_append.mp hc with hc | hc
          · exact (cellsOf_key _ _ _ hc).1
          · have := h c hc; omega
      next => rw [List.cons_append, mwalk, if_pos rfl, hrest]

theorem cellsOf_drop (bs : List Byte) (m : Mem) (a k : Nat) (hk : k ≤ bs.length) (h : ∀ c ∈ m, a + k ≤ c.1) :
    (cellsOf a bs ++ m).dropWhile (fun c => c.1 < a + k) = cellsOf (a + k) (bs.drop k) ++ m := by
  have hstop (l : Mem) (j : Nat) (hl : ∀ c ∈ l, j ≤ c.1) : l.dropWhile (fun c => c.1 < j) = l := by
    cases l with
    | nil => rfl
    | cons c r => rw [List.dropWhile_cons, if_neg (by have := hl c (by simp); simpa using this)]
  induction bs generalizing a k with
  | nil =>
    rw [List.length_nil, Nat.le_zero] at hk
    subst hk
    exact hstop _ _ h
  | cons b r ih =>
    cases k with
    | zero =>
      refine hstop _ _ (fun c hc => ?_)
      rcases List.mem_append.mp hc with hc | hc
      · exact (cellsOf_key _ _ _ hc).1
      · exact h c hc
    | succ k =>
      rw [List.length_cons] at hk
      have hrest := ih (a + 1) k (by omega) (fun c hc => by have := h c hc; omega)
      rw [show a + 1 + k = a + (k + 1) by omega] at hrest
      rw [cellsOf, List.drop_succ_cons]
      split
      · exact hrest
      · rw [List.cons_append, List.dropWhile_cons, if_pos (by simp), hrest]

/-- Bytes of a store are loaded as they were stored. -/
theorem mload_mstore_within (m : Mem) (a k n : Nat) (bs : List Byte) (h : k + n ≤ bs.length) :
    mload (mstore m a bs) (a + k) n = valueOf ((bs.drop k).take n) := by
  have hlow (l t : Mem) (hl : ∀ c ∈ l, c.1 < a + k) :
      (l ++ t).dropWhile (fun c => c.1 < a + k) = t.dropWhile (fun c => c.1 < a + k) := by
    induction l with
    | nil => rfl
    | cons c r ih =>
      rw [List.cons_append, List.dropWhile_cons, if_pos (by simpa using hl c (by simp))]
      exact ih (fun d hd => hl d (by simp [hd]))
  have hhigh (c : Host.Cell) (hc : c ∈ m.filter (fun c => a + bs.length ≤ c.1)) : a + bs.length ≤ c.1 :=
    of_decide_eq_true (List.mem_filter.mp hc).2
  unfold mload mstore
  rw [List.append_assoc, hlow _ _ (fun c hc => by have := of_decide_eq_true (List.mem_filter.mp hc).2; omega),
    cellsOf_drop _ _ _ _ (by omega) (fun c hc => by have := hhigh c hc; omega),
    mwalk_cellsOf _ _ _ _ (by rw [List.length_drop]; omega) (fun c hc => by have := hhigh c hc; rw [List.length_drop]; omega)]

theorem valueOf_bytesOf (n : Nat) : ∀ v : Nat, valueOf (bytesOf n v) = v % 256 ^ n := by
  induction n with
  | zero => intro v; rw [Nat.pow_zero, Nat.mod_one]; rfl
  | succ n ih =>
    intro v
    rw [bytesOf, valueOf, ih, Nat.pow_succ 256 n, Nat.mul_comm (256 ^ n) 256, Nat.mod_mul, BitVec.toNat_ofNat]

/-- A number stored is loaded, of memory in any form. -/
theorem mload_stored (m : Mem) (a n v : Nat) : mload (mstore m a (bytesOf n v)) a n = v % 256 ^ n := by
  have h := mload_mstore_within m a 0 n (bytesOf n v) (by simp)
  rw [Nat.add_zero, List.drop_zero, List.take_of_length_le (by simp), valueOf_bytesOf] at h
  exact h

/-! What reads of memory leave, and what they depend on (R15, R28). -/

/-- States of which memory answers alike: the bytes, the poison, the ports and the sectors that do not answer. -/
structure SameMemory (s t : State) : Prop where
  mem : t.mem = s.mem
  poison : t.poison = s.poison
  cxl : t.cxl = s.cxl
  cxlSilent : t.cxlSilent = s.cxlSilent

namespace SameMemory
variable {s t : State} (h : SameMemory s t)
include h

theorem portDown (pa : Nat) : t.portDown pa = s.portDown pa := by rw [State.portDown, h.cxl]; rfl

theorem bad (pa n : Nat) : t.bad pa n = s.bad pa n := by rw [State.bad, h.portDown, h.poison, h.cxlSilent]; rfl

theorem readPhys (pa n : Nat) : t.readPhys pa n = s.readPhys pa n := by rw [State.readPhys, h.bad, h.mem]; rfl

theorem peek (pa n : Nat) : t.peek pa n = s.peek pa n := by rw [State.peek, h.mem]; rfl

end SameMemory

theorem State.park_sameMemory (s : State) : SameMemory s s.park := ⟨by simp, by simp, by simp, by simp⟩

/-- A state that counts reads is as it was but for the dies awake and the stacks' counters. -/
def Counted (s t : State) : Prop := { t with dieSleep := s.dieSleep, hbmce := s.hbmce, hbmue := s.hbmue } = s

namespace Counted

theorem refl (s : State) : Counted s s := rfl

theorem trans {s t u : State} (h : Counted s t) (g : Counted t u) : Counted s u :=
  (congrArg (fun x : State => { x with dieSleep := s.dieSleep, hbmce := s.hbmce, hbmue := s.hbmue }) g :).trans h

theorem read (s : State) (pa n : Nat) : Counted s (s.countRead pa n) := rfl

theorem walkFrom (s : State) (va : Nat) (level table : Nat) : Counted s (s.countFrom va level table) := by
  induction level generalizing s table with
  | zero => exact read s _ _
  | succ l ih =>
    rw [State.countFrom]
    split
    · exact read s _ _
    · exact (read s _ _).trans (ih _ _)

/-- A walk is counted and leaves the rest (R15, R171). -/
theorem walk (s : State) (asid va : Nat) : Counted s (s.countWalk asid va) := by
  unfold State.countWalk
  dsimp only
  split
  · exact refl s
  · split
    · exact read s _ _
    · exact (read s _ _).trans (walkFrom _ _ _ _)

section
variable {s t : State} (h : Counted s t)
include h
theorem sameMemory : SameMemory s t :=
  ⟨(congrArg State.mem h :), (congrArg State.poison h :), (congrArg State.cxl h :), (congrArg State.cxlSilent h :)⟩
theorem cores : t.cores = s.cores := (congrArg State.cores h :)
theorem fabric : t.fabric = s.fabric := (congrArg State.fabric h :)
theorem units : t.units = s.units := (congrArg State.units h :)
theorem poison : t.poison = s.poison := (congrArg State.poison h :)
theorem mem : t.mem = s.mem := (congrArg State.mem h :)
end
end Counted

/-! Writes that memory takes (R14, R15). -/

/-- Where no byte of a range reads as uncorrectable, memory takes them. -/
theorem State.writePhys_of_not_bad (s : State) (pa : Nat) (bs : List Byte) (h : s.bad pa bs.length = false) :
    ∃ t, s.writePhys pa bs = .ok t := by
  simp only [State.bad, Bool.or_eq_false_iff, Bool.not_eq_false', List.any_eq_false] at h
  obtain ⟨⟨hm, hp⟩, hg⟩ := h
  unfold State.writePhys
  dsimp only
  rw [if_neg (by simp [hm]), if_neg (by simp [hp]), if_neg]
  · exact ⟨_, rfl⟩
  · rw [List.any_eq_true]
    rintro ⟨g, hmem, h⟩
    have := hg g hmem
    simp_all

theorem State.readPhys_ok {s : State} {pa n v : Nat} (h : s.readPhys pa n = .ok v) : s.bad pa n = false ∧ v = mload s.mem pa n := by
  unfold State.readPhys at h
  split at h
  · cases h
  next hb => exact ⟨Bool.eq_false_iff.mpr hb, (Except.ok.inj h).symm⟩

/-- What a write that memory takes leaves of the rest. -/
theorem State.writePhys_keeps {s t : State} {pa : Nat} {bs : List Byte} (h : s.writePhys pa bs = .ok t) :
    t.mem = mstore s.mem pa bs ∧ t.cores = s.cores ∧ t.fabric = s.fabric := by
  obtain ⟨-, -, hmem, hframe⟩ := State.writePhys_ok _ _ _ _ h
  exact ⟨hmem, (congrArg State.cores hframe :), (congrArg State.fabric hframe :)⟩

/-- A read-modify-write of bytes that memory answers (R188). -/
theorem State.atomicPhys_ok (s : State) (pa n : Nat) (f : Nat → Nat) {old : Nat} (h : s.readPhys pa n = .ok old) :
    ∃ t, s.atomicPhys pa n f = .ok (old, t) ∧ t.mem = mstore s.mem pa (bytesOf n (f old)) ∧ t.cores = s.cores ∧ t.fabric = s.fabric := by
  have hbad : (s.countRead pa n).bad pa (bytesOf n (f old)).length = false := by
    rw [(Counted.read s pa n).sameMemory.bad, bytesOf_length]
    exact (State.readPhys_ok h).1
  obtain ⟨t, ht⟩ := State.writePhys_of_not_bad _ _ _ hbad
  obtain ⟨hmem, hcores, hfabric⟩ := State.writePhys_keeps ht
  refine ⟨t, ?_, hmem, hcores, hfabric⟩
  unfold State.atomicPhys
  rw [h]
  dsimp only
  rw [ht]

/-- Bytes put at a home that does not read as uncorrectable. -/
theorem State.putHome_of_not_bad (s : State) (pa : Nat) (bs : List Byte) (h : s.bad pa bs.length = false) :
    (s.putHome pa bs).mem = mstore s.mem pa bs ∧ (s.putHome pa bs).cores = s.cores ∧ (s.putHome pa bs).fabric = s.fabric := by
  obtain ⟨t, ht⟩ := s.writePhys_of_not_bad pa bs h
  rw [State.putHome, ht]
  exact State.writePhys_keeps ht

end Sys2Proof.Machine

namespace Sys2Proof.Machine
open Sys2Proof

/-! A request answered (R33, R46). -/

/-- The source's window has room and does not know the request. -/
def State.Fresh (s : State) (q : Packet) : Prop := (∀ e ∈ s.windowOf q.src, e.sseq ≠ q.sseq) ∧ (s.windowOf q.src).length < 4096

theorem State.Fresh.of_windows {s t : State} {q : Packet} (h : s.Fresh q) (hw : t.fabric.windows = s.fabric.windows) : t.Fresh q := by
  have : t.windowOf q.src = s.windowOf q.src := by rw [State.windowOf, hw]; rfl
  rw [State.Fresh, this]
  exact h

/-- An answer to a request that its window does not know is the last of it. -/
theorem enterWindow_fresh (w : List WinEntry) (e : WinEntry) (h : ∀ x ∈ w, x.sseq ≠ e.sseq) (hl : w.length < 4096) :
    enterWindow w e = w ++ [e] := by
  have hw : w.filter (fun x => x.sseq != e.sseq) = w := List.filter_eq_self.mpr (fun x hx => by simpa using h x hx)
  rw [enterWindow, hw]
  exact if_pos (by rw [List.length_append, List.length_singleton]; omega)

theorem WinEntry.bytes_length (e : WinEntry) : e.bytes.length = 16 := by simp [WinEntry.bytes]

theorem State.respond_frame (s : State) (q : Packet) (op addr : Nat) (data : List Byte) :
    { s.respond q op addr data with fabric := s.fabric } = s := State.emit_frame _ _

theorem State.respond_responded (s : State) (q : Packet) (op addr : Nat) (data : List Byte) :
    Responded s (s.respond q op addr data) q op addr data := State.emit_sent _ _

/-- The answer of a request from a state is what `AnsweredFrom` says of it. -/
theorem State.answer_answeredFrom {u : State} {q : Packet} (h : u.Fresh q) (op addr : Nat) (data : List Byte) :
    AnsweredFrom u (u.answer q .done op addr data) q op addr data := by
  let e : WinEntry := { sseq := q.sseq, st := .done, op := op, resp := if op = opPager then bytesOf 8 addr else data.take 8 }
  let v : State := { u with
    mem := mstore u.mem (windowAt q) e.bytes
    fabric := { u.fabric with windows := tset u.fabric.windows q.src (enterWindow (u.windowOf q.src) e) } }
  have ht : u.answer q .done op addr data = v.respond q op addr data := rfl
  have hframe := v.respond_frame q op addr data
  have hmem : (v.respond q op addr data).mem = mstore u.mem (windowAt q) e.bytes := (congrArg State.mem hframe :)
  have hlen : e.bytes.length = 16 := e.bytes_length
  rw [ht]
  refine ⟨v.respond_responded q op addr data, ?_, fun i hi => ?_, fun a ha => ?_, ?_⟩
  · have hwin : (v.respond q op addr data).fabric.windows = v.fabric.windows := State.emit_windows _ _
    rw [State.windowOf, hwin, tget_tset_self]
    exact enterWindow_fresh _ e h.1 h.2
  · rw [hmem, mget_mstore, if_pos (by omega), Nat.add_sub_cancel_left]
  · rw [hmem, mget_mstore_ne _ _ _ _ (by omega)]
  · exact (congrArg (fun x : State => { x with fabric := u.fabric, mem := u.mem }) hframe :)

/-- A retry-later answer (R45): the response, the window's entry and nothing else. -/
theorem State.answer_retryLater (u : State) (q : Packet) :
    Responded u (u.answer q .retryLater opRetryLater 0 []) q 0x13 0 [] ∧
      { u.answer q .retryLater opRetryLater 0 [] with fabric := u.fabric, mem := u.mem } = u :=
  ⟨State.emit_sent _ _, (congrArg (fun x : State => { x with fabric := u.fabric, mem := u.mem }) (State.respond_frame _ q opRetryLater 0 []) :)⟩

/-- What performing a request makes of a state. -/
def State.replied (s : State) (q : Packet) : Reply → State
  | .now u op addr data => u.answer q .done op addr data
  | .retry => s.answer q .retryLater opRetryLater 0 []

/-- A fresh request is performed and answered (R46). -/
theorem State.takeIn_fresh {s : State} {q : Packet} (h : s.Fresh q) (f : State → Reply) : s.takeIn q f = s.replied q (f s) := by
  have hnone : (s.windowOf q.src).find? (fun e => e.sseq == q.sseq) = none :=
    List.find?_eq_none.mpr (fun e he => by simpa using h.1 e he)
  simp only [State.takeIn, hnone, if_pos h.2]
  cases f s <;> rfl

/-- A request that its window knows as done, and that is no read, gets the answer of its entry again (R46). -/
theorem State.takeIn_done {s : State} {q : Packet} {e : WinEntry} (h : (s.windowOf q.src).find? (fun x => x.sseq == q.sseq) = some e)
    (hd : e.st = .done) (hr : q.op ≠ opRead) (f : State → Reply) : s.takeIn q f = s.respondAgain q e := by
  simp only [State.takeIn, h, hd, if_neg hr]

theorem State.whenAwake_awake {s : State} (h : s.power ≠ .p4) (w : Instr) (f : State → State) : s.whenAwake w f = f s.park := by
  rw [State.whenAwake, if_neg (by simpa using h)]

theorem State.whenAwake_p4 {s : State} (h : s.power = .p4) (w : Instr) (f : State → State) :
    s.whenAwake w f = { s.park with agenda := todo .coreWake Input.none :: todo w s.inp :: s.agenda } := by
  rw [State.whenAwake, if_pos (by simpa using h)]
  simp [State.soon]

theorem FreshRequest.power {s : State} {q : Packet} (h : FreshRequest s q) : s.power ≠ .p4 := h.1

theorem FreshRequest.park {s : State} {q : Packet} (h : FreshRequest s q) : s.park.Fresh q :=
  State.Fresh.of_windows (s := s) ⟨h.2.1, h.2.2⟩ (by rw [State.park_fabric])

/-- A row that takes a fresh request in, whose performing is an answer, ends in a state answered from that. -/
theorem answered {s : State} {x : Instr} {q : Packet} {f : State → Reply} (hx : s.power ≠ .p4 → exec x s = .next (s.park.takeIn q f))
    (hq : FreshRequest s q) {u : State} {op addr : Nat} {data : List Byte} (hf : f s.park = .now u op addr data)
    (hw : u.fabric.windows = s.fabric.windows) : ∃ t, exec x s = .next t ∧ AnsweredFrom u t q op addr data := by
  refine ⟨u.answer q .done op addr data, ?_, State.answer_answeredFrom (hq.park.of_windows (by rw [hw, State.park_fabric])) _ _ _⟩
  rw [hx hq.power, State.takeIn_fresh hq.park, hf]
  rfl

/-! The rows of requests, by what performing each gives. -/

/-- The answer of pieces read for a peer: an acquire takes those of the ordinary or host class alone. -/
def readAnswer (q : Packet) (n : Nat) (s : State) (ps : List Piece) : Reply :=
  if pktAcquire ≤ q.word 0 ∧ !ps.all ordinaryOrHost then errReply s 0x11
  else
    match (s.countPieces ps).readPieces ps with
    | .ok v => .now (s.countPieces ps) opData 0 (bytesOf n v)
    | .error c => errReply (s.countPieces ps) c

/-- READ_REQUEST performed. -/
def readReply (q : Packet) (s : State) : Reply :=
  let n := q.word 0 % pktAcquire
  if s.fromHost q then
    if inMbx q.addr then
      if n = 8 ∧ q.addr % 8 = 0 then .now s opData 0 (bytesOf 8 (s.readMbx (q.addr - mbxBase))) else errReply s 0x11
    else
      match s.apertureFor q.src q.addr n with
      | none => s.refuseHostReq q
      | some _ =>
        if 1024 < n then errReply s 0x11
        else
        let s := s.countRead q.addr n
        match s.readPhys q.addr n with
        | .ok v => .now s opData 0 (bytesOf n v)
        | .error c => errReply (s.logError 434 q.addr) c
  else if q.asid = 0 then s.refuseHostReq q
  else if 1024 < n then errReply s 0x11
  else
    s.homeAccess q .load n (readAnswer q n)

/-- WRITE_REQUEST performed. -/
def writeReply (q : Packet) (s : State) : Reply :=
  if s.fromHost q then
    if inMbx q.addr then s.mbxReply q
    else
      match s.apertureFor q.src q.addr q.data.length with
      | none => s.refuseHostReq q
      | some a =>
        if !a.rw then s.refuseHostReq q
        else
          match s.writePhys q.addr q.data with
          | .ok s => ackReply s
          | .error c => errReply (s.logError 434 q.addr) c
  else
    s.homeAccess q .store q.data.length (fun s ps =>
      match s.writeEach q.data (ps.flatMap (Piece.cuts q.data.length)) with
      | (s, 0, _) => ackReply s
      | (s, n, c) => .now s opError 0 (bytesOf 1 c ++ bytesOf 7 n))

/-- APPEND_RESERVATION performed. -/
def reservationReply (q : Packet) (s : State) : Reply :=
  s.homeAccess q .append 1 (fun s ps =>
    match ps with
    | [.here pa _ _ unit _] =>
      if s.portDown pa then errReply s 0x40
      else
        let (v, s) := s.unitAppend (pa / unit * unit) unit (q.word 0)
        .now s opData 0 (bytesOf 8 v)
    | _ => errReply s 0x11)

/-- MESSAGE_APPEND performed at a core that is awake. -/
def messageReply (q : Packet) (s : State) : Reply :=
  if q.asid = 0 then s.refuseHostReq q
  else
    match s.appendMsg (q.addr / 2 ^ 22) (q.addr % 2 ^ 22) q.asid q.data with
    | .ok (n, s) => .now s opData 0 (bytesOf 8 n)
    | .error c => errReply s c

/-- SIGNAL_ARRIVAL performed. -/
def signalReply (q : Packet) (s : State) : Reply :=
  if q.asid = 0 then s.refuseHostReq q
  else
    match s.deliverSignal (q.word 0) q.asid q.addr (BitVec.ofNat 64 (q.word 1)) (q.word 2) with
    | .applied s => ackReply s
    | .error c => errReply s c
    | .later => .retry

/-- ROUTE_AND_LINK_MAINTENANCE performed. -/
def maintenanceReply (q : Packet) (s : State) : Reply := ackReply { s with fabric := s.fabric.maintain q.data }

/-- A core that a message is for must wake first (R28). -/
abbrev State.coreSleeps (s : State) (core : Nat) : Prop := core < 512 ∧ s.asleep core

section
variable {s : State} (h : s.power ≠ .p4)
include h

theorem readRequest_awake : exec .readRequest s = .next (s.park.takeIn s.inp.pkt (readReply s.inp.pkt)) :=
  congrArg _ (State.whenAwake_awake h _ _)

theorem writeRequest_awake : exec .writeRequest s = .next (s.park.takeIn s.inp.pkt (writeReply s.inp.pkt)) :=
  congrArg _ (State.whenAwake_awake h _ _)

theorem atomicRequest_awake : exec .atomicRequest s = .next (s.park.takeIn s.inp.pkt (fun v => v.atomicReply s.inp.pkt)) :=
  congrArg _ (State.whenAwake_awake h _ _)

theorem appendReservation_awake : exec .appendReservation s = .next (s.park.takeIn s.inp.pkt (reservationReply s.inp.pkt)) :=
  congrArg _ (State.whenAwake_awake h _ _)

theorem signalArrival_awake : exec .signalArrival s = .next (s.park.takeIn s.inp.pkt (signalReply s.inp.pkt)) :=
  congrArg _ (State.whenAwake_awake h _ _)

theorem maintenance_awake : exec .routeAndLinkMaintenance s = .next (s.park.takeIn s.inp.pkt (maintenanceReply s.inp.pkt)) :=
  congrArg _ (State.whenAwake_awake h _ _)

theorem messageAppend_sleeps (hs : s.park.coreSleeps (s.inp.pkt.addr / 2 ^ 22)) :
    exec .messageAppend s = .next { s.park with
      agenda := todo .coreWake { Input.none with core := s.inp.pkt.addr / 2 ^ 22 } :: todo .messageAppend s.inp :: s.agenda } := by
  refine (congrArg _ (State.whenAwake_awake h _ _)).trans ?_
  rw [State.coreAwake, if_pos hs]
  simp [State.soon]

theorem messageAppend_awake (hs : ¬ s.park.coreSleeps (s.inp.pkt.addr / 2 ^ 22)) :
    exec .messageAppend s = .next (s.park.takeIn s.inp.pkt (messageReply s.inp.pkt)) := by
  refine (congrArg _ (State.whenAwake_awake h _ _)).trans ?_
  rw [State.coreAwake, if_neg hs]
  rfl

end

/-- The packets that wait in P4 are acted on by `whenAwake`. -/
theorem exec_whenAwake (s : State) : ∀ x ∈ [Instr.readRequest, .writeRequest, .atomicRequest, .appendReservation, .messageAppend,
    .signalArrival, .multicastMessage, .mailboxWrite, .pagerService, .routeAndLinkMaintenance, .reservedOp, .responseWithData,
    .acknowledgement, .errorResponse, .retryLaterResponse], ∃ f, exec x s = .next (s.whenAwake x f) := by
  simp only [List.forall_mem_cons]
  exact ⟨⟨_, rfl⟩, ⟨_, rfl⟩, ⟨_, rfl⟩, ⟨_, rfl⟩, ⟨_, rfl⟩, ⟨_, rfl⟩, ⟨_, rfl⟩, ⟨_, rfl⟩, ⟨_, rfl⟩, ⟨_, rfl⟩, ⟨_, rfl⟩, ⟨_, rfl⟩, ⟨_, rfl⟩,
    ⟨_, rfl⟩, ⟨_, rfl⟩, by simp⟩

/-! A host's requests (R36, R434). -/

section
variable {s : State} {q : Packet}

/-- The state with a refused host request logged. -/
def State.hostRefused (s : State) (q : Packet) : State := { s.park with log := s.log ++ [(36, q.addr)] }

theorem refuseHostReq_park : s.park.refuseHostReq q = .now (s.hostRefused q) 0x12 0 [0x11] := by
  rw [State.refuseHostReq, State.hostRefused, State.logError, State.park_log]
  rfl

theorem fromHost_park : s.park.fromHost q = s.fromHost q := by rw [State.fromHost, State.park_fabric]; rfl

theorem apertureFor_park (node a n : Nat) : s.park.apertureFor node a n = s.apertureFor node a n := by
  rw [State.apertureFor, State.park_apertures]; rfl

theorem readMbx_park (off : Nat) : s.park.readMbx off = s.readMbx off := by
  rw [State.readMbx, State.park_mbx, State.park_fabric]; rfl

theorem fromHost_peer (h : q.asid ≠ 0) : s.fromHost q = false := by simp [State.fromHost, h]

variable (hh : s.fromHost q = true)
include hh

theorem readReply_mailbox (hm : inMbx q.addr = true) (hn : q.word 0 % pktAcquire = 8) (ha : q.addr % 8 = 0) :
    readReply q s.park = .now s.park 0x10 0 (bytesOf 8 (s.readMbx (q.addr - mbxBase))) := by
  rw [readReply]
  dsimp only
  rw [if_pos (fromHost_park.trans hh), if_pos hm, if_pos ⟨hn, ha⟩, readMbx_park]
  rfl

variable (hm : inMbx q.addr = false)
include hm

theorem readReply_memory {a : Aperture} {v : Nat} (ha : s.apertureFor q.src q.addr (q.word 0 % pktAcquire) = some a)
    (hn : q.word 0 % pktAcquire ≤ 1024) (hv : s.readPhys q.addr (q.word 0 % pktAcquire) = .ok v) :
    readReply q s.park =
      .now (s.park.countRead q.addr (q.word 0 % pktAcquire)) 0x10 0 (bytesOf (q.word 0 % pktAcquire) v) := by
  have hread : (s.park.countRead q.addr (q.word 0 % pktAcquire)).readPhys q.addr (q.word 0 % pktAcquire) = .ok v := by
    rw [(Counted.read _ _ _).sameMemory.readPhys, s.park_sameMemory.readPhys, hv]
  rw [readReply]
  dsimp only
  rw [if_pos (fromHost_park.trans hh), if_neg (by simp [hm]), apertureFor_park, ha]
  dsimp only
  rw [if_neg (by omega), hread]
  rfl

theorem readReply_refused (ha : s.apertureFor q.src q.addr (q.word 0 % pktAcquire) = none) :
    readReply q s.park = .now (s.hostRefused q) 0x12 0 [0x11] := by
  rw [readReply]
  dsimp only
  rw [if_pos (fromHost_park.trans hh), if_neg (by simp [hm]), apertureFor_park, ha]
  exact refuseHostReq_park

theorem writeReply_refused (ha : s.apertureFor q.src q.addr q.data.length = none) :
    writeReply q s.park = .now (s.hostRefused q) 0x12 0 [0x11] := by
  rw [writeReply, if_pos (fromHost_park.trans hh), if_neg (by simp [hm]), apertureFor_park, ha]
  exact refuseHostReq_park

theorem writeReply_readOnly {a : Aperture} (ha : s.apertureFor q.src q.addr q.data.length = some a) (hw : a.rw = false) :
    writeReply q s.park = .now (s.hostRefused q) 0x12 0 [0x11] := by
  rw [writeReply, if_pos (fromHost_park.trans hh), if_neg (by simp [hm]), apertureFor_park, ha]
  dsimp only
  rw [if_pos (by simp [hw])]
  exact refuseHostReq_park

theorem writeReply_memory {a : Aperture} (ha : s.apertureFor q.src q.addr q.data.length = some a) (hw : a.rw = true) {u : State}
    (hu : s.park.writePhys q.addr q.data = .ok u) : writeReply q s.park = .now u 0x11 0 [] := by
  rw [writeReply, if_pos (fromHost_park.trans hh), if_neg (by simp [hm]), apertureFor_park, ha]
  dsimp only
  rw [if_neg (by simp [hw]), hu]
  rfl

end

end Sys2Proof.Machine

namespace Sys2Proof.Machine
open Sys2Proof

/-! A peer's requests at their home (R42, R163). -/

/-- The state in which this module's tables have been walked for a peer's request. -/
abbrev State.home (s : State) (q : Packet) : State := s.park.countWalk q.asid q.addr

/-- What this module's tables give for `n` bytes at a peer's address. -/
abbrev State.homeFound (s : State) (q : Packet) (a : Access) (n : Nat) : Found :=
  (s.home q).homeFind q.asid a (n / 0x10000 + 2) q.addr n

theorem State.home_counted (s : State) (q : Packet) : Counted s.park (s.home q) := Counted.walk _ _ _

theorem State.home_sameMemory (s : State) (q : Packet) : SameMemory s (s.home q) :=
  let h := (s.home_counted q).sameMemory
  ⟨h.mem.trans s.park_mem, h.poison.trans s.park_poison, h.cxl.trans s.park_cxl, h.cxlSilent.trans s.park_cxlSilent⟩

theorem State.home_fabric (s : State) (q : Packet) : (s.home q).fabric = s.fabric := (s.home_counted q).fabric.trans s.park_fabric

section
variable {s : State} {q : Packet} (hq : q.asid ≠ 0) {a : Access} {n : Nat} {f : State → List Piece → Reply}
include hq

theorem homeAccess_ok {ps : List Piece} (h : s.homeFound q a n = .ok ps) : s.park.homeAccess q a n f = f (s.home q) ps := by
  rw [State.homeAccess, if_neg hq]
  dsimp only
  rw [show (s.park.countWalk q.asid q.addr).homeFind q.asid a (n / 0x10000 + 2) q.addr n = .ok ps from h]

theorem homeAccess_prot {c va : Nat} (h : s.homeFound q a n = .prot c va) :
    s.park.homeAccess q a n f = .now (s.home q) 0x12 0 (bytesOf 1 c) := by
  rw [State.homeAccess, if_neg hq]
  dsimp only
  rw [show (s.park.countWalk q.asid q.addr).homeFind q.asid a (n / 0x10000 + 2) q.addr n = .prot c va from h]
  rfl

theorem homeAccess_miss {va : Nat} (h : s.homeFound q a n = .miss va) :
    s.park.homeAccess q a n f = .now ((s.home q).homeMiss q.asid va).2 0x08 ((s.home q).homeMiss q.asid va).1 [] := by
  rw [State.homeAccess, if_neg hq]
  dsimp only
  rw [show (s.park.countWalk q.asid q.addr).homeFind q.asid a (n / 0x10000 + 2) q.addr n = .miss va from h]
  rfl

/-- A peer's read is a walk of this module's tables. -/
theorem readReply_peer (hn : q.word 0 % pktAcquire ≤ 1024) : readReply q s.park =
    s.park.homeAccess q .load (q.word 0 % pktAcquire) (readAnswer q (q.word 0 % pktAcquire)) := by
  rw [readReply]
  dsimp only
  rw [if_neg (by simp [fromHost_peer hq]), if_neg hq, if_neg (by omega)]

theorem readReply_here {pa m u pg v : Nat} (hn : q.word 0 % pktAcquire ≤ 1024)
    (h : s.homeFound q .load (q.word 0 % pktAcquire) = .ok [.here pa m 0 u pg]) (hv : s.readPhys pa m = .ok v) :
    readReply q s.park = .now ((s.home q).countRead pa m) 0x10 0 (bytesOf (q.word 0 % pktAcquire) v) := by
  have hread : ((s.home q).countRead pa m).readPhys pa m = .ok v := by
    rw [(Counted.read _ _ _).sameMemory.readPhys, (s.home_sameMemory q).readPhys, hv]
  have hpieces : ((s.home q).countRead pa m).readPieces [.here pa m 0 u pg] = .ok v := by
    rw [State.readPieces, State.readPieces, State.readPiece, if_neg (by decide), if_neg (by decide), hread]
    simp
  rw [readReply_peer hq hn, homeAccess_ok hq h, readAnswer, if_neg (by simp [ordinaryOrHost])]
  rw [show (s.home q).countPieces [.here pa m 0 u pg] = (s.home q).countRead pa m from rfl, hpieces]
  rfl

theorem readReply_acquire {pa m c u pg : Nat} (hn : q.word 0 % pktAcquire ≤ 1024) (ha : pktAcquire ≤ q.word 0) (hc : c ≠ 0)
    (h : s.homeFound q .load (q.word 0 % pktAcquire) = .ok [.here pa m c u pg]) : readReply q s.park = .now (s.home q) 0x12 0 [0x11] := by
  rw [readReply_peer hq hn, homeAccess_ok hq h, readAnswer, if_pos ⟨ha, by simp [ordinaryOrHost, hc]⟩]
  rfl

theorem writeReply_here {pa u pg : Nat} (h : s.homeFound q .store q.data.length = .ok [.here pa q.data.length 0 u pg]) {v : State}
    (hv : (s.home q).writePhys pa q.data = .ok v) : writeReply q s.park = .now v 0x11 0 [] := by
  have hwrite : (s.home q).writeEach q.data ([.here pa q.data.length 0 u pg].flatMap (Piece.cuts q.data.length)) = (v, 0, 0) := by
    have hcuts : ([.here pa q.data.length 0 u pg] : List Piece).flatMap (Piece.cuts q.data.length) = [.here pa q.data.length 0 u pg] := by
      simp [Piece.cuts]
    rw [hcuts, State.writeEach, State.writePiece, if_neg (by decide), Piece.size, List.take_length, hv]
    rfl
  rw [writeReply, if_neg (by simp [fromHost_peer hq]), homeAccess_ok hq h, hwrite]
  rfl

theorem reservationReply_appends {pa k c u pg : Nat} (h : s.homeFound q .append 1 = .ok [.here pa k c u pg]) (hp : s.portDown pa = false)
    (h1 : 1 ≤ q.word 0) (hu : q.word 0 ≤ u) (ho : (s.unit (pa / u * u) u).st = .opened)
    (hr : (s.unit (pa / u * u) u).tail + roundUp (q.word 0) 16 ≤ u) :
    reservationReply q s.park = .now { (s.home q).wakeHome (pa / u * u) with
      units := tset s.units (pa / u * u)
        { s.unit (pa / u * u) u with tail := (s.unit (pa / u * u) u).tail + roundUp (q.word 0) 16 } } 0x10 0
      (bytesOf 8 (s.unit (pa / u * u) u).tail) := by
  have hunits : (s.home q).units = s.units := (s.home_counted q).units.trans s.park_units
  have hunit : ((s.home q).wakeHome (pa / u * u)).unit (pa / u * u) u = s.unit (pa / u * u) u := by
    show (tget (s.home q).units _).getD _ = _
    rw [hunits]; rfl
  have happend : (s.home q).unitAppend (pa / u * u) u (q.word 0) = ((s.unit (pa / u * u) u).tail, { (s.home q).wakeHome (pa / u * u) with
      units := tset s.units (pa / u * u)
        { s.unit (pa / u * u) u with tail := (s.unit (pa / u * u) u).tail + roundUp (q.word 0) 16 } }) := by
    rw [State.unitAppend]
    dsimp only
    rw [hunit, if_neg (by omega), if_neg (by simp [ho]), if_neg (by omega), show ((s.home q).wakeHome (pa / u * u)).units = s.units from hunits]
  rw [reservationReply, homeAccess_ok hq h]
  dsimp only
  rw [if_neg (by rw [(s.home_sameMemory q).portDown, hp]; decide), happend]
  rfl

end

/-! Atomic packets (R188, R209, R289, R377, R382). -/

theorem aopOf_lt {code : Nat} {p : Aop × Nat} (h : aopOf code = some p) : code < 0x1D := by
  unfold aopOf at h
  by_contra hc
  simp (disch := omega) only [if_neg] at h
  cases h

/-- A code that names an operation of R289, of an atomic or a reduction, is none of the other codes. -/
theorem atomicReply_aop {s : State} {q : Packet} (hq : q.asid ≠ 0) {more code : Nat} {acc : Access}
    (hm : (more, acc) ∈ [(0, Access.atomic), (0x100, Access.reduce)]) (hw : q.word 0 = code + more) {op : Aop} {n : Nat}
    (ho : aopOf code = some (op, n)) (ha : q.addr % n = 0) {pa k c u pg old : Nat} (h : s.homeFound q acc n = .ok [.here pa k c u pg])
    (hv : s.readPhys pa n = .ok old) :
    ∃ t, s.park.atomicReply q = .now t 0x10 0 (bytesOf 8 old) ∧ t.cores = s.park.cores ∧ t.fabric = s.fabric ∧
      t.mem = mstore s.mem pa (bytesOf n (op.apply n old (q.word 1 % 2 ^ (8 * n)) (q.word 2 % 2 ^ (8 * n)))) := by
  have hlt := aopOf_lt ho
  have hcode : q.word 0 % pktReduce = code := by
    rw [hw, pktReduce]
    rcases List.mem_cons.mp hm with e | e
    · cases e; omega
    · cases List.mem_singleton.mp e; omega
  have hother (c : Nat) (hc : c ∈ [0x20, 0x21, 0x1E, 0x1F, 0x22]) : q.word 0 ≠ c := by
    rw [hw]
    rcases List.mem_cons.mp hm with e | e
    · cases e; simp at hc; omega
    · cases List.mem_singleton.mp e; simp at hc; omega
  have hacc : (if q.word 0 < pktReduce then Access.atomic else .reduce) = acc := by
    rw [hw, pktReduce]
    rcases List.mem_cons.mp hm with e | e
    · cases e; exact if_pos (by omega)
    · cases List.mem_singleton.mp e; exact if_neg (by omega)
  obtain ⟨t, ht, hmem, hcores, hfabric⟩ := (s.home q).atomicPhys_ok pa n
    (fun old => op.apply n old (q.word 1 % 2 ^ (8 * n)) (q.word 2 % 2 ^ (8 * n))) (((s.home_sameMemory q).readPhys pa n).trans hv)
  refine ⟨t, ?_, hcores.trans (s.home_counted q).cores, hfabric.trans (s.home_fabric q), ?_⟩
  · rw [State.atomicReply]
    dsimp only
    rw [if_neg (hother _ (by decide)), if_neg (hother _ (by decide)), if_neg (hother _ (by decide)), if_neg (hother _ (by decide)),
      if_neg (hother _ (by decide)), hcode, ho]
    dsimp only
    rw [if_neg (by simp [fromHost_peer hq]), if_neg (by simp [ha]), hacc, homeAccess_ok hq h]
    dsimp only
    rw [ht]
    rfl
  · rw [hmem, (s.home_sameMemory q).mem]

/-- A release's write at an ordinary page is made, and at one of another class refused (R382). -/
theorem atomicReply_release {s : State} {q : Packet} (hw : q.word 0 = 0x22) :
    s.park.atomicReply q = s.park.releaseReply q (q.word 1 % 16) (q.word 2) := by
  rw [State.atomicReply]
  dsimp only
  rw [hw, if_neg (by decide), if_neg (by decide), if_neg (by decide), if_neg (by decide), if_pos (by decide)]

theorem inMemory_shorter {pa m n : Nat} (hn : n ≤ m) (h : inMemory pa m = true) : inMemory pa n = true := by
  unfold inMemory at h ⊢
  simp only [Bool.or_eq_true, Bool.and_eq_true, decide_eq_true_eq] at h ⊢
  omega

theorem granulesOf_shorter {pa m n g : Nat} (hn : n ≤ m) (h : g ∈ granulesOf pa n) : g ∈ granulesOf pa m := by
  unfold granulesOf at h ⊢
  split at h
  next => cases h
  next h0 =>
    rw [if_neg (by omega)]
    obtain ⟨j, hj, rfl⟩ := List.mem_map.mp h
    exact List.mem_map.mpr ⟨j, List.mem_range.mpr (by have := List.mem_range.mp hj; omega), rfl⟩

/-- Where a range is sound, so is its beginning. -/
theorem State.bad_shorter (s : State) (pa : Nat) {m n : Nat} (hn : n ≤ m) (h : s.bad pa m = false) : s.bad pa n = false := by
  simp only [State.bad, Bool.or_eq_false_iff, Bool.not_eq_false', List.any_eq_false] at h ⊢
  obtain ⟨⟨hm, hp⟩, hg⟩ := h
  exact ⟨⟨inMemory_shorter hn hm, hp⟩, fun g hgn => hg g (granulesOf_shorter hn hgn)⟩

section
variable {s : State} {q : Packet} (hq : q.asid ≠ 0)
include hq

theorem releaseReply_refused {n v pa c u pg : Nat} (h : s.homeFound q .store n = .ok [.here pa n c u pg]) (hc : c ≠ 0) :
    s.park.releaseReply q n v = .now (s.home q) 0x12 0 [0x11] := by
  rw [State.releaseReply, homeAccess_ok hq h]
  dsimp only
  rw [if_pos (by simp [ordinaryOrHost, hc])]
  rfl

theorem releaseReply_written {n v pa u pg : Nat} (h : s.homeFound q .store n = .ok [.here pa n 0 u pg]) {t : State}
    (ht : (s.home q).writePhys pa (bytesOf n v) = .ok t) : s.park.releaseReply q n v = .now t 0x11 0 [] := by
  rw [State.releaseReply, homeAccess_ok hq h]
  dsimp only
  rw [if_neg (by simp [ordinaryOrHost]), State.writePiece, if_neg (by decide), ht]
  rfl

end

/-! Futures at their home, by a peer's registration or resolve (R148, log 31). -/

/-- The bytes that a resolve, or a fault, writes at a future with no waiters. -/
def futBytes : Option Word → List Byte
  | some v => bytesOf 8 (futWord 2 0 0) ++ bytesOf 8 v.toNat
  | none => bytesOf 8 (futWord 3 0 0)

section
variable {s : State} {q : Packet} {pa : Nat} (hb : s.bad pa 16 = false)
include hb

theorem State.futRegister_home (ref tag : Nat) :
    let t := ((s.home q).futRegister pa ref tag).2
    ((s.home q).futRegister pa ref tag).1 = futHead (mload s.mem pa 8) ∧
      t.mem = mstore s.mem pa (bytesOf 8 (futWord 1 (futCount (mload s.mem pa 8) + 1) ref)) ∧ t.cores = s.park.cores ∧
      t.fabric.windows = s.fabric.windows ∧
      (bitsN ref 45 33 ≠ s.fabric.node % 2 ^ 13 → tget t.fabric.foreign ref = some (futHead (mload s.mem pa 8) + 2 ^ 48 * tag)) := by
  have hpeek : (s.home q).peek pa 8 = mload s.mem pa 8 := (s.home_sameMemory q).peek pa 8
  have hbad : ((s.home q).countRead pa 16).bad pa (bytesOf 8 (futWord 1 (futCount (mload s.mem pa 8) + 1) ref)).length = false := by
    rw [(Counted.read _ _ _).sameMemory.bad, (s.home_sameMemory q).bad, bytesOf_length]
    exact s.bad_shorter pa (by decide) hb
  obtain ⟨hmem, hcores, hfabric⟩ := State.putHome_of_not_bad _ _ _ hbad
  replace hmem := hmem.trans (congrArg (mstore · pa _) (s.home_sameMemory q).mem)
  replace hcores := hcores.trans (s.home_counted q).cores
  replace hfabric := hfabric.trans (s.home_fabric q)
  unfold State.futRegister
  dsimp only
  rw [hpeek]
  refine ⟨rfl, ?_⟩
  generalize State.putHome _ _ _ = v at hmem hcores hfabric ⊢
  rw [hfabric]
  split
  next hn => exact ⟨hmem, hcores, congrArg Fabric.windows hfabric, fun h => absurd hn h⟩
  next => exact ⟨hmem, hcores, rfl, fun _ => tget_tset_self _ _ _⟩

theorem State.futResolve_home (value : Option Word) (h2 : futSt (mload s.mem pa 8) < 2) (h0 : futHead (mload s.mem pa 8) = 0) :
    ∃ t, (s.home q).futResolve pa value = (t, true) ∧ t.fabric = s.fabric ∧
      t.mem = mstore s.mem pa (futBytes value) := by
  have hpeek : (s.home q).peek pa 8 = mload s.mem pa 8 := (s.home_sameMemory q).peek pa 8
  have hwaiters (fuel : Nat) : (s.home q).waiters pa fuel 0 = [] := by cases fuel <;> rfl
  have hput (bs : List Byte) (hl : bs.length ≤ 16) : (((s.home q).countRead pa 16).putHome pa bs).mem = mstore s.mem pa bs ∧
      (((s.home q).countRead pa 16).putHome pa bs).fabric = s.fabric := by
    have hbad : ((s.home q).countRead pa 16).bad pa bs.length = false := by
      rw [(Counted.read _ _ _).sameMemory.bad, (s.home_sameMemory q).bad]
      exact s.bad_shorter pa hl hb
    obtain ⟨hmem, -, hfabric⟩ := State.putHome_of_not_bad _ _ _ hbad
    exact ⟨hmem.trans (congrArg (mstore · pa _) (s.home_sameMemory q).mem), hfabric.trans (s.home_fabric q)⟩
  unfold State.futResolve
  dsimp only
  rw [hpeek, if_neg (by omega), h0, hwaiters]
  cases value with
  | some v =>
    obtain ⟨hmem, hfabric⟩ := hput (bytesOf 8 (futWord 2 0 0) ++ bytesOf 8 v.toNat) (by simp)
    exact ⟨_, rfl, hfabric, hmem⟩
  | none =>
    obtain ⟨hmem, hfabric⟩ := hput (bytesOf 8 (futWord 3 0 0)) (by simp)
    exact ⟨_, rfl, hfabric, hmem⟩

variable (hq : q.asid ≠ 0) {k c u pg : Nat} (h : s.homeFound q .object 16 = .ok [.here pa k c u pg])
include hq h

theorem atomicReply_registers (hw : q.word 0 = 0x20) (h2 : futSt (mload s.mem pa 8) < 2) :
    s.park.atomicReply q = .now ((s.home q).futRegister pa (q.word 1) (q.asid + 2 ^ 16 * q.addr)).2 0x11 0
      (bytesOf 8 (futHead (mload s.mem pa 8))) := by
  have hpeek : (s.home q).peek pa 8 = mload s.mem pa 8 := (s.home_sameMemory q).peek pa 8
  rw [State.atomicReply]
  dsimp only
  rw [if_pos (by rw [hw]; rfl), homeAccess_ok hq h]
  dsimp only
  rw [hpeek, if_neg (by rw [(s.home_sameMemory q).bad, hb]; decide), if_neg (by omega), if_neg (by omega),
    (s.futRegister_home (q := q) hb _ _).1]
  rfl

theorem atomicReply_registerResolved (hw : q.word 0 = 0x20) (h2 : futSt (mload s.mem pa 8) = 2) :
    s.park.atomicReply q = .now ((s.home q).countRead pa 16) 0x10 0 (bytesOf 8 (mload s.mem (pa + 8) 8)) := by
  have hpeek (a : Nat) : (s.home q).peek a 8 = mload s.mem a 8 := (s.home_sameMemory q).peek a 8
  rw [State.atomicReply]
  dsimp only
  rw [if_pos (by rw [hw]; rfl), homeAccess_ok hq h]
  dsimp only
  rw [hpeek, hpeek, if_neg (by rw [(s.home_sameMemory q).bad, hb]; decide), if_pos h2]
  rfl

/-- What a resolve writes: the value of its second word, or a fault. -/
def Packet.resolveValue (q : Packet) : Option Word := if q.word 2 = 0 then some (w64 (q.word 1)) else none

theorem atomicReply_resolves (hw : q.word 0 = 0x21) {t : State} (ht : (s.home q).futResolve pa q.resolveValue = (t, true)) :
    s.park.atomicReply q = .now t 0x11 0 [] := by
  rw [State.atomicReply]
  dsimp only
  rw [if_neg (by rw [hw]; decide), if_pos (by rw [hw]; rfl), homeAccess_ok hq h]
  dsimp only
  rw [if_neg (by rw [(s.home_sameMemory q).bad, hb]; decide), ← Packet.resolveValue.eq_1 q, ht]
  rfl

theorem atomicReply_resolveAgain (hw : q.word 0 = 0x21) {t : State} (ht : (s.home q).futResolve pa q.resolveValue = (t, false)) :
    s.park.atomicReply q = .now t 0x12 0 (bytesOf 1 0x30 ++ bytesOf 7 pa) := by
  rw [State.atomicReply]
  dsimp only
  rw [if_neg (by rw [hw]; decide), if_pos (by rw [hw]; rfl), homeAccess_ok hq h]
  dsimp only
  rw [if_neg (by rw [(s.home_sameMemory q).bad, hb]; decide), ← Packet.resolveValue.eq_1 q, ht]
  rfl

end

end Sys2Proof.Machine

namespace Sys2Proof.Machine
open Sys2Proof

/-! The network under changes of cores, contexts, records and the fault queue: none of them touches it. -/

theorem foldl_fabric {α : Type} {f : State → α → State} (h : ∀ s x, (f s x).fabric = s.fabric) (l : List α) (s : State) :
    (l.foldl f s).fabric = s.fabric := by
  induction l generalizing s with
  | nil => rfl
  | cons x r ih => exact (ih _).trans (h s x)

section
variable (s : State)

@[simp] theorem State.setCore_fabric (c : Nat) (k : Core) : (s.setCore c k).fabric = s.fabric := (congrArg State.fabric (s.setCore_frame c k) :)
@[simp] theorem State.modCore_fabric (c : Nat) (f : Core → Core) : (s.modCore c f).fabric = s.fabric := s.setCore_fabric c _

@[simp] theorem State.modContext_fabric (n : Nat) (f : Context → Context) : (s.modContext n f).fabric = s.fabric := by
  unfold State.modContext
  split <;> rfl

@[simp] theorem State.modLaunch_fabric (d n : Nat) (f : Launch → Launch) : (s.modLaunch d n f).fabric = s.fabric := rfl
@[simp] theorem State.poke_fabric (a n v : Nat) : (s.poke a n v).fabric = s.fabric := rfl
@[simp] theorem State.raiseFault_fabric (core ctx cause : Nat) : (s.raiseFault core ctx cause).fabric = s.fabric := rfl

@[simp] theorem State.countHeld_fabric (ctx : Nat) (up : Bool) : (s.countHeld ctx up).fabric = s.fabric := by
  unfold State.countHeld
  split <;> rfl

@[simp] theorem State.holdFault_fabric (core ctx : Nat) (r : Record) (who : Option Nat) : (s.holdFault core ctx r who).fabric = s.fabric := by
  simp [State.holdFault]

theorem State.putVirtual_fabric (asid fuel va : Nat) (bs : List Byte) : (s.putVirtual asid fuel va bs).fabric = s.fabric := by
  induction fuel generalizing s va bs with
  | zero => rfl
  | succ fuel ih =>
    unfold State.putVirtual
    dsimp only
    split
    · rfl
    · rw [ih]
      split
      · split
        · cases h : s.writePhys _ _ with
          | error c => rfl
          | ok t => exact (State.writePhys_keeps h).2.2
        · rfl
      · rfl

@[simp] theorem State.showSpill_fabric (k : Core) (r : Record) : (s.showSpill k r).fabric = s.fabric := by
  unfold State.showSpill
  split
  · rfl
  · exact s.putVirtual_fabric _ _ _ _

@[simp] theorem State.freeChunks_fabric (c : Nat) (r : Record) : (s.freeChunks c r).fabric = s.fabric := by
  unfold State.freeChunks
  split <;> rfl

@[simp] theorem State.dropRecord_fabric (c : Nat) (r : Record) : (s.dropRecord c r).fabric = s.fabric := by simp [State.dropRecord]

theorem State.depositAs_fabric {c : Nat} {r : Record} {n : Nat} {p : State × Record} (h : s.depositAs c r n = some p) :
    p.1.fabric = s.fabric := by
  unfold State.depositAs at h
  dsimp only at h
  split at h
  · cases h; simp
  · split at h
    · cases h
    · split at h
      · cases h
      · cases h; simp

theorem State.deposit_fabric {c : Nat} {r : Record} {p : State × Record} (h : s.deposit c r = some p) : p.1.fabric = s.fabric := by
  obtain ⟨d, hd, rfl⟩ := Option.map_eq_some_iff.mp h
  simpa using s.depositAs_fabric hd

theorem State.ringAppend_fabric {core ctx : Nat} {r : Record} {t : State} (h : s.ringAppend core ctx r = some t) : t.fabric = s.fabric := by
  unfold State.ringAppend at h
  split at h
  · cases h
  · dsimp only at h
    split at h
    · cases h
    · cases h
      rw [State.raiseFault_fabric, State.modContext_fabric, State.put_fabric]
      split <;> rfl

@[simp] theorem State.queueFault_fabric (core ctx : Nat) (r : Record) (who : Option Nat) : (s.queueFault core ctx r who).fabric = s.fabric := by
  unfold State.queueFault
  dsimp only
  split
  next h =>
    have hd := s.deposit_fabric h
    split
    next h => rw [State.dropRecord_fabric, State.ringAppend_fabric _ h]; exact hd
    next => rw [State.holdFault_fabric, State.modCore_fabric]; exact hd
  next =>
    split
    next h => rw [State.ringAppend_fabric _ h, State.modCore_fabric]
    next => rw [State.holdFault_fabric, State.modCore_fabric, State.modCore_fabric]

@[simp] theorem State.showRecords_fabric (ctx c : Nat) (old new : Core) (out : Bool) : (s.showRecords ctx c old new out).fabric = s.fabric := by
  refine foldl_fabric (fun t r => ?_) _ s
  split
  · exact t.showSpill_fabric _ _
  · split <;> rfl

@[simp] theorem State.showSaved_fabric (ctx c : Nat) (old new : Core) : (s.showSaved ctx c old new).fabric = s.fabric := by
  unfold State.showSaved
  split
  · rfl
  · dsimp only
    have hputs (a : Nat) (u : State) (bs : Mem) (f : Host.Cell → List Byte) :
        (bs.foldl (fun s b => s.put (a + 0x1000 + b.1) (f b)) u).fabric = u.fabric := foldl_fabric (fun v b => v.put_fabric _ (f b)) _ _
    split
    · rw [hputs _ _ _ (fun b => [b.2]), hputs _ _ _ (fun _ => [0])]
    · rw [State.put_fabric, hputs _ _ _ (fun b => [b.2]), hputs _ _ _ (fun _ => [0])]

@[simp] theorem State.modCtxCore_fabric (ctx c : Nat) (f : Core → Core) : (s.modCtxCore ctx c f).fabric = s.fabric := by
  unfold State.modCtxCore
  split
  · simp
  · split <;> simp

theorem State.onCtxCore_fabric (ctx c : Nat) {f : State → State} (h : ∀ t, (f t).fabric = t.fabric) :
    (s.onCtxCore ctx c f).fabric = s.fabric := by
  unfold State.onCtxCore
  split
  · exact h s
  · split
    · exact h s
    · simp [h]

@[simp] theorem State.recordFaults_fabric (ctx core : Nat) (old new : Record) : (s.recordFaults ctx core old new).fabric = s.fabric :=
  s.onCtxCore_fabric ctx core (fun t => by simp)

theorem State.takeGranules_fabric (core : Nat) (keep : Bool) (r : Regs) (fuel : Nat) (es : List LoadElem) :
    (s.takeGranules core keep r fuel es).1.fabric = s.fabric := by
  induction fuel generalizing s r es with
  | zero => rfl
  | succ fuel ih =>
    cases es with
    | nil => rfl
    | cons e es =>
      unfold State.takeGranules
      dsimp only
      split
      · rfl
      · split
        · rfl
        · rw [ih]
          split
          · rfl
          · exact s.setCore_fabric _ _

@[simp] theorem State.retryGranule_fabric (core dseq : Nat) : (s.retryGranule core dseq).fabric = s.fabric := by
  unfold State.retryGranule
  split
  · rfl
  · split
    next r _ _ es keep _ =>
      dsimp only
      have h := s.takeGranules_fabric core keep r.regs (es.length + 1) es
      split
      · simpa using h
      · simpa using h
      · simpa using h
    next => rfl

theorem State.releaseGranule_fabric (core g : Nat) : (s.releaseGranule core g).fabric = s.fabric := by
  refine foldl_fabric (fun t w => foldl_fabric (fun u d => ?_) _ t) _ s
  split
  · exact u.retryGranule_fabric _ _
  · rfl

@[simp] theorem State.fill_fabric (core : Nat) (gs : List Nat) : (s.fill core gs).fabric = s.fabric :=
  (foldl_fabric (fun t g => t.releaseGranule_fabric core g) _ _).trans (s.modCore_fabric _ _)

/-! What arrives at a core (R51, R162). -/

theorem State.appendMsg_fabric {core a asid : Nat} {bs : List Byte} {r : Nat × State} (h : s.appendMsg core a asid bs = .ok r) :
    r.2.fabric = s.fabric := by
  unfold State.appendMsg at h
  split at h
  · cases h
  · dsimp only at h
    split at h
    · cases h
    · split at h
      · cases h
      · cases h
        rw [State.modCtxCore_fabric]
        split <;> simp

theorem State.showSignal_fabric (ctx core n : Nat) (g : Signal) : (s.showSignal ctx core n g).fabric = s.fabric := by
  unfold State.showSignal
  split <;> rfl

theorem State.applySignal_fabric {core asid laddr : Nat} {credit : Word} {err : Nat} {u : State}
    (h : s.applySignal core asid laddr credit err = .applied u) : u.fabric = s.fabric := by
  unfold State.applySignal at h
  dsimp only at h
  split at h
  · cases h
  · split at h
    · cases h
    · split at h
      · split at h
        · cases h; simp
        · cases h
      · split at h
        · cases h
        · split at h
          · cases h
          · cases h; rw [State.showSignal_fabric, State.modContext_fabric]

theorem State.deliverSignal_fabric {core asid laddr : Nat} {credit : Word} {err : Nat} {u : State}
    (h : s.deliverSignal core asid laddr credit err = .applied u) : u.fabric = s.fabric := by
  unfold State.deliverSignal at h
  dsimp only at h
  split at h
  · cases h
  · split at h
    · cases h
    · split at h
      · split at h
        · cases h
        · cases h; simp
      · exact s.applySignal_fabric h

/-! A miss at the home (R42). -/

theorem State.homeMiss_fabric (asid va : Nat) : (s.homeMiss asid va).2.fabric = s.fabric := by
  unfold State.homeMiss
  dsimp only
  split
  · rfl
  · split
    · split <;> simp
    · rfl

/-- The choice among the futures of core 0 is one of its sixteen. -/
theorem foldl_choice_lt (p : Nat → Nat → Prop) [∀ i b, Decidable (p i b)] (n : Nat) (hn : 0 < n) :
    (List.range n).foldl (fun b i => if p i b then i else b) 0 < n := by
  have hlt (l : List Nat) (b : Nat) (hb : b < n) (hl : ∀ i ∈ l, i < n) : l.foldl (fun b i => if p i b then i else b) b < n := by
    induction l generalizing b with
    | nil => exact hb
    | cons i r ih =>
      refine ih _ ?_ (fun j hj => hl j (by simp [hj]))
      dsimp only
      split
      · exact hl i (by simp)
      · exact hb
  exact hlt _ 0 hn (fun i hi => List.mem_range.mp hi)

theorem State.homeMiss_pager (asid va : Nat) : ∃ j, j < 16 ∧ (s.homeMiss asid va).1 = pagerAddr 0 j := by
  unfold State.homeMiss
  dsimp only
  split
  next j h => exact ⟨j, List.mem_range.mp (List.mem_of_find?_eq_some h), rfl⟩
  next =>
    split
    next j h => exact ⟨j, List.mem_range.mp (List.mem_of_find?_eq_some h), rfl⟩
    next => exact ⟨_, foldl_choice_lt (fun i b => _ < _) 16 (by decide), rfl⟩

end
end Sys2Proof.Machine

namespace Sys2Proof.Machine
open Sys2Proof

/-! A request that its window knows, and packets with no window (R33, R46, R49, R50). -/

theorem answeredAgain {s : State} {x : Instr} {q : Packet} {e : WinEntry} {f : State → Reply}
    (hx : exec x s = .next (s.park.takeIn q f)) (he : (s.windowOf q.src).find? (fun x => x.sseq == q.sseq) = some e) (hd : e.st = .done)
    (hq : q.op ∉ [opRead, opManagement]) (hp : e.op ≠ opPager) :
    ∃ t, exec x s = .next t ∧ Responded s t q e.op 0 e.resp ∧ { t with fabric := s.fabric } = s.park := by
  simp only [List.mem_cons, List.not_mem_nil, or_false, not_or] at hq
  obtain ⟨hr, hm⟩ := hq
  have hwin : (s.park.windowOf q.src).find? (fun x => x.sseq == q.sseq) = some e := by rw [State.windowOf, State.park_fabric]; exact he
  refine ⟨s.park.respond q e.op 0 e.resp, ?_, ?_, ?_⟩
  · rw [hx, State.takeIn_done hwin hd hr, State.respondAgain, if_neg hp, if_neg hm]
  · have := s.park.respond_responded q e.op 0 e.resp
    rwa [Responded, State.park_fabric] at this
  · have := s.park.respond_frame q e.op 0 e.resp
    rwa [State.park_fabric] at this

section
variable {s : State} (h : s.power ≠ .p4)
include h

theorem multicastMessage_outside (hg : ((tget s.fabric.groups s.inp.pkt.dst).getD []).contains s.fabric.node = false) :
    exec .multicastMessage s = .next s.park := by
  refine (congrArg _ (State.whenAwake_awake h _ _)).trans ?_
  rw [if_pos (by simpa using hg)]

variable (hg : ((tget s.fabric.groups s.inp.pkt.dst).getD []).contains s.fabric.node = true)
include hg

theorem multicastMessage_refused (ha : s.inp.pkt.asid = 0) :
    exec .multicastMessage s = .next ((s.hostRefused s.inp.pkt).respond s.inp.pkt 0x12 0 [0x11]) := by
  refine (congrArg _ (State.whenAwake_awake h _ _)).trans ?_
  rw [if_neg (by simpa using hg), if_pos ha, State.hostRefused, State.logError, State.park_log]
  rfl

variable (ha : s.inp.pkt.asid ≠ 0)
include ha

theorem multicastMessage_sleeps (hs : s.park.coreSleeps (s.inp.pkt.addr / 2 ^ 22)) :
    exec .multicastMessage s = .next { s.park with
      agenda := todo .coreWake { Input.none with core := s.inp.pkt.addr / 2 ^ 22 } :: todo .multicastMessage s.inp :: s.agenda } := by
  refine (congrArg _ (State.whenAwake_awake h _ _)).trans ?_
  rw [if_neg (by simpa using hg), if_neg ha, State.coreAwake, if_pos hs]
  simp [State.soon]

variable (hs : ¬ s.park.coreSleeps (s.inp.pkt.addr / 2 ^ 22))
include hs

theorem multicastMessage_appends {r : Nat × State}
    (hr : s.park.appendMsg (s.inp.pkt.addr / 2 ^ 22) (s.inp.pkt.addr % 2 ^ 22) s.inp.pkt.asid s.inp.pkt.data = .ok r) :
    exec .multicastMessage s = .next (r.2.respond s.inp.pkt 0x11 0 []) := by
  refine (congrArg _ (State.whenAwake_awake h _ _)).trans ?_
  rw [if_neg (by simpa using hg), if_neg ha, State.coreAwake, if_neg hs, hr]
  rfl

theorem multicastMessage_fails {c : Nat}
    (hr : s.park.appendMsg (s.inp.pkt.addr / 2 ^ 22) (s.inp.pkt.addr % 2 ^ 22) s.inp.pkt.asid s.inp.pkt.data = .error c) :
    exec .multicastMessage s = .next (s.park.respond s.inp.pkt 0x12 0 (bytesOf 1 c)) := by
  refine (congrArg _ (State.whenAwake_awake h _ _)).trans ?_
  rw [if_neg (by simpa using hg), if_neg ha, State.coreAwake, if_neg hs, hr]
  rfl

end

/-- A response from a state that has the network of another: what went out of that one, and all else as it was. -/
theorem State.respond_from {s u : State} (h : u.fabric = s.fabric) (q : Packet) (op addr : Nat) (data : List Byte) :
    Responded s (u.respond q op addr data) q op addr data ∧ { u.respond q op addr data with fabric := s.fabric } = u := by
  have hr := u.respond_responded q op addr data
  have hf := u.respond_frame q op addr data
  rw [Responded, h] at hr
  rw [h] at hf
  exact ⟨hr, hf⟩

theorem reservedOp_awake {s : State} (h : s.power ≠ .p4) :
    exec .reservedOp s = .next ((s.park.logError 33 s.inp.pkt.op).respond s.inp.pkt 0x12 0 [0x11]) :=
  congrArg _ (State.whenAwake_awake h _ _)

/-! Responses (R42, R43, R45, R47, R49). -/

theorem State.awaited_park (s : State) (node sseq : Nat) : s.park.awaited node sseq = s.awaited node sseq := by
  rw [State.awaited, State.park_fabric]; rfl

section
variable {s : State} (h : s.power ≠ .p4)
include h

section
variable (hn : s.awaited s.inp.pkt.src s.inp.pkt.sseq = none)
include hn

theorem responseWithData_unawaited : exec .responseWithData s = .next s.park := by
  refine (congrArg _ (State.whenAwake_awake h _ _)).trans ?_
  rw [State.awaited_park, hn]

theorem retryLaterResponse_unawaited : exec .retryLaterResponse s = .next s.park := by
  refine (congrArg _ (State.whenAwake_awake h _ _)).trans ?_
  rw [State.awaited_park, hn]

theorem acknowledgement_unawaited : exec .acknowledgement s = .next (s.park.mcastAnswer s.inp.pkt 0) := by
  refine (congrArg _ (State.whenAwake_awake h _ _)).trans ?_
  rw [State.awaited_park, hn]

theorem errorResponse_unawaited :
    exec .errorResponse s = .next (s.park.mcastAnswer s.inp.pkt (valueOf (s.inp.pkt.data.take 1))) := by
  refine (congrArg _ (State.whenAwake_awake h _ _)).trans ?_
  rw [State.awaited_park, hn]

end

section
variable {p : Pending} (hp : s.awaited s.inp.pkt.src s.inp.pkt.sseq = some p)
include hp

theorem responseWithData_awaited : exec .responseWithData s = .next (s.park.complete p true opData 0 0 s.inp.pkt.data) := by
  refine (congrArg _ (State.whenAwake_awake h _ _)).trans ?_
  rw [State.awaited_park, hp]

theorem acknowledgement_awaited : exec .acknowledgement s = .next (s.park.complete p true opAck 0 0 s.inp.pkt.data) := by
  refine (congrArg _ (State.whenAwake_awake h _ _)).trans ?_
  rw [State.awaited_park, hp]

theorem errorResponse_awaited : exec .errorResponse s = .next (s.park.complete p false opError (valueOf (s.inp.pkt.data.take 1))
    (if p.pkt.op = opWrite then 0 else fld s.inp.pkt.data 1 7) s.inp.pkt.data) := by
  refine (congrArg _ (State.whenAwake_awake h _ _)).trans ?_
  rw [State.awaited_park, hp]

theorem pagerService_awaited (hd : s.inp.pkt.data = []) : exec .pagerService s = .next (s.park.completePager p s.inp.pkt.addr) := by
  refine (congrArg _ (State.whenAwake_awake h _ _)).trans ?_
  rw [State.awaited_park, hp, hd]
  rfl

theorem retryLaterResponse_awaited : exec .retryLaterResponse s = .next { s.park with
    fabric := { s.fabric with out := s.fabric.out.map (fun x => if x = p then { p with later := true, sentAt := s.time.toNat } else x) }
    work := s.work ++ [todo .retryLaterResend { Input.none with queue := s.inp.pkt.src, n := s.inp.pkt.sseq }] } := by
  refine (congrArg _ (State.whenAwake_awake h _ _)).trans ?_
  rw [State.awaited_park, hp]
  simp [State.later]

end
end

theorem State.mcastAnswer_none (s : State) (q : Packet) (c : Nat) (h : s.fabric.mcasts = []) : s.mcastAnswer q c = s := by
  rw [State.mcastAnswer, h]
  rfl

/-- The last member of a multicast to answer ends it (R49). -/
theorem State.mcastAnswer_last {s : State} {q : Packet} {m : McastOut}
    (h : s.fabric.mcasts.find? (fun m => m.sseq == q.sseq && m.waiting.contains q.src) = some m) (hw : m.waiting = [q.src]) :
    s.mcastAnswer q 0 = { s with fabric := { s.fabric with mcasts := s.fabric.mcasts.erase m } } := by
  rw [State.mcastAnswer, h]
  simp [hw, nremove]

section
variable {s : State} {p : Pending} (hall : ∀ x ∈ s.fabric.out, x.out = true)
include hall

/-- The state in which a response finds its request gone. -/
theorem State.park_without : s.park.settled p = { s.park with fabric := { s.fabric with out := s.fabric.out.erase p } } := by
  rw [State.settled_allOut _ p (by simpa using hall), State.without, State.park_fabric]

theorem State.park_complete_answer {ctx core : Nat} (hp : p.purpose = .answer ctx core) (ok : Bool) (op cause fut : Nat) (data : List Byte) :
    s.park.complete p ok op cause fut data = { s.park with
      fabric := { s.fabric with out := s.fabric.out.erase p }
      agenda := answerTo p ctx core ok cause (if ok then valueOf (data.take 8) else fut) :: s.agenda } := by
  rw [State.complete_answer _ hp (by simpa using hall), State.without, State.park_fabric, State.park_agenda]

theorem State.park_completePager_answer {ctx core : Nat} (hp : p.purpose = .answer ctx core) (pa : Nat) :
    s.park.completePager p pa = { s.park with
      fabric := { s.fabric with out := s.fabric.out.erase p }, agenda := answerTo p ctx core false 0x10 pa :: s.agenda } := by
  simp only [State.completePager, hp, State.park_without hall, State.soon, State.park_agenda]
  rfl

theorem State.park_complete_load {ctx core dseq key : Nat} (hp : p.purpose = .load ctx core dseq key) (data : List Byte) :
    s.park.complete p true opData 0 0 data = { s.park with
      fabric := { s.fabric with out := s.fabric.out.erase p }
      agenda := todo .loadDataReturn { Input.none with
        core := core, slot := ctx, n := dseq, queue := key, bytes := data, ok := true, addr := 0 } :: s.agenda } := by
  simp only [State.complete, hp, State.park_without hall, State.completeFor, State.soon, State.park_agenda]

theorem State.park_complete_write {core cell : Nat} {pc : Word} (hp : p.purpose = .write core cell pc) (data : List Byte) :
    s.park.complete p true opAck 0 0 data = { s.park with fabric := { s.fabric with out := s.fabric.out.erase p } } := by
  simp only [State.complete, hp, State.park_without hall, State.completeFor, if_true]

end

/-! RETRY_LATER_RESEND (R45) and CXL_READ_TIMEOUT (R17). -/

section
variable {s : State}

theorem retryLaterResend_none (h : s.awaited s.inp.queue s.inp.n = none) : exec .retryLaterResend s = .next s := by
  show execRetryLaterResend s = _
  simp only [execRetryLaterResend, h]

variable {p : Pending} (h : s.awaited s.inp.queue s.inp.n = some p)
include h

theorem retryLaterResend_answered (hl : p.later = false) : exec .retryLaterResend s = .next s := by
  show execRetryLaterResend s = _
  simp only [execRetryLaterResend, h, hl, Bool.not_false, if_true]

theorem retryLaterResend_waits (hl : p.later = true) (ht : s.time.toNat < p.sentAt + 2000) :
    exec .retryLaterResend s = .next (s.owing .retryLaterResend s.inp) := by
  show execRetryLaterResend s = _
  simp only [execRetryLaterResend, h, hl, Bool.not_true, Bool.false_eq_true, if_false]
  rw [if_pos ht]
  rfl

theorem retryLaterResend_resends (hl : p.later = true) (ht : p.sentAt + 2000 ≤ s.time.toNat) :
    exec .retryLaterResend s = .next (s.resend p p.resends true) := by
  show execRetryLaterResend s = _
  simp only [execRetryLaterResend, h, hl, Bool.not_true, Bool.false_eq_true, if_false]
  rw [if_neg (by omega)]

end

theorem State.resend_retry (s : State) (p : Pending) (n : Nat) :
    (s.resend p n true).fabric.sent = s.fabric.sent ++ [{ p.pkt with rtx := true, retry := true }] ∧
      { s.resend p n true with fabric := s.fabric } = s := by
  unfold State.resend
  dsimp only
  rw [State.emit_sent, Bool.or_true]
  exact ⟨rfl, (congrArg (fun t : State => { t with fabric := s.fabric }) (State.emit_frame _ _) :)⟩

theorem execCxlReadTimeout_eq (s : State) : exec .cxlReadTimeout s = .next (
    if (cxlPort s.inp.addr).isNone then s
    else if s.inp.ok = false then { s with cxlSilent := nremove s.cxlSilent (s.inp.addr / 16) }
    else if s.time.toNat < s.inp.n + 2000000 then s.owing .cxlReadTimeout s.inp
    else { s with cxlSilent := ninsert s.cxlSilent (s.inp.addr / 16) }) := by
  show execCxlReadTimeout s = _
  simp only [execCxlReadTimeout, Bool.not_eq_true']
  rfl

/-! GRANULE_SET_FULL (R158) at a core with no load that waits on a granule. -/

theorem mem_ninsert (l : List Nat) (k j : Nat) : j ∈ ninsert l k ↔ j = k ∨ j ∈ l := by
  induction l with
  | nil => simp [ninsert]
  | cons x r ih =>
    rw [ninsert]
    split
    · simp
    · split
      next h => simp [h]
      next => rw [List.mem_cons, ih, List.mem_cons]; tauto

theorem mem_foldl_ninsert (gs l : List Nat) (g : Nat) : g ∈ gs.foldl ninsert l ↔ g ∈ gs ∨ g ∈ l := by
  induction gs generalizing l with
  | nil => simp
  | cons x r ih => rw [List.foldl_cons, ih, mem_ninsert, List.mem_cons]; tauto

/-- Where no load waits on a granule of a core, setting granules full sets their bits alone. -/
theorem State.fill_noWaits (s : State) (core : Nat) (gs : List Nat) (h : (s.getCore core).granuleWaits = [])
    (h1 : core % 2 = 1 → (s.getCore (core - 1)).granuleWaits = []) : s.fill core gs = s.modCore core (·.setFull gs) := by
  have hself : ((s.modCore core (·.setFull gs)).getCore core).granuleWaits = [] := by
    rw [State.modCore, State.getCore_setCore_self]; exact h
  have hnone (g : Nat) (w : Nat × Nat) (hw : w ∈ waitKeys core g) : ((s.modCore core (·.setFull gs)).getCore w.1).granuleWaits = [] := by
    rw [waitKeys, List.mem_cons] at hw
    rcases hw with rfl | hw
    · exact hself
    · split at hw
      next hodd =>
        obtain rfl := List.mem_singleton.mp hw
        rw [State.modCore, State.getCore_setCore_ne _ _ _ _ (by dsimp only; omega)]
        exact h1 hodd
      next => cases hw
  have hwaited : (s.modCore core (·.setFull gs)).waitedGranules core gs = [] := by
    unfold State.waitedGranules
    rw [List.filterMap_eq_nil_iff.mpr (fun g _ => ?_)]
    · rfl
    · rw [List.flatMap_eq_nil_iff.mpr (fun w hw => by rw [hnone g w hw]; rfl)]
      rfl
  rw [State.fill, hwaited]
  rfl

theorem State.setCore_setCore (s : State) (c : Nat) (k l : Core) : (s.setCore c k).setCore c l = s.setCore c l := by
  by_cases h : s.acting ∧ s.here = c
  · simp [State.setCore, h]
  · simp [State.setCore, h]

theorem State.engineWrite_noWaits (s : State) (core a : Nat) (bs : List Byte) (h : (s.getCore core).granuleWaits = [])
    (h1 : core % 2 = 1 → (s.getCore (core - 1)).granuleWaits = []) :
    s.engineWrite core a bs = s.modCore core (fun k => (k.locWrite a bs).setFull (granulesOf a bs.length)) := by
  rw [State.engineWrite, State.fill_noWaits]
  · rw [State.modCore, State.modCore, State.getCore_setCore_self, State.setCore_setCore]
    rfl
  · rw [State.modCore, State.getCore_setCore_self]
    exact h
  · intro hodd
    rw [State.modCore, State.getCore_setCore_ne _ _ _ _ (by omega)]
    exact h1 hodd

theorem granuleSetFull_noWaits (s : State) (h : (s.getCore s.inp.core).granuleWaits = [])
    (h1 : s.inp.core % 2 = 1 → (s.getCore (s.inp.core - 1)).granuleWaits = []) :
    ∃ t, exec .granuleSetFull s = .next t ∧
      (s.inp.bytes = [] → (t.getCore s.inp.core).loc = (s.getCore s.inp.core).loc ∧
        ∀ g, g ∈ (t.getCore s.inp.core).full ↔ g = s.inp.addr / 16 ∨ g ∈ (s.getCore s.inp.core).full) ∧
      (s.inp.bytes ≠ [] → (t.getCore s.inp.core).loc = mstore (s.getCore s.inp.core).loc s.inp.addr s.inp.bytes ∧
        ∀ g, g ∈ (t.getCore s.inp.core).full ↔ g ∈ granulesOf s.inp.addr s.inp.bytes.length ∨ g ∈ (s.getCore s.inp.core).full) ∧
      t.mem = s.mem := by
  have hexec : exec .granuleSetFull s =
      .next (if s.inp.bytes.isEmpty then s.fill s.inp.core [s.inp.addr / 16] else s.engineWrite s.inp.core s.inp.addr s.inp.bytes) := rfl
  refine ⟨_, hexec, fun hb => ?_, fun hb => ?_, ?_⟩
  · rw [if_pos (by simp [hb]), State.fill_noWaits _ _ _ h h1, State.modCore, State.getCore_setCore_self]
    exact ⟨rfl, fun g => mem_ninsert _ _ _⟩
  · rw [if_neg (by simpa using hb), State.engineWrite_noWaits _ _ _ _ h h1, State.modCore, State.getCore_setCore_self]
    exact ⟨rfl, fun g => mem_foldl_ninsert _ _ _⟩
  · split
    · rw [State.fill_noWaits _ _ _ h h1, State.modCore, State.setCore_mem]
    · rw [State.engineWrite_noWaits _ _ _ _ h h1, State.modCore, State.setCore_mem]

end Sys2Proof.Machine

namespace Sys2Proof.Machine
open Sys2Proof

/-! The clauses of O41, by whom a request is from and what it asks. -/

theorem State.hostRefused_fabric (s : State) (q : Packet) : (s.hostRefused q).fabric = s.fabric := s.park_fabric

/-- Memory takes bytes at an address that a peer's request reaches. -/
theorem State.home_writePhys (s : State) (q : Packet) {pa : Nat} (bs : List Byte) (hin : inMemory pa bs.length = true)
    (hport : s.portDown pa = false) (hp : s.poison = []) :
    ∃ v, (s.home q).writePhys pa bs = .ok v ∧ v.mem = mstore s.mem pa bs ∧ v.cores = s.park.cores ∧ v.fabric = s.fabric := by
  have hsame := s.home_sameMemory q
  obtain ⟨v, hv⟩ := (s.home q).writePhys_clean pa bs hin (by rw [hsame.portDown, hport]) (by rw [hsame.poison, hp])
  obtain ⟨hmem, hcores, hfabric⟩ := State.writePhys_keeps hv
  exact ⟨v, hv, by rw [hmem, hsame.mem], hcores.trans (s.home_counted q).cores, hfabric.trans (s.home_fabric q)⟩

/-- A class-7 packet changes no replay window. -/
theorem Fabric.maintain_windows (f : Fabric) (bs : List Byte) : (f.maintain bs).windows = f.windows := by
  unfold Fabric.maintain
  dsimp only
  split
  case h_3 => split <;> rfl
  all_goals rfl

/-- The word of a future that a resolve or a fault has written, and the value of a resolved one. -/
theorem mload_futBytes (m : Mem) (pa : Nat) (value : Option Word) :
    mload (mstore m pa (futBytes value)) pa 8 = (if value.isSome then 2 else 3) * 2 ^ 62 := by
  cases value with
  | some v =>
    have h := mload_mstore_within m pa 0 8 (futBytes (some v)) (by simp [futBytes])
    rw [Nat.add_zero, List.drop_zero, futBytes, List.take_left' (bytesOf_length _ _), valueOf_bytesOf] at h
    exact h.trans (by simp [futWord])
  | none => exact (mload_stored m pa 8 (futWord 3 0 0)).trans (by simp [futWord])

theorem mload_futBytes_value (m : Mem) (pa : Nat) (v : Word) : mload (mstore m pa (futBytes (some v))) (pa + 8) 8 = v.toNat := by
  rw [mload_mstore_within _ _ _ _ _ (by simp [futBytes]), futBytes, List.drop_left' (bytesOf_length _ _), List.take_of_length_le (by simp),
    valueOf_bytesOf]
  exact Nat.mod_eq_of_lt v.isLt

section
variable {s : State} (hf : FreshRequest s s.inp.pkt)
include hf

theorem readRequest_answered {u : State} {op addr : Nat} {data : List Byte} (h : readReply s.inp.pkt s.park = .now u op addr data)
    (hw : u.fabric = s.fabric) : ∃ t, exec .readRequest s = .next t ∧ AnsweredFrom u t s.inp.pkt op addr data :=
  answered readRequest_awake hf h (congrArg _ hw)

theorem writeRequest_answered {u : State} {op addr : Nat} {data : List Byte} (h : writeReply s.inp.pkt s.park = .now u op addr data)
    (hw : u.fabric = s.fabric) : ∃ t, exec .writeRequest s = .next t ∧ AnsweredFrom u t s.inp.pkt op addr data :=
  answered writeRequest_awake hf h (congrArg _ hw)

theorem atomicRequest_answered {u : State} {op addr : Nat} {data : List Byte}
    (h : s.park.atomicReply s.inp.pkt = .now u op addr data) (hw : u.fabric.windows = s.fabric.windows) :
    ∃ t, exec .atomicRequest s = .next t ∧ AnsweredFrom u t s.inp.pkt op addr data :=
  answered atomicRequest_awake hf h hw

/-- Bytes that a host's request writes through its aperture. -/
theorem writeRequest_hostMemory (hh : s.fromHost s.inp.pkt = true) (hm : inMbx s.inp.pkt.addr = false) {a : Aperture}
    (ha : s.apertureFor s.inp.pkt.src s.inp.pkt.addr s.inp.pkt.data.length = some a) (hw : a.rw = true)
    (hin : inMemory s.inp.pkt.addr s.inp.pkt.data.length = true) (hport : s.portDown s.inp.pkt.addr = false) (hp : s.poison = []) :
    ∃ t u, exec .writeRequest s = .next t ∧ AnsweredFrom u t s.inp.pkt 0x11 0 [] ∧
      u.mem = mstore s.mem s.inp.pkt.addr s.inp.pkt.data ∧ u.cores = s.park.cores := by
  obtain ⟨u, hu⟩ := s.park.writePhys_clean s.inp.pkt.addr s.inp.pkt.data hin (by rw [s.park_sameMemory.portDown, hport]) (by simpa using hp)
  obtain ⟨hmem, hcores, hfabric⟩ := State.writePhys_keeps hu
  obtain ⟨t, ht, hanswer⟩ := writeRequest_answered hf (writeReply_memory hh hm ha hw hu) (hfabric.trans s.park_fabric)
  exact ⟨t, u, ht, hanswer, hmem.trans (by rw [State.park_mem]), hcores⟩

section
variable (hq : s.inp.pkt.asid ≠ 0)
include hq

theorem writeRequest_peer {pa u pg : Nat}
    (h : s.homeFound s.inp.pkt .store s.inp.pkt.data.length = .ok [.here pa s.inp.pkt.data.length 0 u pg])
    (hin : inMemory pa s.inp.pkt.data.length = true) (hport : s.portDown pa = false) (hp : s.poison = []) :
    ∃ t v, exec .writeRequest s = .next t ∧ AnsweredFrom v t s.inp.pkt 0x11 0 [] ∧ v.mem = mstore s.mem pa s.inp.pkt.data ∧
      v.cores = s.park.cores := by
  obtain ⟨v, hv, hmem, hcores, hfabric⟩ := s.home_writePhys s.inp.pkt s.inp.pkt.data hin hport hp
  obtain ⟨t, ht, hanswer⟩ := writeRequest_answered hf (writeReply_here hq h hv) hfabric
  exact ⟨t, v, ht, hanswer, hmem, hcores⟩

theorem readRequest_miss {va : Nat} (hn : s.inp.pkt.word 0 % pktAcquire ≤ 1024)
    (h : s.homeFound s.inp.pkt .load (s.inp.pkt.word 0 % pktAcquire) = .miss va) :
    ∃ t v j, exec .readRequest s = .next t ∧ j < 16 ∧ AnsweredFrom v t s.inp.pkt 0x08 (pagerAddr 0 j) [] := by
  obtain ⟨j, hj, hpager⟩ := (s.home s.inp.pkt).homeMiss_pager s.inp.pkt.asid va
  have hreply := (readReply_peer hq hn).trans (homeAccess_miss hq h)
  rw [hpager] at hreply
  obtain ⟨t, ht, hanswer⟩ := readRequest_answered hf hreply (((s.home s.inp.pkt).homeMiss_fabric _ _).trans (s.home_fabric _))
  exact ⟨t, _, j, ht, hj, hanswer⟩

theorem atomicRequest_aop {more code : Nat} {acc : Access} (hm : (more, acc) ∈ [(0, Access.atomic), (0x100, Access.reduce)])
    (hw : s.inp.pkt.word 0 = code + more) {op : Aop} {n : Nat} (ho : aopOf code = some (op, n)) (ha : s.inp.pkt.addr % n = 0)
    {pa k c u pg old : Nat} (h : s.homeFound s.inp.pkt acc n = .ok [.here pa k c u pg]) (hv : s.readPhys pa n = .ok old) :
    ∃ t v, exec .atomicRequest s = .next t ∧ AnsweredFrom v t s.inp.pkt 0x10 0 (bytesOf 8 old) ∧ v.cores = s.park.cores ∧
      v.mem = mstore s.mem pa
        (bytesOf n (op.apply n old (s.inp.pkt.word 1 % 2 ^ (8 * n)) (s.inp.pkt.word 2 % 2 ^ (8 * n)))) := by
  obtain ⟨v, hreply, hcores, hfabric, hmem⟩ := atomicReply_aop hq hm hw ho ha h hv
  obtain ⟨t, ht, hanswer⟩ := atomicRequest_answered hf hreply (congrArg _ hfabric)
  exact ⟨t, v, ht, hanswer, hcores, hmem⟩

theorem atomicRequest_release {n pa u pg : Nat} (hw : s.inp.pkt.word 0 = 0x22) (hn : n = s.inp.pkt.word 1 % 16)
    (h : s.homeFound s.inp.pkt .store n = .ok [.here pa n 0 u pg]) (hin : inMemory pa n = true) (hport : s.portDown pa = false)
    (hp : s.poison = []) :
    ∃ t v, exec .atomicRequest s = .next t ∧ AnsweredFrom v t s.inp.pkt 0x11 0 [] ∧
      v.mem = mstore s.mem pa (bytesOf n (s.inp.pkt.word 2)) ∧ v.cores = s.park.cores := by
  obtain ⟨v, hv, hmem, hcores, hfabric⟩ :=
    s.home_writePhys s.inp.pkt (bytesOf n (s.inp.pkt.word 2)) (by rwa [bytesOf_length]) hport hp
  subst hn
  obtain ⟨t, ht, hanswer⟩ :=
    atomicRequest_answered hf ((atomicReply_release hw).trans (releaseReply_written hq h hv)) (congrArg _ hfabric)
  exact ⟨t, v, ht, hanswer, hmem, hcores⟩

variable {pa k c u pg : Nat} (h : s.homeFound s.inp.pkt .object 16 = .ok [.here pa k c u pg]) (hb : s.bad pa 16 = false)
include h hb

/-- A registration at an unresolved future (R148, log 31). -/
theorem atomicRequest_registers (hw : s.inp.pkt.word 0 = 0x20) (h2 : futSt (mload s.mem pa 8) < 2) :
    ∃ t v, exec .atomicRequest s = .next t ∧ AnsweredFrom v t s.inp.pkt 0x11 0 (bytesOf 8 (futHead (mload s.mem pa 8))) ∧
      mload v.mem pa 8 = futWord 1 (futCount (mload s.mem pa 8) + 1) (s.inp.pkt.word 1) % 2 ^ 64 ∧ v.cores = s.park.cores ∧
      (bitsN (s.inp.pkt.word 1) 45 33 ≠ s.fabric.node % 2 ^ 13 → tget v.fabric.foreign (s.inp.pkt.word 1) =
        some (futHead (mload s.mem pa 8) + 2 ^ 48 * (s.inp.pkt.asid + 2 ^ 16 * s.inp.pkt.addr))) := by
  obtain ⟨-, hmem, hcores, hwindows, hforeign⟩ :=
    State.futRegister_home (q := s.inp.pkt) hb (s.inp.pkt.word 1) (s.inp.pkt.asid + 2 ^ 16 * s.inp.pkt.addr)
  obtain ⟨t, ht, hanswer⟩ := atomicRequest_answered hf (atomicReply_registers hb hq h hw h2) hwindows
  exact ⟨t, _, ht, hanswer, by rw [hmem, mload_stored]; norm_num, hcores, hforeign⟩

/-- A resolve of a future with no waiters (R148). -/
theorem atomicRequest_resolves (hw : s.inp.pkt.word 0 = 0x21) (h2 : futSt (mload s.mem pa 8) < 2)
    (h0 : futHead (mload s.mem pa 8) = 0) :
    ∃ t v, exec .atomicRequest s = .next t ∧ AnsweredFrom v t s.inp.pkt 0x11 0 [] ∧
      mload v.mem pa 8 = (if s.inp.pkt.word 2 = 0 then 2 else 3) * 2 ^ 62 ∧
      (s.inp.pkt.word 2 = 0 → mload v.mem (pa + 8) 8 = s.inp.pkt.word 1 % 2 ^ 64) := by
  obtain ⟨v, hv, hfabric, hmem⟩ := State.futResolve_home (q := s.inp.pkt) hb s.inp.pkt.resolveValue h2 h0
  obtain ⟨t, ht, hanswer⟩ := atomicRequest_answered hf (atomicReply_resolves hb hq h hw hv) (congrArg _ hfabric)
  refine ⟨t, v, ht, hanswer, ?_, fun hz => ?_⟩
  · rw [hmem, mload_futBytes, Packet.resolveValue]
    split <;> rfl
  · rw [hmem, Packet.resolveValue, if_pos hz, mload_futBytes_value]
    norm_num

/-- A resolve of a future that is resolved or faulted changes nothing (R148). -/
theorem atomicRequest_resolveAgain (hw : s.inp.pkt.word 0 = 0x21) (h2 : 2 ≤ futSt (mload s.mem pa 8)) :
    ∃ t, exec .atomicRequest s = .next t ∧
      AnsweredFrom ((s.home s.inp.pkt).countRead pa 16) t s.inp.pkt 0x12 0 (bytesOf 1 0x30 ++ bytesOf 7 pa) := by
  have hpeek : (s.home s.inp.pkt).peek pa 8 = mload s.mem pa 8 := (s.home_sameMemory _).peek pa 8
  have hagain : (s.home s.inp.pkt).futResolve pa s.inp.pkt.resolveValue = ((s.home s.inp.pkt).countRead pa 16, false) := by
    rw [State.futResolve]
    dsimp only
    rw [hpeek, if_pos h2]
  exact atomicRequest_answered hf (atomicReply_resolveAgain hb hq h hw hagain) (congrArg _ (s.home_fabric _))

end

/-! Messages, signals and maintenance. -/

theorem messageAppend_appends (hq : s.inp.pkt.asid ≠ 0) (hs : ¬ s.park.coreSleeps (s.inp.pkt.addr / 2 ^ 22)) {r : Nat × State}
    (hr : s.park.appendMsg (s.inp.pkt.addr / 2 ^ 22) (s.inp.pkt.addr % 2 ^ 22) s.inp.pkt.asid s.inp.pkt.data = .ok r) :
    ∃ t, exec .messageAppend s = .next t ∧ AnsweredFrom r.2 t s.inp.pkt 0x10 0 (bytesOf 8 r.1) :=
  answered (fun h4 => messageAppend_awake h4 hs) hf (by rw [messageReply, if_neg hq, hr]; rfl)
    (congrArg _ ((s.park.appendMsg_fabric hr).trans s.park_fabric))

theorem messageAppend_fails (hq : s.inp.pkt.asid ≠ 0) (hs : ¬ s.park.coreSleeps (s.inp.pkt.addr / 2 ^ 22)) {c : Nat}
    (hr : s.park.appendMsg (s.inp.pkt.addr / 2 ^ 22) (s.inp.pkt.addr % 2 ^ 22) s.inp.pkt.asid s.inp.pkt.data = .error c) :
    ∃ t, exec .messageAppend s = .next t ∧ AnsweredFrom s.park t s.inp.pkt 0x12 0 (bytesOf 1 c) :=
  answered (fun h4 => messageAppend_awake h4 hs) hf (by rw [messageReply, if_neg hq, hr]; rfl) (congrArg _ s.park_fabric)

/-- Messages and signals under ASID 0 are a host's, and refused (R36). -/
theorem messages_refused (hq : s.inp.pkt.asid = 0) : ∀ x ∈ [Instr.messageAppend, .signalArrival],
    (x = .messageAppend → ¬ s.park.coreSleeps (s.inp.pkt.addr / 2 ^ 22)) →
      ∃ t, exec x s = .next t ∧ AnsweredFrom (s.hostRefused s.inp.pkt) t s.inp.pkt 0x12 0 [0x11] := by
  simp only [List.forall_mem_cons]
  refine ⟨fun hs => ?_, fun _ => ?_, by simp⟩
  · exact answered (fun h4 => messageAppend_awake h4 (hs trivial)) hf (by rw [messageReply, if_pos hq]; exact refuseHostReq_park)
      (congrArg _ (s.hostRefused_fabric _))
  · exact answered signalArrival_awake hf (by rw [signalReply, if_pos hq]; exact refuseHostReq_park) (congrArg _ (s.hostRefused_fabric _))

section
variable (hq : s.inp.pkt.asid ≠ 0)
include hq

theorem signalArrival_applied {u : State} (hu : s.park.deliverSignal (s.inp.pkt.word 0) s.inp.pkt.asid s.inp.pkt.addr
      (w64 (s.inp.pkt.word 1)) (s.inp.pkt.word 2) = .applied u) :
    ∃ t, exec .signalArrival s = .next t ∧ AnsweredFrom u t s.inp.pkt 0x11 0 [] :=
  answered signalArrival_awake hf (by rw [signalReply, if_neg hq, hu]; rfl)
    (congrArg _ ((s.park.deliverSignal_fabric hu).trans s.park_fabric))

theorem signalArrival_fails {c : Nat} (hc : s.park.deliverSignal (s.inp.pkt.word 0) s.inp.pkt.asid s.inp.pkt.addr
      (w64 (s.inp.pkt.word 1)) (s.inp.pkt.word 2) = .error c) :
    ∃ t, exec .signalArrival s = .next t ∧ AnsweredFrom s.park t s.inp.pkt 0x12 0 (bytesOf 1 c) :=
  answered signalArrival_awake hf (by rw [signalReply, if_neg hq, hc]; rfl) (congrArg _ s.park_fabric)

theorem signalArrival_later (hl : s.park.deliverSignal (s.inp.pkt.word 0) s.inp.pkt.asid s.inp.pkt.addr
      (w64 (s.inp.pkt.word 1)) (s.inp.pkt.word 2) = .later) :
    ∃ t, exec .signalArrival s = .next t ∧ Responded s t s.inp.pkt 0x13 0 [] ∧ { t with fabric := s.fabric, mem := s.mem } = s.park := by
  obtain ⟨hr, hframe⟩ := s.park.answer_retryLater s.inp.pkt
  rw [Responded, State.park_fabric] at hr
  rw [State.park_fabric, State.park_mem] at hframe
  refine ⟨_, ?_, hr, hframe⟩
  rw [signalArrival_awake hf.power, State.takeIn_fresh hf.park, signalReply, if_neg hq, hl]
  rfl

theorem appendReservation_appends {pa k c u pg : Nat} (h : s.homeFound s.inp.pkt .append 1 = .ok [.here pa k c u pg])
    (hp : s.portDown pa = false) (h1 : 1 ≤ s.inp.pkt.word 0) (hu : s.inp.pkt.word 0 ≤ u) (ho : (s.unit (pa / u * u) u).st = .opened)
    (hr : (s.unit (pa / u * u) u).tail + roundUp (s.inp.pkt.word 0) 16 ≤ u) :
    ∃ t, exec .appendReservation s = .next t ∧ AnsweredFrom { (s.home s.inp.pkt).wakeHome (pa / u * u) with
        units := tset s.units (pa / u * u)
          { s.unit (pa / u * u) u with tail := (s.unit (pa / u * u) u).tail + roundUp (s.inp.pkt.word 0) 16 } } t s.inp.pkt 0x10 0
        (bytesOf 8 (s.unit (pa / u * u) u).tail) :=
  answered appendReservation_awake hf (reservationReply_appends hq h hp h1 hu ho hr) (congrArg _ (s.home_fabric s.inp.pkt))

end

theorem maintenance_acknowledged :
    ∃ t, exec .routeAndLinkMaintenance s = .next t ∧
      AnsweredFrom { s.park with fabric := s.fabric.maintain s.inp.pkt.data } t s.inp.pkt 0x11 0 [] :=
  answered maintenance_awake hf (by rw [maintenanceReply, State.park_fabric]; rfl) (s.fabric.maintain_windows _)

end

/-- Settles O41: a request is performed by the lemma of its kind and answered by `answered`; a response completes its request by the lemmas about
`complete`; the rest is each row's own equation. -/
theorem requestsAndResponsesAct : Obligations.RequestsAndResponsesAct := by
  unfold Obligations.RequestsAndResponsesAct
  intro s
  refine ⟨fun h4 x hx => ?_, fun hf => ⟨fun hh => ⟨?_, ?_⟩, fun hq => ⟨?_, ?_, ?_, ?_, ?_, ?_, ?_, ?_, ?_, ?_, ?_, ?_, ?_⟩, messages_refused hf,
    maintenance_acknowledged hf⟩, ?_, fun hp => ⟨?_, ?_, ?_, ?_, ?_⟩, retryLaterResend_none, ?_, ?_, ?_, ?_⟩
  -- In P4 every packet waits.
  · obtain ⟨f, hx⟩ := exec_whenAwake s x hx
    rw [hx, State.whenAwake_p4 h4]
  -- A host's requests.
  · exact fun hm hn ha => readRequest_answered hf (readReply_mailbox hh hm hn ha) s.park_fabric
  · intro hm
    refine ⟨fun a v ha hn hv => readRequest_answered hf (readReply_memory hh hm ha hn hv) s.park_fabric,
      fun ha => readRequest_answered hf (readReply_refused hh hm ha) (s.hostRefused_fabric _),
      fun a ha => ⟨fun hw hin hport hp => writeRequest_hostMemory hf hh hm ha hw hin hport hp,
        fun hw => writeRequest_answered hf (writeReply_readOnly hh hm ha hw) (s.hostRefused_fabric _)⟩,
      fun ha => writeRequest_answered hf (writeReply_refused hh hm ha) (s.hostRefused_fabric _)⟩
  -- A peer's requests.
  · exact fun pa m u pg v hn h hv => readRequest_answered hf (readReply_here hq hn h hv) (s.home_fabric _)
  · exact fun pa m c u pg hn ha hc h => readRequest_answered hf (readReply_acquire hq hn ha hc h) (s.home_fabric _)
  · exact fun pa u pg h hin hport hp => writeRequest_peer hf hq h hin hport hp
  · exact fun va hn h => readRequest_miss hf hq hn h
  · exact fun c va hn h => readRequest_answered hf ((readReply_peer hq hn).trans (homeAccess_prot hq h)) (s.home_fabric _)
  · exact fun more acc code hm hw op m pa k c u pg old _ ho ha h hv => atomicRequest_aop hf hq hm hw ho ha h hv
  · refine fun pa c u pg hw h => ⟨fun hc => ?_, fun hc hin hport hp => ?_⟩
    · exact atomicRequest_answered hf ((atomicReply_release hw).trans (releaseReply_refused hq h hc)) (congrArg _ (s.home_fabric _))
    · subst hc
      exact atomicRequest_release hf hq hw rfl h hin hport hp
  · exact fun pa k c u pg h hb => ⟨atomicRequest_registers hf hq h hb,
      fun hw h2 => atomicRequest_answered hf (atomicReply_registerResolved hb hq h hw h2) (congrArg _ (s.home_fabric _)),
      atomicRequest_resolves hf hq h hb, atomicRequest_resolveAgain hf hq h hb⟩
  · exact fun pa k c u pg h hport h1 hu ho hr => appendReservation_appends hf hq h hport h1 hu ho hr
  · exact messageAppend_sleeps hf.power
  · exact fun r hs hr => messageAppend_appends hf hq hs hr
  · exact fun c hs hr => messageAppend_fails hf hq hs hr
  · exact ⟨fun u => signalArrival_applied hf hq, fun c => signalArrival_fails hf hq, signalArrival_later hf hq⟩
  -- A request that its window knows as done.
  · intro e hp he hd hop hpager
    simp only [List.forall_mem_cons]
    exact ⟨answeredAgain (writeRequest_awake hp) he hd hop hpager, answeredAgain (atomicRequest_awake hp) he hd hop hpager,
      answeredAgain (appendReservation_awake hp) he hd hop hpager, answeredAgain (signalArrival_awake hp) he hd hop hpager, by simp⟩
  -- Multicasts and reserved operations.
  · exact multicastMessage_outside hp
  · intro hg
    refine ⟨fun ha => ⟨_, multicastMessage_refused hp hg ha, ?_⟩, multicastMessage_sleeps hp hg, fun r ha hs hr => ?_, fun c ha hs hr => ?_⟩
    · exact State.respond_from (s.hostRefused_fabric _) _ _ _ _
    · exact ⟨_, multicastMessage_appends hp hg ha hs hr, State.respond_from rfl _ _ _ _⟩
    · exact ⟨_, multicastMessage_fails hp hg ha hs hr, State.respond_from s.park_fabric _ _ _ _⟩
  · obtain ⟨hr, hframe⟩ := (s.park.logError 33 s.inp.pkt.op).respond_from (s := s) s.park_fabric s.inp.pkt 0x12 0 [0x11]
    refine ⟨_, reservedOp_awake hp, hr, ?_, ?_⟩
    · exact (congrArg State.log hframe :).trans (congrArg (· ++ _) s.park_log)
    · exact (congrArg (fun t : State => { t with log := s.log }) hframe :).trans (by rw [← s.park_log]; rfl)
  -- Responses.
  · intro hn
    refine ⟨?_, fun hm => ?_, fun m hm hw => ?_⟩
    · simp only [List.forall_mem_cons]
      exact ⟨responseWithData_unawaited hp hn, retryLaterResponse_unawaited hp hn, by simp⟩
    · have hnone (c : Nat) : s.park.mcastAnswer s.inp.pkt c = s.park := State.mcastAnswer_none _ _ _ (by rw [State.park_fabric, hm])
      simp only [List.forall_mem_cons]
      exact ⟨by rw [acknowledgement_unawaited hp hn, hnone], by rw [errorResponse_unawaited hp hn, hnone], by simp⟩
    · refine ⟨_, acknowledgement_unawaited hp hn, ?_⟩
      rw [State.mcastAnswer_last (by rwa [State.park_fabric]) hw, State.park_fabric]
      exact ⟨rfl, by rw [← s.park_fabric]⟩
  · intro p hpend hall
    refine ⟨fun ctx core ha x a hd hx => ?_, fun ctx core dseq key hl => ?_, fun core cell pc hw => ?_, retryLaterResponse_awaited hp hpend⟩
    · have hanswer := State.park_complete_answer hall ha
      simp only [List.mem_cons, List.not_mem_nil, or_false, Prod.mk.injEq] at hx
      obtain ⟨rfl, rfl⟩ | ⟨rfl, rfl⟩ | ⟨rfl, rfl⟩ | ⟨rfl, rfl⟩ := hx
      · rw [responseWithData_awaited hp hpend, hanswer, if_pos rfl]
      · rw [acknowledgement_awaited hp hpend, hanswer, if_pos rfl]
      · rw [errorResponse_awaited hp hpend, hanswer, if_neg (by decide)]
      · rw [pagerService_awaited hp hpend (hd rfl), State.park_completePager_answer hall ha]
    · rw [responseWithData_awaited hp hpend, State.park_complete_load hall hl]
    · rw [acknowledgement_awaited hp hpend, State.park_complete_write hall hw]
  · exact fun p hpend => ⟨retryLaterResend_answered hpend, retryLaterResend_waits hpend,
      fun hl ht => ⟨_, retryLaterResend_resends hpend hl ht, State.resend_retry s p p.resends⟩⟩
  -- Granules and silent sectors.
  · exact fun hw hw1 => granuleSetFull_noWaits s hw hw1
  · exact fun hn => (execCxlReadTimeout_eq s).trans (by rw [if_pos hn])
  · intro hport
    have hexec := execCxlReadTimeout_eq s
    rw [if_neg (fun h => Option.ne_none_iff_isSome.mpr hport (Option.isNone_iff_eq_none.mp h))] at hexec
    exact ⟨fun ho => hexec.trans (by rw [if_pos ho]), fun ho ht => hexec.trans (by rw [if_neg (by simp [ho]), if_pos ht]),
      fun ho ht => hexec.trans (by rw [if_neg (by simp [ho]), if_neg (by omega)])⟩

end Sys2Proof.Machine

namespace Sys2Proof.Machine
open Sys2Proof

/-! What becomes of the cores when steps are killed, records dropped and faults queued (R59, R117, R141, R264). Such an operation leaves the strand in
hand, the queues, the firmware and the rest of the module alone (`OffCores`, `Keeps`); which cores it changes, and what of them, is said by a view of
the cores that it keeps (`CoresKeep`). -/

/-- Two states that differ only in memory, contexts, launches, harts, the network and what is due, and in no core. -/
def OffCores (s t : State) : Prop :=
  { t with
    mem := s.mem, poison := s.poison, soft := s.soft, hbmce := s.hbmce, hbmue := s.hbmue, dieSleep := s.dieSleep, fronts := s.fronts
    reservations := s.reservations, contexts := s.contexts, harbours := s.harbours, harts := s.harts, fabric := s.fabric
    engineWaits := s.engineWaits, work := s.work, agenda := s.agenda } = s

/-- Two states that differ only in those and in their cores. -/
def Keeps (s t : State) : Prop := OffCores s { t with core := s.core, cores := s.cores }

/-- Two such states whose cores show the same to a view of the cores. -/
def CoresKeep {α : Type} (f : Nat → Core → α) (s t : State) : Prop := Keeps s t ∧ ∀ c, f c (t.getCore c) = f c (s.getCore c)

/-- A request sent changes the network and what is due alone (R44). -/
theorem NetOnly.request (s : State) (node op asid addr : Nat) (data : List Byte) (why : Purpose) :
    NetOnly s (s.request node op asid addr data why).2 := by
  unfold State.request
  dsimp only
  refine trans ?_ (later _ _ _)
  have hemit (b : Bool) (u : State) (p : Packet) (hu : NetOnly s u) : NetOnly s (if b then u.emit p else u) := by
    split
    · exact hu.trans (emit u p)
    · exact hu
  split
  · refine trans ?_ (later _ _ _)
    exact hemit _ _ _ rfl
  · exact hemit _ _ _ rfl

namespace OffCores

theorem refl (s : State) : OffCores s s := rfl

theorem trans {s t u : State} (h : OffCores s t) (g : OffCores t u) : OffCores s u :=
  (congrArg (fun x : State => { x with
    mem := s.mem, poison := s.poison, soft := s.soft, hbmce := s.hbmce, hbmue := s.hbmue, dieSleep := s.dieSleep, fronts := s.fronts
    reservations := s.reservations, contexts := s.contexts, harbours := s.harbours, harts := s.harts, fabric := s.fabric
    engineWaits := s.engineWaits, work := s.work, agenda := s.agenda }) g :).trans h

theorem foldl {α : Type} {g : State → α → State} (hg : ∀ s x, OffCores s (g s x)) (l : List α) (s : State) : OffCores s (l.foldl g s) := by
  induction l generalizing s with
  | nil => exact refl s
  | cons x r ih => exact (hg s x).trans (ih _)

theorem of_netOnly {s t : State} (h : NetOnly s t) : OffCores s t :=
  (congrArg (fun x : State => { x with
    mem := s.mem, poison := s.poison, soft := s.soft, hbmce := s.hbmce, hbmue := s.hbmue, dieSleep := s.dieSleep, fronts := s.fronts
    reservations := s.reservations, contexts := s.contexts, harbours := s.harbours, harts := s.harts
    engineWaits := s.engineWaits }) h :)

theorem put (s : State) (a : Nat) (bs : List Byte) : OffCores s (s.put a bs) := rfl
theorem modLaunch (s : State) (d n : Nat) (f : Launch → Launch) : OffCores s (s.modLaunch d n f) := rfl

theorem raiseFault (s : State) (core ctx cause : Nat) : OffCores s (s.raiseFault core ctx cause) := rfl

theorem modContext (s : State) (n : Nat) (f : Context → Context) : OffCores s (s.modContext n f) := by
  unfold State.modContext
  split <;> rfl

theorem countHeld (s : State) (ctx : Nat) (up : Bool) : OffCores s (s.countHeld ctx up) := by
  unfold State.countHeld
  split <;> rfl

theorem writePhys {s t : State} {pa : Nat} {bs : List Byte} (h : s.writePhys pa bs = .ok t) : OffCores s t := by
  obtain ⟨-, -, -, hframe⟩ := State.writePhys_ok _ _ _ _ h
  exact (congrArg (fun x : State => { x with
    hbmue := s.hbmue, contexts := s.contexts, harbours := s.harbours, harts := s.harts, fabric := s.fabric
    engineWaits := s.engineWaits, work := s.work, agenda := s.agenda }) hframe :)

theorem putHome (s : State) (pa : Nat) (bs : List Byte) : OffCores s (s.putHome pa bs) := by
  unfold State.putHome
  cases h : s.writePhys pa bs with
  | error c => exact refl s
  | ok t => exact writePhys h

theorem merge (s : State) (pa n v : Nat) : OffCores s (s.merge pa n v) := trans (t := s.countRead pa n) rfl (putHome _ _ _)

theorem putVirtual (s : State) (asid fuel va : Nat) (bs : List Byte) : OffCores s (s.putVirtual asid fuel va bs) := by
  induction fuel generalizing s va bs with
  | zero => exact refl s
  | succ fuel ih =>
    unfold State.putVirtual
    dsimp only
    split
    · exact refl s
    · refine trans ?_ (ih _ _ _)
      split
      · split
        · exact putHome s _ _
        · exact refl s
      · exact refl s

theorem showSpill (s : State) (k : Core) (r : Record) : OffCores s (s.showSpill k r) := by
  unfold State.showSpill
  split
  · exact refl s
  · exact putVirtual s _ _ _ _

theorem showRecords (s : State) (ctx c : Nat) (old new : Core) (out : Bool) : OffCores s (s.showRecords ctx c old new out) := by
  refine foldl (fun t r => ?_) _ s
  split
  · exact showSpill t _ _
  · split
    · exact refl t
    · exact put t _ _

theorem showSaved (s : State) (ctx c : Nat) (old new : Core) : OffCores s (s.showSaved ctx c old new) := by
  unfold State.showSaved
  split
  · exact refl s
  · have hputs (a : Nat) (u : State) (bs : Mem) (f : Host.Cell → List Byte) :
        OffCores u (bs.foldl (fun s b => s.put (a + 0x1000 + b.1) (f b)) u) := foldl (fun v b => put v _ (f b)) _ _
    dsimp only
    split
    · exact (hputs _ _ _ (fun _ => [0])).trans (hputs _ _ _ (fun b => [b.2]))
    · exact ((hputs _ _ _ (fun _ => [0])).trans (hputs _ _ _ (fun b => [b.2]))).trans (put _ _ _)

theorem request (s : State) (node op asid addr : Nat) (data : List Byte) (why : Purpose) :
    OffCores s (s.request node op asid addr data why).2 :=
  of_netOnly (NetOnly.request _ _ _ _ _ _ _)

theorem freeChunks (s : State) (c : Nat) (r : Record) : OffCores s (s.freeChunks c r) := by
  unfold State.freeChunks
  split <;> rfl

theorem ringAppend {s t : State} {core ctx : Nat} {r : Record} (h : s.ringAppend core ctx r = some t) : OffCores s t := by
  unfold State.ringAppend at h
  split at h
  · cases h
  · dsimp only at h
    split at h
    · cases h
    · cases h
      refine trans (trans (trans ?_ (put _ _ _)) (modContext _ _ _)) (raiseFault _ _ _ _)
      split <;> rfl

theorem holdFault (s : State) (core ctx : Nat) (r : Record) (who : Option Nat) : OffCores s (s.holdFault core ctx r who) :=
  (countHeld s ctx true).trans rfl

section
variable {s t : State} (h : OffCores s t)
include h
theorem getCore (c : Nat) : t.getCore c = s.getCore c := (congrArg (fun u : State => u.getCore c) h :)
theorem keeps : Keeps s t := (congrArg (fun u : State => { u with core := s.core, cores := s.cores }) h :)
end
end OffCores

namespace Keeps

theorem trans {s t u : State} (h : Keeps s t) (g : Keeps t u) : Keeps s u :=
  OffCores.trans (t := { t with core := s.core, cores := s.cores }) h
    (congrArg (fun x : State => { x with core := s.core, cores := s.cores }) g :)

theorem setCore (s : State) (c : Nat) (k : Core) : Keeps s (s.setCore c k) := by
  unfold State.setCore
  split <;> rfl

section
variable {s t : State} (h : Keeps s t)
include h
theorem acting : t.acting = s.acting := (congrArg State.acting h :)
theorem strand : t.strand = s.strand := (congrArg State.strand h :)
theorem inp : t.inp = s.inp := (congrArg State.inp h :)
theorem wdCount : t.wdCount = s.wdCount := (congrArg State.wdCount h :)
end
end Keeps

/-- A view of all cores but one. -/
def exceptCore {α : Type} (c : Nat) (f : Nat → Core → α) (e : Nat) (k : Core) : Option α := if e = c then none else some (f e k)

namespace CoresKeep
variable {α : Type} {f : Nat → Core → α}

theorem of_offCores {s t : State} (h : OffCores s t) : CoresKeep f s t := ⟨h.keeps, fun c => by rw [h.getCore]⟩

theorem refl (s : State) : CoresKeep f s s := of_offCores (OffCores.refl s)

theorem trans {s t u : State} (h : CoresKeep f s t) (g : CoresKeep f t u) : CoresKeep f s u :=
  ⟨h.1.trans g.1, fun c => (g.2 c).trans (h.2 c)⟩

/-- A view of which a view is kept is kept of that. -/
theorem except {s t : State} (c : Nat) (h : CoresKeep f s t) : CoresKeep (exceptCore c f) s t :=
  ⟨h.1, fun e => by unfold exceptCore; rw [h.2]⟩

/-- A fold keeps what each of its steps keeps from a state that the steps before it have kept. -/
theorem foldl {β : Type} {g : State → β → State} {l : List β} {s : State}
    (hg : ∀ t, CoresKeep f s t → ∀ x ∈ l, CoresKeep f t (g t x)) : CoresKeep f s (l.foldl g s) := by
  have hfrom (l' : List β) (t : State) (ht : CoresKeep f s t) (hl : ∀ x ∈ l', x ∈ l) : CoresKeep f s (l'.foldl g t) := by
    induction l' generalizing t with
    | nil => exact ht
    | cons x r ih => exact ih _ (ht.trans (hg t ht x (hl x (by simp)))) (fun y hy => hl y (by simp [hy]))
  exact hfrom l s (refl s) (fun _ h => h)

theorem setCore (s : State) {c : Nat} {k : Core} (h : f c k = f c (s.getCore c)) : CoresKeep f s (s.setCore c k) := by
  refine ⟨Keeps.setCore s c k, fun e => ?_⟩
  by_cases he : e = c
  · rw [he, State.getCore_setCore_self, h]
  · rw [State.getCore_setCore_ne _ _ _ _ he]

theorem modCore (s : State) {c : Nat} {g : Core → Core} (h : f c (g (s.getCore c)) = f c (s.getCore c)) : CoresKeep f s (s.modCore c g) :=
  setCore s h

/-- A view of all cores but one is kept by any change of that one. -/
theorem setCore_except (s : State) (c : Nat) (k : Core) : CoresKeep (exceptCore c f) s (s.setCore c k) :=
  setCore s (by unfold exceptCore; rw [if_pos rfl, if_pos rfl])

theorem modCtxCore (s : State) (ctx : Nat) {c : Nat} {g : Core → Core} (h : f c (g (s.getCore c)) = f c (s.getCore c)) :
    CoresKeep f s (s.modCtxCore ctx c g) := by
  unfold State.modCtxCore
  split
  · exact (modCore s h).trans (of_offCores (OffCores.showRecords _ _ _ _ _ _))
  · split
    · exact of_offCores (((OffCores.modContext s _ _).trans (OffCores.showRecords _ _ _ _ _ _)).trans (OffCores.showSaved _ _ _ _ _))
    · exact modCore s h

/-- Work on a core that is then put back as it was keeps what it keeps of the others. -/
theorem restored (s : State) (c : Nat) (k : Core) {F : State → State} (hF : ∀ t, CoresKeep (exceptCore c f) t (F t)) :
    CoresKeep f s ((F (s.setCore c k)).setCore c (s.getCore c)) := by
  obtain ⟨hkeeps, hcores⟩ := ((setCore_except (f := f) s c k).trans (hF _)).trans (setCore_except _ c (s.getCore c))
  refine ⟨hkeeps, fun e => ?_⟩
  by_cases he : e = c
  · rw [he, State.getCore_setCore_self]
  · simpa only [exceptCore, if_neg he, Option.some.injEq] using hcores e

/-- Where a saved copy stands in for a core, work on it leaves the core as it was. -/
theorem onCtxCore (s : State) {ctx c : Nat} {F : State → State} (hF : ∀ t, CoresKeep (exceptCore c f) t (F t))
    (hs : (s.getCore c).ctx = some ctx ∨ (tget s.contexts ctx).bind (fun x => tget x.saved c) = none → CoresKeep f s (F s)) :
    CoresKeep f s (s.onCtxCore ctx c F) := by
  unfold State.onCtxCore
  split
  next h => exact hs (.inl h)
  next =>
    split
    next h => exact hs (.inr h)
    next =>
      exact (restored s c _ hF).trans
        (of_offCores (((OffCores.modContext _ _ _).trans (OffCores.showRecords _ _ _ _ _ _)).trans (OffCores.showSaved _ _ _ _ _)))

theorem dropRecord (s : State) {c : Nat} {r : Record} (h : f c ((s.getCore c).dropRecord r.dseq) = f c (s.getCore c)) :
    CoresKeep f s (s.dropRecord c r) :=
  (modCore s h).trans (of_offCores (OffCores.freeChunks _ _ _))

end CoresKeep
end Sys2Proof.Machine

namespace Sys2Proof.Machine
open Sys2Proof

/-! A step killed, a core and a die reset (R59, R87, R98, R117). -/

/-- A core but for its records, and whether it has any: what the withdrawal of another core's records keeps of it (R148). -/
def Core.bare (k : Core) : Core × Bool := ({ k with records := [] }, k.records.isEmpty)

/-- A core with nothing on it, as its reset leaves it (R69, R87). -/
structure Core.Cleared (k : Core) : Prop where
  cstate : k.cstate = .inReset
  slots : k.slots = []
  records : k.records = []
  ctx : k.ctx = none
  steps : k.steps = []
  loc : k.loc = []

theorem Core.bare_modRecord (k : Core) (n : Nat) (g : Record → Record) : (k.modRecord n g).bare = k.bare := by
  unfold Core.bare Core.modRecord
  rw [List.isEmpty_map]

theorem Core.Cleared.of_bare {k l : Core} (h : k.Cleared) (e : l.bare = k.bare) : l.Cleared := by
  obtain ⟨hcore, hrec⟩ := Prod.mk.inj e
  refine ⟨(congrArg Core.cstate hcore :).trans h.cstate, (congrArg Core.slots hcore :).trans h.slots, ?_,
    (congrArg Core.ctx hcore :).trans h.ctx, (congrArg Core.steps hcore :).trans h.steps, (congrArg Core.loc hcore :).trans h.loc⟩
  rw [h.records] at hrec
  exact List.isEmpty_iff.mp hrec

theorem Core.Cleared.step {k : Core} (h : k.Cleared) (cell : Nat) : k.step cell = Step.fresh := by
  rw [Core.step, h.steps]
  rfl

/-- A memory of zeros has no object with a list of waiters. -/
theorem Core.Cleared.unlinkLocal {k : Core} (h : k.Cleared) (a ref before : Nat) (p : WaitOn → Bool) : k.unlinkLocal a ref before p = k := by
  unfold Core.unlinkLocal
  rw [h.loc]
  exact if_pos (by simp [mload, mwalk_nil, futSt, bitsN])

/-- A kill of a live step, once its records are unlinked: on its core, or on its saved copy in the core's place. -/
def State.endKilled (s : State) (ctx c cell : Nat) : State :=
  let k := s.getCore c
  let st := k.step cell
  if !st.live then s
  else
    let dseqs := (k.records.filter (fun r => r.cell == cell)).map (·.dseq)
    let lost := ((((tget s.contexts ctx).map (·.pendingFaults)).getD []).filter (fun p => p.2.1 == c && p.2.2.cell == cell)).map (·.2.2.dseq)
    let s := ((s.setCore c (k.evict cell)).discardRecords ctx c cell).forgetFaults ctx c cell
    let s := s.modCore c (fun k => { k with
      awaiting := k.awaiting.filter (fun p => !lost.contains p.1), answers := k.answers.filter (fun p => !lost.contains p.1) })
    let s := s.modLaunch st.die st.launch (fun l => { l with
      queues := l.queues.map (fun q => { q with waits := q.waits.filter (fun w => !(w.core == c && dseqs.contains w.dseq)) }) })
    let s := s.modCore c (fun k => k.modStep cell (fun st => { st with strands := 1 }))
    s.strandGone c cell true

/-- The records of a step withdrawn from the lists that they wait in. -/
def State.unlinkStep (s : State) (ctx c cell : Nat) : State :=
  ((s.ctxCore ctx c).records.filter (fun r => r.cell == cell)).foldl (fun s r => s.unlink ctx c r) s

theorem State.park_of_not_acting {s : State} (h : s.acting = false) : s.park = s := if_neg (by simp [h])

theorem State.killStep_eq {s : State} (h : s.acting = false) (ctx c cell : Nat) :
    s.killStep ctx c cell = ((s.unlinkStep ctx c cell).onCtxCore ctx c (fun t => t.endKilled ctx c cell)).lowerFault ctx := by
  unfold State.killStep
  rw [State.park_of_not_acting h]
  rfl

theorem OffCores.lowerFault {s : State} (h : s.acting = false) (ctx : Nat) : OffCores s (s.lowerFault ctx) := by
  unfold State.lowerFault
  split
  · exact refl s
  · rw [State.park_of_not_acting h]
    rfl

namespace CoresKeep
variable {α : Type} {f : Nat → Core → α}

theorem relink (hf : ∀ e k n g, f e (Core.modRecord k n g) = f e k) (s : State) (ps : List (Nat × Nat × Record)) (before : Nat) :
    CoresKeep f s (ps.foldl (fun s p => s.modCtxCore p.1 p.2.1 (·.modRecord p.2.2.dseq (fun x => { x with next := before }))) s) :=
  foldl (fun t _ _ _ => modCtxCore t _ (hf _ _ _ _))

theorem unlinkFut (hf : ∀ e k n g, f e (Core.modRecord k n g) = f e k) (s : State) (pa ref before : Nat) :
    CoresKeep f s (s.unlinkFut pa ref before) := by
  unfold State.unlinkFut
  dsimp only
  split
  · exact refl s
  · refine trans ?_ (of_offCores (OffCores.merge _ _ _ _))
    refine (relink hf s ((s.waitersAt pa).filter (fun p => decide (p.2.2.next = ref))) before).trans ?_
    exact of_offCores rfl

/-- A record taken out of a list changes its own core, and of others the records alone. -/
theorem unlink (hf : ∀ e k n g, f e (Core.modRecord k n g) = f e k) (s : State) (ctx c : Nat)
    (hl : ∀ a ref before p, f c ((s.getCore c).unlinkLocal a ref before p) = f c (s.getCore c)) (r : Record) :
    CoresKeep f s (s.unlink ctx c r) := by
  unfold State.unlink
  dsimp only
  split
  · split
    · exact of_offCores (OffCores.request _ _ _ _ _ _ _)
    · split
      · exact unlinkFut hf s _ _ _
      · exact refl s
  · exact of_offCores (OffCores.request _ _ _ _ _ _ _)
  · exact unlinkFut hf s _ _ _
  · exact modCtxCore s ctx (hl _ _ _ _)
  · exact modCtxCore s ctx (hl _ _ _ _)
  · exact refl s

theorem endKilled (s : State) (ctx c cell : Nat) : CoresKeep (exceptCore c f) s (s.endKilled ctx c cell) := by
  have hcore (u : State) (g : Core → Core) : CoresKeep (exceptCore c f) u (u.modCore c g) := setCore_except u c _
  have hdrop (u : State) (r : Record) : CoresKeep (exceptCore c f) u (u.dropRecord c r) :=
    (hcore u _).trans (of_offCores (OffCores.freeChunks _ _ _))
  have hdiscard (u : State) : CoresKeep (exceptCore c f) u (u.discardRecords ctx c cell) := by
    refine foldl (fun t _ r _ => ?_)
    dsimp only
    split
    · exact ((of_offCores (OffCores.countHeld t _ _)).trans (hdrop _ _)).trans (hcore _ _)
    · exact (hdrop _ _).trans (hcore _ _)
  have hgone (u : State) : CoresKeep (exceptCore c f) u (u.strandGone c cell true) := by
    unfold State.strandGone
    dsimp only
    split
    · exact setCore_except u c _
    · exact (setCore_except u c _).trans (of_offCores rfl)
  unfold State.endKilled
  dsimp only
  split
  · exact refl s
  · refine trans ?_ (hgone _)
    refine trans ?_ (hcore _ _)
    refine trans ?_ (of_offCores (OffCores.modLaunch _ _ _ _))
    refine trans ?_ (hcore _ _)
    exact ((setCore_except s c _).trans (hdiscard _)).trans (of_offCores (OffCores.modContext _ _ _))

/-- A kill changes the step's core, and of other cores the records alone. -/
theorem killStep {s : State} (ha : s.acting = false) (ctx c cell : Nat) :
    CoresKeep (exceptCore c (fun _ => Core.bare)) s (s.killStep ctx c cell) := by
  have hf (e : Nat) (k : Core) (n : Nat) (g : Record → Record) :
      exceptCore c (fun _ => Core.bare) e (k.modRecord n g) = exceptCore c (fun _ => Core.bare) e k := by
    simp only [exceptCore, Core.bare_modRecord]
  have hunlink : CoresKeep (exceptCore c (fun _ => Core.bare)) s (s.unlinkStep ctx c cell) :=
    foldl (fun t _ r _ => unlink hf t ctx c (fun _ _ _ _ => by simp only [exceptCore, if_true]) r)
  rw [State.killStep_eq ha]
  have hall := hunlink.trans (onCtxCore (ctx := ctx) _ (fun t => (endKilled t ctx c cell).except c) (fun _ => endKilled _ ctx c cell))
  exact hall.trans (of_offCores (OffCores.lowerFault (hall.1.acting.trans ha) ctx))

/-- A kill of what a context has saved of a core with nothing on it leaves the core so. -/
theorem killStep_cleared {s : State} (ha : s.acting = false) (ctx : Nat) {c : Nat} (hc : (s.getCore c).Cleared) (cell : Nat) :
    CoresKeep (fun _ => Core.bare) s (s.killStep ctx c cell) := by
  have hunlink : CoresKeep (fun _ => Core.bare) s (s.unlinkStep ctx c cell) := by
    refine foldl (fun t ht r _ => unlink (fun _ k => k.bare_modRecord) t ctx c (fun a ref before p => ?_) r)
    rw [(hc.of_bare (ht.2 c)).unlinkLocal]
  rw [State.killStep_eq ha]
  have hnone : (s.unlinkStep ctx c cell).endKilled ctx c cell = s.unlinkStep ctx c cell := by
    unfold State.endKilled
    dsimp only
    rw [(hc.of_bare (hunlink.2 c)).step]
    rfl
  have hall := hunlink.trans (onCtxCore (ctx := ctx) (c := c) _ (fun t => endKilled t ctx c cell) (fun _ => by rw [hnone]; exact refl _))
  exact hall.trans (of_offCores (OffCores.lowerFault (hall.1.acting.trans ha) ctx))

end CoresKeep

/-- The cores outside a set, but for their records. -/
def outside (p : Nat → Prop) [DecidablePred p] (e : Nat) (k : Core) : Option (Core × Bool) := if p e then none else some k.bare

theorem CoresKeep.outside_of_except {s t : State} {c : Nat} (h : CoresKeep (exceptCore c (fun _ => Core.bare)) s t) {p : Nat → Prop}
    [DecidablePred p] (hp : p c) : CoresKeep (outside p) s t := by
  refine ⟨h.1, fun e => ?_⟩
  unfold outside
  split
  · rfl
  next he =>
    have hne : e ≠ c := fun h' => he (h' ▸ hp)
    have hbare := h.2 e
    rwa [exceptCore, exceptCore, if_neg hne, if_neg hne] at hbare

theorem CoresKeep.outside_of_bare {s t : State} (h : CoresKeep (fun _ => Core.bare) s t) (p : Nat → Prop) [DecidablePred p] :
    CoresKeep (outside p) s t :=
  ⟨h.1, fun e => congrArg (fun b => if p e then none else some b) (h.2 e)⟩

/-- A core reset is cleared, and of the others only records change. -/
theorem State.resetCore_cleared {s : State} (ha : s.acting = false) (c : Nat) :
    CoresKeep (exceptCore c (fun _ => Core.bare)) s (s.resetCore c) ∧ ((s.resetCore c).getCore c).Cleared := by
  unfold State.resetCore
  dsimp only
  refine ⟨CoresKeep.trans (CoresKeep.foldl (fun t ht p _ => CoresKeep.killStep (ht.1.acting.trans ha) _ c p.1)) (CoresKeep.setCore_except _ c _), ?_⟩
  rw [State.getCore_setCore_self]
  exact ⟨rfl, rfl, rfl, rfl, rfl, rfl⟩

/-- Cores reset one after another are all cleared, and of the others only records change. -/
theorem State.resetCores_cleared (p : Nat → Prop) [DecidablePred p] (cs : List Nat) (hp : ∀ c ∈ cs, p c) {s : State} (ha : s.acting = false) :
    CoresKeep (outside p) s (cs.foldl (fun s c => s.resetCore c) s) ∧
      ∀ c ∈ cs, ((cs.foldl (fun s c => s.resetCore c) s).getCore c).Cleared := by
  refine ⟨CoresKeep.foldl (fun t ht c hc => (State.resetCore_cleared (ht.1.acting.trans ha) c).1.outside_of_except (hp c hc)), ?_⟩
  clear hp
  induction cs generalizing s with
  | nil => simp
  | cons c r ih =>
    obtain ⟨hkeep, hclear⟩ := State.resetCore_cleared ha c
    have ha' : (s.resetCore c).acting = false := hkeep.1.acting.trans ha
    intro e he
    rw [List.foldl_cons]
    by_cases hr : e ∈ r
    · exact ih ha' e hr
    · obtain rfl : e = c := (List.mem_cons.mp he).resolve_right hr
      have hrest : CoresKeep (outside (· ≠ e)) (s.resetCore e) (r.foldl (fun s c => s.resetCore c) (s.resetCore e)) := by
        refine CoresKeep.foldl (fun t ht x hx => ?_)
        exact (State.resetCore_cleared (ht.1.acting.trans ha') x).1.outside_of_except (fun h => hr (h ▸ hx))
      have hbare := hrest.2 e
      simp only [outside, ne_eq, not_true, if_false, Option.some.injEq] at hbare
      exact hclear.of_bare hbare

end Sys2Proof.Machine

namespace Sys2Proof.Machine
open Sys2Proof

/-- A fold keeps what each of its steps keeps. -/
theorem foldl_keeps {α β : Type} (π : State → β) {f : State → α → State} (h : ∀ s x, π (f s x) = π s) (l : List α) (s : State) :
    π (l.foldl f s) = π s := by
  induction l generalizing s with
  | nil => rfl
  | cons x r ih => exact (ih _).trans (h s x)

/-- All of a state but the steps that are due behind the outstanding ones. -/
def State.idle (s : State) : State := { s with work := [] }

theorem State.countRung_wdCount (s : State) {k : Nat} (hk : k < 5) : (s.countRung (k + 1)).wdCount[k] = s.wdCount[k] + 1 := by
  simp [State.countRung, Nat.mod_eq_of_lt hk, hk]

theorem hart_modHart_ne (s : State) {h g : Nat} (f : Hart → Hart) (hne : h % 9 ≠ g % 9) : (s.modHart g f).hart h = s.hart h := by
  unfold State.modHart State.hart
  simp [hne.symm]

theorem State.harbour_modHarbour (s : State) (d : Nat) (f : Harbour → Harbour) : (s.modHarbour d f).harbour d = f (s.harbour d) := by
  unfold State.modHarbour State.harbour
  simp

/-! WATCHDOG_WARNING and WARM_RESTART (R85, R87). -/

theorem watchdogWarning_silent {s : State} (h : s.dieSleep.contains (s.inp.hart % 8 / 2) = true ∨
    s.time.toNat < (s.hart (s.inp.hart % 8)).lastKick + 5000000) : exec .watchdogWarning s = .next s := congrArg _ (if_pos h)

theorem watchdogWarning_rises {s : State} (hs : s.dieSleep.contains (s.inp.hart % 8 / 2) = false)
    (ht : (s.hart (s.inp.hart % 8)).lastKick + 5000000 ≤ s.time.toNat) :
    exec .watchdogWarning s = .next (s.modHart (s.inp.hart % 8) (fun t => { t with wdw := true })) :=
  congrArg _ (if_neg (not_or.mpr ⟨by rw [hs]; exact Bool.false_ne_true, Nat.not_lt.mpr ht⟩))

/-- Whether the hart in hand misses its kick within 1 s of a restart. -/
def State.missesAgain (s : State) : Bool :=
  decide ((s.hart (s.inp.hart % 8)).restarts ≠ 0) && decide (s.time.toNat ≤ (s.hart (s.inp.hart % 8)).restartAt + 1000000000)

theorem State.missesAgain_iff (s : State) : s.missesAgain = true ↔
    (s.hart (s.inp.hart % 8)).restarts ≠ 0 ∧ s.time.toNat ≤ (s.hart (s.inp.hart % 8)).restartAt + 1000000000 := by
  simp [State.missesAgain]

/-- A hart that begins again. -/
def State.restarted (s : State) (t : Hart) : Hart := { t with
  restarts := if s.missesAgain then t.restarts + 1 else 1, restartAt := s.time.toNat, lastKick := s.time.toNat, wdw := false, rv := s.fw.start }

/-- The state as a hart's restart leaves it, its queues to be looked at again. -/
def State.warmRestart (s : State) : State :=
  let t := (s.countRung 3).modHart (s.inp.hart % 8) s.restarted
  t.queues.foldl (fun (s' : State) (q : Nat × HostQueue) =>
    if q.1 % 8 = s.inp.hart % 8 then
      (s'.later .submissionFetch { Input.none with queue := q.1 }).later .commandCompletion { Input.none with queue := q.1 }
    else s') t

/-- A hart is late with its kick, and not exempt: its die is awake, and it is not in a swap that it has still to take part in (R85, R87). -/
def State.hartLate (s : State) : Prop :=
  s.dieSleep.contains (s.inp.hart % 8 / 2) = false ∧ (s.hart (s.inp.hart % 8)).lastKick + 10000000 ≤ s.time.toNat ∧
    (s.mbx.swap = false ∨ s.fw.taken.contains (s.inp.hart % 8) = true)

theorem execWarmRestart_eq (s : State) :
    exec .warmRestart s = .next (if s.dieSleep.contains (s.inp.hart % 8 / 2) ∨ s.time.toNat < (s.hart (s.inp.hart % 8)).lastKick + 10000000 ∨
        (s.mbx.swap ∧ !s.fw.taken.contains (s.inp.hart % 8)) then s
      else if s.missesAgain ∧ 2 ≤ (s.hart (s.inp.hart % 8)).restarts then s.soon .dieReset { Input.none with die := s.inp.hart % 8 / 2 }
      else s.warmRestart) := rfl

theorem warmRestart_exempt {s : State} (h : s.dieSleep.contains (s.inp.hart % 8 / 2) = true ∨
    s.time.toNat < (s.hart (s.inp.hart % 8)).lastKick + 10000000 ∨ (s.mbx.swap = true ∧ s.fw.taken.contains (s.inp.hart % 8) = false)) :
    exec .warmRestart s = .next s := by
  rw [execWarmRestart_eq, if_pos (by simpa only [Bool.not_eq_true'] using h)]

theorem warmRestart_late {s : State} (h : s.hartLate) :
    exec .warmRestart s = .next (if s.missesAgain ∧ 2 ≤ (s.hart (s.inp.hart % 8)).restarts then
      s.soon .dieReset { Input.none with die := s.inp.hart % 8 / 2 } else s.warmRestart) := by
  obtain ⟨hs, ht, hswap⟩ := h
  rw [execWarmRestart_eq, if_neg]
  rw [hs, Bool.not_eq_true']
  rintro (h | h | ⟨h1, h2⟩)
  · cases h
  · omega
  · rcases hswap with e | e
    · rw [h1] at e; cases e
    · rw [h2] at e; cases e

/-- A restart changes the hart, the count of its rung and what is due alone. -/
theorem State.warmRestart_idle (s : State) : s.warmRestart.idle = ((s.countRung 3).modHart (s.inp.hart % 8) s.restarted).idle := by
  refine foldl_keeps State.idle (fun t q => ?_) _ _
  split <;> rfl

theorem State.warmRestart_hart (s : State) : s.warmRestart.hart (s.inp.hart % 8) = s.restarted (s.hart (s.inp.hart % 8)) := by
  have h : s.warmRestart.harts = _ := (congrArg State.harts s.warmRestart_idle :)
  rw [State.hart, h]
  exact hart_modHart (s.countRung 3) _ _

/-! DIE_RESET (R85, R87, R98). -/

/-- The cores of a die. -/
def dieCores (d : Nat) : List Nat := (List.range 128).map (128 * d + ·)

theorem mem_dieCores (d c : Nat) : c ∈ dieCores d ↔ c / 128 = d := by
  simp only [dieCores, List.mem_map, List.mem_range]
  constructor
  · rintro ⟨i, hi, rfl⟩; omega
  · exact fun h => ⟨c % 128, by omega, by omega⟩

theorem nodup_dieCores (d : Nat) : (dieCores d).Nodup := List.nodup_range.map (fun _ _ h => Nat.add_left_cancel h)

/-- The live steps in the copies of a die's cores that contexts have saved: context, core and cell. -/
def State.savedSteps (s : State) (d : Nat) : List (Nat × Nat × Nat) :=
  s.contexts.flatMap (fun x => (x.2.saved.filter (fun p => dieOf p.1 == d)).flatMap (fun p =>
    (p.2.steps.filter (·.2.live)).map (fun q => (x.1, p.1, q.1))))

theorem State.savedSteps_die {s : State} {d : Nat} {t : Nat × Nat × Nat} (h : t ∈ s.savedSteps d) : t.2.1 / 128 = d := by
  simp only [State.savedSteps, List.mem_flatMap, List.mem_map, List.mem_filter, beq_iff_eq] at h
  obtain ⟨x, -, p, ⟨-, hp⟩, q, -, rfl⟩ := h
  exact hp

theorem State.dropSaved_eq (s : State) (d : Nat) :
    let t := (s.savedSteps d).foldl (fun s t => s.killStep t.1 t.2.1 t.2.2) s
    s.dropSaved d = { t with contexts := t.contexts.map (fun x =>
      (x.1, { x.2 with saved := x.2.saved.filter (fun p => dieOf p.1 != d), siglog := x.2.siglog.filter (fun p => dieOf p.1 != d) })) } := rfl

/-- The saved copies of a die's cores go, with the steps in them, and the cores stay cleared. -/
theorem State.dropSaved_keeps {s : State} (ha : s.acting = false) (d : Nat) (hc : ∀ c, c / 128 = d → (s.getCore c).Cleared) :
    CoresKeep (fun _ => Core.bare) s (s.dropSaved d) := by
  have hkill : CoresKeep (fun _ => Core.bare) s ((s.savedSteps d).foldl (fun s t => s.killStep t.1 t.2.1 t.2.2) s) := by
    refine CoresKeep.foldl (fun t ht p hp => ?_)
    exact CoresKeep.killStep_cleared (ht.1.acting.trans ha) _ ((hc _ (State.savedSteps_die hp)).of_bare (ht.2 _)) _
  rw [State.dropSaved_eq]
  exact hkill.trans (CoresKeep.of_offCores rfl)

/-- Every core of a die cleared, with what contexts have saved of them, and the rung counted. -/
def State.dieCleared (s : State) (d : Nat) : State := ((dieCores d).foldl (fun s c => s.resetCore c) (s.park.countRung 4)).dropSaved d

theorem State.dieCleared_cores (s : State) (d : Nat) :
    CoresKeep (outside (fun c => c / 128 = d)) (s.park.countRung 4) (s.dieCleared d) ∧ ∀ c, c / 128 = d → ((s.dieCleared d).getCore c).Cleared := by
  have ha : (s.park.countRung 4).acting = false := s.park_acting
  obtain ⟨hreset, hclear⟩ := State.resetCores_cleared (fun c => c / 128 = d) (dieCores d) (fun c => (mem_dieCores d c).mp) ha
  have hdrop := State.dropSaved_keeps (hreset.1.acting.trans ha) d (fun c hc => hclear c ((mem_dieCores d c).mpr hc))
  refine ⟨hreset.trans (hdrop.outside_of_bare _), fun c hc => ?_⟩
  exact (hclear c ((mem_dieCores d c).mpr hc)).of_bare (hdrop.2 c)

/-! Commands that a reset ends (R73, R81, R87). -/

/-- What no command's end changes: the cores, and the counts of the rungs. -/
def State.coreSide (s : State) : Bool × Nat × Core × Table Core × Vector Nat 5 := (s.acting, s.here, s.core, s.cores, s.wdCount)

/-- No command of a queue that a test selects is started. -/
def State.NoneStarted (s : State) (p : Nat → Bool) : Prop := ∀ n u, tget s.queues n = some u → p n = true → u.started = []

theorem State.NoneStarted.of_queues {s t : State} {p : Nat → Bool} (h : s.NoneStarted p) (e : t.queues = s.queues) : t.NoneStarted p := by
  rw [State.NoneStarted, e]
  exact h

/-- One queue's part in `completeCmds`. -/
def State.completeOn (s : State) (p : Nat → Started → Bool) (status : Nat) (result : Started → Nat) (q : Nat × HostQueue) : State :=
  let mine := q.2.started.filter (p q.1)
  if mine.isEmpty then s
  else
    let t : HostQueue :=
      { q.2 with
        started := q.2.started.filter (fun c => !(p q.1 c))
        ready := q.2.ready ++ mine.map (fun c => { cid := c.cid, sqhd := c.sqhd, status := status, result := BitVec.ofNat 64 (result c) }) }
    ({ s with queues := tset s.queues q.1 t }).later .commandCompletion { Input.none with queue := q.1 }

theorem State.completeCmds_eq (s : State) (p : Nat → Started → Bool) (status : Nat) (result : Started → Nat) :
    s.completeCmds p status result = s.queues.foldl (fun s q => s.completeOn p status result q) s := rfl

/-- A part of a state that neither the queues nor what is due belong to is as it was once commands are complete. -/
theorem State.completeCmds_keeps {β : Type} (π : State → β) (hπ : ∀ (s : State) qs ws, π { s with queues := qs, work := ws } = π s) (s : State)
    (p : Nat → Started → Bool) (status : Nat) (result : Started → Nat) : π (s.completeCmds p status result) = π s := by
  rw [State.completeCmds_eq]
  refine foldl_keeps π (fun t q => ?_) _ s
  unfold State.completeOn
  dsimp only
  split
  · rfl
  · exact hπ t _ _

theorem mem_of_tget {α : Type} {t : Table α} {k : Nat} {v : α} (h : tget t k = some v) : (k, v) ∈ t := by
  obtain ⟨p, hp, rfl⟩ := Option.map_eq_some_iff.mp h
  have hk : p.1 = k := by simpa using List.find?_some hp
  exact hk ▸ List.mem_of_find?_eq_some hp

/-- An abort leaves no started command on the queues that it selects. -/
theorem State.abort_noneStarted (s : State) (p : Nat → Bool) (status : Nat) : (s.abort p status).NoneStarted p := by
  have hfold (l : Table HostQueue) (t : State) (h : ∀ n u, tget t.queues n = some u → p n = true → u.started = [] ∨ (n, u) ∈ l) :
      (l.foldl (fun s q => s.completeOn (fun q _ => p q) status (fun _ => 0) q) t).NoneStarted p := by
    induction l generalizing t with
    | nil => exact fun n u hu hp => (h n u hu hp).resolve_right (by simp)
    | cons q r ih =>
      refine ih _ (fun n u hu hp => ?_)
      unfold State.completeOn at hu
      dsimp only at hu
      split at hu
      next hmine =>
        rcases h n u hu hp with hnil | hmem
        · exact .inl hnil
        · refine (List.mem_cons.mp hmem).imp_left (fun e => ?_)
          obtain rfl := e
          simpa [hp] using hmine
      next hmine =>
        by_cases e : n = q.1
        · subst e
          rw [State.later_queues, tget_tset_self, Option.some.injEq] at hu
          left
          rw [← hu]
          simp [hp]
        · rw [State.later_queues, tget_tset_ne _ _ _ _ e] at hu
          refine (h n u hu hp).imp_right (fun hmem => (List.mem_cons.mp hmem).resolve_left (fun e' => e (congrArg Prod.fst e')))
  exact hfold _ s (fun n u hu _ => .inr (mem_of_tget hu))

/-- The command in progress ends: the queues and what is due change alone. -/
theorem State.finish_keeps {β : Type} (π : State → β) (hπ : ∀ (s : State) qs ws, π { s with queues := qs, work := ws } = π s) (s : State)
    (status result : Nat) : π (s.finish status result) = π s := by
  unfold State.finish
  dsimp only
  split
  · rfl
  · split
    · rfl
    · exact hπ s _ _

theorem State.NoneStarted.finish {s : State} {p : Nat → Bool} (h : s.NoneStarted p) (status result : Nat) :
    (s.finish status result).NoneStarted p := by
  unfold State.finish
  dsimp only
  split
  · exact h
  next q hq =>
    split
    · exact h
    · intro n u hu hp
      by_cases e : n = s.inp.queue
      · subst e
        rw [State.later_queues, tget_tset_self, Option.some.injEq] at hu
        rw [← hu, h _ q hq hp]
        rfl
      · rw [State.later_queues, tget_tset_ne _ _ _ _ e] at hu
        exact h n u hu hp

/-- The command of an activation in hand, which is over. -/
def State.ending (s : State) (q n : Nat) : State :=
  { s with inp := { s.inp with queue := q, n := n }, fw := { s.fw with activating := none, written := [], taken := [] } }

theorem State.endActivate_none {s : State} (h : s.fw.activating = none) (status : Nat) : s.endActivate status = s := by
  rw [State.endActivate, h]

theorem State.endActivate_some {s : State} {q n : Nat} (h : s.fw.activating = some (q, n)) (status : Nat) :
    s.endActivate status = { (s.ending q n).finish status 0 with inp := s.inp } := by
  rw [State.endActivate, h]
  rfl

theorem State.coreSide_inp (s : State) (i : Input) : { s with inp := i }.coreSide = s.coreSide := rfl

theorem State.coreSide_ending (s : State) (q n : Nat) : (s.ending q n).coreSide = s.coreSide := rfl

theorem State.endActivate_keeps (s : State) (status : Nat) :
    (s.endActivate status).coreSide = s.coreSide ∧ (s.endActivate status).inp = s.inp := by
  cases h : s.fw.activating with
  | none => rw [State.endActivate_none h]; exact ⟨rfl, rfl⟩
  | some p =>
    rw [State.endActivate_some h, State.coreSide_inp, State.finish_keeps State.coreSide (fun _ _ _ => rfl), State.coreSide_ending]
    exact ⟨rfl, rfl⟩

theorem State.NoneStarted.endActivate {s : State} {p : Nat → Bool} (h : s.NoneStarted p) (status : Nat) : (s.endActivate status).NoneStarted p := by
  cases ha : s.fw.activating with
  | none => rwa [State.endActivate_none ha]
  | some c =>
    rw [State.endActivate_some ha]
    exact ((h.of_queues (t := s.ending c.1 c.2) rfl).finish status 0).of_queues rfl

/-- What the failure of an activation does with a hart: it goes on in the image in use (R81). -/
def State.handBack (s : State) (h : Nat) : State :=
  let s := if s.fw.written.contains h then s.enterImage h s.fw.activeB else s
  (s.poke (handoverAt h + 32) 8 2).modHart h (fun t => { t with handover := 2, image := s.fw.version, lastKick := s.time.toNat })

/-- What the failure of an activation leaves of the harts, memory, the firmware and the mailbox, before its command ends (R81). -/
def State.swapBack (s : State) : State :=
  let t := (List.range 8).foldl State.handBack s
  ({ t with fw := t.fw.failOther }).resumeMbx

theorem State.failSwap_eq (s : State) : s.failSwap = if !s.swapping then s else s.swapBack.endActivate 0x0A := rfl

/-- The queues, the cores and the input. -/
def State.queueSide (s : State) : (Bool × Nat × Core × Table Core × Vector Nat 5) × Table HostQueue × Input := (s.coreSide, s.queues, s.inp)

theorem State.handBack_queueSide (s : State) (h : Nat) : (s.handBack h).queueSide = s.queueSide := by
  unfold State.handBack
  dsimp only
  split <;> rfl

theorem State.later_queueSide (s : State) (a : Instr) (i : Input) : (s.later a i).queueSide = s.queueSide := rfl

theorem State.resumed_queueSide (s : State) (f : Firmware) : ({ s with fw := f }).resumeMbx.queueSide = s.queueSide := by
  unfold State.resumeMbx
  refine (foldl_keeps State.queueSide (fun t q => ?_) _ _).trans rfl
  exact t.later_queueSide _ _

theorem State.swapBack_queueSide (s : State) : s.swapBack.queueSide = s.queueSide := by
  rw [State.swapBack, State.resumed_queueSide, foldl_keeps State.queueSide State.handBack_queueSide]

theorem State.swapBack_keeps (s : State) :
    s.swapBack.coreSide = s.coreSide ∧ s.swapBack.queues = s.queues ∧ s.swapBack.inp = s.inp := by
  have h := s.swapBack_queueSide
  simpa only [State.queueSide, Prod.mk.injEq] using h

theorem State.failSwap_keeps (s : State) : s.failSwap.coreSide = s.coreSide ∧ s.failSwap.inp = s.inp := by
  rw [State.failSwap_eq]
  split
  · exact ⟨rfl, rfl⟩
  · obtain ⟨hcore, -, hinp⟩ := s.swapBack_keeps
    obtain ⟨gcore, ginp⟩ := s.swapBack.endActivate_keeps 0x0A
    exact ⟨gcore.trans hcore, ginp.trans hinp⟩

theorem State.NoneStarted.failSwap {s : State} {p : Nat → Bool} (h : s.NoneStarted p) : s.failSwap.NoneStarted p := by
  rw [State.failSwap_eq]
  split
  · exact h
  · exact (h.of_queues s.swapBack_keeps.2.1).endActivate _

/-- HALT raised for a die, which is awake; firmware's commands of its queues are forgotten. -/
def State.haltDie (s : State) (d : Nat) : State :=
  let s := if d = 0 then { s with fw := { s.fw with activating := none, committing := none } } else s
  { s with
    mbx := { s.mbx with halt := true }
    haltDies := ninsert s.haltDies d
    replicas := s.replicas.filter (fun r => r.die != d)
    dieSleep := nremove s.dieSleep d }

/-- The state with the commands of a die's queues ended, an activation failed, HALT raised and the die's harbourmaster reset; the end of the die's
reset is due (R73, R81, R87). -/
def State.dieHalted (s : State) (d : Nat) : State :=
  let s := (dieCores d).foldl (fun s c => s.releasePort c) (((s.abort (fun q => q % 8 / 2 == d) 6).failSwap).haltDie d)
  (s.modHarbour d (fun _ => Harbour.reset)).later .dieReset { s.inp with ok := false }

theorem dieReset_begins {s : State} (h : s.inp.ok = true) :
    exec .dieReset s = .next ((s.dieCleared (s.inp.die % 4)).dieHalted (s.inp.die % 4)) := by
  have h' : s.park.inp.ok = true := by simpa using h
  show execDieReset s = _
  unfold execDieReset State.dieCleared State.dieHalted State.haltDie dieCores
  exact congrArg Host.Outcome.next (if_pos h')

theorem State.haltDie_keeps (s : State) (d : Nat) :
    (s.haltDie d).coreSide = s.coreSide ∧ (s.haltDie d).queues = s.queues ∧ (s.haltDie d).inp = s.inp ∧ (s.haltDie d).mbx.halt = true := by
  unfold State.haltDie
  split <;> exact ⟨rfl, rfl, rfl, rfl⟩

/-- Ports released: the cores, the queues, the input and the mailbox stay. -/
theorem State.releasePorts_keeps (cs : List Nat) (s : State) :
    (cs.foldl (fun s c => s.releasePort c) s).queueSide = s.queueSide ∧ (cs.foldl (fun s c => s.releasePort c) s).mbx = s.mbx := by
  have h := foldl_keeps (fun u : State => (u.queueSide, u.mbx)) (f := fun s c => s.releasePort c) (fun _ _ => rfl) cs s
  simpa only [Prod.mk.injEq] using h

/-- A harbourmaster reset, and a step made due. -/
theorem State.harbourReset_spec (s : State) (d : Nat) (a : Instr) (i : Input) :
    let t := (s.modHarbour d (fun _ => Harbour.reset)).later a i
    t.queueSide = s.queueSide ∧ t.mbx = s.mbx ∧ t.harbour d = Harbour.reset ∧ todo a i ∈ t.work :=
  ⟨rfl, rfl, State.harbour_modHarbour s d (fun _ => Harbour.reset), List.mem_append_right _ (List.mem_singleton_self _)⟩

theorem State.dieHalted_spec (s : State) (d : Nat) :
    (s.dieHalted d).coreSide = s.coreSide ∧ (s.dieHalted d).NoneStarted (fun q => q % 8 / 2 == d) ∧ (s.dieHalted d).mbx.halt = true ∧
      (s.dieHalted d).harbour d = Harbour.reset ∧ todo .dieReset { s.inp with ok := false } ∈ (s.dieHalted d).work := by
  have hstarted := (s.abort_noneStarted (fun q => q % 8 / 2 == d) 6).failSwap
  have habort := s.completeCmds_keeps (fun u => (u.coreSide, u.inp)) (fun _ _ _ => rfl) (fun q _ => q % 8 / 2 == d) 6 (fun _ => 0)
  obtain ⟨hacore, hainp⟩ := Prod.mk.inj habort
  obtain ⟨hfcore, hfinp⟩ := (s.abort (fun q => q % 8 / 2 == d) 6).failSwap_keeps
  obtain ⟨hhcore, hhqueues, hhinp, hhalt⟩ := ((s.abort (fun q => q % 8 / 2 == d) 6).failSwap).haltDie_keeps d
  rw [State.dieHalted]
  generalize ((s.abort (fun q => q % 8 / 2 == d) 6).failSwap).haltDie d = u at *
  obtain ⟨hports, hpmbx⟩ := State.releasePorts_keeps (dieCores d) u
  generalize (dieCores d).foldl (fun s c => s.releasePort c) u = v at *
  obtain ⟨hside, hmbx, hharbour, hdue⟩ := v.harbourReset_spec d .dieReset { v.inp with ok := false }
  obtain ⟨hvcore, hvrest⟩ := Prod.mk.inj (hside.trans hports)
  obtain ⟨hvqueues, -⟩ := Prod.mk.inj hvrest
  refine ⟨hvcore.trans (hhcore.trans (hfcore.trans hacore)), hstarted.of_queues (hvqueues.trans hhqueues), ?_, hharbour, ?_⟩
  · rw [hmbx, hpmbx]
    exact hhalt
  · have hinp : v.inp = s.inp := (congrArg (fun p => p.2.2) hports).trans (hhinp.trans (hfinp.trans hainp))
    rw [← hinp]
    exact hdue

theorem Core.eq_of_bare {k j : Core} (h : k.bare = j.bare) : { k with records := j.records } = j :=
  (congrArg (fun b : Core × Bool => { b.1 with records := j.records }) h :)

theorem State.countRung_getCore (s : State) (i c : Nat) : (s.countRung i).getCore c = s.getCore c := rfl

/-- The reset of a die begins (R87, R98): its cores are cleared and those of the other dies stay but for records withdrawn from lists. -/
theorem dieReset_begun {s : State} (h : s.inp.ok = true) :
    ∃ t, exec .dieReset s = .next t ∧ t.mbx.halt = true ∧ t.wdCount[3] = s.wdCount[3] + 1 ∧
      (∀ c, c / 128 = s.inp.die % 4 → (t.getCore c).Cleared) ∧
      (∀ c, c / 128 ≠ s.inp.die % 4 → { t.getCore c with records := (s.park.getCore c).records } = s.park.getCore c) ∧
      t.harbour (s.inp.die % 4) = Harbour.reset ∧ t.NoneStarted (fun q => q % 8 / 2 == s.inp.die % 4) ∧
      todo .dieReset { s.inp with ok := false } ∈ t.work := by
  obtain ⟨⟨hkeeps, hview⟩, hclear⟩ := s.dieCleared_cores (s.inp.die % 4)
  obtain ⟨hside, hstarted, hhalt, hharbour, hdue⟩ := (s.dieCleared (s.inp.die % 4)).dieHalted_spec (s.inp.die % 4)
  simp only [State.coreSide, Prod.mk.injEq] at hside
  obtain ⟨hacting, hhere, hcore, hcores, hcount⟩ := hside
  refine ⟨_, dieReset_begins h, ?_⟩
  generalize (s.dieCleared (s.inp.die % 4)).dieHalted (s.inp.die % 4) = t at *
  generalize s.dieCleared (s.inp.die % 4) = u at *
  have hget (c : Nat) : t.getCore c = u.getCore c := by
    rw [State.getCore, State.getCore, hacting, hhere, hcore, hcores]
  refine ⟨hhalt, ?_, fun c hc => ?_, fun c hc => ?_, hharbour, hstarted, ?_⟩
  · rw [hcount, hkeeps.wdCount, State.countRung_wdCount _ (by decide)]
    have hpark : s.park.wdCount = s.wdCount := (congrArg State.wdCount s.park_frame :)
    rw [hpark]
  · rw [hget]
    exact hclear c hc
  · rw [hget]
    have hbare := hview c
    simp only [outside, if_neg hc, Option.some.injEq, State.countRung_getCore] at hbare
    exact Core.eq_of_bare hbare
  · have hinp : u.inp = s.inp := hkeeps.inp.trans s.park_inp
    rwa [hinp] at hdue

/-! The end of a die's reset. -/

/-- All of a state but its cores. -/
def State.coreless (s : State) : State := { s with core := Core.reset, cores := [] }

theorem State.modCore_coreless (s : State) (c : Nat) (f : Core → Core) : (s.modCore c f).coreless = s.coreless := by
  unfold State.modCore State.setCore
  split <;> rfl

/-- A change made to some cores, each once. -/
theorem State.getCore_modCores (f : Core → Core) (cs : List Nat) (hd : cs.Nodup) (s : State) (e : Nat) :
    (cs.foldl (fun s c => s.modCore c f) s).getCore e = if e ∈ cs then f (s.getCore e) else s.getCore e := by
  induction cs generalizing s with
  | nil => simp
  | cons c r ih =>
    obtain ⟨hc, hr⟩ := List.nodup_cons.mp hd
    rw [List.foldl_cons, ih hr, State.modCore]
    by_cases he : e = c
    · subst he
      simp [hc]
    · simp [he, State.getCore_setCore_ne _ _ _ _ he]

/-- A core of a die that serves again, with cleared memories. -/
def Core.served (k : Core) : Core := if k.cstate = .inReset then { k.wipe with cstate := .running } else k

/-- The state as the end of a die's reset leaves it, but for what is then due. -/
def State.dieUp (s : State) (d : Nat) : State :=
  let s := (dieCores d).foldl (fun s c => s.modCore c Core.served) s
  let now := s.time.toNat
  let up (t : Hart) : Hart := { t with restarts := 0, lastKick := now, wdw := false, rv := s.fw.start }
  let left := nremove s.haltDies d
  let s := { s with mbx := { s.mbx with halt := !left.isEmpty }, haltDies := left }
  (s.modHart (2 * d) up).modHart (2 * d + 1) up

/-- The queues of the die are looked at again. -/
def State.dieServes (s : State) (d : Nat) : State :=
  let s := s.dieUp d
  s.queues.foldl (fun (s : State) (q : Nat × HostQueue) =>
    if q.1 % 8 / 2 = d then s.later .submissionFetch { Input.none with queue := q.1 } else s) s

theorem dieReset_ends {s : State} (h : s.inp.ok = false) : exec .dieReset s = .next (s.park.dieServes (s.inp.die % 4)) := by
  have h' : ¬ s.park.inp.ok = true := by simp [h]
  show execDieReset s = _
  unfold execDieReset State.dieServes State.dieUp dieCores Core.served
  exact congrArg Host.Outcome.next (if_neg h')

theorem State.dieServes_idle (s : State) (d : Nat) : (s.dieServes d).idle = (s.dieUp d).idle := by
  refine foldl_keeps State.idle (fun t q => ?_) _ _
  split <;> rfl

/-- The end of a die's reset, for any list of cores that serve again. -/
theorem State.servedOf_spec (s : State) (cs : List Nat) (hd : cs.Nodup) :
    let t := cs.foldl (fun s c => s.modCore c Core.served) s
    t.coreless = s.coreless ∧ ∀ c, t.getCore c = if c ∈ cs then (s.getCore c).served else s.getCore c :=
  ⟨foldl_keeps State.coreless (fun t c => t.modCore_coreless c _) cs s, State.getCore_modCores Core.served cs hd s⟩

theorem Core.served_of_inReset {k : Core} (h : k.cstate = .inReset) : k.served = { k.wipe with cstate := .running } := if_pos h

/-- The end of a die's reset (R87): HALT falls with the last die, and the cores of the die run with cleared memories. -/
theorem State.dieUp_spec (s : State) (d : Nat) :
    let t := s.dieUp d
    t.mbx.halt = !(nremove s.haltDies d).isEmpty ∧ t.mem = s.mem ∧
      (∀ c, t.getCore c = if c / 128 = d then (s.getCore c).served else s.getCore c) ∧
      (t.hart (2 * d)).lastKick = s.time.toNat ∧ (t.hart (2 * d + 1)).lastKick = s.time.toNat := by
  obtain ⟨hrest, hcores⟩ := s.servedOf_spec (dieCores d) (nodup_dieCores d)
  simp only [mem_dieCores] at hcores
  unfold State.dieUp
  generalize (dieCores d).foldl (fun s c => s.modCore c Core.served) s = u at *
  have htime : u.time = s.time := (congrArg State.time hrest :)
  have hdies : u.haltDies = s.haltDies := (congrArg State.haltDies hrest :)
  have hmem : u.mem = s.mem := (congrArg State.mem hrest :)
  refine ⟨by rw [← hdies]; rfl, hmem, hcores, ?_, ?_⟩
  · rw [hart_modHart_ne _ _ (by omega), hart_modHart, htime]
  · rw [hart_modHart, htime]

theorem dieReset_served {s : State} (h : s.inp.ok = false) :
    ∃ t, exec .dieReset s = .next t ∧ ((∀ x ∈ s.haltDies, x = s.inp.die % 4) → t.mbx.halt = false) ∧ t.mem = s.mem ∧
      (∀ c, c / 128 = s.inp.die % 4 → (s.park.getCore c).cstate = .inReset →
        t.getCore c = { (s.park.getCore c).wipe with cstate := .running }) ∧
      (∀ c, c / 128 ≠ s.inp.die % 4 → t.getCore c = s.park.getCore c) ∧
      (t.hart (2 * (s.inp.die % 4))).lastKick = s.time.toNat ∧ (t.hart (2 * (s.inp.die % 4) + 1)).lastKick = s.time.toNat := by
  refine ⟨_, dieReset_ends h, ?_⟩
  obtain ⟨hhalt, hmem, hcores, hfirst, hsecond⟩ := s.park.dieUp_spec (s.inp.die % 4)
  have hidle := s.park.dieServes_idle (s.inp.die % 4)
  generalize s.park.dieServes (s.inp.die % 4) = t at *
  generalize s.park.dieUp (s.inp.die % 4) = u at *
  have hmbx : t.mbx = u.mbx := (congrArg State.mbx hidle :)
  have hget (c : Nat) : t.getCore c = u.getCore c := (congrArg (fun v : State => v.getCore c) hidle :)
  have hhart (g : Nat) : t.hart g = u.hart g := (congrArg (fun v : State => v.hart g) hidle :)
  have hdies : s.park.haltDies = s.haltDies := (congrArg State.haltDies s.park_frame :)
  have htime : s.park.time = s.time := (congrArg State.time s.park_frame :)
  refine ⟨fun hall => ?_, (congrArg State.mem hidle :).trans (hmem.trans s.park_mem), fun c hc hr => ?_, fun c hc => ?_, ?_, ?_⟩
  · have hnil : nremove s.haltDies (s.inp.die % 4) = [] := by simpa [nremove] using hall
    rw [hmbx, hhalt, hdies, hnil]
    rfl
  · rw [hget, hcores, if_pos hc, Core.served_of_inReset hr]
  · rw [hget, hcores, if_neg hc]
  · rw [hhart, hfirst, htime]
  · rw [hhart, hsecond, htime]

end Sys2Proof.Machine

namespace Sys2Proof.Machine
open Sys2Proof

/-- A request within the limit of its destination goes out once (R44). -/
theorem State.request_sent (s : State) (node op asid addr : Nat) (data : List Byte) (why : Purpose) (h : s.fabric.unacked node < 4096) :
    ∃ p, (s.request node op asid addr data why).2.fabric.sent = s.fabric.sent ++ [p] ∧ p.dst = node ∧ p.op = op ∧ p.addr = addr ∧
      p.asid = asid ∧ p.data = data ∧ p.sseq = (s.request node op asid addr data why).1 := by
  let q := (tget s.fabric.sseq node).getD 0
  refine ⟨{ Packet.empty with dst := node, src := s.fabric.node, op := op, asid := asid, sseq := q, addr := addr, data := data }, ?_,
    rfl, rfl, rfl, rfl, rfl, rfl⟩
  have hlater (b : Bool) (u : State) (i : Input) : (if b then u.later .errorResponse i else u).fabric.sent = u.fabric.sent := by
    split <;> rfl
  unfold State.request
  dsimp only
  rw [decide_eq_true h, if_pos rfl]
  exact (hlater _ _ _).trans (State.emit_sent _ _)

/-! MODULE_RESET (R85, R87). -/

/-- The firmware's record, the network and the counts of the rungs. -/
def State.steady (s : State) : Firmware × Fabric × Vector Nat 5 := (s.fw, s.fabric, s.wdCount)

theorem State.modQueue_steady (s : State) (n : Nat) (f : HostQueue → HostQueue) : (s.modQueue n f).steady = s.steady := by
  unfold State.modQueue
  split <;> rfl

theorem State.writePhys_steady {s t : State} {pa : Nat} {bs : List Byte} (h : s.writePhys pa bs = .ok t) : t.steady = s.steady := by
  obtain ⟨-, -, -, hframe⟩ := State.writePhys_ok _ _ _ _ h
  exact (congrArg State.steady hframe :)

/-- A queue's notify write sent (R65). -/
def State.notified (s : State) (q : HostQueue) : State :=
  if q.notAddr = 0 then s
  else if !s.fabric.reaches q.notNode then s.logError 43 q.notAddr
  else { s with hostMem := tset s.hostMem q.notNode (mstore ((tget s.hostMem q.notNode).getD []) q.notAddr (bytesOf 8 q.notData.toNat)) }

theorem State.notified_steady (s : State) (q : HostQueue) : (s.notified q).steady = s.steady := by
  unfold State.notified
  split
  · rfl
  · split <;> rfl

/-- A completion written changes neither the firmware, nor the network, nor the counts of the rungs. -/
theorem State.writeCompletion_steady (s : State) (n : Nat) (q : HostQueue) (c : Completion) : (s.writeCompletion n q c).steady = s.steady := by
  unfold State.writeCompletion
  split
  · exact s.modQueue_steady n _
  next t ht =>
    exact (State.notified_steady _ q).trans ((t.modQueue_steady n _).trans (State.writePhys_steady ht))

theorem State.flushQueue_steady (s : State) (n fuel : Nat) : (s.flushQueue n fuel).steady = s.steady := by
  induction fuel generalizing s with
  | zero => rfl
  | succ fuel ih =>
    unfold State.flushQueue
    split
    · rfl
    · split
      · rfl
      · split
        · rfl
        · rw [ih, State.writeCompletion_steady, State.modQueue_steady]

/-- An activation past its first step has failed (R81). -/
def State.failSwapped (s : State) : State := if s.swapping then { s with fw := s.fw.failOther } else s

/-- The state in which a module reset takes everything that it does not keep: commands completed and completions written. -/
def State.atReset (s : State) : State :=
  let s := (s.park.abort (fun _ => true) 6).failSwapped
  s.queues.foldl (fun (s : State) (q : Nat × HostQueue) => s.flushQueue q.1 8192) s

/-- What a module reset keeps of the state that it takes everything in. -/
def State.resetFrom (s : State) : State :=
  let (d, s) := s.draw
  ({ State.reset with
    agenda := s.agenda, clock := s.clock, ahead := s.ahead, draws := s.draws, inp := s.inp, mem := s.mem, poison := s.poison, soft := s.soft, units := s.units
    expanders := s.expanders, cxlSilent := s.cxlSilent, hostMem := s.hostMem, cmdSeq := s.cmdSeq, ptPool := s.ptPool, fw := s.fw.afterReset d, wdCount := s.wdCount, clkFail := s.clkFail
    fabric := { s.fabric with out := [], mcasts := [], splits := [] } })

theorem State.moduleReset_eq (s : State) : s.moduleReset = s.atReset.resetFrom := rfl

/-- Commands aborted: memory, the firmware and the mailbox stay, and all of it where no queue is there. -/
theorem State.abortAll_keeps (s : State) :
    let t := s.park.abort (fun _ => true) 6
    t.steady = s.steady ∧ t.mbx = s.mbx ∧ t.mem = s.mem ∧ (s.queues = [] → t.queues = []) := by
  have habort := s.park.completeCmds_keeps (fun u => (u.steady, u.mbx, u.mem)) (fun _ _ _ => rfl) (fun _ _ => true) 6 (fun _ => 0)
  have hpark : (s.park.steady, s.park.mbx, s.park.mem) = (s.steady, s.mbx, s.mem) := (congrArg (fun u : State => (u.steady, u.mbx, u.mem)) s.park_frame :)
  have hkept := habort.trans hpark
  simp only [Prod.mk.injEq] at hkept
  obtain ⟨hsteady, hmbx, hmem⟩ := hkept
  refine ⟨hsteady, hmbx, hmem, fun hq => ?_⟩
  have hnone : s.park.queues = [] := (congrArg State.queues s.park_frame :).trans hq
  rw [State.abort, State.completeCmds_eq, hnone]
  exact hnone

theorem State.failSwapped_keeps (s : State) :
    s.failSwapped.fw = (if s.swapping then s.fw.failOther else s.fw) ∧ s.failSwapped.fabric = s.fabric ∧ s.failSwapped.wdCount = s.wdCount ∧
      s.failSwapped.mem = s.mem ∧ s.failSwapped.queues = s.queues := by
  unfold State.failSwapped
  split <;> exact ⟨rfl, rfl, rfl, rfl, rfl⟩

theorem State.atReset_keeps (s : State) :
    s.atReset.fw = (if s.swapping then s.fw.failOther else s.fw) ∧ s.atReset.fabric = s.fabric ∧ s.atReset.wdCount = s.wdCount ∧
      (s.queues = [] → s.atReset.mem = s.mem) := by
  obtain ⟨hsteady, hmbx, hmem, hqueues⟩ := s.abortAll_keeps
  unfold State.atReset
  generalize s.park.abort (fun _ => true) 6 = u at *
  simp only [State.steady, Prod.mk.injEq] at hsteady
  obtain ⟨hfw, hfabric, hcount⟩ := hsteady
  have hswapping : u.swapping = s.swapping := by rw [State.swapping, State.swapping, hfw, hmbx]
  obtain ⟨vfw, vfabric, vcount, vmem, vqueues⟩ := u.failSwapped_keeps
  generalize u.failSwapped = v at *
  have hflush := foldl_keeps State.steady (f := fun (s : State) (q : Nat × HostQueue) => s.flushQueue q.1 8192)
    (fun t q => t.flushQueue_steady q.1 8192) v.queues v
  simp only [State.steady, Prod.mk.injEq] at hflush
  obtain ⟨wfw, wfabric, wcount⟩ := hflush
  refine ⟨?_, wfabric.trans (vfabric.trans hfabric), wcount.trans (vcount.trans hcount), fun hq => ?_⟩
  · rw [wfw, vfw, hswapping, hfw]
  · dsimp only
    rw [vqueues, hqueues hq]
    exact vmem.trans hmem

theorem Firmware.slot_setSlot (f : Firmware) (a b : Bool) (x : FwSlot) : (f.setSlot a x).slot b = if b = a then x else f.slot b := by
  cases a <;> cases b <;> rfl

theorem Firmware.setSlot_rest (f : Firmware) (a : Bool) (x : FwSlot) :
    (f.setSlot a x).activeB = f.activeB ∧ (f.setSlot a x).counter = f.counter ∧ (f.setSlot a x).pendingDebug = f.pendingDebug := by
  cases a <;> exact ⟨rfl, rfl, rfl⟩

/-- The slots as a module reset finds them: the other one has failed if a swap to it was on its way (R81). -/
theorem Firmware.swappedOut_slots (f : Firmware) (c : Bool) :
    let g := if c then f.failOther else f
    g.activeB = f.activeB ∧ g.counter = f.counter ∧ g.pendingDebug = f.pendingDebug ∧ g.slot f.activeB = f.slot f.activeB ∧
      g.slot (!f.activeB) = if c then { f.other with st := .failed } else f.other := by
  cases c with
  | false => exact ⟨rfl, rfl, rfl, rfl, rfl⟩
  | true =>
    obtain ⟨hactive, hcounter, hdebug⟩ := f.setSlot_rest (!f.activeB) { f.other with st := .failed }
    refine ⟨hactive, hcounter, hdebug, ?_, ?_⟩
    · exact (f.slot_setSlot _ _ _).trans (if_neg (by simp))
    · exact (f.slot_setSlot _ _ _).trans (if_pos rfl)

/-- A module reset keeps memory and the firmware's slots, takes queues, contexts and cores, and makes the boot due (R77, R87). -/
theorem State.moduleReset_done (s : State) :
    ModuleResetDone s s.moduleReset ∧ s.moduleReset.fabric.sent = s.fabric.sent ∧ s.moduleReset.wdCount = s.wdCount ∧
      s.moduleReset.fw.recovery = false := by
  obtain ⟨hfw, hfabric, hcount, hmem⟩ := s.atReset_keeps
  obtain ⟨hactive, hcounter, hdebug, hslot, hother⟩ := s.fw.swappedOut_slots s.swapping
  rw [State.moduleReset_eq]
  generalize s.atReset = u at *
  rw [← hfw] at hactive hcounter hdebug hslot hother
  have hsent : u.resetFrom.fabric.sent = u.fabric.sent := rfl
  exact ⟨⟨rfl, rfl, rfl, rfl, rfl, hactive, hslot, hother, hcounter, hdebug, hmem, List.mem_singleton_self _⟩, hsent.trans (congrArg Fabric.sent hfabric),
    hcount, rfl⟩

/-- The always-on timer's report of a module reset goes out before it (R85 rung 5). -/
def State.resetReported (s : State) : State :=
  let s := s.countRung 5
  let data := bytesOf 2 s.fabric.node ++ bytesOf 8 s.time.toNat ++ s.wdCount.toList.flatMap (bytesOf 4)
  (s.request s.fw.reportNode opManagement 0 2 data .nothing).2

theorem execModuleReset_eq (s : State) :
    exec .moduleReset s = .next (if !s.inp.ok then s.moduleReset
      else if (s.hart 8).power ≠ .p0 ∨ s.time.toNat < (s.hart 8).lastKick + 100000000 then s else s.resetReported.moduleReset) := rfl

theorem moduleReset_input {s : State} (h : s.inp.ok = false) : exec .moduleReset s = .next s.moduleReset := by
  rw [execModuleReset_eq, if_pos (by simp [h])]

theorem moduleReset_kicked {s : State} (h : s.inp.ok = true) (hk : (s.hart 8).power ≠ .p0 ∨ s.time.toNat < (s.hart 8).lastKick + 100000000) :
    exec .moduleReset s = .next s := by
  rw [execModuleReset_eq, if_neg (by simp [h]), if_pos hk]

theorem moduleReset_late {s : State} (h : s.inp.ok = true) (hp : (s.hart 8).power = .p0) (hk : (s.hart 8).lastKick + 100000000 ≤ s.time.toNat) :
    exec .moduleReset s = .next s.resetReported.moduleReset := by
  rw [execModuleReset_eq, if_neg (by simp [h]), if_neg]
  exact not_or.mpr ⟨not_not.mpr hp, Nat.not_lt.mpr hk⟩

theorem State.resetReported_keeps (s : State) : NetOnly (s.countRung 5) s.resetReported := NetOnly.request _ _ _ _ _ _ _

/-- What is done of the state with the report sent is done of the state itself. -/
theorem ModuleResetDone.of_reported {s t : State} (h : ModuleResetDone s.resetReported t) : ModuleResetDone s t := by
  have hkeeps : { s.resetReported with fabric := s.fabric, agenda := s.agenda, work := s.work } = s.countRung 5 := s.resetReported_keeps
  have hfw : s.resetReported.fw = s.fw := (congrArg State.fw hkeeps :)
  have hqueues : s.resetReported.queues = s.queues := (congrArg State.queues hkeeps :)
  have hmem : s.resetReported.mem = s.mem := (congrArg State.mem hkeeps :)
  have hswapping : s.resetReported.swapping = s.swapping := (congrArg State.swapping hkeeps :)
  rw [ModuleResetDone, hfw, hqueues, hmem, hswapping] at h
  exact h

/-- A module reset that the always-on timer makes is counted and reported first (R85 rung 5). -/
theorem moduleReset_reports {s : State} (h : s.fabric.unacked s.fw.reportNode < 4096) :
    s.resetReported.moduleReset.wdCount[4] = s.wdCount[4] + 1 ∧
      ∃ p : Packet, s.resetReported.moduleReset.fabric.sent = s.fabric.sent ++ [p] ∧ p.op = 0x09 ∧ p.dst = s.fw.reportNode ∧
        p.data = bytesOf 2 s.fabric.node ++ bytesOf 8 s.time.toNat ++ s.resetReported.moduleReset.wdCount.toList.flatMap (bytesOf 4) := by
  obtain ⟨-, hsent, hcount, -⟩ := s.resetReported.moduleReset_done
  have hkeeps : { s.resetReported with fabric := s.fabric, agenda := s.agenda, work := s.work } = s.countRung 5 := s.resetReported_keeps
  have hrung : s.resetReported.wdCount = (s.countRung 5).wdCount := (congrArg State.wdCount hkeeps :)
  obtain ⟨p, hout, hdst, hop, -, -, hdata, -⟩ := (s.countRung 5).request_sent s.fw.reportNode opManagement 0 2
    (bytesOf 2 s.fabric.node ++ bytesOf 8 s.time.toNat ++ (s.countRung 5).wdCount.toList.flatMap (bytesOf 4)) .nothing h
  rw [hcount, hrung, hsent]
  exact ⟨s.countRung_wdCount (by decide), p, hout, hop, hdst, hdata⟩

end Sys2Proof.Machine

namespace Sys2Proof.Machine
open Sys2Proof

/-! Attestation (R94). -/

theorem State.spdmBusy_iff (s : State) : s.spdmBusy = true ↔ s.fw.activating.isSome = true ∧ s.fw.written.contains 8 = true := by
  rw [State.spdmBusy, Bool.and_eq_true]

theorem State.spdmResponse_busy {s : State} (h : s.spdmBusy = true) (msg : List Byte) (d : Nat) : s.spdmResponse msg d = spdmError 3 msg d :=
  if_pos h

theorem State.spdmResponse_unsupported {s : State} {msg : List Byte} (h : ¬ s.spdmBusy = true) (hc : s.spdmContent msg = none) (d : Nat) :
    s.spdmResponse msg d = spdmError 7 msg d := by
  rw [State.spdmResponse, if_neg h, hc]

theorem State.spdmResponse_supported {s : State} {msg bs : List Byte} (h : ¬ s.spdmBusy = true) (hc : s.spdmContent msg = some bs) (d : Nat) :
    s.spdmResponse msg d = if spdmSlotBad msg = true then spdmError 1 msg d
      else if spdmSigned msg = true ∧ s.fw.idKey ≠ .usable then spdmError 5 msg d else Config.spdmBytes (fld msg 1 1) bs d := by
  rw [State.spdmResponse, if_neg h, hc]

theorem State.spdmContent_none {s : State} {msg : List Byte} (h : fld msg 1 1 ∉ [0x81, 0x82, 0x83, 0x84, 0xE0, 0xE1, 0xE3]) :
    s.spdmContent msg = none := by
  simp only [List.mem_cons, List.not_mem_nil, or_false, not_or] at h
  obtain ⟨h1, h2, h3, h4, h5, h6, h7⟩ := h
  simp [State.spdmContent, *]

theorem State.spdmContent_some {s : State} {msg content : List Byte}
    (h : (fld msg 1 1, content) ∈ [(0x84, msg), (0xE1, msg), (0xE3, msg), (0x81, msg ++ bytesOf 64 s.fw.certHash), (0x82, msg ++ bytesOf 64 s.fw.certHash),
      (0x83, msg ++ s.fw.meas.toList.flatMap (bytesOf 64)), (0xE0, msg ++ s.fw.meas.toList.flatMap (bytesOf 64) ++ s.manifest.take 256)]) :
    s.spdmContent msg = some content := by
  simp only [List.mem_cons, List.not_mem_nil, or_false, Prod.mk.injEq] at h
  obtain ⟨e, rfl⟩ | ⟨e, rfl⟩ | ⟨e, rfl⟩ | ⟨e, rfl⟩ | ⟨e, rfl⟩ | ⟨e, rfl⟩ | ⟨e, rfl⟩ := h <;> simp [State.spdmContent, e]

theorem spdmSigned_iff (msg : List Byte) :
    spdmSigned msg = true ↔ fld msg 1 1 = 0x83 ∨ (fld msg 1 1 = 0xE0 ∧ (fld msg 2 1).testBit 0 = true) := by
  simp [spdmSigned]

theorem spdmSlotBad_iff (msg : List Byte) : spdmSlotBad msg = true ↔
    ¬ ((fld msg 1 1 ∈ [0x82, 0x83] → fld msg 2 1 % 16 = 0) ∧
      (fld msg 1 1 = 0xE0 → (fld msg 2 1).testBit 0 = true → fld msg 36 1 % 16 = 0)) := by
  unfold spdmSlotBad
  dsimp only
  by_cases hc : fld msg 1 1 = 0x82 ∨ fld msg 1 1 = 0x83
  · have hne : fld msg 1 1 ≠ 0xE0 := by omega
    simp [hc, hne]
  · simp [hc, and_assoc]

/-- The response to a message has the standard's contents (R94). -/
theorem State.spdmContents (u : State) (msg : List Byte) (d : Nat) : SpdmContents u msg d (u.spdmResponse msg d) := by
  refine ⟨fun hb => State.spdmResponse_busy (u.spdmBusy_iff.mpr hb) msg d,
    fun hb hc => State.spdmResponse_unsupported (u.spdmBusy_iff.not.mpr hb) (State.spdmContent_none hc) d, fun hb content hc => ?_⟩
  rw [State.spdmResponse_supported (u.spdmBusy_iff.not.mpr hb) (State.spdmContent_some hc), ← spdmSigned_iff]
  refine ⟨fun hs => if_pos ((spdmSlotBad_iff msg).mpr hs), fun hs hsign hkey => ?_, fun hs hok => ?_⟩
  · rw [if_neg ((spdmSlotBad_iff msg).not.mpr (not_not.mpr hs)), if_pos ⟨hsign, hkey⟩]
  · rw [if_neg ((spdmSlotBad_iff msg).not.mpr (not_not.mpr hs)), if_neg (fun h => hok.elim (fun g => g h.1) (fun g => h.2 g))]

/-- The answer to an attestation request. -/
def spdmAnswer (q : Packet) (s : State) : Reply :=
  let (d, s) := s.draw
  s.spdmReply q.data (s.spdmResponse q.data d) d

/-- A state with a draw counted. -/
def State.drawn (s : State) : State := { s with draws := s.draws + 1 }

theorem spdm_exec {x : Instr} (h : x ∈ [Instr.getVersion, .getCapabilities, .negotiateAlgorithms, .getDigests, .getCertificate, .challenge, .getMeasurements])
    {s : State} (hp : s.power ≠ .p4) : exec x s = .next (s.park.takeIn s.inp.pkt (spdmAnswer s.inp.pkt)) := by
  have hrow : exec x s = .next (s.whenAwake x (fun t => t.takeIn s.inp.pkt (spdmAnswer s.inp.pkt))) := by
    simp only [List.mem_cons, List.not_mem_nil, or_false] at h
    obtain rfl | rfl | rfl | rfl | rfl | rfl | rfl := h <;> rfl
  rw [hrow, State.whenAwake_awake hp]

theorem State.spdmReply_short {s : State} {bs : List Byte} (h : bs.length ≤ 1024) (msg : List Byte) (d : Nat) :
    s.spdmReply msg bs d = .now s opData 0 bs := if_pos h

theorem State.spdmReply_long {s : State} {bs : List Byte} (h : 1024 < bs.length) (msg : List Byte) (d : Nat) :
    s.spdmReply msg bs d = .now { s with fw := { s.fw with spdm := bs } } opData 0 (spdmError 15 msg d) := if_neg (Nat.not_le.mpr h)

theorem spdm_answered {s : State} {x : Instr}
    (hx : x ∈ [Instr.getVersion, .getCapabilities, .negotiateAlgorithms, .getDigests, .getCertificate, .challenge, .getMeasurements])
    (hq : FreshRequest s s.inp.pkt) :
    let u := s.park.drawn
    let bs := u.spdmResponse s.inp.pkt.data s.park.draws
    ∃ t, exec x s = .next t ∧ (bs.length ≤ 1024 → AnsweredFrom u t s.inp.pkt 0x10 0 bs) ∧
      (1024 < bs.length → AnsweredFrom { u with fw := { u.fw with spdm := bs } } t s.inp.pkt 0x10 0 (spdmError 15 s.inp.pkt.data s.park.draws)) := by
  intro u bs
  have hw : u.fabric.windows = s.fabric.windows := (congrArg (fun v : State => v.fabric.windows) s.park_frame :)
  by_cases hlen : bs.length ≤ 1024
  · obtain ⟨t, ht, hans⟩ := answered (spdm_exec hx) hq (State.spdmReply_short (s := u) hlen _ _) hw
    exact ⟨t, ht, fun _ => hans, fun h => absurd hlen (Nat.not_le.mpr h)⟩
  · obtain ⟨t, ht, hans⟩ := answered (spdm_exec hx) hq (State.spdmReply_long (s := u) (Nat.not_le.mp hlen) _ _) hw
    exact ⟨t, ht, fun h => absurd h hlen, fun _ => hans⟩

/-- The message that a chunk makes with those gathered before it, and whether it is the last. -/
def State.gathered (s : State) (msg : List Byte) : List Byte × Bool :=
  let (bs, first, last) := chunkOf msg
  (if first then bs else s.fw.spdm ++ bs, last)

/-- A state that keeps the message gathered so far, none after the last chunk. -/
def State.keepChunk (s : State) (m : List Byte × Bool) : State := { s with fw := { s.fw with spdm := if m.2 then [] else m.1 } }

/-- The answer to a chunk of a request. -/
def chunkSendAnswer (q : Packet) (s : State) : Reply :=
  let d := s.draws
  let u := s.drawn
  if u.spdmBusy then .now u opData 0 (spdmError 3 q.data d)
  else
    let m := u.gathered q.data
    if m.2 then (u.keepChunk m).spdmReply m.1 ((u.keepChunk m).spdmResponse m.1 d) d
    else .now (u.keepChunk m) opData 0 ((Config.spdmBytes 0x85 q.data d).take 1024)

theorem chunkSend_exec {s : State} (hp : s.power ≠ .p4) :
    exec .chunkSend s = .next (s.park.takeIn s.inp.pkt (chunkSendAnswer s.inp.pkt)) := by
  have hrow : exec .chunkSend s = .next (s.whenAwake .chunkSend (fun t => t.takeIn s.inp.pkt (chunkSendAnswer s.inp.pkt))) := rfl
  rw [hrow, State.whenAwake_awake hp]

theorem chunkSend_answered {s : State} (hq : FreshRequest s s.inp.pkt) :
    let u := s.park.drawn
    let m := u.gathered s.inp.pkt.data
    let v := u.keepChunk m
    let d := s.park.draws
    ∃ t, exec .chunkSend s = .next t ∧ (u.spdmBusy = true → AnsweredFrom u t s.inp.pkt 0x10 0 (spdmError 3 s.inp.pkt.data d)) ∧
      (¬ u.spdmBusy = true → m.2 = false → AnsweredFrom v t s.inp.pkt 0x10 0 ((Config.spdmBytes 0x85 s.inp.pkt.data d).take 1024)) ∧
      (¬ u.spdmBusy = true → m.2 = true → (v.spdmResponse m.1 d).length ≤ 1024 → AnsweredFrom v t s.inp.pkt 0x10 0 (v.spdmResponse m.1 d)) := by
  intro u m v d
  have hw : u.fabric.windows = s.fabric.windows := (congrArg (fun v : State => v.fabric.windows) s.park_frame :)
  by_cases hbusy : u.spdmBusy = true
  · obtain ⟨t, ht, hans⟩ := answered chunkSend_exec hq (if_pos hbusy) hw
    exact ⟨t, ht, fun _ => hans, fun h => absurd hbusy h, fun h => absurd hbusy h⟩
  have hgo : chunkSendAnswer s.inp.pkt s.park = if m.2 then v.spdmReply m.1 (v.spdmResponse m.1 d) d
      else .now v opData 0 ((Config.spdmBytes 0x85 s.inp.pkt.data d).take 1024) := if_neg hbusy
  by_cases hlast : m.2 = true
  · rw [if_pos hlast] at hgo
    by_cases hlen : (v.spdmResponse m.1 d).length ≤ 1024
    · obtain ⟨t, ht, hans⟩ := answered chunkSend_exec hq (hgo.trans (State.spdmReply_short hlen _ _)) hw
      exact ⟨t, ht, fun h => absurd h hbusy, fun _ h => absurd hlast (Bool.eq_false_iff.mp h), fun _ _ _ => hans⟩
    · obtain ⟨t, ht, -⟩ := answered chunkSend_exec hq (hgo.trans (State.spdmReply_long (Nat.not_le.mp hlen) _ _)) hw
      exact ⟨t, ht, fun h => absurd h hbusy, fun _ h => absurd hlast (Bool.eq_false_iff.mp h), fun _ _ h => absurd h hlen⟩
  · obtain ⟨t, ht, hans⟩ := answered chunkSend_exec hq (hgo.trans (if_neg hlast)) hw
    exact ⟨t, ht, fun h => absurd h hbusy, fun _ _ => hans, fun _ h => absurd h hlast⟩

/-- The answer to a request for the next chunk of a long response. -/
def chunkGetAnswer (q : Packet) (s : State) : Reply :=
  let d := s.draws
  let u := s.drawn
  if u.spdmBusy then .now u opData 0 (spdmError 3 q.data d)
  else .now { u with fw := { u.fw with spdm := u.fw.spdm.drop 1024 } } opData 0 (u.fw.spdm.take 1024)

theorem chunkGet_exec {s : State} (hp : s.power ≠ .p4) :
    exec .chunkGet s = .next (s.park.takeIn s.inp.pkt (chunkGetAnswer s.inp.pkt)) := by
  have hrow : exec .chunkGet s = .next (s.whenAwake .chunkGet (fun t => t.takeIn s.inp.pkt (chunkGetAnswer s.inp.pkt))) := rfl
  rw [hrow, State.whenAwake_awake hp]

theorem chunkGet_answered {s : State} (hq : FreshRequest s s.inp.pkt) :
    let u := s.park.drawn
    ∃ t, exec .chunkGet s = .next t ∧ (u.spdmBusy = true → AnsweredFrom u t s.inp.pkt 0x10 0 (spdmError 3 s.inp.pkt.data s.park.draws)) ∧
      (¬ u.spdmBusy = true → AnsweredFrom { u with fw := { u.fw with spdm := u.fw.spdm.drop 1024 } } t s.inp.pkt 0x10 0 (u.fw.spdm.take 1024)) := by
  intro u
  have hw : u.fabric.windows = s.fabric.windows := (congrArg (fun v : State => v.fabric.windows) s.park_frame :)
  by_cases hbusy : u.spdmBusy = true
  · obtain ⟨t, ht, hans⟩ := answered chunkGet_exec hq (if_pos hbusy) hw
    exact ⟨t, ht, fun _ => hans, fun h => absurd hbusy h⟩
  · obtain ⟨t, ht, hans⟩ := answered chunkGet_exec hq (if_neg hbusy) hw
    exact ⟨t, ht, fun h => absurd h hbusy, fun _ => hans⟩

theorem reservedManagementChannel_answered {s : State} (hq : FreshRequest s s.inp.pkt) :
    ∃ t, exec .reservedManagementChannel s = .next t ∧
      AnsweredFrom { s.park with log := s.park.log ++ [(95, s.inp.pkt.addr)] } t s.inp.pkt 0x12 0 [0x11] := by
  refine answered (f := fun t => errReply (t.logError 95 s.inp.pkt.addr) 0x11) (fun hp => ?_) hq rfl
    (congrArg (fun v : State => v.fabric.windows) s.park_frame :)
  exact congrArg Host.Outcome.next (State.whenAwake_awake hp _ _)

end Sys2Proof.Machine

namespace Sys2Proof.Machine
open Sys2Proof

/-! Recovery packets (R95). -/

@[simp] theorem State.park_fw (s : State) : s.park.fw = s.fw := (congrArg State.fw s.park_frame :)

/-- A recovery packet has the header of a type. -/
def RcvyHeader (q : Packet) (type : Nat) : Prop :=
  q.data.take 4 = ascii "RCVY" ∧ fld q.data 4 1 = type ∧ fld q.data 5 1 ≤ 1 ∧ fld q.data 6 2 = 0

/-- The answer to a recovery packet, whose row does `f` in recovery with a good header. -/
def rcvyAnswer (type : Nat) (f : State → Packet → Reply) (q : Packet) (s : State) : Reply :=
  if !s.fw.recovery then rcvyReply s 0x0C none
  else if q.data.take 4 ≠ ascii "RCVY" ∨ fld q.data 4 1 ≠ type ∨ 1 < fld q.data 5 1 ∨ fld q.data 6 2 ≠ 0 then rcvyReply s 2 none
  else f s q

section
variable {s : State} {type : Nat} {f : State → Packet → Reply} {q : Packet}

theorem rcvyAnswer_refused (h : s.fw.recovery = false) : rcvyAnswer type f q s = .now s opData 1 (bytesOf 2 0x0C) := if_pos (by simp [h])

theorem rcvyHeader_not_iff : (q.data.take 4 ≠ ascii "RCVY" ∨ fld q.data 4 1 ≠ type ∨ 1 < fld q.data 5 1 ∨ fld q.data 6 2 ≠ 0) ↔ ¬ RcvyHeader q type := by
  rw [RcvyHeader, not_and_or, not_and_or, not_and_or, Nat.not_le]

theorem rcvyAnswer_malformed (h : s.fw.recovery = true) (hh : ¬ RcvyHeader q type) : rcvyAnswer type f q s = .now s opData 1 (bytesOf 2 2) := by
  rw [rcvyAnswer, if_neg (by simp [h]), if_pos (rcvyHeader_not_iff.mpr hh)]
  rfl

theorem rcvyAnswer_taken (h : s.fw.recovery = true) (hh : RcvyHeader q type) : rcvyAnswer type f q s = f s q := by
  rw [rcvyAnswer, if_neg (by simp [h]), if_neg (rcvyHeader_not_iff.not.mpr (not_not.mpr hh))]

theorem rcvyReply_status (s : State) (status : Nat) : rcvyReply s status none = .now s opData 1 (bytesOf 2 status) := by
  rw [rcvyReply, List.append_nil]

/-- A fresh recovery packet is answered with what its row gives. -/
theorem rcvy_answer {x : Instr} (hq : FreshRequest s s.inp.pkt) {u : State} {data : List Byte}
    (hf : rcvyAnswer type f s.inp.pkt s.park = .now u opData 1 data) (hw : u.fabric = s.fabric) :
    s.rcvy x type f = u.answer s.inp.pkt .done opData 1 data ∧ AnsweredFrom u (s.rcvy x type f) s.inp.pkt 0x10 1 data := by
  have heq : s.rcvy x type f = u.answer s.inp.pkt .done opData 1 data := by
    have hrow : s.rcvy x type f = s.whenAwake x (fun t => t.takeIn s.inp.pkt (rcvyAnswer type f s.inp.pkt)) := rfl
    rw [hrow, State.whenAwake_awake hq.power, State.takeIn_fresh hq.park, hf]
    rfl
  refine ⟨heq, ?_⟩
  rw [heq]
  exact State.answer_answeredFrom (hq.park.of_windows (by rw [hw, State.park_fabric])) _ _ _

end

/-- What is done with the image that END verifies: a module reset follows where recovery is over. -/
def afterRcvy (s t : State) : State := if s.fw.recovery ∧ !t.fw.recovery then t.moduleReset else t

/-- An instruction is the row of a type of recovery packet. -/
def RcvyRow (x : Instr) (type : Nat) (f : State → Packet → Reply) : Prop :=
  ∀ s : State, (s.fw.recovery = true → (s.rcvy x type f).fw.recovery = true) → exec x s = .next (s.rcvy x type f)

def rcvyBeginPart (s : State) (q : Packet) : Reply :=
  let n := fld q.data 8 8
  if s.fw.staging ∧ s.fw.rcvyNode ≠ q.src then rcvyReply s 0x0C none
  else if n < 1536 ∨ (n - 1536) % 4096 ≠ 0 ∨ 32 * 1048576 < n then rcvyReply s 2 none
  else
    let b := decide (fld q.data 5 1 = 1)
    let fw := s.fw.setSlot b FwSlot.blank
    rcvyReply { s with fw := { fw with staging := true, rcvySlotB := b, rcvyNode := q.src, rcvyLen := n, rcvyBytes := [] } } 0 none

def rcvyDataPart (s : State) (q : Packet) : Reply :=
  let off := fld q.data 8 8
  let bs := q.data.drop 16
  let have_ := s.fw.rcvyBytes.length
  if off < have_ ∧ s.fw.staging then rcvyReply s 0 none
  else if !s.fw.staging ∨ have_ < off ∨ bs.isEmpty ∨ 1008 < bs.length ∨ s.fw.rcvyLen < have_ + bs.length then rcvyReply s 2 none
  else rcvyReply { s with fw := { s.fw with rcvyBytes := s.fw.rcvyBytes ++ bs } } 0 none

/-- The firmware once END has found its image good: the slot that it went to is the booting one, and recovery is over. -/
def Firmware.recovered (fw : Firmware) : Firmware :=
  { fw.setSlot fw.rcvySlotB { st := .staged, image := fw.rcvyBytes, fails := 0 } with
    activeB := fw.rcvySlotB, staging := false, rcvyBytes := [], rcvyLen := 0, recovery := false }

def rcvyEndPart (s : State) (q : Packet) : Reply :=
  let fw := s.fw
  if fld q.data 8 8 ≠ 0 ∨ !fw.staging ∨ fw.rcvyBytes.length < fw.rcvyLen then rcvyReply s 2 none
  else
    let found := imageStatus fw fw.rcvyBytes true
    if fw.enforced ∧ found ≠ 0 then rcvyReply { s with fw := { fw with staging := false, rcvyBytes := [], rcvyLen := 0 } } found none
    else rcvyReply { s with fw := fw.recovered } 0 none

def rcvyQueryPart (s : State) (q : Packet) : Reply :=
  if fld q.data 8 8 ≠ 0 then rcvyReply s 2 none else rcvyReply s 0 (some s.fw.query)

theorem rcvyBegin_row : RcvyRow .rcvyBegin 1 rcvyBeginPart := fun _ _ => rfl
theorem rcvyData_row : RcvyRow .rcvyData 2 rcvyDataPart := fun _ _ => rfl
theorem rcvyQuery_row : RcvyRow .rcvyQuery 4 rcvyQueryPart := fun _ _ => rfl

theorem execRcvyEnd_eq (s : State) : exec .rcvyEnd s = .next (afterRcvy s (s.rcvy .rcvyEnd 3 rcvyEndPart)) := rfl

theorem rcvyEnd_row : RcvyRow .rcvyEnd 3 rcvyEndPart := by
  intro s h
  rw [execRcvyEnd_eq, afterRcvy, if_neg]
  rintro ⟨hr, ht⟩
  rw [h hr] at ht
  cases ht

/-- A packet is answered from a state that is still in recovery if it was. -/
theorem RcvyRow.answered {x : Instr} {type : Nat} {f : State → Packet → Reply} (hx : RcvyRow x type f) {s u : State} {data : List Byte}
    (hq : FreshRequest s s.inp.pkt) (hf : rcvyAnswer type f s.inp.pkt s.park = .now u opData 1 data) (hw : u.fabric = s.fabric)
    (hr : s.fw.recovery = true → u.fw.recovery = true) : ∃ t, exec x s = .next t ∧ AnsweredFrom u t s.inp.pkt 0x10 1 data := by
  obtain ⟨heq, hans⟩ := rcvy_answer (x := x) hq hf hw
  refine ⟨_, hx s (fun h => ?_), hans⟩
  obtain ⟨-, -, -, -, hframe⟩ := hans
  have hfw : (s.rcvy x type f).fw = u.fw := (congrArg State.fw hframe :)
  rw [hfw]
  exact hr h

/-- What a row gives is what its type's packet is answered with. -/
theorem RcvyRow.taken {x : Instr} {type : Nat} {f : State → Packet → Reply} (hx : RcvyRow x type f) {s : State} {fw : Firmware} {data : List Byte}
    (hq : FreshRequest s s.inp.pkt) (hr : s.fw.recovery = true) (hh : RcvyHeader s.inp.pkt type)
    (hf : f s.park s.inp.pkt = .now { s.park with fw := fw } opData 1 data) (hfw : fw.recovery = true) :
    ∃ t, exec x s = .next t ∧ AnsweredFrom { s.park with fw := fw } t s.inp.pkt 0x10 1 data :=
  hx.answered hq ((rcvyAnswer_taken (by rw [State.park_fw]; exact hr) hh).trans hf) s.park_fabric (fun _ => hfw)

theorem rcvy_rows {x : Instr} {type : Nat} (h : (x, type) ∈ [(Instr.rcvyBegin, 1), (.rcvyData, 2), (.rcvyEnd, 3), (.rcvyQuery, 4)]) :
    ∃ f, RcvyRow x type f := by
  simp only [List.mem_cons, List.not_mem_nil, or_false, Prod.mk.injEq] at h
  obtain ⟨rfl, rfl⟩ | ⟨rfl, rfl⟩ | ⟨rfl, rfl⟩ | ⟨rfl, rfl⟩ := h
  · exact ⟨_, rcvyBegin_row⟩
  · exact ⟨_, rcvyData_row⟩
  · exact ⟨_, rcvyEnd_row⟩
  · exact ⟨_, rcvyQuery_row⟩

theorem rcvy_outside {s : State} (hq : FreshRequest s s.inp.pkt) (hr : s.fw.recovery = false) {x : Instr}
    (h : x ∈ [Instr.rcvyBegin, .rcvyData, .rcvyEnd, .rcvyQuery]) :
    ∃ t, exec x s = .next t ∧ AnsweredFrom s.park t s.inp.pkt 0x10 1 (bytesOf 2 0x0C) := by
  have hrow : ∃ type, (x, type) ∈ [(Instr.rcvyBegin, 1), (.rcvyData, 2), (.rcvyEnd, 3), (.rcvyQuery, 4)] := by
    simp only [List.mem_cons, List.not_mem_nil, or_false] at h
    obtain rfl | rfl | rfl | rfl := h
    · exact ⟨1, by simp⟩
    · exact ⟨2, by simp⟩
    · exact ⟨3, by simp⟩
    · exact ⟨4, by simp⟩
  obtain ⟨type, htype⟩ := hrow
  obtain ⟨f, hf⟩ := rcvy_rows htype
  exact hf.answered hq (rcvyAnswer_refused (by rw [State.park_fw]; exact hr)) s.park_fabric (fun e => by rw [hr] at e; cases e)

theorem rcvy_malformed {s : State} (hq : FreshRequest s s.inp.pkt) (hr : s.fw.recovery = true) {x : Instr} {type : Nat}
    (h : (x, type) ∈ [(Instr.rcvyBegin, 1), (.rcvyData, 2), (.rcvyEnd, 3), (.rcvyQuery, 4)]) (hh : ¬ RcvyHeader s.inp.pkt type) :
    ∃ t, exec x s = .next t ∧ AnsweredFrom s.park t s.inp.pkt 0x10 1 (bytesOf 2 2) := by
  obtain ⟨f, hf⟩ := rcvy_rows h
  have hr' : s.park.fw.recovery = true := by rw [State.park_fw]; exact hr
  exact hf.answered hq (rcvyAnswer_malformed hr' hh) s.park_fabric (fun _ => hr')

theorem Firmware.setSlot_recovery (f : Firmware) (a : Bool) (x : FwSlot) : (f.setSlot a x).recovery = f.recovery := by
  cases a <;> rfl

section
variable {s : State} (hq : FreshRequest s s.inp.pkt) (hr : s.fw.recovery = true)
include hq hr

theorem rcvyBegin_stages (hh : RcvyHeader s.inp.pkt 1) (hn : s.fw.staging = false ∨ s.fw.rcvyNode = s.inp.pkt.src)
    (hmin : 1536 ≤ fld s.inp.pkt.data 8 8) (hmod : (fld s.inp.pkt.data 8 8 - 1536) % 4096 = 0) (hmax : fld s.inp.pkt.data 8 8 ≤ 32 * 1048576) :
    ∃ t, exec .rcvyBegin s = .next t ∧ AnsweredFrom { s.park with fw := { s.fw.setSlot (decide (fld s.inp.pkt.data 5 1 = 1)) FwSlot.blank with
      staging := true, rcvySlotB := decide (fld s.inp.pkt.data 5 1 = 1), rcvyNode := s.inp.pkt.src, rcvyLen := fld s.inp.pkt.data 8 8, rcvyBytes := [] } }
      t s.inp.pkt 0x10 1 (bytesOf 2 0) := by
  refine rcvyBegin_row.taken hq hr hh ?_ ((s.fw.setSlot_recovery _ _).trans hr)
  unfold rcvyBeginPart
  dsimp only
  rw [if_neg, if_neg (by omega), rcvyReply_status, State.park_fw]
  rw [State.park_fw]
  exact fun h => hn.elim (fun e => by simp [e] at h) (fun e => h.2 e)

theorem rcvyData_again (hh : RcvyHeader s.inp.pkt 2) (hs : s.fw.staging = true) (ho : fld s.inp.pkt.data 8 8 < s.fw.rcvyBytes.length) :
    ∃ t, exec .rcvyData s = .next t ∧ AnsweredFrom s.park t s.inp.pkt 0x10 1 (bytesOf 2 0) := by
  refine rcvyData_row.taken (fw := s.park.fw) hq hr hh ?_ (by rw [State.park_fw]; exact hr)
  unfold rcvyDataPart
  dsimp only
  rw [State.park_fw, if_pos ⟨ho, hs⟩, rcvyReply_status, ← State.park_fw]

theorem rcvyData_gathers (hh : RcvyHeader s.inp.pkt 2) (hs : s.fw.staging = true) (ho : fld s.inp.pkt.data 8 8 = s.fw.rcvyBytes.length)
    (hmin : 1 ≤ (s.inp.pkt.data.drop 16).length) (hmax : (s.inp.pkt.data.drop 16).length ≤ 1008)
    (hfit : s.fw.rcvyBytes.length + (s.inp.pkt.data.drop 16).length ≤ s.fw.rcvyLen) :
    ∃ t, exec .rcvyData s = .next t ∧ AnsweredFrom { s.park with fw := { s.fw with rcvyBytes := s.fw.rcvyBytes ++ s.inp.pkt.data.drop 16 } }
      t s.inp.pkt 0x10 1 (bytesOf 2 0) := by
  refine rcvyData_row.taken hq hr hh ?_ hr
  unfold rcvyDataPart
  dsimp only
  rw [State.park_fw, if_neg (by omega), if_neg, rcvyReply_status]
  have hne : (s.inp.pkt.data.drop 16).isEmpty = false := by
    rw [List.isEmpty_eq_false_iff]
    exact List.ne_nil_of_length_pos hmin
  rw [hs, hne]
  rintro (h | h | h | h | h)
  · cases h
  · omega
  · cases h
  · omega
  · omega

theorem rcvyQuery_answers (hh : RcvyHeader s.inp.pkt 4) (ho : fld s.inp.pkt.data 8 8 = 0) :
    ∃ t, exec .rcvyQuery s = .next t ∧ AnsweredFrom s.park t s.inp.pkt 0x10 1 (bytesOf 2 0 ++ bytesOf 6 0 ++ bytesOf 8 s.fw.query) := by
  refine rcvyQuery_row.taken (fw := s.park.fw) hq hr hh ?_ (by rw [State.park_fw]; exact hr)
  rw [rcvyQueryPart, if_neg (not_not.mpr ho), State.park_fw, rcvyReply, ← State.park_fw, List.append_assoc]

theorem rcvyEnd_rejects (hh : RcvyHeader s.inp.pkt 3) (ho : fld s.inp.pkt.data 8 8 = 0) (hs : s.fw.staging = true)
    (hall : s.fw.rcvyLen ≤ s.fw.rcvyBytes.length) (he : s.fw.enforced = true) (hbad : imageStatus s.fw s.fw.rcvyBytes true ≠ 0) :
    ∃ t, exec .rcvyEnd s = .next t ∧ AnsweredFrom { s.park with fw := { s.fw with staging := false, rcvyBytes := [], rcvyLen := 0 } }
      t s.inp.pkt 0x10 1 (bytesOf 2 (imageStatus s.fw s.fw.rcvyBytes true)) := by
  refine rcvyEnd_row.taken hq hr hh ?_ hr
  unfold rcvyEndPart
  dsimp only
  rw [State.park_fw, if_neg (by simp [ho, hs, hall]), if_pos ⟨he, hbad⟩, rcvyReply_status]

/-- An image that is good boots from the slot that it went to, after a module reset. -/
theorem rcvyEnd_boots (hh : RcvyHeader s.inp.pkt 3) (ho : fld s.inp.pkt.data 8 8 = 0) (hs : s.fw.staging = true)
    (hall : s.fw.rcvyLen ≤ s.fw.rcvyBytes.length) (hgood : s.fw.enforced = false ∨ imageStatus s.fw s.fw.rcvyBytes true = 0) :
    ∃ t, exec .rcvyEnd s = .next t ∧ Responded s t s.inp.pkt 0x10 1 (bytesOf 2 0) ∧ t.fw.activeB = s.fw.rcvySlotB ∧
      t.fw.slot s.fw.rcvySlotB = { st := .staged, image := s.fw.rcvyBytes, fails := 0 } ∧ t.fw.recovery = false ∧ t.mbx.ready = false ∧
      t.queues = [] ∧ todo .boot Input.none ∈ t.work := by
  have hpart : rcvyEndPart s.park s.inp.pkt = .now { s.park with fw := s.fw.recovered } opData 1 (bytesOf 2 0) := by
    unfold rcvyEndPart
    dsimp only
    rw [State.park_fw, if_neg (by simp [ho, hs, hall]), if_neg, rcvyReply_status]
    exact fun h => hgood.elim (fun e => by simp [e] at h) (fun e => h.2 e)
  obtain ⟨-, hsent, -, -, -, hframe⟩ := (rcvy_answer (x := .rcvyEnd) hq
    ((rcvyAnswer_taken (by rw [State.park_fw]; exact hr) hh).trans hpart) s.park_fabric)
  rw [execRcvyEnd_eq, afterRcvy]
  generalize s.rcvy .rcvyEnd 3 rcvyEndPart = v at *
  have hfw : v.fw = s.fw.recovered := (congrArg State.fw hframe :)
  have hover : v.fw.recovery = false := by rw [hfw]; rfl
  have hactive : v.fw.activeB = s.fw.rcvySlotB := by rw [hfw]; rfl
  obtain ⟨⟨hready, hqueues, -, -, -, tactive, tslot, -, -, -, -, hboot⟩, tsent, -, trecovery⟩ := v.moduleReset_done
  rw [if_pos ⟨hr, by simp [hover]⟩]
  refine ⟨_, rfl, ?_, tactive.trans hactive, ?_, trecovery, hready, hqueues, hboot⟩
  · have hfabric : s.park.fabric = s.fabric := s.park_fabric
    rw [Responded, tsent, hsent]
    exact (congrArg (fun f : Fabric => f.sent ++ [{ Packet.empty with
      dst := s.inp.pkt.src, src := f.node, op := 0x10, asid := s.inp.pkt.asid, sseq := s.inp.pkt.sseq, addr := 1, data := bytesOf 2 0 }]) hfabric :)
  · rw [hactive] at tslot
    rw [tslot, hfw]
    exact (s.fw.slot_setSlot s.fw.rcvySlotB s.fw.rcvySlotB _).trans (if_pos rfl)

end

end Sys2Proof.Machine

namespace Sys2Proof.Machine
open Sys2Proof

/-! The parts of the watchdog's and management's statement. -/

theorem watchdogWarning_hart {s : State} (hs : s.dieSleep.contains (s.inp.hart % 8 / 2) = false)
    (ht : (s.hart (s.inp.hart % 8)).lastKick + 5000000 ≤ s.time.toNat) :
    ∃ t, exec .watchdogWarning s = .next t ∧ t.hart (s.inp.hart % 8) = { s.hart (s.inp.hart % 8) with wdw := true } ∧ { t with harts := s.harts } = s :=
  ⟨_, watchdogWarning_rises hs ht, hart_modHart _ _ _, rfl⟩

/-- A hart's restart counts its rung, begins the hart again and keeps queues, contexts, cores and memory (R85, R87). -/
theorem warmRestart_restarts {s : State} (h : s.hartLate) (hn : ¬ (s.missesAgain = true ∧ 2 ≤ (s.hart (s.inp.hart % 8)).restarts)) :
    exec .warmRestart s = .next s.warmRestart ∧ s.warmRestart.wdCount[2] = s.wdCount[2] + 1 ∧
      s.warmRestart.hart (s.inp.hart % 8) = s.restarted (s.hart (s.inp.hart % 8)) ∧ s.warmRestart.queues = s.queues ∧
      s.warmRestart.contexts = s.contexts ∧ s.warmRestart.cores = s.cores ∧ s.warmRestart.apertures = s.apertures ∧ s.warmRestart.mem = s.mem := by
  have hrun : exec .warmRestart s = .next s.warmRestart := by rw [warmRestart_late h, if_neg hn]
  have hidle := s.warmRestart_idle
  have hhart := s.warmRestart_hart
  generalize s.warmRestart = t at *
  have hcount : t.wdCount = (s.countRung 3).wdCount := (congrArg State.wdCount hidle :)
  refine ⟨hrun, ?_, hhart, (congrArg State.queues hidle :), (congrArg State.contexts hidle :), (congrArg State.cores hidle :),
    (congrArg State.apertures hidle :), (congrArg State.mem hidle :)⟩
  rw [hcount]
  exact s.countRung_wdCount (by decide)

/-- Settles O39: each rung of the watchdog, each reset and each management packet by the lemma of its row. -/
theorem watchdogAndManagementAct : Obligations.WatchdogAndManagementAct := by
  unfold Obligations.WatchdogAndManagementAct
  intro s i q b now h ht d asleep
  refine ⟨watchdogWarning_silent, watchdogWarning_hart, warmRestart_exempt, ?_, ?_, ?_, ?_, ?_, ?_⟩
  · intro again hawake hlate hswap
    have hagain : s.missesAgain = true ↔ again := s.missesAgain_iff
    have hl : s.hartLate := ⟨hawake, hlate, hswap⟩
    refine ⟨fun hn => ?_, fun hn => ?_⟩
    · rw [warmRestart_late hl, if_pos ⟨hagain.mpr hn.1, hn.2⟩]
      rfl
    · obtain ⟨hrun, hcount, hhart, hkept⟩ := warmRestart_restarts hl (fun e => hn ⟨hagain.mp e.1, e.2⟩)
      refine ⟨_, hrun, hcount, ⟨if s.missesAgain then ht.restarts + 1 else 1, fun e => if_pos (hagain.mpr e), fun e => if_neg (hagain.not.mpr e), hhart⟩, hkept⟩
  · intro hok
    obtain ⟨t, hrun, hhalt, hcount, hclear, hrest, hharbour, hstarted, hdue⟩ := dieReset_begun hok
    refine ⟨t, hrun, hhalt, hcount, fun c hc => ?_, hrest, hharbour, fun n u hu hn => hstarted n u hu (by simpa using hn), hdue⟩
    have hcleared := hclear c hc
    exact ⟨hcleared.cstate, hcleared.slots, hcleared.records, hcleared.ctx⟩
  · intro hok
    obtain ⟨t, hrun, hhalt, hmem, hserved, hrest, hfirst, hsecond⟩ := dieReset_served hok
    refine ⟨t, hrun, hhalt, hmem, fun c hc hr => ?_, hrest, hfirst, hsecond⟩
    rw [hserved c hc hr]
    exact ⟨rfl, rfl, rfl, rfl⟩
  · exact moduleReset_kicked
  · intro hdue
    by_cases hok : s.inp.ok = true
    · obtain ⟨hpower, hlate⟩ := hdue.resolve_left (by rw [hok]; decide)
      exact ⟨_, moduleReset_late hok hpower hlate, s.resetReported.moduleReset_done.1.of_reported, fun e => absurd hok (Bool.eq_false_iff.mp e),
        fun _ hroom => moduleReset_reports hroom⟩
    · have hinput : s.inp.ok = false := Bool.eq_false_iff.mpr hok
      obtain ⟨hdone, hsent, hcount, -⟩ := s.moduleReset_done
      exact ⟨_, moduleReset_input hinput, hdone, fun _ => ⟨hsent, hcount⟩, fun e => absurd e hok⟩
  · intro hq
    have hdraws : s.park.draws = s.draws := (congrArg State.draws s.park_frame :)
    have hlog : s.park.log = s.log := (congrArg State.log s.park_frame :)
    refine ⟨?_, ?_, ?_, ?_⟩
    · intro draw u bs busy
      have hu : s.park.drawn = u := by rw [State.drawn, hdraws]
      have hfw : u.fw = s.fw := s.park_fw
      have hbusy : u.spdmBusy = true ↔ busy := by rw [u.spdmBusy_iff, hfw]
      clear_value u
      refine ⟨fun x hx => ?_, u.spdmContents _ _, ?_, ?_⟩
      · obtain ⟨t, hrun, hshort, hlong⟩ := spdm_answered hx hq
        rw [hdraws, hu, hfw] at hlong
        rw [hdraws, hu] at hshort
        exact ⟨t, hrun, hshort, hlong⟩
      · have hans := chunkSend_answered hq
        rw [hdraws, hu] at hans
        obtain ⟨t, hrun, hbusy', hmore, hlast⟩ := hans
        rw [hbusy] at hbusy' hmore hlast
        rw [State.keepChunk, State.gathered, hfw] at hmore hlast
        exact ⟨t, hrun, hbusy', hmore, hlast⟩
      · obtain ⟨t, hrun, hbusy', hnext⟩ := chunkGet_answered hq
        rw [hdraws, hu, hbusy] at hbusy'
        rw [hu, hbusy, hfw] at hnext
        exact ⟨t, hrun, hbusy', hnext⟩
    · have hans := reservedManagementChannel_answered hq
      rwa [hlog] at hans
    · exact fun hr x hx => rcvy_outside hq hr hx
    · intro hr hdr into ok bs off have_ sb found
      exact ⟨fun x type hx hh => rcvy_malformed hq hr hx hh, fun hh hn hmin hmod hmax => rcvyBegin_stages hq hr hh hn hmin hmod hmax,
        fun hh hs => ⟨rcvyData_again hq hr hh hs, rcvyData_gathers hq hr hh hs⟩, rcvyQuery_answers hq hr,
        fun hh ho hs hall => ⟨rcvyEnd_rejects hq hr hh ho hs hall, rcvyEnd_boots hq hr hh ho hs hall⟩⟩

end Sys2Proof.Machine

namespace Sys2Proof.Machine
open Sys2Proof

/-! What waits on a granule of local memory takes its bytes and leaves them (R158, R159): no record moved, faulted or made ready changes a core's local
memory. -/

/-- A view of the cores that local memory alone decides. -/
def OfLoc {α : Type} (f : Nat → Core → α) : Prop := ∀ c k j, k.loc = j.loc → f c k = f c j

/-- The view of local memory itself. -/
def locView (_ : Nat) (k : Core) : Mem := k.loc

theorem ofLoc_locView : OfLoc locView := fun _ _ _ h => h

theorem OfLoc.except {α : Type} {f : Nat → Core → α} (h : OfLoc f) (c : Nat) : OfLoc (exceptCore c f) := by
  intro e k j hk
  rw [exceptCore, exceptCore, h e k j hk]

theorem Core.makeReady_loc (k : Core) (n : Nat) : (k.makeReady n).loc = k.loc := by
  unfold Core.makeReady
  split
  · rfl
  · split <;> rfl

namespace CoresKeep
variable {α : Type} {f : Nat → Core → α} (hf : OfLoc f)
include hf

theorem setCore_loc (s : State) {c : Nat} {k : Core} (h : k.loc = (s.getCore c).loc) : CoresKeep f s (s.setCore c k) := setCore s (hf _ _ _ h)

theorem modCore_loc (s : State) (c : Nat) {g : Core → Core} (h : ∀ k, (g k).loc = k.loc) : CoresKeep f s (s.modCore c g) := modCore s (hf _ _ _ (h _))

theorem dropRecord_loc (s : State) (c : Nat) (r : Record) : CoresKeep f s (s.dropRecord c r) := dropRecord s (hf _ _ _ rfl)

theorem depositAs {s : State} {c : Nat} {r : Record} {n : Nat} {p : State × Record} (h : s.depositAs c r n = some p) : CoresKeep f s p.1 := by
  unfold State.depositAs at h
  dsimp only at h
  split at h
  · cases h
    exact setCore_loc hf s rfl
  · split at h
    · cases h
    · split at h
      · cases h
      · cases h
        refine trans ?_ (of_offCores (OffCores.modLaunch _ _ _ _))
        refine trans ?_ (of_offCores (OffCores.showSpill _ _ _))
        exact setCore_loc hf s rfl

theorem deposit {s : State} {c : Nat} {r : Record} {p : State × Record} (h : s.deposit c r = some p) : CoresKeep f s p.1 := by
  obtain ⟨d, hd, rfl⟩ := Option.map_eq_some_iff.mp h
  exact (depositAs hf hd).trans (modCore d.1 (hf _ _ _ rfl))

theorem queueFault (s : State) (core ctx : Nat) (r : Record) (who : Option Nat) : CoresKeep f s (s.queueFault core ctx r who) := by
  unfold State.queueFault
  dsimp only
  split
  next t x h =>
    have hd : CoresKeep f s t := deposit hf h
    refine hd.trans ?_
    split
    next h => exact (of_offCores (OffCores.ringAppend h)).trans (dropRecord_loc hf _ _ _)
    next =>
      refine trans ?_ (of_offCores (OffCores.holdFault _ _ _ _ _))
      exact modCore_loc hf t core (fun _ => rfl)
  next =>
    have hd := modCore_loc hf s core (g := fun k => { k with dseq := k.dseq + 1 }) (fun _ => rfl)
    refine hd.trans ?_
    split
    next h => exact of_offCores (OffCores.ringAppend h)
    next =>
      refine trans ?_ (of_offCores (OffCores.holdFault _ _ _ _ _))
      exact modCore_loc hf _ core (fun _ => rfl)

theorem faulted (s : State) (core ctx : Nat) (old new : Record) : CoresKeep f s ((s.dropRecord core old).queueFault core ctx new) :=
  (dropRecord_loc hf s core old).trans (queueFault hf _ _ _ _ _)

theorem recordFaults (s : State) (ctx core : Nat) (old new : Record) : CoresKeep f s (s.recordFaults ctx core old new) :=
  onCtxCore s (fun t => faulted (hf.except core) t core ctx old new) (fun _ => faulted hf s core ctx old new)

theorem takeGranules (s : State) (core : Nat) (keep : Bool) (r : Regs) (fuel : Nat) (es : List LoadElem) :
    CoresKeep f s (s.takeGranules core keep r fuel es).1 := by
  induction fuel generalizing s r es with
  | zero => exact refl s
  | succ fuel ih =>
    cases es with
    | nil => exact refl s
    | cons e es =>
      unfold State.takeGranules
      dsimp only
      split
      · exact refl s
      · split
        · exact refl s
        · refine trans ?_ (ih _ _ _)
          split
          · exact refl s
          · exact setCore s (hf _ _ _ rfl)

theorem retryGranule (s : State) (core dseq : Nat) : CoresKeep f s (s.retryGranule core dseq) := by
  unfold State.retryGranule
  split
  · exact refl s
  · split
    next r _ _ es keep _ =>
      dsimp only
      refine (takeGranules hf s core keep r.regs (es.length + 1) es).trans ?_
      split
      · exact recordFaults hf _ _ _ _ _
      · exact modCtxCore _ _ (hf _ _ _ (Core.makeReady_loc _ _))
      · exact modCtxCore _ _ (hf _ _ _ rfl)
    next => exact refl s

theorem releaseGranule (s : State) (core g : Nat) : CoresKeep f s (s.releaseGranule core g) := by
  refine foldl (fun t _ w _ => foldl (fun u _ d _ => ?_))
  split
  · exact retryGranule hf u _ _
  · exact refl u

theorem fill (s : State) (core : Nat) (gs : List Nat) : CoresKeep f s (s.fill core gs) :=
  (modCore s (hf _ _ _ rfl)).trans (foldl (fun t _ g _ => releaseGranule hf t core g))

end CoresKeep

/-! Bytes of memory as lists and as numbers (R4). -/

theorem bytesValue_eq_mload {m : Mem} (h : Memory.wf m) (a n : Nat) : bytesValue m a n = mload m a n := (mload_range m a n h).symm

theorem mload_lt {m : Mem} (h : Memory.wf m) (a n : Nat) : mload m a n < 256 ^ n := by
  rw [mload_eq m a n h]
  induction n generalizing a with
  | zero => exact Nat.one_pos
  | succ n ih =>
    have hrest := ih (a + 1)
    have hbyte := (mget m a).isLt
    rw [mvalue, Nat.pow_succ]
    omega

theorem mbytesWalk_length (n : Nat) : ∀ (m : Mem) (a : Nat), (mbytesWalk m a n).length = n := by
  induction n with
  | zero => intro m a; cases m <;> rfl
  | succ n ih =>
    intro m a
    cases m with
    | nil => rw [mbytesWalk, List.length_replicate]
    | cons c r =>
      rw [mbytesWalk]
      split <;> rw [List.length_cons, ih]

theorem mbytes_length (m : Mem) (a n : Nat) : (mbytes m a n).length = n := mbytesWalk_length n _ a

/-- What lies below an address is not read above it. -/
theorem mget_dropWhile (m : Mem) {a x : Nat} (h : a ≤ x) : mget (m.dropWhile (fun c => decide (c.1 < a))) x = mget m x := by
  induction m with
  | nil => rfl
  | cons c r ih =>
    rw [List.dropWhile_cons]
    split
    next hc => rw [ih, mget_cons, if_neg (by have := of_decide_eq_true hc; omega)]
    next => rfl

theorem mbytesWalk_getD (n : Nat) : ∀ (m : Mem) (a i : Nat), (m.map (·.1)).Pairwise (· < ·) → (∀ c ∈ m, a ≤ c.1) → i < n →
    (mbytesWalk m a n).getD i 0 = mget m (a + i) := by
  induction n with
  | zero => intro m a i _ _ hi; omega
  | succ n ih =>
    intro m a i hm ha hi
    cases m with
    | nil => simp [mbytesWalk, List.getD_eq_getElem?_getD, hi]
    | cons c r =>
      have hm' := hm
      rw [List.map_cons, List.pairwise_cons] at hm
      obtain ⟨hfirst, hr⟩ := hm
      have hlow (d : Host.Cell) (hd : d ∈ r) : c.1 < d.1 := hfirst _ (List.mem_map_of_mem hd)
      have hc := ha c (List.mem_cons_self ..)
      rw [mbytesWalk]
      split
      next e =>
        cases i with
        | zero => rw [List.getD_cons_zero, Nat.add_zero, mget_cons, if_pos e]
        | succ i =>
          rw [List.getD_cons_succ, ih r (a + 1) i hr (fun d hd => by have := hlow d hd; omega) (by omega), mget_cons, if_neg (by omega),
            Nat.add_assoc, Nat.add_comm 1 i]
      next e =>
        cases i with
        | zero =>
          rw [List.getD_cons_zero, Nat.add_zero]
          refine (mget_none _ _ (fun d hd => ?_)).symm
          rcases List.mem_cons.mp hd with rfl | hd
          · exact e
          · have := hlow d hd
            omega
        | succ i =>
          rw [List.getD_cons_succ, ih (c :: r) (a + 1) i hm' (fun d hd => ?_) (by omega), Nat.add_assoc, Nat.add_comm 1 i]
          rcases List.mem_cons.mp hd with rfl | hd
          · omega
          · have := hlow d hd
            omega

/-- The bytes of a list read from memory are those that memory has. -/
theorem mbytes_getD {m : Mem} (h : Memory.wf m) (a : Nat) {n i : Nat} (hi : i < n) : (mbytes m a n).getD i 0 = mget m (a + i) := by
  have hlow : ∀ c ∈ m.dropWhile (fun c => decide (c.1 < a)), a ≤ c.1 := by
    have hrising := h.1
    clear h
    induction m with
    | nil => intro c hc; cases hc
    | cons d r ih =>
      intro c hc
      rw [List.map_cons, List.pairwise_cons] at hrising
      rw [List.dropWhile_cons] at hc
      split at hc
      next => exact ih hrising.2 c hc
      next hd =>
        have hd' : a ≤ d.1 := by simpa using hd
        rcases List.mem_cons.mp hc with rfl | hc
        · exact hd'
        · exact hd'.trans (hrising.1 _ (List.mem_map_of_mem hc)).le
  have hrising : ((m.dropWhile (fun c => decide (c.1 < a))).map (·.1)).Pairwise (· < ·) :=
    h.1.sublist ((List.dropWhile_sublist _).map _)
  exact (mbytesWalk_getD n _ a i hrising hlow hi).trans (mget_dropWhile m (by omega))

/-- A list padded with zeros (R161). -/
theorem padTo_getD (bs : List Byte) (n i : Nat) : (padTo n bs).getD i 0 = if i < bs.length then bs.getD i 0 else 0 := by
  unfold padTo
  by_cases h : i < bs.length
  · rw [if_pos h, List.getD_append _ _ _ _ h]
  · rw [if_neg h, List.getD_append_right _ _ _ _ (Nat.not_lt.mp h)]
    rw [List.getD_eq_getElem?_getD, List.getElem?_replicate]
    split <;> rfl

end Sys2Proof.Machine

namespace Sys2Proof.Machine
open Sys2Proof

/-! Target words (R390). -/

theorem twReserved_of_lt {w : Word} (h : w.toNat < 2 ^ 44) : twReserved w = false := by
  unfold twReserved bitsN
  exact decide_eq_false (by omega)

theorem twReserved_of_le {w : Word} (h : 2 ^ 44 ≤ w.toNat) : twReserved w = true := by
  have hlt := w.isLt
  unfold twReserved bitsN
  exact decide_eq_true (by omega)

theorem twNode_of_lt {w : Word} (h : w.toNat < 2 ^ 44) : twNode w = w.toNat / 2 ^ 31 := by
  simp only [twNode, bitsN]
  omega

theorem twCore_eq (w : Word) : twCore w = w.toNat / 2 ^ 22 % 2 ^ 9 := rfl
theorem twAddr_eq (w : Word) : twAddr w = w.toNat % 2 ^ 22 := by simp [twAddr, bitsN]
theorem twPlace_eq (w : Word) : twPlace w = w.toNat % 2 ^ 31 := by simp [twPlace, bitsN]

/-! Words that wait for stores, and answers (R390, R391). -/

theorem State.afterStores_of_none {s : State} (hh : s.heldHere = false) (ho : s.storesOut = false) (f : State → State) : s.afterStores f = f s := by
  rw [State.afterStores, State.afterHeld_of_none s _ hh, ho]
  rfl

theorem State.heldAnswer_none {s : State} (h : tget s.core.answers (answerKey s.slot) = none) : s.heldAnswer = none := h

/-- The state of a strand whose request went out, and that waits for the answer. -/
def State.asked (s : State) (node op addr : Nat) (data : List Byte) : State :=
  let r := s.request node op s.core.asid.toNat addr data (.answer (s.core.ctx.getD 64) s.here)
  r.2.await node r.1

theorem State.askPeer_asks {s : State} {op : Nat} (ha : s.heldAnswer = none) (hop : ¬ op ≤ opAtomic) (node addr : Nat) (data : List Byte)
    (done : State → Word → State) : s.askPeer node op addr data done = s.asked node op addr data := by
  rw [State.askPeer, ha]
  exact if_neg (fun h => hop h.1)

/-- The request goes out once; memory and the core stay, and the strand waits for the answer (R44, R379). -/
theorem State.asked_spec (s : State) (node op addr : Nat) (data : List Byte) (h : s.fabric.unacked node < 4096) :
    ∃ p : Packet, (s.asked node op addr data).fabric.sent = s.fabric.sent ++ [p] ∧ p.dst = node ∧ p.op = op ∧ p.addr = addr ∧
      p.asid = s.core.asid.toNat ∧ p.data = data ∧ (s.asked node op addr data).mem = s.mem ∧ (s.asked node op addr data).core = s.core ∧
      (s.asked node op addr data).strand = { s.strand with wait := .packet p.dst p.sseq, waits := some (s.time.toNat, false) } := by
  obtain ⟨p, hsent, hdst, hop, haddr, hasid, hdata, hsseq⟩ :=
    s.request_sent node op s.core.asid.toNat addr data (.answer (s.core.ctx.getD 64) s.here) h
  have hnet := NetOnly.request s node op s.core.asid.toNat addr data (.answer (s.core.ctx.getD 64) s.here)
  unfold State.asked
  generalize s.request node op s.core.asid.toNat addr data (.answer (s.core.ctx.getD 64) s.here) = r at *
  have hstrand : r.2.strand = s.strand := (congrArg State.strand hnet :)
  have htime : r.2.time = s.time := (congrArg State.time hnet :)
  refine ⟨p, hsent, hdst, hop, haddr, hasid, hdata, (congrArg State.mem hnet :), (congrArg State.core hnet :), ?_⟩
  rw [hdst, hsseq, ← hstrand, ← htime]
  rfl

/-! A barrier credited (R387). -/

/-- Whether it completes or not, a barrier's check writes its last 8 bytes at most. -/
theorem Core.barCheck_loc (k : Core) (a : Nat) :
    (k.barCheck a).loc = k.loc ∨ ∃ bs : List Byte, bs.length = 8 ∧ (k.barCheck a).loc = mstore k.loc (a + 24) bs := by
  have hfold (p : Record → Record → Record) (ws : List Record) (j : Core) :
      (ws.foldl (fun k r => (k.modRecord r.dseq (p r)).makeReady r.dseq) j).loc = j.loc := by
    induction ws generalizing j with
    | nil => rfl
    | cons r t ih => exact (ih _).trans (Core.makeReady_loc _ _)
  unfold Core.barCheck
  split
  · refine .inr ⟨_, bytesOf_length 8 _, hfold _ _ _⟩
  · exact .inl rfl

/-- The bytes of a barrier that a credit counts in, PEND and ARRIVED. -/
def barCounts (k : Core) (a : Nat) (credit : Word) : List Byte :=
  bytesOf 4 ((mload k.loc (a + 4) 4 + credit.toNat / 2 ^ 63) % 2 ^ 32) ++
    bytesOf 7 ((mload k.loc (a + 8) 7 + 2 ^ 56 - credit.toNat % 2 ^ 56) % 2 ^ 56)

theorem barCounts_length (k : Core) (a : Nat) (credit : Word) : (barCounts k a credit).length = 11 := by simp [barCounts]

/-- Local memory after a credit: the counts, the errors and, where the barrier completes, its state. -/
theorem Core.barCredit_loc (k : Core) (a : Nat) (credit : Word) (err : Nat) :
    ∃ bs : List Byte, bs.length = 8 ∧
      let m := mstore (mstore k.loc (a + 4) (barCounts k a credit)) (a + 16) bs
      (k.barCredit a credit err).loc = m ∨ ∃ cs : List Byte, cs.length = 8 ∧ (k.barCredit a credit err).loc = mstore m (a + 24) cs :=
  ⟨_, bytesOf_length 8 _, Core.barCheck_loc _ a⟩

/-- A credit counts in ARRIVED and PEND and leaves what lies outside of the barrier (R387). -/
theorem Core.barCredit_counts {k : Core} (hwf : Memory.wf k.loc) (a : Nat) (credit : Word) (err : Nat) :
    let m := (k.barCredit a credit err).loc
    bytesValue m (a + 4) 4 = (bytesValue k.loc (a + 4) 4 + credit.toNat / 2 ^ 63) % 2 ^ 32 ∧
      bytesValue m (a + 8) 7 = (bytesValue k.loc (a + 8) 7 + (2 ^ 56 - credit.toNat % 2 ^ 56)) % 2 ^ 56 ∧
      ∀ x, x < a ∨ a + 32 ≤ x → mget m x = mget k.loc x := by
  obtain ⟨bs, hbs, hloc⟩ := k.barCredit_loc a credit err
  have hlen := barCounts_length k a credit
  have hcounts := mstore_wf k.loc (a + 4) (barCounts k a credit) hwf
  have herr := mstore_wf _ (a + 16) bs hcounts
  have hpend : credit.toNat % 2 ^ 56 < 2 ^ 56 := Nat.mod_lt _ (by decide)
  have hfirst : mload (mstore k.loc (a + 4) (barCounts k a credit)) (a + 4) 4 = (mload k.loc (a + 4) 4 + credit.toNat / 2 ^ 63) % 2 ^ 32 := by
    have h := mload_mstore_within k.loc (a + 4) 0 4 (barCounts k a credit) (by omega)
    rw [Nat.add_zero, List.drop_zero, barCounts, List.take_append_of_le_length (by simp), List.take_of_length_le (by simp), valueOf_bytesOf] at h
    rw [barCounts, h]
    omega
  have hsecond : mload (mstore k.loc (a + 4) (barCounts k a credit)) (a + 8) 7 =
      (mload k.loc (a + 8) 7 + (2 ^ 56 - credit.toNat % 2 ^ 56)) % 2 ^ 56 := by
    have h := mload_mstore_within k.loc (a + 4) 4 7 (barCounts k a credit) (by omega)
    rw [barCounts, List.drop_append_of_le_length (by simp), List.drop_of_length_le (by simp), List.nil_append, List.take_of_length_le (by simp),
      valueOf_bytesOf] at h
    have e : a + 4 + 4 = a + 8 := rfl
    rw [e] at h
    rw [barCounts, h]
    omega
  have hunder (n x : Nat) (hx : x + n ≤ a + 16) : mload (k.barCredit a credit err).loc x n = mload (mstore k.loc (a + 4) (barCounts k a credit)) x n := by
    obtain e | ⟨cs, hcs, e⟩ := hloc
    · rw [e, mload_mstore_ne _ _ _ _ _ hcounts (by omega)]
    · rw [e, mload_mstore_ne _ _ _ _ _ herr (by omega), mload_mstore_ne _ _ _ _ _ hcounts (by omega)]
  have hwf' : Memory.wf (k.barCredit a credit err).loc := by
    obtain e | ⟨cs, hcs, e⟩ := hloc
    · rw [e]; exact herr
    · rw [e]; exact mstore_wf _ _ _ herr
  intro m
  refine ⟨?_, ?_, fun x hx => ?_⟩
  · rw [bytesValue_eq_mload hwf', bytesValue_eq_mload hwf, hunder _ _ (by omega), hfirst]
  · rw [bytesValue_eq_mload hwf', bytesValue_eq_mload hwf, hunder _ _ (by omega), hsecond]
  · have hinner : mget (mstore (mstore k.loc (a + 4) (barCounts k a credit)) (a + 16) bs) x = mget k.loc x := by
      rw [mget_mstore_ne _ _ _ _ (by omega), mget_mstore_ne _ _ _ _ (by omega)]
    show mget (k.barCredit a credit err).loc x = mget k.loc x
    obtain e | ⟨cs, hcs, e⟩ := hloc
    · rw [e, hinner]
    · rw [e, mget_mstore_ne _ _ _ _ (by omega), hinner]

/-! SIGNAL (R390). -/

/-- What a SIGNAL to a core `c` of this module does with what became of it. -/
def State.signalled (s : State) (rd : BitVec 5) (c : Nat) : Fate → State
  | .applied t => t.result rd 0
  | .error e => s.result rd (BitVec.ofNat 64 e)
  | .later => s.wakeFor c

theorem State.getCore_result (s : State) (rd : BitVec 5) (v : Word) (c : Nat) : (s.result rd v).getCore c = s.getCore c := by
  rw [State.getCore, State.getCore, State.result_acting, State.result_here, State.result_core, State.result_cores]

/-- The context that a core holds under its ASID. -/
theorem State.ctxByAsid_resident {s : State} {c x : Nat} {asid : BitVec 16} (ha : asid ≠ 0) (hk : (s.getCore c).asid = asid)
    (hx : (s.getCore c).ctx = some x) : s.ctxByAsid c asid.toNat = some x := by
  have hne : asid.toNat ≠ 0 := fun e => ha (BitVec.eq_of_toNat_eq e)
  rw [State.ctxByAsid, if_pos ⟨hne, by rw [hk], by rw [hx]; rfl⟩, hx]

theorem State.deliverSignal_inReset {s : State} {c : Nat} (hc : c < 512) (hr : (s.getCore c).cstate = .inReset)
    (hd : s.dieSleep.contains (dieOf c) = false) (asid l : Nat) (credit : Word) (err : Nat) : s.deliverSignal c asid l credit err = .error 0x42 := by
  rw [State.deliverSignal, if_neg (Nat.not_le.mpr hc), if_pos ⟨hr, by rw [hd]; rfl⟩]

theorem State.deliverSignal_credits {s : State} {c l : Nat} {asid : BitVec 16} (hc : c < 512) (hr : (s.getCore c).cstate ≠ .inReset)
    (ha : s.asleep c = false) (hasid : asid ≠ 0) (hk : (s.getCore c).asid = asid) (hx : (s.getCore c).ctx.isSome) (hl : (s.getCore c).barOk l)
    (credit : Word) (err : Nat) :
    s.deliverSignal c asid.toNat l credit err = .applied (s.setCore c ((s.getCore c).barCredit l credit err)) := by
  obtain ⟨x, hx⟩ := Option.isSome_iff_exists.mp hx
  rw [State.deliverSignal, if_neg (Nat.not_le.mpr hc), if_neg (fun h => hr h.1), if_neg (by rw [ha]; decide), State.applySignal, if_neg hr,
    State.ctxByAsid_resident hasid hk hx]
  exact (if_pos hx).trans (if_pos hl)

section
variable {s : State} (hh : s.heldHere = false) (ho : s.storesOut = false) (rd rs1 rs2 : BitVec 5)
include hh ho

theorem signal_reserved (h : 2 ^ 44 ≤ (s.x rs1).toNat) : exec (.signal rd rs1 rs2) s = .next (s.result rd 0x11) := by
  refine congrArg Host.Outcome.next ((State.afterStores_of_none hh ho _).trans ?_)
  exact if_pos (twReserved_of_le h)

theorem signal_delivers (h : (s.x rs1).toNat < 2 ^ 44) (hn : (s.x rs1).toNat / 2 ^ 31 = s.fabric.node) :
    exec (.signal rd rs1 rs2) s = .next (s.signalled rd (twCore (s.x rs1))
      (s.deliverSignal (twCore (s.x rs1)) s.core.asid.toNat (twAddr (s.x rs1)) (s.x rs2) 0)) := by
  refine congrArg Host.Outcome.next ((State.afterStores_of_none hh ho _).trans ?_)
  dsimp only
  rw [if_neg (by rw [twReserved_of_lt h]; decide), if_pos ((twNode_of_lt h).trans hn)]
  rfl

theorem signal_asks (h : (s.x rs1).toNat < 2 ^ 44) (hn : (s.x rs1).toNat / 2 ^ 31 ≠ s.fabric.node)
    (ha : tget s.core.answers (answerKey s.slot) = none) :
    exec (.signal rd rs1 rs2) s = .next (s.asked ((s.x rs1).toNat / 2 ^ 31) opSignal ((s.x rs1).toNat % 2 ^ 22)
      (bytesOf 8 ((s.x rs1).toNat / 2 ^ 22 % 2 ^ 9) ++ bytesOf 8 (s.x rs2).toNat ++ bytesOf 8 0)) := by
  refine congrArg Host.Outcome.next ((State.afterStores_of_none hh ho _).trans ?_)
  dsimp only
  rw [if_neg (by rw [twReserved_of_lt h]; decide), if_neg (by rw [twNode_of_lt h]; exact hn), State.heldAnswer_none ha]
  dsimp only
  rw [State.askPeer_asks (State.heldAnswer_none ha) (by decide), twNode_of_lt h, twAddr_eq, twCore_eq]

end

end Sys2Proof.Machine

namespace Sys2Proof.Machine
open Sys2Proof

/-! Message queues (R161, R162, R391). -/

/-- What a valid queue header says of its fields and of where its entries lie (R161). -/
structure QHdr.Valid (h : QHdr) (a : Nat) : Prop where
  head : h.head < 2 ^ 32
  tail : h.tail < 2 ^ 32
  nent : 2 ≤ h.nent ∧ h.nent ≤ 4096
  clear : h.base + h.nent * h.esize ≤ a ∨ a + 64 ≤ h.base

theorem Core.qhdr_valid {k : Core} (hwf : Memory.wf k.loc) {a : Nat} {h : QHdr} (hq : k.qhdr a = some h) : h.Valid a := by
  unfold Core.qhdr at hq
  dsimp only at hq
  split at hq
  next hc =>
    cases hq
    simp only [Bool.and_eq_true, Bool.or_eq_true, decide_eq_true_eq] at hc
    obtain ⟨⟨⟨-, hnent⟩, -⟩, hclear⟩ := hc
    exact ⟨mload_lt hwf (a + 8) 4, mload_lt hwf (a + 12) 4, hnent, hclear⟩
  next => cases hq

/-- Where the entry at TAIL lies. -/
def QHdr.entry (h : QHdr) : Nat := h.base + h.tail % h.nent * h.esize

section
variable {h : QHdr} {a : Nat} (hv : h.Valid a)
include hv

/-- The entry at TAIL lies clear of the header. -/
theorem QHdr.Valid.entry_clear : h.entry + h.esize ≤ a ∨ a + 64 ≤ h.entry := by
  obtain ⟨hmin, -⟩ := hv.nent
  have hslot : h.tail % h.nent < h.nent := Nat.mod_lt _ (by omega)
  have hend : (h.tail % h.nent + 1) * h.esize ≤ h.nent * h.esize := Nat.mul_le_mul_right _ hslot
  rw [Nat.add_mul, Nat.one_mul] at hend
  have hclear := hv.clear
  unfold QHdr.entry
  omega

/-- An append counts TAIL once. -/
theorem QHdr.Valid.used_next (hroom : h.used < h.nent) : { h with tail := (h.tail + 1) % 2 ^ 32 }.used = h.used + 1 := by
  obtain ⟨-, hmax⟩ := hv.nent
  have hhead := hv.head
  have htail := hv.tail
  unfold QHdr.used at *
  dsimp only
  omega

end

/-- A core whose queue has taken a message: the entry at TAIL written, TAIL counted (R162). -/
def Core.enqueue (k : Core) (a : Nat) (h : QHdr) (bs : List Byte) : Core :=
  (k.locWrite h.entry (padTo h.esize bs)).locWrite (a + 12) (bytesOf 4 (h.tail + 1))

/-- The entry holds the message padded with zeros, TAIL has counted, and the rest of local memory stays. -/
theorem Core.enqueue_loc {k : Core} (hwf : Memory.wf k.loc) {a : Nat} {h : QHdr} (hv : h.Valid a) {bs : List Byte} (hlen : bs.length ≤ h.esize) :
    let m := (k.enqueue a h bs).loc
    bytesValue m (a + 12) 4 = (h.tail + 1) % 2 ^ 32 ∧
      (∀ i, i < h.esize → mget m (h.entry + i) = if i < bs.length then bs.getD i 0 else 0) ∧
      ∀ x, (x < a + 12 ∨ a + 16 ≤ x) → (x < h.entry ∨ h.entry + h.esize ≤ x) → mget m x = mget k.loc x := by
  intro m
  have hm : m = mstore (mstore k.loc h.entry (padTo h.esize bs)) (a + 12) (bytesOf 4 (h.tail + 1)) := rfl
  have hpad : (padTo h.esize bs).length = h.esize := padTo_length _ _ hlen
  have hclear := hv.entry_clear
  have hcount : (bytesOf 4 (h.tail + 1)).length = 4 := bytesOf_length _ _
  rw [hm]
  refine ⟨?_, fun i hi => ?_, fun x htail hentry => ?_⟩
  · rw [bytesValue_eq_mload (mstore_wf _ _ _ (mstore_wf _ _ _ hwf)), mload_stored]
    rfl
  · rw [mget_mstore_ne _ _ _ _ (by omega), mget_mstore, if_pos (by omega), Nat.add_sub_cancel_left, padTo_getD]
  · rw [mget_mstore_ne _ _ _ _ (by omega), mget_mstore_ne _ _ _ _ (by omega)]

/-- A queue without waiters wakes none (R162). -/
theorem Core.wakeReceiver_none {k : Core} {h : QHdr} (hw : h.wait % 2 ^ 48 = 0) (a : Nat) : k.wakeReceiver a h = k := by
  have href : bitsN h.wait 47 0 = 0 := by
    unfold bitsN
    omega
  have hnone : k.localWaiters (·.on.isMsg a) (k.records.length + 1) (bitsN h.wait 47 0) = [] := by
    rw [href, Core.localWaiters, if_pos rfl]
  rw [Core.wakeReceiver, hnone]

section
variable {s : State} {c a : Nat} {asid : BitVec 16} {h : QHdr} (hasid : asid ≠ 0) (hk : (s.getCore c).asid = asid) (hx : (s.getCore c).ctx.isSome)
  (hq : (s.getCore c).qhdr a = some h)
include hasid hk hx hq

theorem State.appendMsg_refused {bs : List Byte} (hfull : h.nent ≤ h.used ∨ h.esize < bs.length) :
    s.appendMsg c a asid.toNat bs = .error 0x32 := by
  obtain ⟨x, hx⟩ := Option.isSome_iff_exists.mp hx
  rw [State.appendMsg, State.ctxByAsid_resident hasid hk hx]
  dsimp only
  rw [State.ctxCore, if_pos hx, hq]
  exact if_pos hfull

/-- A queue with room and without waiters takes the message; what its granules release leaves local memory as the append does (R158, R162). -/
theorem State.appendMsg_taken (hv : h.Valid a) {bs : List Byte} (hroom : h.used < h.nent) (hfit : bs.length ≤ h.esize) (hw : h.wait % 2 ^ 48 = 0) :
    ∃ t, s.appendMsg c a asid.toNat bs = .ok (h.nent - (h.used + 1), t) ∧ CoresKeep locView (s.modCore c (·.enqueue a h bs)) t := by
  obtain ⟨x, hx⟩ := Option.isSome_iff_exists.mp hx
  refine ⟨((s.modCore c (·.enqueue a h bs)).fill c (granulesOf h.entry h.esize)).modCtxCore x c
    (fun k => k.wakeReceiver a { h with tail := (h.tail + 1) % 2 ^ 32 }), ?_, ?_⟩
  · rw [State.appendMsg, State.ctxByAsid_resident hasid hk hx]
    dsimp only
    rw [State.ctxCore, if_pos hx, hq]
    dsimp only
    rw [if_neg (by omega), if_pos hx, hv.used_next hroom]
    rfl
  · refine (CoresKeep.fill ofLoc_locView _ _ _).trans (CoresKeep.modCtxCore _ _ ?_)
    exact congrArg (locView c) (Core.wakeReceiver_none hw a)

end

/-! MSEND (R391). -/

/-- What an MSEND does with what its append gave. -/
def State.sent (s : State) (rd : BitVec 5) : Except Nat (Nat × State) → State
  | .ok (n, t) => t.result rd (BitVec.ofNat 64 n)
  | .error c => s.msgFailed rd c

theorem Core.localOk_read_iff (s : State) (b n : Nat) : s.core.localOk true b n = true ↔ LocalReadable s b n := by
  simp [Core.localOk, LocalReadable]

section
variable {s : State} {rs2 : BitVec 5} {len : BitVec 6}

theorem State.withMessage_trap (h : (s.x rs2).toNat % 16 ≠ 0 ∨ ¬ LocalReadable s (s.x rs2).toNat (16 * (len.toNat + 1)))
    (f : State → List Byte → State) : s.withMessage rs2 len f = s.trapScalar 0x14 (s.x rs2).toNat := by
  rw [← Core.localOk_read_iff, Bool.not_eq_true, ← Bool.not_eq_true'] at h
  exact if_pos h

theorem State.withMessage_read (ha : (s.x rs2).toNat % 16 = 0) (hr : LocalReadable s (s.x rs2).toNat (16 * (len.toNat + 1)))
    (hb : s.core.locBad (s.x rs2).toNat (16 * (len.toNat + 1)) = false) (f : State → List Byte → State) :
    s.withMessage rs2 len f = f s (mbytes s.core.loc (s.x rs2).toNat (16 * (len.toNat + 1))) := by
  have hplace : ¬ ((s.x rs2).toNat % 16 ≠ 0 ∨ (!s.core.localOk true (s.x rs2).toNat (16 * (len.toNat + 1))) = true) := by
    rw [(Core.localOk_read_iff s _ _).mpr hr]
    simp [ha]
  rw [State.withMessage, if_neg hplace, if_neg (by rw [hb]; decide)]

variable (hh : s.heldHere = false) (ho : s.storesOut = false) (rd rs1 : BitVec 5)
include hh ho

theorem msend_traps (h : (s.x rs2).toNat % 16 ≠ 0 ∨ ¬ LocalReadable s (s.x rs2).toNat (16 * (len.toNat + 1))) :
    exec (.msend rd rs1 rs2 len) s = .next (s.trapScalar 0x14 (s.x rs2).toNat) :=
  congrArg Host.Outcome.next ((State.afterStores_of_none hh ho _).trans (State.withMessage_trap h _))

variable (ha : (s.x rs2).toNat % 16 = 0) (hr : LocalReadable s (s.x rs2).toNat (16 * (len.toNat + 1)))
  (hb : s.core.locBad (s.x rs2).toNat (16 * (len.toNat + 1)) = false) (h : (s.x rs1).toNat < 2 ^ 44)
include ha hr hb h

/-- The append of a message to a queue of this module whose core is awake. -/
theorem msend_appends (hn : (s.x rs1).toNat / 2 ^ 31 = s.fabric.node) (hs : s.asleep (twCore (s.x rs1)) = false) :
    exec (.msend rd rs1 rs2 len) s = .next (s.sent rd
      (s.appendMsg (twCore (s.x rs1)) (twAddr (s.x rs1)) s.core.asid.toNat (mbytes s.core.loc (s.x rs2).toNat (16 * (len.toNat + 1))))) := by
  refine congrArg Host.Outcome.next ((State.afterStores_of_none hh ho _).trans ((State.withMessage_read ha hr hb _).trans ?_))
  dsimp only
  rw [if_neg (by rw [twReserved_of_lt h]; decide), if_pos ((twNode_of_lt h).trans hn), if_neg (by rw [hs]; decide)]
  rfl

theorem msend_asks (hn : (s.x rs1).toNat / 2 ^ 31 ≠ s.fabric.node) (hans : tget s.core.answers (answerKey s.slot) = none) :
    exec (.msend rd rs1 rs2 len) s = .next (s.asked ((s.x rs1).toNat / 2 ^ 31) opMessage ((s.x rs1).toNat % 2 ^ 31)
      (mbytes s.core.loc (s.x rs2).toNat (16 * (len.toNat + 1)))) := by
  refine congrArg Host.Outcome.next ((State.afterStores_of_none hh ho _).trans ((State.withMessage_read ha hr hb _).trans ?_))
  dsimp only
  rw [if_neg (by rw [twReserved_of_lt h]; decide), if_neg (by rw [twNode_of_lt h]; exact hn), State.heldAnswer_none hans]
  dsimp only
  rw [State.askPeer_asks (State.heldAnswer_none hans) (by decide), twNode_of_lt h, twPlace_eq]

end

/-! The parts of the statement on signals and sends. -/

section
variable {s : State} {c l : Nat} (hh : s.heldHere = false) (ho : s.storesOut = false) (rd rs1 rs2 : BitVec 5) (h : (s.x rs1).toNat < 2 ^ 44)
  (hn : (s.x rs1).toNat / 2 ^ 31 = s.fabric.node) (hc : (s.x rs1).toNat / 2 ^ 22 % 2 ^ 9 = c)
include hh ho h hn hc

theorem signal_dropped (hr : (s.getCore c).cstate = .inReset) (hd : s.dieSleep.contains (dieOf c) = false) :
    exec (.signal rd rs1 rs2) s = .next (s.result rd 0x42) := by
  have hlt : c < 512 := by omega
  rw [signal_delivers hh ho rd rs1 rs2 h hn, twCore_eq, hc, State.deliverSignal_inReset hlt hr hd]
  rfl

variable (hl : (s.x rs1).toNat % 2 ^ 22 = l) (hasid : s.core.asid ≠ 0) (hk : (s.getCore c).asid = s.core.asid) (hx : (s.getCore c).ctx.isSome)
  (hs : s.asleep c = false)
include hl hasid hk hx hs

theorem signal_credits (hr : (s.getCore c).cstate ≠ .inReset) (hb : (s.getCore c).barOk l) :
    exec (.signal rd rs1 rs2) s = .next ((s.setCore c ((s.getCore c).barCredit l (s.x rs2) 0)).result rd 0) := by
  have hlt : c < 512 := by omega
  rw [signal_delivers hh ho rd rs1 rs2 h hn, twCore_eq, twAddr_eq, hc, hl, State.deliverSignal_credits hlt hr hs hasid hk hx hb]
  rfl

/-- A credit changes the target core alone, and the destination. -/
theorem signal_credited (hr : (s.getCore c).cstate ≠ .inReset) (hwf : Memory.wf (s.getCore c).loc) (hb : (s.getCore c).barOk l) :
    ∃ t, exec (.signal rd rs1 rs2) s = .next t ∧ t.x rd = 0 ∧ (∀ q, q ≠ rd → t.x q = s.x q) ∧ t.strand.pc = s.strand.pc + 4 ∧
      t.mem = s.mem ∧
      bytesValue (t.getCore c).loc (l + 4) 4 = (bytesValue (s.getCore c).loc (l + 4) 4 + (s.x rs2).toNat / 2 ^ 63) % 2 ^ 32 ∧
      bytesValue (t.getCore c).loc (l + 8) 7 = (bytesValue (s.getCore c).loc (l + 8) 7 + (2 ^ 56 - (s.x rs2).toNat % 2 ^ 56)) % 2 ^ 56 ∧
      ∀ x, x < l ∨ l + 32 ≤ x → mget (t.getCore c).loc x = mget (s.getCore c).loc x := by
  have hframe := s.setCore_frame c ((s.getCore c).barCredit l (s.x rs2) 0)
  have hcore : (s.setCore c ((s.getCore c).barCredit l (s.x rs2) 0)).getCore c = (s.getCore c).barCredit l (s.x rs2) 0 := State.getCore_setCore_self _ _ _
  refine ⟨_, signal_credits hh ho rd rs1 rs2 h hn hc hl hasid hk hx hs hr hb, ?_⟩
  generalize s.setCore c ((s.getCore c).barCredit l (s.x rs2) 0) = u at *
  have hstrand : u.strand = s.strand := (congrArg State.strand hframe :)
  have hmem : u.mem = s.mem := (congrArg State.mem hframe :)
  have hread (q : BitVec 5) : u.x q = s.x q := by rw [State.x, State.x, hstrand]
  refine ⟨by simp, fun q hq => (u.x_result_ne rd q _ hq).trans (hread q), by rw [State.result_pc, hstrand], by rw [State.result_mem, hmem], ?_⟩
  rw [State.getCore_result, hcore]
  exact Core.barCredit_counts hwf l (s.x rs2) 0

variable {len : BitVec 6} (ha : (s.x rs2).toNat % 16 = 0) (hr : LocalReadable s (s.x rs2).toNat (16 * (len.toNat + 1)))
  (hb : s.core.locBad (s.x rs2).toNat (16 * (len.toNat + 1)) = false) {hdr : QHdr} (hq : (s.getCore c).qhdr l = some hdr)
include ha hr hb hq

theorem msend_refused (hfull : hdr.nent ≤ hdr.used ∨ hdr.esize < 16 * (len.toNat + 1)) :
    exec (.msend rd rs1 rs2 len) s = .next ((s.notice s.here s.strand.cell 0x32 s.strand.pc 0 0).result rd (BitVec.allOnes 64)) := by
  rw [msend_appends hh ho rd rs1 ha hr hb h hn (by rw [twCore_eq, hc]; exact hs), twCore_eq, twAddr_eq, hc, hl,
    State.appendMsg_refused hasid hk hx hq (by rw [mbytes_length]; exact hfull)]
  rfl

/-- A message taken changes local memory of the target core as its queue says, and the destination. -/
theorem msend_taken (hwf : Memory.wf s.core.loc) (hwf' : Memory.wf (s.getCore c).loc) (hroom : hdr.used < hdr.nent)
    (hfit : 16 * (len.toNat + 1) ≤ hdr.esize) (hw : hdr.wait % 2 ^ 48 = 0) :
    ∃ t, exec (.msend rd rs1 rs2 len) s = .next t ∧ t.x rd = (if rd = 0 then 0 else w64 (hdr.nent - (hdr.used + 1))) ∧
      (∀ q, q ≠ rd → t.x q = s.x q) ∧ t.strand.pc = s.strand.pc + 4 ∧ bytesValue (t.getCore c).loc (l + 12) 4 = (hdr.tail + 1) % 2 ^ 32 ∧
      (∀ i, i < hdr.esize → mget (t.getCore c).loc (hdr.base + hdr.tail % hdr.nent * hdr.esize + i) =
        if i < 16 * (len.toNat + 1) then mget s.core.loc ((s.x rs2).toNat + i) else 0) ∧
      ∀ x, (x < l + 12 ∨ l + 16 ≤ x) →
        (x < hdr.base + hdr.tail % hdr.nent * hdr.esize ∨ hdr.base + hdr.tail % hdr.nent * hdr.esize + hdr.esize ≤ x) →
        mget (t.getCore c).loc x = mget (s.getCore c).loc x := by
  have hv := Core.qhdr_valid hwf' hq
  have hlen : (mbytes s.core.loc (s.x rs2).toNat (16 * (len.toNat + 1))).length = 16 * (len.toNat + 1) := mbytes_length _ _ _
  obtain ⟨u, happend, hkeeps, hloc⟩ := State.appendMsg_taken hasid hk hx hq hv (bs := mbytes s.core.loc (s.x rs2).toNat (16 * (len.toNat + 1)))
    hroom (by rw [hlen]; exact hfit) hw
  have hrun : exec (.msend rd rs1 rs2 len) s = .next (u.result rd (BitVec.ofNat 64 (hdr.nent - (hdr.used + 1)))) := by
    rw [msend_appends hh ho rd rs1 ha hr hb h hn (by rw [twCore_eq, hc]; exact hs), twCore_eq, twAddr_eq, hc, hl, happend]
    rfl
  have hstrand : u.strand = s.strand := hkeeps.strand.trans (congrArg State.strand (s.setCore_frame c _) :)
  have hread (q : BitVec 5) : u.x q = s.x q := by rw [State.x, State.x, hstrand]
  have hcore : (u.getCore c).loc = ((s.getCore c).enqueue l hdr (mbytes s.core.loc (s.x rs2).toNat (16 * (len.toNat + 1)))).loc := by
    refine (hloc c).trans ?_
    rw [State.modCore, State.getCore_setCore_self]
    rfl
  obtain ⟨htail, hentry, hrest⟩ := Core.enqueue_loc hwf' hv (bs := mbytes s.core.loc (s.x rs2).toNat (16 * (len.toNat + 1))) (by rw [hlen]; exact hfit)
  refine ⟨_, hrun, State.x_result_self _ _ _, fun q hq => (u.x_result_ne rd q _ hq).trans (hread q), by rw [State.result_pc, hstrand], ?_⟩
  rw [State.getCore_result, hcore]
  refine ⟨htail, fun i hi => (hentry i hi).trans ?_, hrest⟩
  rw [hlen]
  split
  next hlt => exact mbytes_getD hwf _ hlt
  next => rfl

end

/-- Settles O20: SIGNAL and MSEND by where their target is and what they find there. -/
theorem signalsAndSends : Obligations.SignalsAndSends := by
  unfold Obligations.SignalsAndSends
  intro s rd rs1 rs2 len c l k w sb n hh ho _
  refine ⟨fun h hn hc hr hd => ⟨_, signal_dropped hh ho rd rs1 rs2 h hn hc hr hd, s.result_effect rd _⟩, ?_,
    fun h => ⟨_, signal_reserved hh ho rd rs1 rs2 h, s.result_effect rd _⟩, msend_traps hh ho rd rs1, ?_⟩
  · intro h hn hc hl hasid hk hx hs
    refine ⟨signal_credited hh ho rd rs1 rs2 h hn hc hl hasid hk hx hs, fun ha hr hb hwf hwf' hdr hq => ⟨?_, ?_⟩⟩
    · exact msend_taken hh ho rd rs1 rs2 h hn hc hl hasid hk hx hs ha hr hb hq hwf hwf'
    · exact msend_refused hh ho rd rs1 rs2 h hn hc hl hasid hk hx hs ha hr hb hq
  · intro h hn hroom hans sent
    refine ⟨?_, fun ha hr hb => ?_⟩
    · obtain ⟨p, hsent, hdst, hrest⟩ := s.asked_spec (w / 2 ^ 31) opSignal (w % 2 ^ 22)
        (bytesOf 8 (w / 2 ^ 22 % 2 ^ 9) ++ bytesOf 8 sb.toNat ++ bytesOf 8 0) hroom
      exact ⟨_, p, signal_asks hh ho rd rs1 rs2 h hn hans, hsent, hdst, hrest⟩
    · obtain ⟨p, hsent, hdst, hrest⟩ := s.asked_spec (w / 2 ^ 31) opMessage (w % 2 ^ 31) (mbytes s.core.loc sb.toNat n) hroom
      exact ⟨_, p, msend_asks hh ho rd rs1 ha hr hb h hn hans, hsent, hdst, hrest⟩

end Sys2Proof.Machine

namespace Sys2Proof.Machine
open Sys2Proof

/-! What reset leaves (R61, R69, R77, R297). -/

theorem State.reset_hart (h : Nat) : State.reset.hart h = Hart.reset := Vector.getElem_replicate _

theorem State.reset_harbour (d : Nat) : State.reset.harbour d = Harbour.reset := Vector.getElem_replicate _

/-- No core is listed after reset, so that each reads as a core in reset (log 5). -/
theorem State.reset_getCore (c : Nat) : State.reset.getCore c = Core.reset := rfl

/-- Settles O58: every hart, harbourmaster and core reads as its own reset value, and the state's other fields are listed in `State.reset`. -/
theorem resetState : Obligations.ResetState := by
  unfold Obligations.ResetState
  refine ⟨⟨List.Pairwise.nil, fun c hc => by cases hc⟩, rfl, rfl, rfl, rfl, rfl, rfl, rfl, rfl, rfl, rfl, rfl, rfl, fun h => ?_, fun d => ?_,
    fun c => ?_⟩
  · rw [State.reset_hart]
    exact ⟨rfl, rfl⟩
  · rw [State.reset_harbour]
    exact ⟨rfl, rfl, rfl⟩
  · rw [State.reset_getCore]
    exact ⟨rfl, rfl, rfl, rfl, rfl, rfl, rfl, rfl, rfl, rfl, rfl, rfl⟩
end Sys2Proof.Machine

namespace Sys2Proof.Machine
open Sys2Proof

/-! LAUNCH counts a corrected error in its record's mask once for each read (R15). -/

/-- A strand of context 1 at a LAUNCH of the record at 0x10000, whose bytes are 0, so that it is for context 0; memory answers the record's first
sector as corrected, and the core holds the page's translation. -/
def correctedRecord : State :=
  { State.reset with
    acting := true
    core := { Core.reset with
      cstate := .running, ctx := some 1, asid := 1, tlb := [⟨1, 0x10000, 0x10000, 0x10073⟩], steps := [(0, { Step.fresh with live := true })] }
    strand := { Strand.fresh with
      running := true
      cv := { Convoy.closed with live := true, entry := { ConvoyEntry.empty with words := [0], vl := 1, caps := [0x10000, 0] } } }
    soft := [0x1000] }

/-- The same state where the record has been read once before. -/
def countedRecord : State := correctedRecord.countRead 0x1000A 2

/-- The corrected errors counted at stack 1, where the record lies, after a row has run. -/
def correctedAfter (i : Instr) (s : State) : Option Nat :=
  match exec i s with
  | .next t => some t.hbmce[1]
  | _ => none

theorem correctedAfter_next {i : Instr} {s t : State} (h : exec i s = .next t) : correctedAfter i s = some t.hbmce[1] := by
  rw [correctedAfter, h]

theorem countedRecord_issues :
    countedRecord.defect (.deviceLaunch 1 2) = none ∧ countedRecord.heldHere = false ∧ countedRecord.storesOut = false ∧
      countedRecord.capA.toNat % 512 = 0 ∧ correctedRecord.bad 0x1000A 2 = false ∧
      mload correctedRecord.mem 0x1000A 2 / 256 ≠ countedRecord.core.ctx.getD 64 := by
  decide +kernel

/-- The translation is held, so that no walk changes the state. -/
theorem countedRecord_finds :
    countedRecord.find countedRecord.here .load countedRecord.capA.toNat 512 = (countedRecord, .ok [.here 0x10000 512 0 256 0x10000]) := by
  with_unfolding_all rfl

/-- LAUNCH's own read counts a second error, and the state said to follow counts one. -/
theorem countedRecord_counts :
    (countedRecord.dueScalar 1 2).wordDone.hbmce[1] = 1 ∧ correctedAfter (.deviceLaunch 1 2) countedRecord = some 2 := by
  decide +kernel

/-- Refutes O34: the state that the translation of LAUNCH's record leaves is said to hold the record's read already, while the word reads the record
after it; where the record's sector is answered as corrected, the state said to follow counts one error less than the word leaves. -/
theorem not_streamsAndLaunchesIssue : ¬ Obligations.StreamsAndLaunchesIssue := by
  unfold Obligations.StreamsAndLaunchesIssue
  intro ⟨_, _, hlaunch, _⟩
  obtain ⟨hdefect, hheld, hstores, halign, hbad, hctx⟩ := countedRecord_issues
  obtain ⟨hsaid, hafter⟩ := countedRecord_counts
  have hnext := (hlaunch countedRecord correctedRecord 1 2 0x10000 256 0x10000 hdefect hheld hstores halign countedRecord_finds hbad).1
    (fun hmine => hctx hmine.1)
  have hsame : correctedAfter (.deviceLaunch 1 2) countedRecord = some (countedRecord.dueScalar 1 2).wordDone.hbmce[1] :=
    correctedAfter_next hnext
  rw [hsaid, hafter] at hsame
  exact absurd hsame (by decide)
end Sys2Proof.Machine

namespace Sys2Proof.Machine
open Sys2Proof

/-! The end of a command, and the firmware commands that only read tokens and fields (R65, R78, R79, R84, R88-R91). -/

/-- The command in progress ends, in any state that has its queue and its operands. -/
theorem InProgress.finish_of {s t : State} {q : HostQueue} {c : Started} (h : InProgress s q c) (hqs : t.queues = s.queues) (hi : t.inp = s.inp)
    (status result : Nat) : t.finish status result = finished q c t status result := by
  obtain ⟨hq, hc⟩ := h
  rw [State.finish]
  dsimp only
  rw [hqs, hi, hq]
  dsimp only
  rw [hc]
  unfold finished
  rw [hqs, hi]
  rfl

theorem InProgress.finish {s : State} {q : HostQueue} {c : Started} (h : InProgress s q c) (status result : Nat) :
    s.finish status result = finished q c s status result := h.finish_of rfl rfl status result

theorem State.fwBusy_iff (s : State) : s.fwBusy = true ↔ ¬ (s.fw.activating = none ∧ s.fw.committing = none) := by
  unfold State.fwBusy
  cases s.fw.activating <;> cases s.fw.committing <;> simp

theorem State.fwBusy_idle {s : State} (h : s.fw.activating = none ∧ s.fw.committing = none) : s.fwBusy = false :=
  Bool.eq_false_iff.mpr (fun hb => s.fwBusy_iff.mp hb h)

section
variable {s : State} {q : HostQueue} {c : Started} (hin : InProgress s q c)
include hin

/-- While an activation or a commitment runs, none of the three begins (R78). -/
theorem fwCommands_busy (hb : ¬ (s.fw.activating = none ∧ s.fw.committing = none)) (hok : s.inp.ok = true) {i : Instr}
    (hi : i ∈ [Instr.fwStage, Instr.fwActivate, Instr.fwCommit]) : exec i s = .next (finished q c s 0x0C 0) := by
  have hbusy := s.fwBusy_iff.mpr hb
  rw [← hin.finish]
  simp only [List.mem_cons, List.not_mem_nil, or_false] at hi
  obtain rfl | rfl | rfl := hi
  · exact congrArg Host.Outcome.next (if_pos hbusy)
  · exact congrArg Host.Outcome.next ((if_pos hok).trans (if_pos hbusy))
  · exact congrArg Host.Outcome.next (if_pos ⟨hok, hbusy⟩)

section
variable {bs : List Byte} (hidle : s.fw.activating = none ∧ s.fw.committing = none) (hp : s.paramsOk [maskOf 63 0, maskOf 63 0, 1] = true)
  (hslot : decide (s.param 2 = 1) = !s.fw.activeB) (hlow : 1 ≤ s.param 1) (hhigh : s.param 1 ≤ 32 * 1048576)
  (hbs : s.physBytes (s.param 0) (s.param 1) = some bs)
include hidle hp hslot hlow hhigh hbs

omit hin in
/-- FW_STAGE with fields in range, as what the verifier finds of the image. -/
theorem fwStage_read : exec .fwStage s = .next (
    let r := s.countRead (s.param 0) (s.param 1)
    let found := imageStatus s.fw bs true
    let r := if found ≠ 0 then r.logError 76 0 else r
    if r.fw.enforced = true ∧ found ≠ 0 then { r with fw := r.fw.setSlot (!s.fw.activeB) FwSlot.blank }.finish found 0
    else { r with fw := r.fw.setSlot (!s.fw.activeB) { st := .staged, image := bs, fails := 0 } }.finish 0 0) := by
  rw [show exec .fwStage s = execFwStage s from rfl, execFwStage]
  dsimp only
  rw [s.fwBusy_idle hidle, if_neg (by decide), if_neg, hbs, hslot]
  · rfl
  · rw [hp, hslot]
    simp
    omega

theorem fwStage_verified (hv : s.fw.enforced = true → imageStatus s.fw bs true = 0) :
    exec .fwStage s = .next (finished q c { s.countRead (s.param 0) (s.param 1) with
      fw := s.fw.setSlot (!s.fw.activeB) { st := .staged, image := bs, fails := 0 }
      log := if imageStatus s.fw bs true = 0 then s.log else s.log ++ [(76, 0)] } 0 0) := by
  rw [fwStage_read hidle hp hslot hlow hhigh hbs]
  dsimp only
  by_cases hf : imageStatus s.fw bs true = 0
  · rw [if_neg (not_not_intro hf), if_neg (fun hb => hb.2 hf), if_pos hf]
    exact congrArg _ (hin.finish_of (by rfl) (by rfl) _ _)
  · rw [if_pos hf, if_neg (fun hb => hb.2 (hv hb.1)), if_neg hf]
    exact congrArg _ (hin.finish_of (by rfl) (by rfl) _ _)

theorem fwStage_refused (hf : imageStatus s.fw bs true ≠ 0) (he : s.fw.enforced = true) :
    exec .fwStage s = .next (finished q c { s.countRead (s.param 0) (s.param 1) with
      fw := s.fw.setSlot (!s.fw.activeB) FwSlot.blank, log := s.log ++ [(76, 0)] } (imageStatus s.fw bs true) 0) := by
  rw [fwStage_read hidle hp hslot hlow hhigh hbs]
  dsimp only
  rw [if_pos hf, if_pos ⟨he, hf⟩]
  exact congrArg _ (hin.finish_of (by rfl) (by rfl) _ _)
end
end
end Sys2Proof.Machine

namespace Sys2Proof.Machine
open Sys2Proof

/-! FW_ACTIVATE, FW_COMMIT and FW_QUERY (R78, R80, R84). -/

/-- Steps put behind the outstanding ones, one for each element of a list. -/
theorem State.foldl_later {α : Type} (what : Instr) (f : α → Input) (l : List α) (s : State) :
    l.foldl (fun (s : State) x => s.later what (f x)) s = { s with work := s.work ++ l.map (fun x => todo what (f x)) } := by
  induction l generalizing s with
  | nil => simp
  | cons x r ih =>
    rw [List.foldl_cons, ih]
    simp [State.later]

section
variable {s : State} {q : HostQueue} {c : Started} (hin : InProgress s q c)

theorem fwActivate_begins (hidle : s.fw.activating = none ∧ s.fw.committing = none) (hok : s.inp.ok = true) (hp : s.paramsOk [] = true)
    (hst : s.fw.other.st = .staged) :
    exec .fwActivate s = .next (State.owing { s with fw := { s.fw with activating := some (s.inp.queue, s.inp.n), written := [], taken := [] } }
      .fwActivate { s.inp with ok := false }) := by
  rw [show exec .fwActivate s = execFwActivate s from rfl, execFwActivate]
  dsimp only
  rw [if_pos hok, s.fwBusy_idle hidle, if_neg (by decide), if_neg (by simp [hp, hst])]
  rfl

include hin in
theorem fwActivate_unstaged (hidle : s.fw.activating = none ∧ s.fw.committing = none) (hok : s.inp.ok = true)
    (hst : s.fw.other.st ≠ .staged) : exec .fwActivate s = .next (finished q c s 2 0) := by
  rw [show exec .fwActivate s = execFwActivate s from rfl, execFwActivate]
  dsimp only
  rw [if_pos hok, s.fwBusy_idle hidle, if_neg (by decide), if_pos (.inr hst), hin.finish]

section
variable (hok : s.inp.ok = false) (hme : s.fw.activating = some (s.inp.queue, s.inp.n)) (hswap : s.mbx.swap = false)
include hok hme hswap

include hin in
/-- The slot no longer verifies: it has failed, and the command says so. -/
theorem fwActivate_fails (he : s.fw.enforced = true) (hf : imageStatus s.fw s.fw.other.image true ≠ 0) :
    exec .fwActivate s = .next (finished q c { s with fw := { s.fw.failOther with activating := none } } 0x0A 0) := by
  rw [show exec .fwActivate s = execFwActivate s from rfl, execFwActivate]
  dsimp only
  rw [if_neg (by simp [hok]), if_neg (by simp [hme, hswap]), if_pos ⟨he, hf⟩]
  exact congrArg _ (hin.finish_of (by rfl) (by rfl) _ _)

/-- The slot verifies again: its body is loaded, SWAP rises and the handovers of the eight command processors are due. -/
theorem fwActivate_swaps (hv : s.fw.enforced = true → imageStatus s.fw s.fw.other.image true = 0) :
    ∃ t, exec .fwActivate s = .next t ∧ t.fw = { s.fw with swapAt := s.time.toNat } ∧ t.mbx = { s.mbx with swap := true } ∧
      t.queues = s.queues ∧ t.mem = mstore s.mem (imageAt (!s.fw.activeB)) (s.fw.other.image.drop 1536) ∧
      ∀ h, h < 8 → todo .cpHandover { Input.none with hart := h } ∈ t.work := by
  rw [show exec .fwActivate s = execFwActivate s from rfl, execFwActivate]
  dsimp only
  rw [if_neg (by simp [hok]), if_neg (by simp [hme, hswap]), if_neg (fun hb => hb.2 (hv hb.1)), State.foldl_later]
  refine ⟨_, rfl, rfl, rfl, rfl, rfl, fun h hh => ?_⟩
  exact List.mem_append_right _ (List.mem_map.mpr ⟨h, List.mem_range.mpr hh, rfl⟩)

end

/-- FW_COMMIT where it may go on: from the host with nothing else running, or as its own continuation. -/
theorem fwCommit_goes
    (h : (s.inp.ok = true ∧ (s.fw.activating = none ∧ s.fw.committing = none) ∧ s.paramsOk [] = true) ∨
      (s.inp.ok = false ∧ s.fw.committing = some (s.inp.queue, s.inp.n))) :
    exec .fwCommit s = .next (
      if s.fw.counter < min 64 s.fw.svn then
        State.owing { s with fw := { s.fw with counter := s.fw.counter + 1, committing := some (s.inp.queue, s.inp.n) } } .fwCommit
          { s.inp with ok := false }
      else { s with fw := { s.fw with committing := none } }.finish 0 s.fw.counter) := by
  rw [show exec .fwCommit s = execFwCommit s from rfl, execFwCommit]
  dsimp only
  obtain ⟨hok, hidle, hp⟩ | ⟨hok, hme⟩ := h
  · rw [if_neg (by simp [s.fwBusy_idle hidle]), if_neg (by simp [hp]), if_neg (by simp [hok])]
    rfl
  · rw [if_neg (by simp [hok]), if_neg (by simp [hok]), if_neg (by simp [hme])]
    rfl

include hin

theorem fwQuery_reports (hp : s.paramsOk [] = true) : exec .fwQuery s = .next (finished q c s 0 s.fw.query) := by
  rw [show exec .fwQuery s = execFwQuery s from rfl, execFwQuery, hp, ← hin.finish]
  rfl

end

/-! DEBUG_UNLOCK (R88-R90). -/

/-- Whether DEBUG_UNLOCK's tokens pass, as the row decides it. -/
def State.unlockOk (s : State) : Bool :=
  match s.fw.lifecycle with
  | .manufacture | .rma => true
  | .provisioned => s.tokenAt (s.param 0) 1 (s.param 1) [0]
  | .production =>
    if s.param 1 = 1 then s.tokenAt (s.param 0) 1 1 [0, 1] else s.tokenAt (s.param 0) 1 2 [0] && s.tokenAt (s.param 2) 1 2 [1]

theorem State.unlockOk_iff (s : State) : s.unlockOk = true ↔ s.unlockGranted := by
  unfold State.unlockOk State.unlockGranted
  dsimp only
  cases s.fw.lifecycle with
  | manufacture => simp
  | provisioned => rfl
  | production =>
    dsimp only
    split <;> simp
  | rma => simp

/-- The tokens of a DEBUG_UNLOCK read. -/
def State.unlockRead (s : State) : State :=
  let t := if s.fw.lifecycle = .provisioned ∨ s.fw.lifecycle = .production then s.countRead (s.param 0) 1536 else s
  if s.fw.lifecycle = .production ∧ s.param 1 = 2 then t.countRead (s.param 2) 1536 else t

theorem State.unlockRead_counted (s : State) : Counted s s.unlockRead := by
  unfold State.unlockRead
  dsimp only
  split
  · split
    · exact (Counted.read s _ _).trans (Counted.read _ _ _)
    · exact Counted.read s _ _
  · split
    · exact Counted.read s _ _
    · exact Counted.refl s

section
variable {s t : State} (h : Counted s t)
include h

theorem Counted.queues : t.queues = s.queues := (congrArg State.queues h :)
theorem Counted.inp : t.inp = s.inp := (congrArg State.inp h :)
theorem Counted.fw : t.fw = s.fw := (congrArg State.fw h :)
theorem Counted.time : t.time = s.time := (congrArg State.time h :)

theorem Counted.tokenAt (a kind target : Nat) (signers : List Nat) : t.tokenAt a kind target signers = s.tokenAt a kind target signers := by
  unfold State.tokenAt State.physBytes
  rw [h.sameMemory.readPhys, h.fw, h.time]

theorem Counted.finish_counted {q : HostQueue} {c : Started} (hin : InProgress s q c) (status result : Nat) :
    t.finish status result = finished q c t status result :=
  hin.finish_of h.queues h.inp status result
end

section
variable {s : State} (hp : s.paramsOk [maskOf 63 0, 3, maskOf 63 0] = true) (hm : s.param 1 = 1 ∨ s.param 1 = 2)
include hp hm

/-- DEBUG_UNLOCK with fields in range: its tokens are read, and decide. -/
theorem debugUnlock_read :
    exec .debugUnlock s = .next (
      let m : Debug := if s.param 1 = 1 then .observe else .invasive
      if (!s.unlockOk) = true then s.unlockRead.finish 0x0B 0
      else if s.fw.lifecycle = .production ∧ s.param 1 = 2 then
        (({ s.unlockRead with fw := { s.fw with pendingDebug := .invasive } }.finish 0 0).zeroise).moduleReset
      else
        let fw := { s.fw with
          debug := m
          debugHigh := s.fw.debugHigh.max m
          idKey := if s.param 1 = 2 ∧ s.fw.lifecycle = Lifecycle.provisioned then .locked else s.fw.idKey }
        { s.unlockRead with fw := fw.extendMode }.finish 0 0) := by
  rw [show exec .debugUnlock s = execDebugUnlock s from rfl, execDebugUnlock]
  dsimp only
  rw [hp, if_neg (by simp; omega)]
  have htok := s.unlockRead_counted.tokenAt
  unfold State.unlockRead at htok ⊢
  dsimp only at htok ⊢
  simp only [htok]
  rfl

section
variable {q : HostQueue} {c : Started} (hin : InProgress s q c)
include hin

theorem debugUnlock_refused (h : ¬ s.unlockGranted) : exec .debugUnlock s = .next (finished q c s.unlockRead 0x0B 0) := by
  rw [← s.unlockOk_iff, Bool.not_eq_true] at h
  rw [debugUnlock_read hp hm]
  dsimp only
  rw [h, if_pos (by rfl), s.unlockRead_counted.finish_counted hin]

theorem debugUnlock_grants (h : s.unlockGranted) (hne : ¬ (s.fw.lifecycle = .production ∧ s.param 1 = 2)) :
    ∃ t, exec .debugUnlock s = .next t ∧ t.fw.debug = (if s.param 1 = 1 then .observe else .invasive) ∧
      t.queues = (finished q c s 0 0).queues ∧ t.mem = s.mem ∧ t.cores = s.cores ∧ t.fw.lifecycle = s.fw.lifecycle := by
  rw [← s.unlockOk_iff] at h
  have hc := s.unlockRead_counted
  rw [debugUnlock_read hp hm]
  dsimp only
  rw [h, if_neg (by decide), if_neg hne, hin.finish_of (by exact hc.queues) (by exact hc.inp)]
  refine ⟨_, rfl, rfl, ?_, hc.mem, hc.cores, rfl⟩
  unfold finished
  dsimp only
  rw [hc.queues, hc.inp]
end
end
end Sys2Proof.Machine

namespace Sys2Proof.Machine
open Sys2Proof

/-! What a module reset keeps of the append units (R87), and what zeroising clears (R88, R89). -/

theorem State.modQueue_units (s : State) (n : Nat) (f : HostQueue → HostQueue) : (s.modQueue n f).units = s.units := by
  unfold State.modQueue
  split <;> rfl

theorem State.notified_units (s : State) (q : HostQueue) : (s.notified q).units = s.units := by
  unfold State.notified
  split
  · rfl
  · split <;> rfl

theorem State.writeCompletion_units (s : State) (n : Nat) (q : HostQueue) (c : Completion) : (s.writeCompletion n q c).units = s.units := by
  unfold State.writeCompletion
  split
  · exact s.modQueue_units n _
  next t ht =>
    obtain ⟨-, -, -, hframe⟩ := State.writePhys_ok _ _ _ _ ht
    exact (State.notified_units _ q).trans ((t.modQueue_units n _).trans (congrArg State.units hframe :))

theorem State.flushQueue_units (s : State) (n fuel : Nat) : (s.flushQueue n fuel).units = s.units := by
  induction fuel generalizing s with
  | zero => rfl
  | succ fuel ih =>
    unfold State.flushQueue
    split
    · rfl
    · split
      · rfl
      · split
        · rfl
        · rw [ih, State.writeCompletion_units, State.modQueue_units]

theorem State.moduleReset_units (s : State) : s.moduleReset.units = s.units := by
  have habort : (s.park.abort (fun _ => true) 6).units = s.units :=
    (s.park.completeCmds_keeps State.units (fun _ _ _ => rfl) _ 6 _).trans s.park_units
  have hfail (u : State) : u.failSwapped.units = u.units := by
    unfold State.failSwapped
    split <;> rfl
  calc s.moduleReset.units = s.atReset.units := rfl
    _ = (s.park.abort (fun _ => true) 6).failSwapped.units :=
      foldl_keeps State.units (f := fun (s : State) (q : Nat × HostQueue) => s.flushQueue q.1 8192) (fun t q => t.flushQueue_units q.1 8192) _ _
    _ = s.units := (hfail _).trans habort

theorem State.zeroise_units (s : State) : s.zeroise.units = s.units.filter (fun u => decide (hbmEnd ≤ u.1)) := by
  rw [← s.park_units]
  rfl

theorem State.zeroise_fw (s : State) : s.zeroise.fw = s.fw := (congrArg State.fw s.park_frame :)

section
variable {s : State} (hp : s.paramsOk [maskOf 63 0, 3, maskOf 63 0] = true) {q : HostQueue} {c : Started} (hin : InProgress s q c)
include hp hin

/-- Invasive access to a module in PRODUCTION costs it all that it holds. -/
theorem debugUnlock_zeroises (h : s.unlockGranted) (hl : s.fw.lifecycle = .production) (hm : s.param 1 = 2) :
    ∃ t, exec .debugUnlock s = .next t ∧ t.units = s.units.filter (fun u => decide (hbmEnd ≤ u.1)) ∧ t.cores = [] ∧ t.fw.debug = .invasive ∧
      t.mbx.ready = false ∧ t.queues = [] := by
  have hc := s.unlockRead_counted
  rw [← s.unlockOk_iff] at h
  rw [debugUnlock_read hp (.inr hm)]
  dsimp only
  rw [h, if_neg (by decide), if_pos ⟨hl, hm⟩, hin.finish_of (by exact hc.queues) (by exact hc.inp)]
  refine ⟨_, rfl, ?_⟩
  generalize hu : finished q c _ 0 0 = u
  have hdebug : u.fw.pendingDebug = .invasive := by rw [← hu]; rfl
  have hunits : u.units = s.units := by rw [← hu]; exact hc.units
  obtain ⟨⟨hready, hqueues, -, hcores, -, -, -, -, -, hmode, -⟩, -⟩ := u.zeroise.moduleReset_done
  exact ⟨by rw [State.moduleReset_units, State.zeroise_units, hunits], hcores, by rw [hmode, State.zeroise_fw, hdebug], hready, hqueues⟩
end

/-! LIFECYCLE (R88). -/

section
variable {s : State} (hp : s.paramsOk [3, maskOf 63 0] = true) {q : HostQueue} {c : Started} (hin : InProgress s q c)
include hp hin

theorem lifecycle_provisions (hl : s.fw.lifecycle = .manufacture) (h1 : s.param 0 = 1) :
    ∃ t, exec .lifecycle s = .next t ∧ t.fw.lifecycle = .provisioned ∧
      t.fw.idKey = (if s.fw.debug = .invasive then .locked else .usable) ∧ t.queues = (finished q c s 0 0).queues ∧ t.mem = s.mem := by
  rw [show exec .lifecycle s = execLifecycle s from rfl, execLifecycle]
  dsimp only
  rw [hp, if_neg (by decide), hl]
  dsimp only
  rw [if_neg (by simp [h1]), hin.finish_of (by rfl) (by rfl)]
  exact ⟨_, rfl, rfl, rfl, rfl, rfl⟩

theorem lifecycle_produces (hl : s.fw.lifecycle = .provisioned) (h2 : s.param 0 = 2) :
    exec .lifecycle s = .next (
      if (!s.tokenAt (s.param 1) 2 2 [0]) = true then finished q c (s.countRead (s.param 1) 1536) 0x0B 0
      else finished q c { s.countRead (s.param 1) 1536 with fw := { s.fw with lifecycle := .production } } 0 0) := by
  rw [show exec .lifecycle s = execLifecycle s from rfl, execLifecycle]
  dsimp only
  rw [hp, if_neg (by decide), hl]
  dsimp only
  rw [if_neg (by simp [h2]), (Counted.read s _ _).tokenAt, hin.finish_of (by rfl) (by rfl), hin.finish_of (by rfl) (by rfl)]
  rfl

theorem lifecycle_rma_refused (hl : s.fw.lifecycle = .rma) : exec .lifecycle s = .next (finished q c s 2 0) := by
  rw [show exec .lifecycle s = execLifecycle s from rfl, execLifecycle]
  dsimp only
  rw [hp, if_neg (by decide), hl]
  dsimp only
  rw [hin.finish]

/-- A module for repair: what it held is gone, and its identity with it. -/
theorem lifecycle_repairs (hl : s.fw.lifecycle = .production) (h3 : s.param 0 = 3) (ht : s.tokenAt (s.param 1) 2 3 [0] = true) :
    ∃ t, exec .lifecycle s = .next t ∧ t.fw.lifecycle = .rma ∧
      t.fw.idKey = .destroyed ∧ t.fw.slotA = FwSlot.blank ∧ t.fw.slotB = FwSlot.blank ∧
      (∀ a, mget t.mem a = if a < hbmEnd then 0 else mget s.mem a) ∧ (∀ k ∈ t.cores, k.2.loc = [] ∧ k.2.acc = []) ∧
      (∀ x ∈ t.contexts, x.2.siglog = [] ∧ ∀ k ∈ x.2.saved, k.2.loc = [] ∧ k.2.opMem = [] ∧ k.2.acc = [] ∧ k.2.records = []) ∧
      t.queues = (finished q c s 0 0).queues := by
  have hc := Counted.read s (s.param 1) 1536
  rw [show exec .lifecycle s = execLifecycle s from rfl, execLifecycle]
  dsimp only
  rw [hp, if_neg (by decide), hl]
  dsimp only
  rw [if_neg (by simp [h3]), hc.tokenAt, ht, if_neg (by decide)]
  generalize hu : s.countRead (s.param 1) 1536 = u at hc
  have hqs : u.zeroise.queues = s.queues := (congrArg State.queues u.park_frame :).trans hc.queues
  have hinp : u.zeroise.inp = s.inp := (congrArg State.inp u.park_frame :).trans hc.inp
  rw [hin.finish_of (by exact hqs) (by exact hinp)]
  refine ⟨_, rfl, rfl, rfl, rfl, rfl, fun a => ?_, fun k hk => ?_, fun x hx => ?_, ?_⟩
  · show mget (mclear u.park.mem 0 hbmEnd) a = _
    rw [mget_mclear, u.park_mem, hc.mem]
    simp
  · obtain ⟨p, -, rfl⟩ := List.mem_map.mp hk
    exact ⟨rfl, rfl⟩
  · obtain ⟨y, -, rfl⟩ := List.mem_map.mp hx
    refine ⟨rfl, fun k hk => ?_⟩
    obtain ⟨p, -, rfl⟩ := List.mem_map.mp hk
    exact ⟨rfl, rfl, rfl, rfl⟩
  · unfold finished
    dsimp only
    rw [hqs, hinp]
end

/-! MEASURE_EXTEND and OWNER_SET (R90, R91). -/

theorem Firmware.extend_meas (fw : Firmware) (k : Nat) (hk : k < 8) (bs : List Byte) (n : Fin 8) :
    (fw.extend k bs).meas[n] = if n.val = k then Config.sha512 (bytesOf 64 fw.meas[n] ++ bs) else fw.meas[n] := by
  have hmod : k % 8 = k := Nat.mod_eq_of_lt hk
  unfold Firmware.extend
  dsimp only
  by_cases h : n.val = k
  · subst h
    simp [hmod]
  · rw [if_neg h]
    simp only [Fin.getElem_fin]
    rw [Vector.getElem_set_ne _ _ (by omega)]

/-- The index of a measurement has three bits. -/
theorem State.param_le_of_paramsOk {s : State} {ms : List Nat} (h : s.paramsOk ms = true) {k : Nat} (hk : k < 6) : s.param k ≤ ms.getD k 0 := by
  have hall := List.all_eq_true.mp h k (List.mem_range.mpr hk)
  rw [decide_eq_true_eq] at hall
  rw [hall]
  exact Nat.and_le_right

section
variable {s : State} {q : HostQueue} {c : Started} (hin : InProgress s q c)
include hin

theorem measureExtend_refused (hn : s.param 0 < 4) : exec .measureExtend s = .next (finished q c s 2 0) := by
  rw [show exec .measureExtend s = execMeasureExtend s from rfl, execMeasureExtend]
  dsimp only
  rw [if_pos (.inr hn), hin.finish]

section
variable (hp : s.paramsOk [7, maskOf 63 0] = true)
include hp

theorem measureExtend_extends {bs : List Byte} (hbs : s.physBytes (s.param 1) 64 = some bs) (hn : 4 ≤ s.param 0) :
    ∃ t, exec .measureExtend s = .next t ∧ t.queues = (finished q c s 0 0).queues ∧ t.mem = s.mem ∧
      ∀ n : Fin 8, t.fw.meas[n] = if n.val = s.param 0 then Config.sha512 (bytesOf 64 s.fw.meas[n] ++ bs) else s.fw.meas[n] := by
  have hk : s.param 0 ≤ 7 := State.param_le_of_paramsOk hp (by decide)
  have hread : (s.countRead (s.param 1) 64).physBytes ((s.countRead (s.param 1) 64).param 1) 64 = some bs := hbs
  rw [show exec .measureExtend s = execMeasureExtend s from rfl, execMeasureExtend]
  dsimp only
  rw [if_neg (by simp [hp, hn]), hread]
  dsimp only
  rw [hin.finish_of (by rfl) (by rfl)]
  exact ⟨_, rfl, rfl, rfl, fun n => s.fw.extend_meas _ (by omega) bs n⟩
end

section
variable (hp : s.paramsOk [maskOf 63 0, maskOf 63 0] = true) (hl : s.fw.lifecycle = .provisioned ∨ s.fw.lifecycle = .production)
include hp hl

omit hin in
theorem ownerSet_fieldsOk : ¬ ((!s.paramsOk [maskOf 63 0, maskOf 63 0]) = true ∨ s.fw.lifecycle = .manufacture ∨ s.fw.lifecycle = .rma) := by
  obtain hl | hl := hl <;> simp [hp, hl]

theorem ownerSet_full (h : 4 ≤ s.fw.ownerRows.length) : exec .ownerSet s = .next (finished q c s 5 0) := by
  rw [show exec .ownerSet s = execOwnerSet s from rfl, execOwnerSet]
  dsimp only
  rw [if_neg (ownerSet_fieldsOk hp hl), if_pos h, hin.finish]

/-- A row is blown where the token passes and names the key. -/
theorem ownerSet_read {tok key : List Byte} (h : s.fw.ownerRows.length < 4) (htok : s.physBytes (s.param 0) 1536 = some tok)
    (hkey : s.physBytes (s.param 1) 512 = some key) :
    let r := (s.countRead (s.param 0) 1536).countRead (s.param 1) 512
    exec .ownerSet s = .next (
      if tokenOk s.fw s.time.toNat tok 3 0 [0, 1] = true ∧ fld tok 72 64 = Config.sha512 key then
        finished q c { r with fw := { s.fw with ownerRows := s.fw.ownerRows ++ [Config.sha512 key] } } 0 0
      else finished q c r 0x0B 0) := by
  dsimp only
  have hc : Counted s ((s.countRead (s.param 0) 1536).countRead (s.param 1) 512) := (Counted.read s _ _).trans (Counted.read _ _ _)
  rw [show exec .ownerSet s = execOwnerSet s from rfl, execOwnerSet]
  dsimp only
  rw [if_neg (ownerSet_fieldsOk hp hl), if_neg (by omega)]
  generalize (s.countRead (s.param 0) 1536).countRead (s.param 1) 512 = r at hc ⊢
  have hpar (k : Nat) : r.param k = s.param k := by rw [State.param, hc.inp]; rfl
  have htok' : r.physBytes (r.param 0) 1536 = some tok := by rw [hpar, State.physBytes, hc.sameMemory.readPhys]; exact htok
  have hkey' : r.physBytes (r.param 1) 512 = some key := by rw [hpar, State.physBytes, hc.sameMemory.readPhys]; exact hkey
  rw [htok', hkey']
  dsimp only
  rw [hc.time, hin.finish_of (by exact hc.queues) (by exact hc.inp), hc.finish_counted hin]
end
end
end Sys2Proof.Machine

namespace Sys2Proof.Machine
open Sys2Proof

/-! CP_HANDOVER (R80, R83). -/

/-- Writing at one place leaves the bytes at another. -/
theorem State.put_mget_ne (s : State) (a : Nat) (bs : List Byte) (x : Nat) (h : x < a ∨ a + bs.length ≤ x) : mget (s.put a bs).mem x = mget s.mem x :=
  mget_mstore_ne _ _ _ _ h

/-- The tables that a block names lie above every block. -/
theorem State.putTables_mget (s : State) (h x : Nat) (hx : x < 0xBF00010000) : mget (s.putTables h).mem x = mget s.mem x := by
  unfold State.putTables
  dsimp only
  rw [foldl_keeps (fun s : State => mget s.mem x) (fun t p => ?_)]
  · rw [State.put_mget_ne _ _ _ _ (.inl (by unfold ctxTabAt; omega)), State.put_mget_ne _ _ _ _ (.inl (by unfold cmdTabAt; omega))]
  · exact State.put_mget_ne _ _ _ _ (.inl (by unfold ctxTabAt; omega))

/-- A state that differs in memory alone. -/
def MemoryOnly (s t : State) : Prop := ∃ m, t = { s with mem := m }

theorem MemoryOnly.refl (s : State) : MemoryOnly s s := ⟨s.mem, rfl⟩

theorem MemoryOnly.put (s : State) (a : Nat) (bs : List Byte) : MemoryOnly s (s.put a bs) := ⟨_, rfl⟩

theorem MemoryOnly.trans {s t u : State} (h : MemoryOnly s t) (g : MemoryOnly t u) : MemoryOnly s u := by
  obtain ⟨m, rfl⟩ := h
  obtain ⟨n, rfl⟩ := g
  exact ⟨n, rfl⟩

theorem MemoryOnly.foldl {α : Type} {f : State → α → State} (h : ∀ s x, MemoryOnly s (f s x)) (l : List α) (s : State) :
    MemoryOnly s (l.foldl f s) := by
  induction l generalizing s with
  | nil => exact refl s
  | cons x r ih => exact (h s x).trans (ih _)

theorem State.putTables_memoryOnly (s : State) (h : Nat) : MemoryOnly s (s.putTables h) :=
  ((MemoryOnly.put s _ _).trans (MemoryOnly.put _ _ _)).trans (MemoryOnly.foldl (fun t _ => MemoryOnly.put t _ _) _ _)

theorem ninsert_length (l : List Nat) (k : Nat) (h : k ∉ l) : (ninsert l k).length = l.length + 1 := by
  induction l with
  | nil => rfl
  | cons x r ih =>
    rw [List.mem_cons, not_or] at h
    obtain ⟨hx, hr⟩ := h
    rw [ninsert]
    split
    · rfl
    · rw [List.length_cons, ih hr, List.length_cons]

theorem HostQueue.handover_length (q : HostQueue) (n : Nat) : (q.handover n).length = 64 := by
  unfold HostQueue.handover
  exact padTo_length _ _ (by simp)

theorem State.handoverHead_length (s : State) (h version state : Nat) : (s.handoverHead h version state).length = 64 := by
  simp [State.handoverHead, ascii]

theorem State.handoverTail_length (s : State) (h : Nat) : (s.handoverTail h).length = 520 := by
  unfold State.handoverTail
  rw [List.length_append, flatMap_bytes_length _ _ 8 (fun _ _ => bytesOf_length _ _), bytesOf_length, List.length_range]

/-- A handover block has its 4 KiB (R83). -/
theorem State.handoverBlock_length (s : State) (h version state : Nat) : (s.handoverBlock h version state).length = 4096 := by
  unfold State.handoverBlock
  dsimp only
  refine padTo_length _ _ ?_
  rw [List.length_append, List.length_append, ← List.flatMap_def, flatMap_bytes_length _ _ 64, s.handoverHead_length, s.handoverTail_length]
  · decide
  · intro k _
    split
    · exact HostQueue.handover_length _ _
    · exact List.length_replicate

/-- The turn of a hart to be handed over has come: a command processor's while SWAP reads 1, the management core's after all of them. -/
def State.handsOver (s : State) : Prop :=
  (s.mbx.swap = true ∧ s.inp.hart < 8) ∨ (s.mbx.swap = false ∧ s.inp.hart = 8 ∧ 8 ≤ s.fw.taken.length)

section
variable {s : State} (hact : s.fw.activating ≠ none) (htaken : s.inp.hart ∉ s.fw.taken) (hturn : s.handsOver)
include hact htaken hturn

theorem cpHandover_guard :
    ¬ (8 < s.inp.hart ∨ (!s.swapping) = true ∨ s.fw.taken.contains s.inp.hart = true ∨ (s.inp.hart = 8 ∧ s.mbx.swap = true)) := by
  have hsome : s.fw.activating.isSome = true := Option.isSome_iff_ne_none.mpr hact
  have hnot : s.fw.taken.contains s.inp.hart = false := by simpa using htaken
  unfold State.swapping
  rw [hsome, hnot]
  obtain ⟨hs, hh⟩ | ⟨hs, hh, hl⟩ := hturn
  · rw [hs]
    simp
    omega
  · rw [hs, hh, decide_eq_true hl]
    simp

/-- The old image's part: the block and the tables are written with STATE 0, and the hart enters the new image (R80, R83). -/
theorem cpHandover_writes (hw : s.inp.hart ∉ s.fw.written) :
    ∃ t, exec .cpHandover s = .next t ∧ (∀ k, k ∈ t.fw.written ↔ k = s.inp.hart ∨ k ∈ s.fw.written) ∧ t.fw.taken = s.fw.taken ∧
      t.harts = (s.enterImage s.inp.hart (!s.fw.activeB)).harts ∧
      (t.hart s.inp.hart).rv.pc = w64 (imageAt (!s.fw.activeB) + valueOf ((s.fw.other.image.drop 32).take 8)) ∧
      t.mbx = s.mbx ∧ t.queues = s.queues ∧ t.work = s.work ++ [todo .cpHandover { Input.none with hart := s.inp.hart }] ∧
      ∀ i, i < 4096 → mget t.mem (handoverAt s.inp.hart + i) =
        (s.handoverBlock s.inp.hart (valueOf ((s.fw.other.image.drop 16).take 8)) 0).getD i 0 := by
  have hnot : s.fw.written.contains s.inp.hart = false := by simpa using hw
  have hle : s.inp.hart ≤ 8 := by
    obtain ⟨-, hh⟩ | ⟨-, hh, -⟩ := hturn <;> omega
  rw [show exec .cpHandover s = execCpHandover s from rfl, execCpHandover]
  dsimp only
  rw [if_neg (cpHandover_guard hact htaken hturn), hnot, if_pos (by rfl)]
  have hblock := s.handoverBlock_length s.inp.hart (fld s.fw.other.image 16 8) 0
  obtain ⟨m, hm⟩ := (s.put (handoverAt s.inp.hart) (s.handoverBlock s.inp.hart (fld s.fw.other.image 16 8) 0)).putTables_memoryOnly s.inp.hart
  have htables := State.putTables_mget (s.put (handoverAt s.inp.hart) (s.handoverBlock s.inp.hart (fld s.fw.other.image 16 8) 0)) s.inp.hart
  rw [hm] at htables ⊢
  refine ⟨_, rfl, fun k => mem_ninsert _ _ _, rfl, rfl, ?_, rfl, rfl, rfl, fun i hi => ?_⟩
  · show ((s.enterImage s.inp.hart (!s.fw.activeB)).hart s.inp.hart).rv.pc = _
    rw [State.enterImage, State.modRv, hart_modHart]
    rfl
  · have hlow : handoverAt s.inp.hart + i < 0xBF00010000 := by unfold handoverAt; omega
    refine (htables _ hlow).trans ((mget_mstore _ _ _ _).trans ?_)
    rw [if_pos (by omega), Nat.add_sub_cancel_left]
    rfl

end

/-- What a slot's change leaves of the firmware state. -/
theorem Firmware.setSlot_keeps {β : Type} (π : Firmware → β) (hπ : ∀ f a b, π { f with slotA := a, slotB := b } = π f) (f : Firmware) (b : Bool)
    (x : FwSlot) : π (f.setSlot b x) = π f := by
  cases b
  · exact hπ f x f.slotB
  · exact hπ f f.slotA x

/-- The mailbox's queue served again, and every queue looked at. -/
theorem State.resumeMbx_eq (s : State) :
    s.resumeMbx = { s with
      mbx := { s.mbx with swap := false }
      work := s.work ++ s.mbx.input.map mbxTodo ++ s.queues.map (fun q => todo .submissionFetch { Input.none with queue := q.1 }) } := by
  unfold State.resumeMbx
  dsimp only
  rw [State.foldl_later]

/-- The new image's part of a handover: STATE 1, and the hart counts as taken over (R80). -/
def State.takenOver (s : State) : State :=
  let t := s.poke (handoverAt s.inp.hart + 32) 8 1
  let t := t.modHart s.inp.hart (fun t => { t with handover := 1, image := fld s.fw.other.image 16 8, lastKick := s.time.toNat, wdw := false })
  { t with fw := { s.fw with taken := ninsert s.fw.taken s.inp.hart } }

theorem State.takenOver_hart (s : State) :
    s.takenOver.hart s.inp.hart =
      { s.hart s.inp.hart with handover := 1, image := fld s.fw.other.image 16 8, lastKick := s.time.toNat, wdw := false } :=
  hart_modHart (s.poke (handoverAt s.inp.hart + 32) 8 1) s.inp.hart
    (fun t => { t with handover := 1, image := fld s.fw.other.image 16 8, lastKick := s.time.toNat, wdw := false })

/-- The firmware once the management core has taken over: ACTIVE names the slot, which reads GOOD, and MEAS2 is extended (R80, R91). -/
def Firmware.swapped (fw : Firmware) : Firmware :=
  let f := (fw.setSlot (!fw.activeB) { fw.other with st := .good }).extend 2 (bytesOf 64 (Config.sha512 fw.other.image))
  { f with activeB := !fw.activeB, version := fld fw.other.image 16 8, svn := fld fw.other.image 12 4, swaps := f.swaps + 1 }

theorem Firmware.swapped_slot (fw : Firmware) : (fw.swapped.slot (!fw.activeB)).st = .good := by
  show ((fw.setSlot (!fw.activeB) { fw.other with st := .good }).slot (!fw.activeB)).st = .good
  rw [Firmware.slot_setSlot, if_pos rfl]

theorem Firmware.swapped_swaps (fw : Firmware) : fw.swapped.swaps = fw.swaps + 1 :=
  congrArg (· + 1) (Firmware.setSlot_keeps Firmware.swaps (fun _ _ _ => rfl) fw (!fw.activeB) { fw.other with st := .good })

theorem Firmware.swapped_meas (fw : Firmware) :
    fw.swapped.meas[2] = Config.sha512 (bytesOf 64 fw.meas[2] ++ bytesOf 64 (Config.sha512 fw.other.image)) := by
  have hmeas := (fw.setSlot (!fw.activeB) { fw.other with st := .good }).extend_meas 2 (by decide) (bytesOf 64 (Config.sha512 fw.other.image)) 2
  rw [if_pos (by rfl), Firmware.setSlot_keeps Firmware.meas (fun _ _ _ => rfl)] at hmeas
  exact hmeas

/-- The command of an activation ends where its queue still has it started. -/
theorem State.endActivate_done {s : State} {n cid : Nat} {q : HostQueue} {c : Started} (hact : s.fw.activating = some (n, cid))
    (hq : tget s.queues n = some q) (hc : q.started.find? (fun c => c.uid == cid) = some c) (status : Nat) :
    s.endActivate status = { finished q c (s.ending n cid) status 0 with inp := s.inp } := by
  have hin : InProgress (s.ending n cid) q c := ⟨hq, hc⟩
  rw [State.endActivate_some hact, hin.finish]

section
variable {s : State} (hact : s.fw.activating ≠ none) (htaken : s.inp.hart ∉ s.fw.taken) (hturn : s.handsOver) (hw : s.inp.hart ∈ s.fw.written)
include hact htaken hturn hw

theorem cpHandover_takes :
    exec .cpHandover s = .next (
      if s.inp.hart = 8 then { s.takenOver with fw := s.takenOver.fw.swapped }.endActivate 0
      else if s.takenOver.fw.taken.length < 8 then s.takenOver
      else s.takenOver.resumeMbx.later .cpHandover { Input.none with hart := 8 }) := by
  have hwr : s.fw.written.contains s.inp.hart = true := by simpa using hw
  rw [show exec .cpHandover s = execCpHandover s from rfl, execCpHandover]
  dsimp only
  rw [if_neg (cpHandover_guard hact htaken hturn), hwr, if_neg (by decide)]
  rfl

/-- A command processor taken over; with the last of the eight SWAP clears and the management core's turn is due. -/
theorem cpHandover_takes_cp (hh : s.inp.hart < 8) :
    ∃ t, exec .cpHandover s = .next t ∧ t.mem = mstore s.mem (handoverAt s.inp.hart + 32) (bytesOf 8 1) ∧
      (t.hart s.inp.hart).handover = 1 ∧ (t.hart s.inp.hart).image = valueOf ((s.fw.other.image.drop 16).take 8) ∧
      (∀ k, k ∈ t.fw.taken ↔ k = s.inp.hart ∨ k ∈ s.fw.taken) ∧ t.queues = s.queues ∧
      (s.fw.taken.length < 7 → t.mbx = s.mbx) ∧
      (s.fw.taken.length = 7 → t.mbx.swap = false ∧ todo .cpHandover { Input.none with hart := 8 } ∈ t.work) := by
  have hlen : s.takenOver.fw.taken.length = s.fw.taken.length + 1 := ninsert_length _ _ htaken
  have hhart := s.takenOver_hart
  rw [cpHandover_takes hact htaken hturn hw, if_neg (by omega), hlen]
  by_cases hl : s.fw.taken.length + 1 < 8
  · rw [if_pos hl]
    exact ⟨_, rfl, rfl, by rw [hhart], by rw [hhart]; rfl, fun k => mem_ninsert _ _ _, rfl, fun _ => rfl, fun h => absurd hl (by omega)⟩
  · rw [if_neg hl, State.resumeMbx_eq]
    refine ⟨_, rfl, rfl, (congrArg Hart.handover hhart :), (congrArg Hart.image hhart :), fun k => mem_ninsert _ _ _, rfl, fun h => absurd h (by omega),
      fun _ => ⟨rfl, ?_⟩⟩
    exact List.mem_append_right _ (List.mem_singleton_self _)

/-- The management core taken over: the swap is made and its command complete. -/
theorem cpHandover_takes_management (hh : s.inp.hart = 8) {n cid : Nat} {q : HostQueue} {c : Started}
    (ha : s.fw.activating = some (n, cid)) (hq : tget s.queues n = some q) (hc : q.started.find? (fun c => c.uid == cid) = some c) :
    ∃ t, exec .cpHandover s = .next t ∧ t.fw.activating = none ∧ t.fw.activeB = (!s.fw.activeB) ∧ (t.fw.slot t.fw.activeB).st = .good ∧
      t.fw.swaps = s.fw.swaps + 1 ∧ t.fw.version = valueOf ((s.fw.other.image.drop 16).take 8) ∧
      (t.hart 8).image = valueOf ((s.fw.other.image.drop 16).take 8) ∧
      t.fw.meas[2] = Config.sha512 (bytesOf 64 s.fw.meas[2] ++ bytesOf 64 (Config.sha512 s.fw.other.image)) ∧ t.queues = q.doneOn c n cid s 0 := by
  have hhart := s.takenOver_hart
  have hact' : s.takenOver.fw.swapped.activating = some (n, cid) :=
    (Firmware.setSlot_keeps Firmware.activating (fun _ _ _ => rfl) _ _ _).trans ha
  rw [hh] at hhart
  rw [cpHandover_takes hact htaken hturn hw, if_pos hh]
  rw [State.endActivate_done (q := q) (c := c) (by exact hact') (by exact hq) hc]
  exact ⟨_, rfl, rfl, rfl, s.takenOver.fw.swapped_slot, s.takenOver.fw.swapped_swaps, rfl, (congrArg Hart.image hhart :),
    s.takenOver.fw.swapped_meas, rfl⟩
end
end Sys2Proof.Machine

namespace Sys2Proof.Machine
open Sys2Proof

/-! SWAP_TIMEOUT (R81). -/

/-- What handing a hart back leaves of the rest. -/
theorem State.handBack_keeps {β : Type} (π : State → β) (hπ : ∀ (s : State) hs m, π { s with harts := hs, mem := m } = π s) (s : State) (h : Nat) :
    π (s.handBack h) = π s := by
  unfold State.handBack
  dsimp only
  split
  · exact hπ s _ _
  · exact hπ s _ _

/-- A hart is back on the image before, with STATE 2. -/
def State.isBack (s : State) (k : Nat) : Prop := (s.hart k).image = s.fw.version ∧ (s.hart k).handover = 2

theorem State.handBack_isBack (s : State) (h : Nat) : (s.handBack h).isBack h := by
  have hfw : (s.handBack h).fw = s.fw := s.handBack_keeps State.fw (fun _ _ _ => rfl) h
  unfold State.isBack
  rw [hfw]
  unfold State.handBack
  dsimp only
  rw [hart_modHart]
  split <;> exact ⟨rfl, rfl⟩

theorem State.handBack_hart_ne (s : State) {h k : Nat} (hne : k % 9 ≠ h % 9) : (s.handBack h).hart k = s.hart k := by
  unfold State.handBack
  dsimp only
  rw [hart_modHart_ne _ _ hne]
  split
  · show (s.enterImage h s.fw.activeB).hart k = _
    rw [State.enterImage, State.modRv, hart_modHart_ne _ _ hne]
  · rfl

theorem State.isBack_handBack {s : State} {k : Nat} (hk : s.isBack k) (h : Nat) : (s.handBack h).isBack k := by
  by_cases e : k % 9 = h % 9
  · have hsame : (s.handBack h).hart k = (s.handBack h).hart h := by simp only [State.hart, e]
    unfold State.isBack
    rw [hsame]
    exact s.handBack_isBack h
  · have hfw : (s.handBack h).fw = s.fw := s.handBack_keeps State.fw (fun _ _ _ => rfl) h
    unfold State.isBack
    rw [s.handBack_hart_ne e, hfw]
    exact hk

theorem State.foldl_handBack (l : List Nat) (s : State) (k : Nat) (h : k ∈ l ∨ s.isBack k) : (l.foldl State.handBack s).isBack k := by
  induction l generalizing s with
  | nil => exact h.resolve_left (by simp)
  | cons x r ih =>
    refine ih _ ?_
    obtain h | h := h
    · obtain rfl | h := List.mem_cons.mp h
      · exact .inr (s.handBack_isBack k)
      · exact .inl h
    · exact .inr (State.isBack_handBack h x)

section
variable {s : State}

theorem swapTimeout_early (hlate : s.time.toNat < s.fw.swapAt + 180000) : exec .swapTimeout s = .next s :=
  congrArg Host.Outcome.next (if_pos (.inr (.inr hlate)))

/-- The activation fails: every command processor is back, the slot has failed and the command says so. -/
theorem swapTimeout_fails {n cid : Nat} {q : HostQueue} {c : Started} (ha : s.fw.activating = some (n, cid)) (hq : tget s.queues n = some q)
    (hc : q.started.find? (fun c => c.uid == cid) = some c) (hswap : s.mbx.swap = true) (hlate : s.fw.swapAt + 180000 ≤ s.time.toNat) :
    ∃ t, exec .swapTimeout s = .next t ∧ t.mbx.swap = false ∧ t.fw.activating = none ∧
      t.fw.activeB = s.fw.activeB ∧ (t.fw.slot (!s.fw.activeB)).st = .failed ∧
      (∀ k, k < 8 → (t.hart k).image = s.fw.version ∧ (t.hart k).handover = 2) ∧ t.queues = q.doneOn c n cid s 0x0A := by
  have hsw : s.swapping = true := by rw [State.swapping, ha, hswap]; rfl
  rw [show exec .swapTimeout s = execSwapTimeout s from rfl, execSwapTimeout, if_neg (by simp [hsw, hswap]; omega), State.failSwap_eq, hsw,
    if_neg (by decide), State.swapBack]
  have hback := fun k (hk : k < 8) => State.foldl_handBack (List.range 8) s k (.inl (List.mem_range.mpr hk))
  have hkept := foldl_keeps (fun t : State => (t.fw, t.queues)) (fun t h => t.handBack_keeps (fun u : State => (u.fw, u.queues)) (fun _ _ _ => rfl) h)
    (List.range 8) s
  generalize (List.range 8).foldl State.handBack s = t at hback hkept ⊢
  simp only [Prod.mk.injEq] at hkept
  obtain ⟨hfw, hqs⟩ := hkept
  have hact : t.fw.failOther.activating = some (n, cid) :=
    (Firmware.setSlot_keeps Firmware.activating (fun _ _ _ => rfl) _ _ _).trans (hfw ▸ ha)
  rw [State.resumeMbx_eq, State.endActivate_done (q := q) (c := c) (by exact hact) (by exact hqs ▸ hq) hc]
  refine ⟨_, rfl, rfl, rfl, ?_, ?_, fun k hk => ?_, ?_⟩
  · exact (Firmware.setSlot_keeps Firmware.activeB (fun _ _ _ => rfl) t.fw _ _).trans (hfw ▸ rfl)
  · show (t.fw.failOther.slot (!s.fw.activeB)).st = .failed
    rw [Firmware.failOther, ← hfw, Firmware.slot_setSlot, if_pos rfl]
  · exact hfw ▸ hback k hk
  · show tset t.queues n _ = _
    rw [hqs]
    rfl

end

/-! BOOT and BOOT_TIMEOUT (R77). -/

theorem SlotSt.not_dead {x : SlotSt} (h : x = .staged ∨ x = .good) : ¬ (x = .failed ∨ x = .empty) := by
  obtain rfl | rfl := h <;> simp

/-- The slot that ACTIVE names, given up after its third failure (R77). -/
def Firmware.giveUp (fw : Firmware) (now : Nat) : Firmware :=
  { fw with bootAt := now }.setSlot fw.activeB { fw.slot fw.activeB with fails := 0, st := .failed }

theorem State.bootFail_again {s : State} (h : (s.fw.slot s.fw.activeB).fails + 1 < 3) :
    s.bootFail = State.owing { s with
      fw := { s.fw with bootAt := s.time.toNat }.setSlot s.fw.activeB
        { s.fw.slot s.fw.activeB with fails := (s.fw.slot s.fw.activeB).fails + 1 }
      log := s.log ++ [(77, 0)] } .boot Input.none := if_pos h

theorem State.bootFail_third {s : State} (h : ¬ (s.fw.slot s.fw.activeB).fails + 1 < 3) :
    s.bootFail =
      let f := s.fw.giveUp s.time.toNat
      let t := s.logError 77 0
      if decide ((f.slot (!s.fw.activeB)).st = .failed ∨ (f.slot (!s.fw.activeB)).st = .empty) = true then { t with fw := { f with recovery := true } }
      else ({ t with fw := { f with activeB := !s.fw.activeB } }).later .boot Input.none := if_neg h

theorem Firmware.giveUp_slots (fw : Firmware) (now : Nat) :
    (fw.giveUp now).slot (!fw.activeB) = fw.slot (!fw.activeB) ∧ ((fw.giveUp now).slot fw.activeB).st = .failed ∧
      (fw.giveUp now).activeB = fw.activeB := by
  unfold Firmware.giveUp
  refine ⟨?_, ?_, Firmware.setSlot_keeps Firmware.activeB (fun _ _ _ => rfl) _ _ _⟩
  · rw [Firmware.slot_setSlot, if_neg (by simp)]
    rfl
  · rw [Firmware.slot_setSlot, if_pos rfl]

/-- A failed attempt counts, and the third in a row gives the slot up. -/
theorem State.bootFail_bootFailed (s : State) (m : Vector Nat 8) : s.bootFailed { s.park with fw := { s.fw with meas := m } }.bootFail m := by
  unfold State.bootFailed
  refine ⟨fun h => ?_, fun h => ?_⟩
  · rw [State.bootFail_again (by exact Nat.succ_lt_succ h)]
    simp only [State.park_time, State.park_log]
    rfl
  · rw [State.bootFail_third (by exact Nat.not_lt.mpr (Nat.succ_le_succ h))]
    obtain ⟨hother, hmine, hactive⟩ := ({ s.fw with meas := m } : Firmware).giveUp_slots s.park.time.toNat
    dsimp only at hother hmine hactive ⊢
    rw [hother]
    refine ⟨fun hdead => ?_, fun halive => ?_, ?_⟩
    · rw [if_pos (by exact decide_eq_true hdead)]
      exact ⟨rfl, s.park_work, hactive⟩
    · rw [if_neg (by exact fun hd => SlotSt.not_dead halive (of_decide_eq_true hd))]
      exact ⟨rfl, congrArg (· ++ _) s.park_work⟩
    · split
      · exact hmine
      · exact hmine

section
variable {s : State}

theorem bootTimeout_fails (hpower : s.power ≠ .off) (hact : s.acting = false) (hready : s.mbx.ready = false) (hrec : s.fw.recovery = false)
    (hlate : s.fw.bootAt + 5000000000 ≤ s.time.toNat) : ∃ t, exec .bootTimeout s = .next t ∧ s.bootFailed t s.fw.meas := by
  refine ⟨s.bootFail, congrArg Host.Outcome.next (if_neg (by simp [hready, hrec, hpower]; omega)), ?_⟩
  have h := s.bootFail_bootFailed s.fw.meas
  rw [State.park_of_not_acting hact] at h
  exact h

end

/-- The firmware of a boot from the slot that ACTIVE names (R77, R91). -/
def Firmware.booted (fw : Firmware) (report : Nat) : Firmware :=
  let x := fw.slot fw.activeB
  let f := { fw.setSlot fw.activeB { x with fails := 0 } with
    version := fld x.image 16 8, svn := fld x.image 12 4, meas := (fw.meas.set 0 Config.romDigest).set 1 (Config.sha512 x.image), recovery := false
    reportNode := report }
  f.extendMode

/-- The module with the slot that ACTIVE names loaded into all nine harts, before its CXL ports are enumerated (R16, R77). -/
def State.booted (s : State) : State :=
  { s.loadImage (s.fw.booted s.fabric.report).activeB with
    fw := s.fw.booted s.fabric.report
    harts := s.harts.map (fun (h : Hart) =>
      { h with
        image := fld (s.fw.slot s.fw.activeB).image 16 8, lastKick := s.time.toNat, wdw := false, handover := 0
        rv := (s.fw.booted s.fabric.report).start })
    mbx := { s.mbx with ready := true }
    cores := (List.range 512).map (fun c => (c, { (s.getCore c).wipe with cstate := .running, lastCtx := none })) }

section
variable {s : State} (hpower : s.power ≠ .off) (hready : s.mbx.ready = false)
include hpower hready

/-- BOOT of a module with power that is not READY, as what the ROM finds of the slot. -/
theorem boot_read :
    exec .boot s = .next (
      let p := s.park
      let x := p.fw.slot p.fw.activeB
      let found := imageStatus p.fw x.image p.fw.bound
      if x.st = .empty ∨ x.st = .failed ∨ x.image.length < 1536 ∨ (p.fw.enforced = true ∧ found ≠ 0) then
        { p with fw := { p.fw with meas := p.fw.meas.set 0 Config.romDigest } }.bootFail
      else (if found ≠ 0 then p.logError 76 0 else p).booted.enumerate) := by
  have hon : ¬ s.park.power = .off := by rw [s.park_power]; exact hpower
  have hnot : ¬ s.park.mbx.ready = true := by rw [s.park_mbx, hready]; decide
  rw [show exec .boot s = execBoot s from rfl, execBoot]
  simp only [if_neg hon, if_neg hnot]
  by_cases hf : imageStatus s.park.fw (s.park.fw.slot s.park.fw.activeB).image s.park.fw.bound ≠ 0
  · simp only [if_pos hf]
    rfl
  · simp only [if_neg hf]
    rfl

theorem boot_empty (h : (s.fw.slot s.fw.activeB).st = .empty ∨ (s.fw.slot s.fw.activeB).st = .failed) :
    ∃ t, exec .boot s = .next t ∧ s.bootFailed t (s.fw.meas.set 0 Config.romDigest) := by
  have hdead : (s.fw.slot s.fw.activeB).st = .empty ∨ (s.fw.slot s.fw.activeB).st = .failed ∨ (s.fw.slot s.fw.activeB).image.length < 1536 ∨
      (s.fw.enforced = true ∧ imageStatus s.fw (s.fw.slot s.fw.activeB).image s.fw.bound ≠ 0) := h.imp_right .inl
  have hfw : s.park.fw = s.fw := (congrArg State.fw s.park_frame :)
  refine ⟨_, ?_, s.bootFail_bootFailed _⟩
  rw [boot_read hpower hready]
  dsimp only
  rw [hfw, if_pos hdead]

end
end Sys2Proof.Machine

namespace Sys2Proof.Machine
open Sys2Proof

theorem tget_map_range {α : Type} (f : Nat → α) (n k : Nat) (h : k < n) : tget ((List.range n).map (fun c => (c, f c))) k = some (f k) := by
  induction n with
  | zero => omega
  | succ n ih =>
    by_cases hk : k < n
    · simp only [tget, List.range_succ, List.map_append, List.find?_append] at ih ⊢
      obtain ⟨p, hp, hv⟩ := Option.map_eq_some_iff.mp (ih hk)
      rw [hp]
      exact congrArg some hv
    · obtain rfl : k = n := by omega
      simp only [tget, List.range_succ, List.map_append, List.find?_append]
      rw [List.find?_eq_none.mpr]
      · simp
      · intro p hp
        obtain ⟨c, hc, rfl⟩ := List.mem_map.mp hp
        simpa using Nat.ne_of_lt (List.mem_range.mp hc)

/-- Enumerating the CXL ports changes what is known of them and the log alone. -/
theorem State.enumerate_eq (s : State) : ∃ c r l, s.enumerate = { s with cxl := c, cxlTrained := r, log := l } := by
  unfold State.enumerate
  dsimp only
  rw [foldl_logError]
  exact ⟨_, _, _, rfl⟩

theorem Firmware.booted_slot (fw : Firmware) (report : Nat) :
    (fw.booted report).activeB = fw.activeB ∧ ((fw.booted report).slot fw.activeB).image = (fw.slot fw.activeB).image := by
  refine ⟨Firmware.setSlot_keeps Firmware.activeB (fun _ _ _ => rfl) fw _ _, ?_⟩
  show ((fw.setSlot fw.activeB { fw.slot fw.activeB with fails := 0 }).slot fw.activeB).image = _
  rw [Firmware.slot_setSlot, if_pos rfl]

theorem Firmware.booted_start (fw : Firmware) (report : Nat) :
    (fw.booted report).start = { Rv.reset with pc := w64 (imageAt fw.activeB + fld (fw.slot fw.activeB).image 32 8) } := by
  obtain ⟨hactive, himage⟩ := fw.booted_slot report
  rw [Firmware.start, Firmware.entry, hactive, himage]

theorem Firmware.booted_meas (fw : Firmware) (report : Nat) :
    (fw.booted report).meas[0] = Config.romDigest ∧ (fw.booted report).meas[1] = Config.sha512 (fw.slot fw.activeB).image := by
  unfold Firmware.booted
  dsimp only
  have h0 := fun f : Firmware => f.extend_meas 3 (by decide) (bytesOf 1 f.lifecycle.code ++ bytesOf 1 (Debug.code f.debug) ++ bytesOf 1 f.counter) 0
  have h1 := fun f : Firmware => f.extend_meas 3 (by decide) (bytesOf 1 f.lifecycle.code ++ bytesOf 1 (Debug.code f.debug) ++ bytesOf 1 f.counter) 1
  exact ⟨(h0 _).trans (by simp), (h1 _).trans (by simp)⟩

theorem State.hart_booted (s : State) (k : Nat) :
    (s.booted.hart k).image = fld (s.fw.slot s.fw.activeB).image 16 8 ∧ (s.booted.hart k).rv = (s.fw.booted s.fabric.report).start := by
  simp [State.hart, State.booted]

theorem State.getCore_booted {s : State} (h : s.acting = false) {k : Nat} (hk : k < 512) :
    (s.booted.getCore k).cstate = .running ∧ (s.booted.getCore k).loc = [] := by
  have hact : s.booted.acting = false := by
    unfold State.booted
    exact h
  have hcores : s.booted.cores = (List.range 512).map (fun c => (c, { (s.getCore c).wipe with cstate := .running, lastCtx := none })) := by
    simp only [State.booted]
  rw [State.getCore, if_neg (by rw [hact]; simp), hcores, tget_map_range _ _ _ hk]
  exact ⟨rfl, rfl⟩

theorem State.booted_mem (s : State) : s.booted.mem = mstore s.mem (imageAt s.fw.activeB) ((s.fw.slot s.fw.activeB).image.drop 1536) := by
  obtain ⟨hactive, -⟩ := s.fw.booted_slot s.fabric.report
  show mstore s.mem (imageAt (s.fw.booted s.fabric.report).activeB) ((s.fw.slot (s.fw.booted s.fabric.report).activeB).image.drop 1536) = _
  rw [hactive]

/-- BOOT of an image that verifies, or in MANUFACTURE of any with a whole header: every core runs, and every hart is at its ENTRY (R69, R77). -/
theorem boot_boots {s : State} (hpower : s.power ≠ .off) (hready : s.mbx.ready = false)
    (hst : (s.fw.slot s.fw.activeB).st = .staged ∨ (s.fw.slot s.fw.activeB).st = .good) (hlen : 1536 ≤ (s.fw.slot s.fw.activeB).image.length)
    (hv : s.fw.enforced = true → imageStatus s.fw (s.fw.slot s.fw.activeB).image s.fw.bound = 0) :
    let x := s.fw.slot s.fw.activeB
    ∃ t, exec .boot s = .next t ∧ t.mbx.ready = true ∧ t.mem = mstore s.mem (imageAt s.fw.activeB) (x.image.drop 1536) ∧
      t.fw.version = valueOf ((x.image.drop 16).take 8) ∧ t.fw.meas[0] = Config.romDigest ∧ t.fw.meas[1] = Config.sha512 x.image ∧
      (∀ k, k < 9 → (t.hart k).image = t.fw.version ∧
        (t.hart k).rv = { Rv.reset with pc := w64 (imageAt s.fw.activeB + valueOf ((x.image.drop 32).take 8)) }) ∧
      ∀ k, k < 512 → (t.getCore k).cstate = .running ∧ (t.getCore k).loc = [] := by
  have hfw : s.park.fw = s.fw := (congrArg State.fw s.park_frame :)
  have hlive : ¬ ((s.fw.slot s.fw.activeB).st = .empty ∨ (s.fw.slot s.fw.activeB).st = .failed ∨ (s.fw.slot s.fw.activeB).image.length < 1536 ∨
      (s.fw.enforced = true ∧ imageStatus s.fw (s.fw.slot s.fw.activeB).image s.fw.bound ≠ 0)) := by
    rintro (h | h | h | ⟨he, hf⟩)
    · exact SlotSt.not_dead hst (.inr h)
    · exact SlotSt.not_dead hst (.inl h)
    · omega
    · exact hf (hv he)
  rw [boot_read hpower hready]
  dsimp only
  rw [hfw, if_neg hlive]
  have hu : ∃ u : State, (if imageStatus s.fw (s.fw.slot s.fw.activeB).image s.fw.bound ≠ 0 then s.park.logError 76 0 else s.park) = u ∧
      u.fw = s.fw ∧ u.mem = s.mem ∧ u.acting = false := by
    refine ⟨_, rfl, ?_⟩
    split
    · exact ⟨hfw, s.park_mem, s.park_acting⟩
    · exact ⟨hfw, s.park_mem, s.park_acting⟩
  obtain ⟨u, hu, ufw, umem, uact⟩ := hu
  obtain ⟨hm0, hm1⟩ := u.fw.booted_meas u.fabric.report
  have hstart := u.fw.booted_start u.fabric.report
  have hmem := u.booted_mem
  have hharts := u.hart_booted
  have hcores := fun k (hk : k < 512) => State.getCore_booted uact hk
  have hbfw : u.booted.fw = u.fw.booted u.fabric.report := rfl
  have hbmbx : u.booted.mbx.ready = true := rfl
  have hversion : u.booted.fw.version = fld (u.fw.slot u.fw.activeB).image 16 8 := rfl
  rw [← hbfw] at hm0 hm1 hstart
  rw [hu, ← ufw, ← umem]
  generalize u.booted = b at *
  obtain ⟨c, r, l, henum⟩ := b.enumerate_eq
  rw [henum]
  refine ⟨_, rfl, hbmbx, hmem, hversion, hm0, hm1, fun k _ => ?_, hcores⟩
  obtain ⟨himage, hrv⟩ := hharts k
  exact ⟨himage.trans hversion.symm, hrv.trans (hbfw ▸ hstart)⟩

/-! POWER_LOSS (R26, R74). -/

theorem powerLoss_keeps (s : State) :
    ∃ t, exec .powerLoss s = .next t ∧ t.power = .off ∧ t.mem = [] ∧ t.cores = [] ∧ t.queues = [] ∧ t.contexts = [] ∧ t.work = [] ∧
      t.fw.slotA = s.fw.slotA ∧ t.fw.slotB = s.fw.slotB ∧ t.fw.activeB = s.fw.activeB ∧ t.fw.lifecycle = s.fw.lifecycle ∧
      t.fw.counter = s.fw.counter ∧ t.fw.ownerRows = s.fw.ownerRows ∧ t.fw.debug = .off ∧ t.fabric = State.reset.fabric := by
  have hfw : s.park.fw = s.fw := (congrArg State.fw s.park_frame :)
  rw [← hfw]
  exact ⟨_, rfl, rfl, rfl, rfl, rfl, rfl, rfl, rfl, rfl, rfl, rfl, rfl, rfl, rfl, rfl⟩

/-- Settles O36: each row by the case that its guards leave; the handover's and the boot's frames by lemmas about the block, the tables and the slots. -/
theorem firmwareCommandsComplete : Obligations.FirmwareCommandsComplete := by
  unfold Obligations.FirmwareCommandsComplete
  refine ⟨fun s q c hin => ⟨fun hb hok _ hi => ?_, fun bs hidle hp hslot hlow hhigh hbs => ?_, fun hidle hok hp => ?_, fun hok hme hswap => ?_, fun h => ?_,
    fun hp => ?_, fun hp hm => ?_, fun hp => ?_, fun bs hp hbs => ?_, fun tok key hp hl => ?_⟩, fun s => ?_⟩
  · exact fwCommands_busy hin hb hok hi
  · exact ⟨fwStage_verified hin hidle hp hslot hlow hhigh hbs, fwStage_refused hin hidle hp hslot hlow hhigh hbs⟩
  · exact ⟨fwActivate_unstaged hin hidle hok, fwActivate_begins hidle hok hp⟩
  · exact ⟨fwActivate_fails hin hok hme hswap, fwActivate_swaps hok hme hswap⟩
  · rw [fwCommit_goes h]
    exact ⟨fun hlt => congrArg _ (if_pos hlt), fun hge => congrArg _ ((if_neg (Nat.not_lt.mpr hge)).trans (hin.finish_of (by rfl) (by rfl) _ _))⟩
  · exact fwQuery_reports hin hp
  · exact ⟨debugUnlock_refused hp hm hin, debugUnlock_grants hp hm hin, debugUnlock_zeroises hp hin⟩
  · refine ⟨lifecycle_provisions hp hin, fun hl h2 => ?_, lifecycle_repairs hp hin, lifecycle_rma_refused hp hin⟩
    rw [lifecycle_produces hp hin hl h2]
    exact ⟨fun ht => congrArg _ (if_neg (by rw [ht]; decide)), fun ht => congrArg _ (if_pos (by rw [ht]; decide))⟩
  · exact ⟨measureExtend_refused hin, measureExtend_extends hin hp hbs⟩
  · refine ⟨ownerSet_full hin hp hl, fun h htok hkey => ?_⟩
    rw [ownerSet_read hin hp hl h htok hkey]
    exact ⟨fun hok => congrArg _ (if_pos hok), fun hno => congrArg _ (if_neg hno)⟩
  · refine ⟨fun hact htaken => ⟨fun hturn hw => cpHandover_writes hact htaken hturn hw,
      fun hswap hh hw => cpHandover_takes_cp hact htaken (.inl ⟨hswap, hh⟩) hw hh,
      fun hswap hh hl hw n cid q c ha hq hc => cpHandover_takes_management hact htaken (.inr ⟨hswap, hh, hl⟩) hw hh ha hq hc⟩,
      fun n cid q c ha hq hc hswap => ⟨swapTimeout_early, swapTimeout_fails ha hq hc hswap⟩, fun hpower hready => ⟨boot_boots hpower hready, boot_empty hpower hready⟩,
      bootTimeout_fails, powerLoss_keeps s⟩
end Sys2Proof.Machine

namespace Sys2Proof.Machine
open Sys2Proof

/-! A hart's turn at its queues (R65, R72, R87). -/

theorem State.modQueue_some {s : State} {n : Nat} {q : HostQueue} (h : tget s.queues n = some q) (f : HostQueue → HostQueue) :
    s.modQueue n f = { s with queues := tset s.queues n (f q) } := by
  rw [State.modQueue, h]

theorem State.boundary_memoryOnly (s : State) (n : Nat) : MemoryOnly s (s.boundary n) := by
  unfold State.boundary
  dsimp only
  split
  · exact MemoryOnly.refl s
  · exact (((MemoryOnly.put s _ _).trans (MemoryOnly.put _ _ _)).trans (MemoryOnly.put _ _ _)).trans (State.putTables_memoryOnly _ _)

/-- A command boundary writes in the handover region alone (log 11). -/
theorem State.boundary_mget (s : State) (n x : Nat) (hx : x < 0xBF00000000) : mget (s.boundary n).mem x = mget s.mem x := by
  have hat : x < handoverAt (n % 8) := by unfold handoverAt; omega
  unfold State.boundary
  dsimp only
  split
  · rfl
  · rw [State.putTables_mget _ _ _ (by omega), State.put_mget_ne _ _ _ _ (.inl (by omega)), State.put_mget_ne _ _ _ _ (.inl (by omega)),
      State.put_mget_ne _ _ _ _ (.inl hat)]

/-- The end of a queue's turn: its hart's block is rewritten, and the next turn is due where a queue has something. -/
def State.turnOver (s : State) (h n : Nat) : State :=
  let s := s.boundary n
  if (s.turnQueue h).isSome then s.later .submissionFetch { Input.none with queue := n } else s

theorem State.turnOver_keeps {β : Type} (π : State → β) (hπ : ∀ (s : State) m ws, π { s with mem := m, work := ws } = π s) (s : State) (h n : Nat) :
    π (s.turnOver h n) = π s := by
  obtain ⟨m, hm⟩ := s.boundary_memoryOnly n
  unfold State.turnOver
  rw [hm]
  dsimp only
  split
  · exact hπ s m _
  · exact hπ s m s.work

theorem State.turnOver_mget (s : State) (h n x : Nat) (hx : x < 0xBF00000000) : mget (s.turnOver h n).mem x = mget s.mem x := by
  unfold State.turnOver
  dsimp only
  split <;> exact s.boundary_mget n x hx

theorem State.turnQueue_some {s : State} {h n : Nat} {q : HostQueue} (ht : s.turnQueue h = some (n, q)) :
    tget s.queues n = some q ∧ n % 8 = h % 8 ∧ s.servable n q = true := by
  obtain ⟨k, -, hk⟩ := List.exists_of_findSome?_eq_some ht
  obtain ⟨p, hp, hp'⟩ := Option.bind_eq_some_iff.mp hk
  split at hp'
  next hs =>
    simp only [Option.some.injEq, Prod.mk.injEq] at hp'
    obtain ⟨rfl, rfl⟩ := hp'
    exact ⟨hp, by omega, hs⟩
  · cases hp'

theorem State.servable_open {s : State} {n : Nat} {q : HostQueue} (h : s.servable n q = true) :
    q.stopped = false ∧ q.deleting = false ∧ s.mbx.swap = false ∧ q.full = false := by
  unfold State.servable at h
  simp only [Bool.and_eq_true, Bool.not_eq_true', Bool.or_eq_false_iff] at h
  obtain ⟨⟨⟨⟨⟨⟨hstop, hdel⟩, hswap⟩, -⟩, hfull⟩, -⟩, -⟩ := h
  exact ⟨hstop, hdel, hswap, hfull⟩

/-! An entry started, or refused (R64-R67). -/

/-- The state in which a command has begun: it is the last of its queue's started ones, and its operands are in hand. -/
def State.begun (s : State) (n : Nat) (q : HostQueue) (v sqhd : Nat) : State :=
  { s with
    queues := tset s.queues n { q with started := q.started ++ [startedFrom s.cmdSeq v sqhd] }
    inp := { Input.none with queue := n, n := s.cmdSeq, slot := v / 2 ^ 64 % 64, bytes := bytesOf 48 (v / 2 ^ 128) }
    cmdSeq := s.cmdSeq + 1 }

section
variable {s : State} {n : Nat} {q : HostQueue} (hq : tget s.queues n = some q) {v : Nat} (sqhd : Nat)
include hq

theorem State.startEntry_starts (hst : s.entryStatus n v = 0) {what : Instr} {adm : Bool} (hcmd : commandOf (v % 2 ^ 16) = some (what, adm))
    (hp : what ≠ .preempt) (hr : what ≠ .resume) : s.startEntry n v sqhd = (s.begun n q v sqhd).soon what (s.begun n q v sqhd).inp := by
  have hst' : (s.begun n q v sqhd).entryStatus n v = 0 := hst
  unfold State.startEntry
  dsimp only
  rw [State.modQueue_some hq]
  show (if (s.begun n q v sqhd).entryStatus n v ≠ 0 then _ else _) = _
  rw [hst', if_neg (by decide), hcmd]
  dsimp only
  rw [if_neg hp, if_neg hr]
  rfl

theorem State.startEntry_refuses (hst : s.entryStatus n v ≠ 0) (hnew : ∀ d ∈ q.started, d.uid ≠ s.cmdSeq) :
    s.startEntry n v sqhd = finished { q with started := q.started ++ [startedFrom s.cmdSeq v sqhd] } (startedFrom s.cmdSeq v sqhd)
      (s.begun n q v sqhd) (s.entryStatus n v) 0 := by
  have hin : InProgress (s.begun n q v sqhd) { q with started := q.started ++ [startedFrom s.cmdSeq v sqhd] } (startedFrom s.cmdSeq v sqhd) := by
    refine ⟨tget_tset_self _ _ _, ?_⟩
    have hnone : q.started.find? (fun c => c.uid == s.cmdSeq) = none :=
      List.find?_eq_none.mpr (fun d hd => by simpa using hnew d hd)
    show (q.started ++ [startedFrom s.cmdSeq v sqhd]).find? (fun c => c.uid == s.cmdSeq) = _
    rw [List.find?_append, hnone]
    simp [startedFrom]
  rw [← hin.finish]
  unfold State.startEntry
  dsimp only
  rw [State.modQueue_some hq]
  exact if_pos hst

omit hq in
theorem startedFrom_erase (hnew : ∀ d ∈ q.started, d.uid ≠ s.cmdSeq) :
    (q.started ++ [startedFrom s.cmdSeq v sqhd]).erase (startedFrom s.cmdSeq v sqhd) = q.started := by
  rw [List.erase_append_right]
  · simp
  · exact fun hmem => hnew _ hmem rfl
end

/-! SUBMISSION_FETCH. -/

/-- The state in which the head of the queue whose turn it is has moved on. -/
def State.headMoved (s : State) (n : Nat) (q : HostQueue) : State :=
  { s.park.modHart (s.inp.queue % 8) (fun t => { t with served := n / 8 }) with
    queues := tset s.park.queues n { q with sqHead := (q.sqHead + 1) % 2 ^ q.log2 } }

/-- The state in which the entry at that head has been read. -/
def State.headRead (s : State) (n : Nat) (q : HostQueue) : State := (s.headMoved n q).countRead (q.sq + 64 * q.sqHead) 64

theorem State.headRead_keeps (s : State) (n : Nat) (q : HostQueue) :
    tget (s.headRead n q).queues n = some { q with sqHead := (q.sqHead + 1) % 2 ^ q.log2 } ∧ (s.headRead n q).cmdSeq = s.cmdSeq ∧
      (s.headRead n q).agenda = s.agenda ∧ (s.headRead n q).mem = s.mem ∧ (s.headRead n q).cores = s.park.cores ∧
      ∀ v, (s.headRead n q).entryStatus n v = s.park.entryStatus n v := by
  have hseq : s.park.cmdSeq = s.cmdSeq := (congrArg State.cmdSeq s.park_frame :)
  unfold State.headRead State.countRead State.wakeHome State.headMoved State.modHart State.entryStatus
  dsimp only
  exact ⟨tget_tset_self _ _ _, hseq, s.park_agenda, s.park_mem, rfl, fun v => rfl⟩

section
variable {s : State} {n : Nat} {q : HostQueue} {v : Nat} (ht : s.park.turnQueue (s.inp.queue % 8) = some (n, q)) (hf : q.fenced = none)
  (hread : s.readPhys (q.sq + 64 * q.sqHead) 64 = .ok v) (hbit : v.testBit 32 = false)
include ht hf hread hbit

theorem submissionFetch_reads :
    exec .submissionFetch s = .next (((s.headRead n q).startEntry n v ((q.sqHead + 1) % 2 ^ q.log2)).turnOver (s.inp.queue % 8) n) := by
  obtain ⟨hq, -, -⟩ := State.turnQueue_some ht
  have hlow : (v / 2 ^ 32).testBit 0 = false := by rw [Nat.testBit_div_two_pow]; exact hbit
  have hmoved : (s.park.modHart (s.inp.queue % 8) (fun t => { t with served := n / 8 })).modQueue n
      (fun q' => { q' with sqHead := (q.sqHead + 1) % q.size }) = s.headMoved n q := by
    rw [State.modQueue_some (q := q) (by exact hq)]
    rfl
  have hread' : (s.headMoved n q).readPhys (q.sq + 64 * q.sqHead) 64 = .ok v := (s.park_sameMemory.readPhys _ _).trans hread
  rw [show exec .submissionFetch s = execSubmissionFetch s from rfl, execSubmissionFetch]
  dsimp only
  rw [ht]
  dsimp only
  rw [hf]
  dsimp only
  rw [hmoved, hread']
  dsimp only
  rw [if_neg (by rw [hlow]; simp)]
  rfl

/-- The entry's command begins, as the next step. -/
theorem submissionFetch_starts (hst : s.park.entryStatus n v = 0) {what : Instr} {adm : Bool} (hcmd : commandOf (v % 2 ^ 16) = some (what, adm))
    (hp : what ≠ .preempt) (hr : what ≠ .resume) :
    let head := (q.sqHead + 1) % 2 ^ q.log2
    let c := startedFrom s.cmdSeq v head
    ∃ t, exec .submissionFetch s = .next t ∧ tget t.queues n = some { q with sqHead := head, started := q.started ++ [c] } ∧
      t.agenda = todo what { Input.none with queue := n, n := s.cmdSeq, slot := c.ctx, bytes := bytesOf 48 (v / 2 ^ 128) } :: s.agenda ∧
      (∀ a, a < 0x000000BF00000000 → mget t.mem a = mget s.mem a) ∧ t.cores = s.park.cores := by
  dsimp only
  rw [submissionFetch_reads ht hf hread hbit]
  obtain ⟨hq, hseq, hagenda, hmem, hcores, hstatus⟩ := s.headRead_keeps n q
  generalize s.headRead n q = u at *
  rw [State.startEntry_starts hq _ ((hstatus v).trans hst) hcmd hp hr, ← hseq, ← hagenda, ← hmem, ← hcores]
  refine ⟨_, rfl, ?_, ?_, fun a ha => ?_, ?_⟩
  · rw [State.turnOver_keeps State.queues (fun _ _ _ => rfl)]
    exact tget_tset_self _ _ _
  · rw [State.turnOver_keeps State.agenda (fun _ _ _ => rfl)]
    rfl
  · rw [State.turnOver_mget _ _ _ _ ha]
    rfl
  · rw [State.turnOver_keeps State.cores (fun _ _ _ => rfl)]
    rfl

/-- The entry's command ends at once, with what is wrong with it. -/
theorem submissionFetch_refuses (hst : s.park.entryStatus n v ≠ 0) (hnew : ∀ d ∈ q.started, d.uid ≠ s.cmdSeq) :
    let head := (q.sqHead + 1) % 2 ^ q.log2
    ∃ t, exec .submissionFetch s = .next t ∧
      tget t.queues n = some { q with
        sqHead := head
        ready := q.ready ++ [{ cid := v / 2 ^ 16 % 2 ^ 16, sqhd := head, status := s.park.entryStatus n v, result := 0 }] } ∧
      t.agenda = s.agenda ∧ ∀ a, a < 0x000000BF00000000 → mget t.mem a = mget s.mem a := by
  dsimp only
  rw [submissionFetch_reads ht hf hread hbit]
  obtain ⟨hq, hseq, hagenda, hmem, -, hstatus⟩ := s.headRead_keeps n q
  generalize s.headRead n q = u at *
  rw [← hstatus v] at hst ⊢
  rw [← hseq] at hnew
  rw [State.startEntry_refuses hq _ hst hnew, ← hagenda, ← hmem]
  refine ⟨_, rfl, ?_, ?_, fun a ha => ?_⟩
  · rw [State.turnOver_keeps State.queues (fun _ _ _ => rfl)]
    refine (tget_tset_self _ _ _).trans ?_
    rw [startedFrom_erase (q := q) _ hnew]
    rfl
  · rw [State.turnOver_keeps State.agenda (fun _ _ _ => rfl)]
    rfl
  · rw [State.turnOver_mget _ _ _ _ ha]
    rfl
end
end Sys2Proof.Machine

namespace Sys2Proof.Machine
open Sys2Proof

/-! COMMAND_COMPLETION (R64, R65). -/

theorem mem_sectorsOf_aligned {pa n g : Nat} (hpa : pa % 16 = 0) (hn : n % 16 = 0) (hg : g ∈ sectorsOf pa n) : pa ≤ 16 * g ∧ 16 * g + 16 ≤ pa + n := by
  unfold sectorsOf granulesOf at hg
  split at hg
  · cases hg
  · obtain ⟨k, hk, rfl⟩ := List.mem_map.mp hg
    have hk' := List.mem_range.mp hk
    omega

/-- Whole sectors are written where memory is there, poisoned or not (R15). -/
theorem State.writePhys_aligned (s : State) (pa : Nat) (bs : List Byte) (hm : inMemory pa bs.length = true) (hp : s.portDown pa = false)
    (hpa : pa % 16 = 0) (hn : bs.length % 16 = 0) : ∃ t, s.writePhys pa bs = .ok t := by
  unfold State.writePhys
  dsimp only
  rw [if_neg (by simp [hm]), if_neg (by simp [hp]), if_neg]
  · exact ⟨_, rfl⟩
  · rw [List.any_eq_true]
    rintro ⟨g, hg, hbad⟩
    obtain ⟨hlow, hhigh⟩ := mem_sectorsOf_aligned hpa hn hg
    simp only [Bool.and_eq_true, Bool.or_eq_true, decide_eq_true_eq] at hbad
    omega

/-- What a notify write leaves: the hosts' memory and the log may differ. -/
theorem State.notified_keeps {β : Type} (π : State → β) (hπ : ∀ (s : State) m l, π { s with hostMem := m, log := l } = π s) (s : State) (q : HostQueue) :
    π (s.notified q) = π s := by
  unfold State.notified
  split
  · rfl
  · split
    · exact hπ s s.hostMem _
    · exact hπ s _ s.log

/-- A completion written where memory takes its entry: the entry, and the queue's next slot and phase. -/
theorem State.writeCompletion_writes {s : State} {n : Nat} {q u : HostQueue} {c : Completion} (hu : tget s.queues n = some u)
    (hm : inMemory (q.cq + 16 * q.cqTail) 16 = true) (hp : s.portDown (q.cq + 16 * q.cqTail) = false) (ha : (q.cq + 16 * q.cqTail) % 16 = 0) :
    let tail := (q.cqTail + 1) % 2 ^ q.log2
    (s.writeCompletion n q c).mem = mstore s.mem (q.cq + 16 * q.cqTail) (entryBytes c q.phase) ∧
      (s.writeCompletion n q c).queues = tset s.queues n { u with cqTail := tail, phase := if tail = 0 then !u.phase else u.phase } := by
  have hlen : (c.bytes q.phase).length = 16 := by simp [Completion.bytes]
  obtain ⟨t, ht⟩ := s.writePhys_aligned (q.cq + 16 * q.cqTail) (c.bytes q.phase) (by rw [hlen]; exact hm) hp ha (by rw [hlen])
  obtain ⟨-, -, hmem, hframe⟩ := State.writePhys_ok _ _ _ _ ht
  have hqs : t.queues = s.queues := (congrArg State.queues hframe :)
  have hwrote : s.writeCompletion n q c = (t.modQueue n (fun u => { u with
      cqTail := (q.cqTail + 1) % q.size, phase := if (q.cqTail + 1) % q.size = 0 then !u.phase else u.phase })).notified q := by
    rw [State.writeCompletion, ht]
    rfl
  rw [hwrote, State.notified_keeps State.mem (fun _ _ _ => rfl), State.notified_keeps State.queues (fun _ _ _ => rfl),
    State.modQueue_some (q := u) (by rw [hqs]; exact hu), hqs]
  exact ⟨hmem, rfl⟩

/-- The oldest completion of a queue is written, and a turn at the queue is due. -/
theorem commandCompletion_writes {s : State} {q : HostQueue} {c : Completion} {r : List Completion} (hi : s.inp.addr = 0)
    (hq : tget s.queues s.inp.queue = some q) (hr : q.ready = c :: r) (hstop : q.stopped = false) (hfull : q.full = false)
    (ha : (q.cq + 16 * q.cqTail) % 16 = 0) (hm : inMemory (q.cq + 16 * q.cqTail) 16 = true) (hp : s.portDown (q.cq + 16 * q.cqTail) = false) :
    let a := q.cq + 16 * q.cqTail
    let tail := (q.cqTail + 1) % 2 ^ q.log2
    ∃ t, exec .commandCompletion s = .next t ∧
      (∀ x, x < 0x000000BF00000000 → mget t.mem x = mget (mstore s.mem a (entryBytes c q.phase)) x) ∧
      tget t.queues s.inp.queue = some { q with ready := r, cqTail := tail, phase := if tail = 0 then !q.phase else q.phase } := by
  dsimp only
  have hqs : s.park.queues = s.queues := (congrArg State.queues s.park_frame :)
  have hq' : tget s.park.queues s.inp.queue = some q := by rw [hqs]; exact hq
  rw [show exec .commandCompletion s = execCommandCompletion s from rfl, execCommandCompletion]
  dsimp only
  rw [if_neg (by rw [s.park_inp]; simp [hi]), hq']
  dsimp only
  rw [hr]
  dsimp only
  rw [hstop, if_neg (by decide), hfull, if_neg (by decide), State.modQueue_some hq']
  generalize hu : ({ s.park with queues := tset s.park.queues s.inp.queue { q with ready := r } } : State) = u
  have uq : tget u.queues s.inp.queue = some { q with ready := r } := by rw [← hu]; exact tget_tset_self _ _ _
  have ummem : u.mem = s.mem := by rw [← hu]; exact s.park_mem
  have uport : u.portDown (q.cq + 16 * q.cqTail) = false := by
    rw [← hu]
    exact (s.park_sameMemory.portDown _).trans hp
  obtain ⟨wmem, wqs⟩ := State.writeCompletion_writes (c := c) uq hm uport ha
  generalize u.writeCompletion s.inp.queue q c = w at *
  obtain ⟨v, hv, vmem, vqs⟩ : ∃ v : State, (if r.isEmpty = true then w else w.later .commandCompletion { Input.none with queue := s.inp.queue }) = v ∧
      v.mem = w.mem ∧ v.queues = w.queues := by
    refine ⟨_, rfl, ?_⟩
    split <;> exact ⟨rfl, rfl⟩
  rw [hv]
  obtain ⟨m, hb⟩ := v.boundary_memoryOnly s.inp.queue
  refine ⟨_, rfl, fun x hx => ?_, ?_⟩
  · show mget (v.boundary s.inp.queue).mem x = _
    rw [v.boundary_mget _ x hx, vmem, wmem, ummem]
  · rw [hb]
    show tget v.queues s.inp.queue = _
    rw [vqs, wqs, tget_tset_self]
    congr 2
end Sys2Proof.Machine

namespace Sys2Proof.Machine
open Sys2Proof

/-! MAILBOX_WRITE (R61, R63, R37). -/

/-- A write finds room in the mailbox's input queue. -/
theorem State.mbxArrive_room {s : State} (h : s.mbx.input.length < 256) (w : MbxWrite) :
    ∃ u, s.mbxArrive w = some u ∧ u.mbx.input = s.mbx.input ++ [w] ∧ u.fabric = s.fabric ∧ u.mem = s.mem := by
  rw [State.mbxArrive, if_neg (Nat.not_le.mpr h)]
  dsimp only
  refine ⟨_, rfl, ?_⟩
  split <;> exact ⟨rfl, rfl, rfl⟩

theorem Responded.packet {s t : State} {q : Packet} {op addr : Nat} {data : List Byte} (h : Responded s t q op addr data) :
    ∃ p : Packet, t.fabric.sent = s.fabric.sent ++ [p] ∧ p.op = op ∧ p.dst = q.src ∧ p.sseq = q.sseq := ⟨_, h, rfl, rfl, rfl⟩

section
variable {s : State} (hpower : s.power ≠ .p4) (hhost : s.fromHost s.inp.pkt = true) (hmbx : inMbx s.inp.pkt.addr = true)
  (hlen : s.inp.pkt.data.length = 8) (halign : s.inp.pkt.addr % 8 = 0) (hnew : ∀ e ∈ s.windowOf s.inp.pkt.src, e.sseq ≠ s.inp.pkt.sseq)
  (hroom : (s.windowOf s.inp.pkt.src).length < 4096)
include hpower hhost hmbx hlen halign hnew hroom

theorem mailboxWrite_reply : exec .mailboxWrite s = .next (s.park.replied s.inp.pkt (
    if (!s.park.earlierDone s.inp.pkt) = true then .retry
    else match s.park.mbxArrive { off := s.inp.pkt.addr - mbxBase, data := w64 (valueOf s.inp.pkt.data) } with
      | some s => ackReply s
      | none => .retry)) := by
  have hfresh : s.park.Fresh s.inp.pkt := FreshRequest.park ⟨hpower, hnew, hroom⟩
  rw [show exec .mailboxWrite s = execMailboxWrite s from rfl, execMailboxWrite]
  rw [State.whenAwake_awake hpower, State.takeIn_fresh hfresh, fromHost_park, hhost, hmbx, if_neg (by decide), State.mbxReply]
  exact congrArg (fun r => Host.Outcome.next (s.park.replied s.inp.pkt r)) (if_neg (by simp [hlen, halign]))

/-- A write that earlier requests of its adapter are to come before is tried again. -/
theorem mailboxWrite_retries (hdone : s.park.earlierDone s.inp.pkt = false) :
    ∃ (t : State) (p : Packet), exec .mailboxWrite s = .next t ∧ t.mbx = s.mbx ∧
      t.fabric.sent = s.fabric.sent ++ [p] ∧ p.op = opRetryLater ∧ p.dst = s.inp.pkt.src ∧ p.sseq = s.inp.pkt.sseq := by
  rw [mailboxWrite_reply hpower hhost hmbx hlen halign hnew hroom, hdone, if_pos (by decide)]
  obtain ⟨hsent, hframe⟩ := s.park.answer_retryLater s.inp.pkt
  obtain ⟨p, hp⟩ := hsent.packet
  rw [s.park_fabric] at hp
  exact ⟨_, p, rfl, (congrArg State.mbx hframe :).trans s.park_mbx, hp⟩

/-- A write that is the next of its adapter's is queued and acknowledged. -/
theorem mailboxWrite_queues (hdone : s.park.earlierDone s.inp.pkt = true) (hin : s.mbx.input.length < 256) :
    ∃ (t : State) (p : Packet), exec .mailboxWrite s = .next t ∧
      t.mbx.input = s.mbx.input ++ [{ off := s.inp.pkt.addr - mbxBase, data := w64 (valueOf s.inp.pkt.data) }] ∧
      t.fabric.sent = s.fabric.sent ++ [p] ∧ p.op = 0x11 ∧ p.dst = s.inp.pkt.src ∧ p.sseq = s.inp.pkt.sseq ∧
      ∀ a, a < winBase → mget t.mem a = mget s.mem a := by
  have hfresh : s.park.Fresh s.inp.pkt := FreshRequest.park ⟨hpower, hnew, hroom⟩
  obtain ⟨u, hu, uinput, ufabric, umem⟩ := State.mbxArrive_room (s := s.park) (by rw [s.park_mbx]; exact hin)
    { off := s.inp.pkt.addr - mbxBase, data := w64 (valueOf s.inp.pkt.data) }
  rw [s.park_mbx] at uinput
  rw [s.park_fabric] at ufabric
  rw [s.park_mem] at umem
  have ufresh : u.Fresh s.inp.pkt := hfresh.of_windows (by rw [ufabric, s.park_fabric])
  rw [mailboxWrite_reply hpower hhost hmbx hlen halign hnew hroom, hdone, if_neg (by decide), hu]
  obtain ⟨hsent, -, -, hmem, hframe⟩ := State.answer_answeredFrom ufresh opAck 0 []
  obtain ⟨p, hp⟩ := hsent.packet
  rw [ufabric] at hp
  obtain ⟨hsent, hop, hdst, hseq⟩ := hp
  have hbox : (u.answer s.inp.pkt .done opAck 0 []).mbx = u.mbx := (congrArg State.mbx hframe :)
  refine ⟨_, p, rfl, ?_, hsent, hop, hdst, hseq, fun a ha => ?_⟩
  · rw [← uinput, ← hbox]
    rfl
  · rw [← umem]
    exact hmem a (.inl (by unfold windowAt; omega))
end
end Sys2Proof.Machine

namespace Sys2Proof.Machine
open Sys2Proof

/-! Doorbells and ADMCTL (R62). -/

/-- A write of the mailbox's queue that is served leaves the queue, and nothing else changes. -/
theorem State.served_keeps {β : Type} (π : State → β) (hπ : ∀ (s : State) l, π { s with mbx := { s.mbx with input := l } } = π s) (s : State) :
    π s.served = π s := by
  unfold State.served
  split
  · exact hπ s _
  · rfl

theorem State.served_queues (s : State) : s.served.queues = s.queues := s.served_keeps State.queues (fun _ _ => rfl)
theorem State.served_work (s : State) : s.served.work = s.work := s.served_keeps State.work (fun _ _ => rfl)
theorem State.served_qerr (s : State) : s.served.mbx.qerr = s.mbx.qerr := s.served_keeps (fun s => s.mbx.qerr) (fun _ _ => rfl)

section
variable {s : State} {q : HostQueue} (hq : tget s.queues s.inp.queue = some q)
include hq

section
variable (hn : s.inp.n < 2 ^ q.log2)
include hn

theorem sqdb_moves :
    ∃ t, exec .sqdb s = .next t ∧ t.queues = tset s.queues s.inp.queue { q with sqTail := s.inp.n } ∧
      t.work = s.work ++ [todo .submissionFetch { Input.none with queue := s.inp.queue }] ∧ t.mbx.qerr = s.mbx.qerr := by
  have hq' : tget s.served.queues s.inp.queue = some q := by rw [s.served_queues]; exact hq
  rw [show exec .sqdb s = execSqdb s from rfl, execSqdb]
  dsimp only
  rw [hq']
  dsimp only
  rw [if_neg (by exact Nat.not_le.mpr hn), State.modQueue_some hq']
  refine ⟨_, rfl, ?_, ?_, s.served_qerr⟩
  · rw [← s.served_queues]
    rfl
  · rw [← s.served_work]
    rfl

theorem cqdb_moves :
    ∃ t, exec .cqdb s = .next t ∧ t.queues = tset s.queues s.inp.queue { q with cqHead := s.inp.n } ∧ t.mbx.qerr = s.mbx.qerr := by
  have hq' : tget s.served.queues s.inp.queue = some q := by rw [s.served_queues]; exact hq
  rw [show exec .cqdb s = execCqdb s from rfl, execCqdb]
  dsimp only
  rw [hq']
  dsimp only
  rw [if_neg (by exact Nat.not_le.mpr hn), State.modQueue_some hq']
  refine ⟨_, rfl, ?_, s.served_qerr⟩
  rw [← s.served_queues]
  rfl
end

/-- A doorbell beyond its ring is rejected. -/
theorem doorbells_reject (hn : 2 ^ q.log2 ≤ s.inp.n) {x : Instr} (hx : x ∈ [Instr.sqdb, Instr.cqdb]) :
    ∃ t, exec x s = .next t ∧ t.queues = s.queues ∧ t.mbx.qerr = s.mbx.qerr ||| w64 (2 ^ (s.inp.queue % 64)) := by
  have hq' : tget s.served.queues s.inp.queue = some q := by rw [s.served_queues]; exact hq
  have hnext : exec x s = .next (s.served.rejectDoorbell s.inp.queue) := by
    simp only [List.mem_cons, List.not_mem_nil, or_false] at hx
    obtain rfl | rfl := hx
    · rw [show exec .sqdb s = execSqdb s from rfl, execSqdb]
      dsimp only
      rw [hq']
      exact congrArg Host.Outcome.next (if_pos hn)
    · rw [show exec .cqdb s = execCqdb s from rfl, execCqdb]
      dsimp only
      rw [hq']
      exact congrArg Host.Outcome.next (if_pos hn)
  refine ⟨_, hnext, s.served_queues, ?_⟩
  rw [← s.served_qerr]
  rfl
end

theorem admctlBind_binds (s : State) :
    ∃ t, exec .admctlBind s = .next t ∧ (s.mbx.ready = true → s.mbx.admen = false → t.mbx.admen = true ∧ t.queues = tset s.queues 0
        (HostQueue.fresh s.mbx.admsq s.mbx.admcq s.mbx.admsize s.mbx.admnotn s.mbx.admnota s.mbx.admnotd)) ∧
      (s.mbx.ready = false ∨ s.mbx.admen = true → t.queues = s.queues ∧ t.mbx.admen = s.mbx.admen) := by
  have hready : s.served.mbx.ready = s.mbx.ready := s.served_keeps (fun s => s.mbx.ready) (fun _ _ => rfl)
  have hadmen : s.served.mbx.admen = s.mbx.admen := s.served_keeps (fun s => s.mbx.admen) (fun _ _ => rfl)
  have hfresh := s.served_keeps (fun s => HostQueue.fresh s.mbx.admsq s.mbx.admcq s.mbx.admsize s.mbx.admnotn s.mbx.admnota s.mbx.admnotd) (fun _ _ => rfl)
  rw [show exec .admctlBind s = execAdmctlBind s from rfl, execAdmctlBind]
  dsimp only at hfresh ⊢
  refine ⟨_, rfl, fun hr ha => ?_, fun h => ?_⟩
  · rw [if_neg (by simp [hready, hadmen, hr, ha]), ← hfresh, ← s.served_queues]
    exact ⟨rfl, rfl⟩
  · rw [if_pos (by simpa [hready, hadmen] using h)]
    exact ⟨s.served_queues, hadmen⟩

theorem admctlUnbind_unbinds {s : State} (h : s.mbx.admen = true) :
    ∃ t, exec .admctlUnbind s = .next t ∧ t.mbx.unbinding = true ∧ t.queues = s.queues ∧
      t.work = s.work ++ [todo .adminQueueUnbindDone Input.none] := by
  have hadmen : s.served.mbx.admen = s.mbx.admen := s.served_keeps (fun s => s.mbx.admen) (fun _ _ => rfl)
  rw [show exec .admctlUnbind s = execAdmctlUnbind s from rfl, execAdmctlUnbind]
  dsimp only
  rw [hadmen, h, if_neg (by decide), ← s.served_queues, ← s.served_work]
  exact ⟨_, rfl, rfl, rfl, rfl⟩

theorem adminQueueUnbindDone_done {s : State} {q : HostQueue} (hq : tget s.queues 0 = some q) (hu : s.mbx.unbinding = true)
    (hs : q.started = []) (hr : q.ready = []) :
    exec .adminQueueUnbindDone s =
      .next { s with mbx := { s.mbx with admen := false, unbinding := false }, queues := tdel s.queues 0 } := by
  rw [show exec .adminQueueUnbindDone s = execAdminQueueUnbindDone s from rfl, execAdminQueueUnbindDone]
  rw [hu, if_neg (by decide), hq, if_pos (by simp [hs, hr])]
end Sys2Proof.Machine

namespace Sys2Proof.Machine
open Sys2Proof

/-! REGISTER_WRITE (R54, R57, R61, R68, R70). -/

theorem portPlace_mailbox {off : Nat} : portPlace (mbxBase + off) = none := by
  unfold portPlace portBase mbxBase
  exact if_neg (by omega)

theorem portPlace_page {c off : Nat} (hc : c < 512) (ho : off < 0x2000) : portPlace (portBase + 0x2000 * c + off) = some (c, off) := by
  unfold portPlace portBase
  rw [if_pos (by omega)]
  simp only [Option.some.injEq, Prod.mk.injEq]
  omega

theorem mbxTodo_plain {off : Nat} (ho : off < 0x1000) (hne : off ≠ 0x48) (d : Word) :
    (mbxTodo { off := off, data := d }).what = .registerWrite := by
  unfold mbxTodo
  dsimp only
  rw [if_neg hne, if_neg (by omega)]

/-- A plain register of the mailbox written. -/
theorem State.windowWrite_mailbox (s : State) {off : Nat} (ho : off < 0x1000) (h8 : off % 8 = 0) (hne : off ≠ 0x48) (d : Word) :
    s.windowWrite (mbxBase + off) d = some { s with mbx := s.mbx.write off d } := by
  have hmod : (mbxBase + off) % 8 = 0 := by unfold mbxBase; omega
  have hoff : mbxBase + off - mbxBase = off := Nat.add_sub_cancel_left _ _
  unfold State.windowWrite
  rw [if_neg (fun h => h.2 hmod), portPlace_mailbox]
  dsimp only
  rw [if_neg (by unfold hmBase mbxBase; omega), if_pos (by unfold mbxBase; omega), hoff, mbxTodo_plain ho hne, if_pos rfl]

/-- A register of a core's page written, where no TLBINV of it has still to complete. -/
theorem State.windowWrite_page (s : State) {c : Nat} (hc : c < 512) (hk : (s.getCore c).invalidating = none) (d : Word) :
    s.windowWrite (portBase + 0x2000 * c) d = some (s.writePort c 0 d) := by
  have hplace := portPlace_page (off := 0) hc (by decide)
  rw [Nat.add_zero] at hplace
  unfold State.windowWrite
  rw [if_neg (by unfold portBase; omega), hplace]
  dsimp only
  rw [State.pageHeld, hk, if_neg (by decide), if_neg (by decide)]

theorem Rv.mayAccess_birqen {r : Rv} : r.mayAccess 0x7C2 true = decide (r.mode = .m) := by
  unfold Rv.mayAccess
  cases r.mode <;> simp [RvMode.code, bitsN]

theorem Rv.mayAccess_read {r : Rv} (hm : r.mode = .m) {idx : Nat} (hlow : 0x180 < idx) (hhigh : idx < 0xC00) : r.mayAccess idx false = true := by
  have hpriv : bitsN idx 9 8 ≤ RvMode.m.code := Nat.le_of_lt_succ (Nat.mod_lt _ (by decide))
  unfold Rv.mayAccess
  rw [hm]
  simp [hpriv]
  omega

theorem State.readCsr_birqen (s : State) (h : Nat) : s.readCsr h 0x7C2 = some (s.hart h).irqEn.toNat := rfl

section
variable {s : State} (hn : s.inp.n = 0)
include hn

theorem registerWrite_window (ha : 0x1000 ≤ s.inp.addr) :
    exec .registerWrite s = .next ((s.park.served.windowWrite s.inp.addr s.inp.data).getD s.park.served) := by
  rw [show exec .registerWrite s = execRegisterWrite s from rfl, execRegisterWrite]
  dsimp only
  rw [if_neg (not_not_intro hn), if_neg (Nat.not_lt.mpr ha)]

/-- A register window written: QERR's bits cleared, ADMSQ while the admin queue is not bound, and VLCAP of a quiesced core. -/
theorem registerWrite_acts (ha : 0x1000 ≤ s.inp.addr) :
    ∃ t, exec .registerWrite s = .next t ∧ (s.inp.addr = mbxBase + 0x28 → t.mbx.qerr = s.mbx.qerr &&& ~~~ s.inp.data) ∧
      (s.inp.addr = mbxBase + 0x10 → s.mbx.admen = false → t.mbx.admsq = s.inp.data.toNat &&& maskOf 51 12) ∧
      (∀ c, c < 512 → s.inp.addr = portBase + 0x2000 * c → (s.park.getCore c).cstate = .quiesced → (s.park.getCore c).invalidating = none →
        (5 ≤ s.inp.data.toNat % 16 ∧ s.inp.data.toNat % 16 ≤ 13 →
          t.getCore c = { s.park.getCore c with vlcap := BitVec.ofNat 4 s.inp.data.toNat }) ∧
        (s.inp.data.toNat % 16 < 5 ∨ 13 < s.inp.data.toNat % 16 → t.getCore c = { s.park.getCore c with cerrVal := true })) := by
  have hadmen : s.park.served.mbx.admen = s.mbx.admen :=
    (s.park.served_keeps (fun s => s.mbx.admen) (fun _ _ => rfl)).trans (by rw [s.park_mbx])
  have hqerr : s.park.served.mbx.qerr = s.mbx.qerr := s.park.served_qerr.trans (by rw [s.park_mbx])
  have hcore (c : Nat) : s.park.served.getCore c = s.park.getCore c := s.park.served_keeps (fun s => s.getCore c) (fun _ _ => rfl)
  rw [registerWrite_window hn ha]
  refine ⟨_, rfl, fun h => ?_, fun h hno => ?_, fun c hc h hst hinv => ?_⟩
  · rw [h, State.windowWrite_mailbox _ (by decide) (by decide) (by decide), ← hqerr]
    rfl
  · rw [h, State.windowWrite_mailbox _ (by decide) (by decide) (by decide)]
    show (s.park.served.mbx.write 0x10 s.inp.data).admsq = _
    rw [Mailbox.write]
    rw [if_neg (by decide), hadmen, hno, if_neg (by decide), if_pos rfl]
  · rw [h, State.windowWrite_page _ hc (by rw [hcore]; exact hinv), Option.getD_some, State.writePort, hcore]
    rw [if_neg (by decide), if_pos (by decide), if_neg (by decide), hst, if_neg (by decide), State.writePriv]
    dsimp only
    rw [if_pos (by decide), hcore]
    refine ⟨fun hv => ?_, fun hv => ?_⟩
    · rw [if_pos hv]
      exact State.getCore_setCore_self _ _ _
    · rw [if_neg (by omega)]
      dsimp only
      rw [State.getCore_setCore_self, ← hst]

/-- BIRQEN, which M mode alone reaches. -/
theorem registerWrite_birqen (ha : s.inp.addr = 0x7C2) :
    ∃ t, exec .registerWrite s = .next t ∧
      ((s.hart s.inp.hart).rv.mode = .m → (t.hart s.inp.hart).irqEn = BitVec.ofNat 6 s.inp.data.toNat) ∧
      (¬ (s.hart s.inp.hart).rv.mode = .m → (t.hart s.inp.hart).irqEn = (s.hart s.inp.hart).irqEn ∧
        (t.hart s.inp.hart).rv = (s.hart s.inp.hart).rv.trap false 2 0) := by
  have hhart : s.park.served.hart s.inp.hart = s.hart s.inp.hart :=
    (s.park.served_keeps (fun t => t.hart s.inp.hart) (fun _ _ => rfl)).trans (congrArg (fun t : State => t.hart s.inp.hart) s.park_frame :)
  rw [show exec .registerWrite s = execRegisterWrite s from rfl, execRegisterWrite]
  dsimp only
  rw [if_neg (not_not_intro hn), if_pos (by rw [ha]; decide), ha, State.hartCsr]
  rw [Rv.mayAccess_birqen, hhart]
  refine ⟨_, rfl, fun hm => ?_, fun hm => ?_⟩
  · rw [decide_eq_true hm, if_neg (by decide), if_pos (by decide), State.hartCsrPut, if_pos (by decide), State.csrWriteRow,
      State.readCsr_birqen]
    dsimp only
    rw [if_pos rfl, hart_modHart]
  · rw [decide_eq_false hm, if_pos (by decide)]
    have htrap := hart_modHart s.park.served s.inp.hart (fun t => { t with rv := t.rv.trap false 2 0 })
    rw [hhart] at htrap
    exact ⟨(congrArg Hart.irqEn htrap :), (congrArg Hart.rv htrap :)⟩
end

/-- A CSR read of a hart in M mode is an instruction of the hart: the value in rd, and the next instruction. -/
theorem registerWrite_reads {s : State} {v : Nat} (hn : s.inp.n = 1) (hh : s.inp.hart < 9) (hm : (s.hart s.inp.hart).rv.mode = .m)
    (hheld : ∀ e ∈ s.portHeld, e.2.what ≠ .registerWrite) (hlow : 0x7C0 ≤ s.inp.addr) (hhigh : s.inp.addr ≤ 0x7FF)
    (hv : s.park.readCsr s.inp.hart s.inp.addr = some v) :
    exec .registerWrite s = .next (s.park.modRv s.inp.hart (fun r => (r.setX s.inp.queue v).retireBy 4)) := by
  have hmod : s.inp.hart % 9 = s.inp.hart := Nat.mod_eq_of_lt hh
  have hpheld : s.park.portHeld = s.portHeld := (congrArg State.portHeld s.park_frame :)
  have hphart : s.park.hart s.inp.hart = s.hart s.inp.hart := (congrArg (fun t : State => t.hart s.inp.hart) s.park_frame :)
  have hnone : s.park.portHeld.find? (fun e => e.2.what == .registerWrite && e.2.inp.n != 0 && e.2.inp.hart % 9 == s.inp.hart) = none := by
    rw [hpheld, List.find?_eq_none]
    intro e he
    simp [hheld e he]
  have hmay : (s.hart s.inp.hart).rv.mayAccess s.inp.addr false = true := Rv.mayAccess_read hm (by omega) (by omega)
  have hcsr : s.park.hartCsr s.inp.hart s.inp.addr false = some v := by
    unfold State.hartCsr
    dsimp only
    rw [hphart, hmay, if_neg (by decide), if_pos ⟨hlow, hhigh⟩, hv]
  rw [show exec .registerWrite s = execRegisterWrite s from rfl, execRegisterWrite]
  dsimp only
  rw [if_pos (by rw [hn]; decide), State.hartStep]
  rw [s.park_inp, hmod, hnone]
  dsimp only
  rw [if_neg (by rw [hn]; decide), if_pos (by rw [hn]; decide)]
  have hev : rvEvent s.inp = .csr s.inp.queue s.inp.addr 2 0 false := by
    unfold rvEvent
    rw [hn]
    rfl
  rw [hev, State.rvPerform]
  dsimp only
  rw [hcsr]
  rfl
end Sys2Proof.Machine

namespace Sys2Proof.Machine
open Sys2Proof

theorem State.submitRecord_full {s : State} {die : Nat} (h : 64 ≤ (s.harbour die).submit.length) (pa : Nat) (dev : Bool) (who : Option Nat) :
    s.submitRecord die pa dev who = none := if_pos h

theorem State.submitRecord_room {s : State} {die : Nat} (h : (s.harbour die).submit.length < 64) (pa : Nat) (dev : Bool) (who : Option Nat) :
    s.submitRecord die pa dev who = some { s with
      harbours := s.harbours.set (die % 4) { s.harbour die with submit := (s.harbour die).submit ++ [(pa, dev, who)] } (Nat.mod_lt _ (by decide))
      work := s.work ++ [todo .hmTakeRecord { Input.none with die := die }] } := if_neg (Nat.not_le.mpr h)

/-! The harts' own operations, which M mode alone has (R57-R60). -/

theorem State.inMachineMode_machine {s : State} {h : Nat} (hm : (s.hart h).rv.mode = .m) (f : State → State) : s.inMachineMode h f = f s := if_pos hm

theorem State.inMachineMode_other {s : State} {h : Nat} (hm : (s.hart h).rv.mode ≠ .m) (f : State → State) : s.inMachineMode h f = s.rvIllegal h :=
  if_neg hm

theorem State.park_hart (s : State) (h : Nat) : s.park.hart h = s.hart h := (congrArg (fun t : State => t.hart h) s.park_frame :)
theorem State.park_harts (s : State) : s.park.harts = s.harts := (congrArg State.harts s.park_frame :)
theorem State.park_contexts (s : State) : s.park.contexts = s.contexts := (congrArg State.contexts s.park_frame :)
theorem State.park_harbours (s : State) : s.park.harbours = s.harbours := (congrArg State.harbours s.park_frame :)

/-- An illegal instruction of a hart changes the hart alone. -/
theorem State.rvIllegal_spec (s : State) (h : Nat) :
    ((s.rvIllegal h).hart h).rv = (s.hart h).rv.trap false 2 0 ∧ (s.rvIllegal h).mem = s.mem ∧ (s.rvIllegal h).contexts = s.contexts ∧
      (s.rvIllegal h).harbours = s.harbours :=
  ⟨congrArg Hart.rv (hart_modHart s h (fun t => { t with rv := t.rv.trap false 2 0 })), rfl, rfl, rfl⟩

section
variable {s : State}

/-- From another mode each is an illegal-instruction exception. -/
theorem hartOperations_illegal (hm : (s.hart s.inp.hart).rv.mode ≠ .m) {x : Instr}
    (hx : x ∈ [Instr.bhmsub, .bfresaResolve, .bfresaFault, .bfltactResume, .bfltactKill, .bwdkick]) :
    ∃ t, exec x s = .next t ∧ (t.hart s.inp.hart).rv = (s.hart s.inp.hart).rv.trap false 2 0 ∧ t.mem = s.mem ∧ t.contexts = s.contexts ∧
      t.harbours = s.harbours := by
  have hmp : (s.park.hart s.inp.hart).rv.mode ≠ .m := by rw [s.park_hart]; exact hm
  have hpark := s.park.rvIllegal_spec s.inp.hart
  rw [s.park_hart, s.park_mem, s.park_contexts, s.park_harbours] at hpark
  simp only [List.mem_cons, List.not_mem_nil, or_false] at hx
  obtain rfl | rfl | rfl | rfl | rfl | rfl := hx
  · exact ⟨_, congrArg Host.Outcome.next (State.inMachineMode_other hmp _), hpark⟩
  · exact ⟨_, congrArg Host.Outcome.next (State.inMachineMode_other hmp _), hpark⟩
  · exact ⟨_, congrArg Host.Outcome.next (State.inMachineMode_other hmp _), hpark⟩
  · exact ⟨_, congrArg Host.Outcome.next (State.inMachineMode_other hm _), s.rvIllegal_spec s.inp.hart⟩
  · exact ⟨_, congrArg Host.Outcome.next (State.inMachineMode_other hm _), s.rvIllegal_spec s.inp.hart⟩
  · exact ⟨_, congrArg Host.Outcome.next (State.inMachineMode_other hm _), s.rvIllegal_spec s.inp.hart⟩


section
variable (hm : (s.hart s.inp.hart).rv.mode = .m)
include hm

/-! BHMSUB and BWDKICK (R57, R58, R85). -/

theorem bhmsub_machine :
    exec .bhmsub s = .next ((s.park.submitRecord (s.inp.hart / 2) (s.inp.addr &&& maskOf 51 9) false none).getD (s.park.refuseHart s.inp.hart)) := by
  refine congrArg Host.Outcome.next ((State.inMachineMode_machine (by rw [s.park_hart]; exact hm) _).trans ?_)
  cases s.park.submitRecord (s.inp.hart / 2) (s.inp.addr &&& maskOf 51 9) false none <;> rfl

theorem bhmsub_queues (hroom : (s.park.harbour (s.inp.hart / 2)).submit.length < 64) :
    ∃ t, exec .bhmsub s = .next t ∧
      (t.harbour (s.inp.hart / 2)).submit = (s.park.harbour (s.inp.hart / 2)).submit ++ [(s.inp.addr &&& maskOf 51 9, false, none)] ∧
      t.harts = s.harts ∧ t.work = s.work ++ [todo .hmTakeRecord { Input.none with die := s.inp.hart / 2 }] := by
  rw [bhmsub_machine hm, State.submitRecord_room hroom]
  refine ⟨_, rfl, ?_, s.park_harts, congrArg (· ++ _) s.park_work⟩
  exact congrArg Harbour.submit (State.harbour_modHarbour s.park (s.inp.hart / 2)
    (fun h => { h with submit := h.submit ++ [(s.inp.addr &&& maskOf 51 9, false, none)] }))

theorem bhmsub_refuses (hfull : 64 ≤ (s.park.harbour (s.inp.hart / 2)).submit.length) :
    ∃ t, exec .bhmsub s = .next t ∧ (t.hart s.inp.hart).ref = true ∧ t.harbours = s.harbours := by
  rw [bhmsub_machine hm, State.submitRecord_full hfull]
  exact ⟨_, rfl, congrArg Hart.ref (hart_modHart s.park s.inp.hart (fun h => { h with ref := true })), s.park_harbours⟩

theorem bwdkick_kicks :
    ∃ t, exec .bwdkick s = .next t ∧ (t.hart s.inp.hart).lastKick = s.time.toNat ∧ (t.hart s.inp.hart).wdw = false ∧ t.mem = s.mem ∧
      t.cores = s.cores := by
  have hhart := hart_modHart s s.inp.hart (fun h => { h with lastKick := s.time.toNat, wdw := false })
  exact ⟨_, congrArg Host.Outcome.next (State.inMachineMode_machine hm _), (congrArg Hart.lastKick hhart :), (congrArg Hart.wdw hhart :), rfl, rfl⟩

end
end

/-! BFRESA (R58, R148). -/

/-- A waiter's notice leaves memory and the harts. -/
theorem State.noticeWaiter_keeps (s : State) (value : Option Word) (w : Nat × Option (Nat × Nat × Record)) :
    (s.noticeWaiter value w).mem = s.mem ∧ (s.noticeWaiter value w).harts = s.harts := by
  unfold State.noticeWaiter
  split
  · exact ⟨rfl, rfl⟩
  · split
    · exact ⟨rfl, rfl⟩
    · have hnet := NetOnly.request { s with fabric := { s.fabric with foreign := tdel s.fabric.foreign w.1 } } (bitsN w.1 45 33) opPager
        ((tget s.fabric.foreign w.1).getD 0 / 2 ^ 48 % 2 ^ 16) ((tget s.fabric.foreign w.1).getD 0 / 2 ^ 48 / 2 ^ 16)
        (bytesOf 1 (bit value.isNone) ++ bytesOf 8 w.1 ++ bytesOf 8 (value.getD 0).toNat) .nothing
      exact ⟨hnet.mem, hnet.harts⟩

/-- A future not yet resolved is resolved or faulted, where memory answers for it: its bytes change, and no others. -/
theorem State.futResolve_writes {s : State} {pa : Nat} (hb : s.bad pa 16 = false) (hst : futSt (mload s.mem pa 8) < 2) (value : Option Word) :
    ∃ t, s.futResolve pa value = (t, true) ∧ t.mem = mstore s.mem pa (futBytes value) ∧ t.harts = s.harts := by
  have hput (bs : List Byte) (hl : bs.length ≤ 16) : ((s.countRead pa 16).putHome pa bs).mem = mstore s.mem pa bs ∧
      ((s.countRead pa 16).putHome pa bs).harts = s.harts := by
    obtain ⟨t, ht⟩ := (s.countRead pa 16).writePhys_of_not_bad pa bs (by rw [(Counted.read s _ _).sameMemory.bad]; exact s.bad_shorter pa hl hb)
    obtain ⟨-, -, hmem, hframe⟩ := State.writePhys_ok _ _ _ _ ht
    have hhome : (s.countRead pa 16).putHome pa bs = t := by rw [State.putHome, ht]; rfl
    rw [hhome]
    exact ⟨hmem, (congrArg State.harts hframe :)⟩
  have hnotice (l : List (Nat × Option (Nat × Nat × Record))) (u : State) :
      (l.foldl (fun t p => t.noticeWaiter value p) u).mem = u.mem ∧ (l.foldl (fun t p => t.noticeWaiter value p) u).harts = u.harts :=
    ⟨foldl_keeps State.mem (fun t p => (t.noticeWaiter_keeps value p).1) l u, foldl_keeps State.harts (fun t p => (t.noticeWaiter_keeps value p).2) l u⟩
  have hpeek : ¬ 2 ≤ futSt (s.peek pa 8) := Nat.not_le.mpr hst
  unfold State.futResolve
  dsimp only
  rw [if_neg hpeek]
  have hbytes : (futBytes value).length ≤ 16 := by cases value <;> simp [futBytes]
  obtain ⟨hmem, hharts⟩ := hput (futBytes value) hbytes
  refine ⟨_, rfl, ?_⟩
  rw [(hnotice _ _).1, (hnotice _ _).2]
  cases value with
  | some v => exact ⟨hmem, hharts⟩
  | none => exact ⟨hmem, hharts⟩

/-- Each is the same of BFRESA but for the value. -/
theorem bfresa_exec {s : State} {x : Instr} (hx : x ∈ [Instr.bfresaResolve, Instr.bfresaFault]) :
    ∃ value, exec x s = .next (s.bfresa s.inp.hart s.inp.addr value) := by
  simp only [List.mem_cons, List.not_mem_nil, or_false] at hx
  obtain rfl | rfl := hx
  · exact ⟨some 0, rfl⟩
  · exact ⟨none, rfl⟩

section
variable {s : State} (hm : (s.hart s.inp.hart).rv.mode = .m) (hin : inMemory (s.inp.addr &&& maskOf 51 4) 16 = true)
include hm hin

theorem bfresa_machine (value : Option Word) :
    s.bfresa s.inp.hart s.inp.addr value =
      let pa := s.inp.addr &&& maskOf 51 4
      if s.park.bad pa 16 = true then (s.park.countRead pa 16).logError 58 pa
      else match s.park.futResolve pa value with
        | (t, true) => t.freePager pa
        | (t, false) => t.modHart s.inp.hart (fun h => { h with dbl := true }) := by
  rw [State.bfresa, State.inMachineMode_machine (by rw [s.park_hart]; exact hm)]
  dsimp only
  rw [hin]
  exact if_neg (by decide)

/-- A future that memory answers as uncorrectable is logged. -/
theorem bfresa_logs (hb : s.bad (s.inp.addr &&& maskOf 51 4) 16 = true) {x : Instr} (hx : x ∈ [Instr.bfresaResolve, Instr.bfresaFault]) :
    ∃ t, exec x s = .next t ∧ t.mem = s.mem ∧ t.harts = s.harts ∧ t.log = s.log ++ [(58, s.inp.addr &&& maskOf 51 4)] := by
  obtain ⟨value, hv⟩ := bfresa_exec hx
  have hb' : s.park.bad (s.inp.addr &&& maskOf 51 4) 16 = true := (s.park_sameMemory.bad _ _).trans hb
  rw [hv, bfresa_machine hm hin]
  dsimp only
  rw [if_pos hb']
  exact ⟨_, rfl, s.park_mem, s.park_harts, congrArg (· ++ _) s.park_log⟩

variable (hb : s.bad (s.inp.addr &&& maskOf 51 4) 16 = false)
include hb

/-- One resolved or faulted before sets DBL. -/
theorem bfresa_again (hst : 2 ≤ futSt (mload s.mem (s.inp.addr &&& maskOf 51 4) 8)) {x : Instr}
    (hx : x ∈ [Instr.bfresaResolve, Instr.bfresaFault]) :
    ∃ t, exec x s = .next t ∧ t.mem = s.mem ∧ (t.hart s.inp.hart).dbl = true := by
  obtain ⟨value, hv⟩ := bfresa_exec hx
  have hb' : s.park.bad (s.inp.addr &&& maskOf 51 4) 16 = false := (s.park_sameMemory.bad _ _).trans hb
  have hst' : 2 ≤ futSt (s.park.peek (s.inp.addr &&& maskOf 51 4) 8) := by rw [s.park_sameMemory.peek]; exact hst
  have hres : s.park.futResolve (s.inp.addr &&& maskOf 51 4) value = (s.park.countRead (s.inp.addr &&& maskOf 51 4) 16, false) := if_pos hst'
  rw [hv, bfresa_machine hm hin]
  dsimp only
  rw [hb', if_neg (by decide), hres]
  exact ⟨_, rfl, s.park_mem, congrArg Hart.dbl (hart_modHart _ _ (fun h => { h with dbl := true }))⟩

/-- The future's bytes are written, and nothing else of memory; a future of a pager core is none of these. -/
theorem bfresa_writes (hst : futSt (mload s.mem (s.inp.addr &&& maskOf 51 4) 8) < 2) (hlow : (s.inp.addr &&& maskOf 51 4) < 0xBFFFFE0000)
    (value : Option Word) :
    (s.bfresa s.inp.hart s.inp.addr value).mem = mstore s.mem (s.inp.addr &&& maskOf 51 4) (futBytes value) ∧
      (s.bfresa s.inp.hart s.inp.addr value).harts = s.harts := by
  have hb' : s.park.bad (s.inp.addr &&& maskOf 51 4) 16 = false := (s.park_sameMemory.bad _ _).trans hb
  obtain ⟨t, ht, hmem, hharts⟩ := State.futResolve_writes hb' (by rw [s.park_mem]; exact hst) value
  rw [bfresa_machine hm hin]
  dsimp only
  rw [hb', if_neg (by decide), ht]
  dsimp only
  rw [State.freePager, if_neg (by omega), hmem, hharts, s.park_mem, s.park_harts]
  exact ⟨rfl, rfl⟩

theorem bfresaResolve_resolves (hst : futSt (mload s.mem (s.inp.addr &&& maskOf 51 4) 8) < 2) (hlow : (s.inp.addr &&& maskOf 51 4) < 0xBFFFFE0000) :
    let pa := s.inp.addr &&& maskOf 51 4
    ∃ t, exec .bfresaResolve s = .next t ∧ mload t.mem pa 8 = 2 * 2 ^ 62 ∧ mload t.mem (pa + 8) 8 = 0 ∧
      (∀ a, a < pa ∨ pa + 16 ≤ a → mget t.mem a = mget s.mem a) ∧ t.harts = s.harts := by
  obtain ⟨hmem, hharts⟩ := bfresa_writes hm hin hb hst hlow (some 0)
  refine ⟨_, rfl, ?_, ?_, fun a ha => ?_, hharts⟩
  · rw [hmem]
    exact mload_mstore_within s.mem _ 0 8 (futBytes (some 0)) (by decide)
  · rw [hmem]
    exact mload_mstore_within s.mem _ 8 8 (futBytes (some 0)) (by decide)
  · rw [hmem]
    exact mget_mstore_ne _ _ _ _ ha

theorem bfresaFault_faults (hst : futSt (mload s.mem (s.inp.addr &&& maskOf 51 4) 8) < 2) (hlow : (s.inp.addr &&& maskOf 51 4) < 0xBFFFFE0000) :
    let pa := s.inp.addr &&& maskOf 51 4
    ∃ t, exec .bfresaFault s = .next t ∧ mload t.mem pa 8 = 3 * 2 ^ 62 ∧
      (∀ a, a < pa ∨ pa + 8 ≤ a → mget t.mem a = mget s.mem a) ∧ t.harts = s.harts := by
  obtain ⟨hmem, hharts⟩ := bfresa_writes hm hin hb hst hlow none
  refine ⟨_, rfl, ?_, fun a ha => ?_, hharts⟩
  · rw [hmem]
    exact mload_mstore_within s.mem _ 0 8 (futBytes none) (by decide)
  · rw [hmem]
    exact mget_mstore_ne _ _ _ _ ha
end

end Sys2Proof.Machine

namespace Sys2Proof.Machine
open Sys2Proof

/-! Tables. -/

theorem tget_isSome_of_mem {α : Type} {t : Table α} {p : Nat × α} (h : p ∈ t) : (tget t p.1).isSome = true := by
  rw [tget, Option.isSome_map, List.find?_isSome]
  exact ⟨p, h, by simp⟩

@[simp] theorem tget_tdel_self {α : Type} (t : Table α) (k : Nat) : tget (tdel t k) k = none := by
  rw [tget, Option.map_eq_none_iff, List.find?_eq_none]
  intro p hp
  have hne := (List.mem_filter.mp hp).2
  simpa using hne

theorem mem_tset {α : Type} {t : Table α} {k : Nat} {v : α} {p : Nat × α} (h : p ∈ tset t k v) : p = (k, v) ∨ p ∈ t := by
  induction t with
  | nil => exact .inl (List.mem_singleton.mp h)
  | cons q r ih =>
    rw [tset] at h
    split at h
    · exact (List.mem_cons.mp h).imp_right id
    · split at h
      · exact (List.mem_cons.mp h).imp_right (List.mem_cons_of_mem q)
      · obtain rfl | h := List.mem_cons.mp h
        · exact .inr (List.mem_cons_self ..)
        · exact (ih h).imp_right (List.mem_cons_of_mem q)

/-! A fault record taken from its ring (R59, R256). -/

/-- No pending fault record of a context lies at an address. -/
def State.notPending (s : State) (ctx a : Nat) : Prop := (tget s.contexts ctx).all (fun x => (tget x.pendingFaults a).isNone) = true

theorem State.drainRing_memoryOnly (s : State) (ctx fuel : Nat) : MemoryOnly s (s.drainRing ctx fuel) := by
  induction fuel generalizing s with
  | zero => exact MemoryOnly.refl s
  | succ fuel ih =>
    rw [State.drainRing]
    split
    · exact MemoryOnly.refl s
    · dsimp only
      split
      · exact MemoryOnly.refl s
      · exact ((MemoryOnly.put s _ _).trans (MemoryOnly.put _ _ _)).trans (ih _)

theorem State.faultAtAddr_context {s : State} {a ctx c : Nat} {r : Record} (h : s.faultAtAddr a = some (ctx, c, r)) :
    ∃ x, tget s.contexts ctx = some x := by
  obtain ⟨x, hx, hf⟩ := List.exists_of_findSome?_eq_some h
  obtain ⟨p, -, hp⟩ := Option.map_eq_some_iff.mp hf
  obtain ⟨rfl, -⟩ := Prod.mk.inj hp
  exact Option.isSome_iff_exists.mp (tget_isSome_of_mem hx)

/-- The record at an address is no longer pending; the strand in hand is back in its slot, and the cores are as they were. -/
theorem State.serviced_spec {s : State} {ctx : Nat} {x : Context} (hx : tget s.contexts ctx = some x) (a : Nat) :
    (s.serviced ctx a).acting = false ∧ (s.serviced ctx a).cores = s.park.cores ∧ (s.serviced ctx a).notPending ctx a := by
  have hmod : s.modContext ctx (fun x => { x with pendingFaults := tdel x.pendingFaults a }) =
      { s with contexts := tset s.contexts ctx { x with pendingFaults := tdel x.pendingFaults a } } := by
    rw [State.modContext, hx]
  unfold State.serviced
  rw [hmod]
  dsimp only
  generalize hu : ({ s with contexts := tset s.contexts ctx { x with pendingFaults := tdel x.pendingFaults a } } : State) = u
  have hctx : tget u.contexts ctx = some { x with pendingFaults := tdel x.pendingFaults a } := by rw [← hu]; exact tget_tset_self _ _ _
  have hlow : (u.lowerFault ctx).acting = false ∧ (u.lowerFault ctx).cores = s.park.cores ∧ (u.lowerFault ctx).contexts = u.contexts := by
    unfold State.lowerFault
    rw [hctx]
    refine ⟨u.park_acting, ?_, u.park_contexts⟩
    rw [← hu]
    unfold State.park
    dsimp only
    split <;> rfl
  obtain ⟨m, hm⟩ := (u.lowerFault ctx).drainRing_memoryOnly ctx 4096
  obtain ⟨hact, hcores, hcontexts⟩ := hlow
  rw [hm]
  refine ⟨hact, hcores, ?_⟩
  unfold State.notPending
  dsimp only
  rw [hcontexts, hctx, Option.all_some, tget_tdel_self]
  rfl

theorem State.getCore_serviced {s : State} {ctx : Nat} {x : Context} (hx : tget s.contexts ctx = some x) (a c : Nat) :
    (s.serviced ctx a).getCore c = s.park.getCore c := by
  obtain ⟨hact, hcores, -⟩ := State.serviced_spec hx a
  rw [State.getCore, State.getCore, hact, s.park_acting, hcores, if_neg (by simp), if_neg (by simp)]

/-! BFLTACT RESUME (R59, R256). -/

theorem State.setCore_contexts (s : State) (c : Nat) (k : Core) : (s.setCore c k).contexts = s.contexts :=
  (congrArg State.contexts (s.setCore_frame c k) :)

/-- A record that fits the mooring area is deposited in its lowest free blocks, under the core's next number. -/
theorem State.deposit_moors {s : State} {c : Nat} {r : Record} (h : RoomFor (s.getCore c) r.fullLength) :
    ∃ b t, s.deposit c r = some (t, { r with length := r.fullLength, dseq := (s.getCore c).dseq, block := b, spilled := false }) ∧
      (t.getCore c).records =
        (s.getCore c).records ++ [{ r with length := r.fullLength, dseq := (s.getCore c).dseq, block := b, spilled := false }] ∧
      t.contexts = s.contexts := by
  obtain ⟨b, hb⟩ := Option.isSome_iff_exists.mp h
  unfold State.deposit State.depositAs
  dsimp only
  rw [hb]
  refine ⟨b, _, rfl, ?_, ?_⟩
  · rw [State.modCore, State.getCore_setCore_self, State.getCore_setCore_self]
  · rw [State.modCore, State.setCore_contexts, State.setCore_contexts]

theorem Core.record_new {k : Core} {l : List Record} {r : Record} (hk : k.records = l ++ [r]) (hnew : ∀ x ∈ l, x.dseq ≠ r.dseq) :
    k.record r.dseq = some r := by
  have hnone : l.find? (fun x => x.dseq == r.dseq) = none := List.find?_eq_none.mpr (fun x hx => by simpa using hnew x hx)
  rw [Core.record, hk, List.find?_append, hnone]
  simp

/-- The last of a core's records made ready: it is the last of its priority. -/
theorem Core.makeReady_new {k : Core} {l : List Record} {r : Record} (hk : k.records = l ++ [r]) (hnew : ∀ x ∈ l, x.dseq ≠ r.dseq)
    (hr : r.ready = false) :
    { r with ready := true, on := .nothing } ∈ (k.makeReady r.dseq).records ∧
      ((tget (k.makeReady r.dseq).order r.prio).getD []).getLast? = some r.dseq := by
  rw [Core.makeReady, Core.record_new hk hnew]
  dsimp only
  rw [hr, if_neg (by decide)]
  refine ⟨?_, ?_⟩
  · show _ ∈ k.records.map _
    rw [hk]
    exact List.mem_map.mpr ⟨r, by simp, if_pos rfl⟩
  · show ((tget (tset _ r.prio _) r.prio).getD []).getLast? = _
    rw [tget_tset_self, Option.getD_some, List.getLast?_concat]

/-- A record taken from the ring goes back to its core, ready, under the core's next number (R59). -/
def State.redeposit (ctx c : Nat) (r : Record) (s : State) : State :=
  let n := (s.getCore c).dseq
  match s.deposit c { r with ready := false, on := .nothing, spilled := false } with
  | some (s, _) => s.modCore c (fun k => (k.rekey r.dseq n).makeReady n)
  | none => (s.overflowed c ctx r).modCore c (·.rekey r.dseq n)

theorem State.redeposit_ready {s : State} {c : Nat} {r : Record} (ctx : Nat) (hnew : FreshDeposit (s.getCore c))
    (hroom : RoomFor (s.getCore c) r.fullLength) :
    ∃ r' : Record, r' ∈ ((State.redeposit ctx c r s).getCore c).records ∧ r'.dseq = (s.getCore c).dseq ∧ r'.ready = true ∧ r'.pc = r.pc ∧
      r'.regs = r.regs ∧ r'.trap = r.trap ∧ r'.convoys = r.convoys ∧
      ((tget ((State.redeposit ctx c r s).getCore c).order r.prio).getD []).getLast? = some (s.getCore c).dseq ∧
      (State.redeposit ctx c r s).contexts = s.contexts := by
  obtain ⟨b, t, ht, hrec, hcontexts⟩ := State.deposit_moors (s := s) (c := c) (r := { r with ready := false, on := .nothing, spilled := false }) hroom
  unfold State.redeposit
  dsimp only
  rw [ht]
  dsimp only
  rw [State.modCore, State.getCore_setCore_self, State.setCore_contexts]
  obtain ⟨hmem, hlast⟩ := Core.makeReady_new (k := (t.getCore c).rekey r.dseq (s.getCore c).dseq) hrec hnew rfl
  exact ⟨_, hmem, rfl, rfl, rfl, rfl, rfl, rfl, hlast, hcontexts⟩

section
variable {s : State} (hm : (s.hart s.inp.hart).rv.mode = .m)
include hm

theorem bfltact_refuses (hnone : s.faultAtAddr (s.inp.addr &&& (2 ^ 52 - 64)) = none) {x : Instr} (hx : x ∈ [Instr.bfltactResume, Instr.bfltactKill]) :
    ∃ t, exec x s = .next t ∧ (t.hart s.inp.hart).ref = true ∧ t.contexts = s.contexts ∧ t.mem = s.mem ∧ t.cores = s.cores := by
  have hnext : exec x s = .next (s.refuseHart s.inp.hart) := by
    simp only [List.mem_cons, List.not_mem_nil, or_false] at hx
    obtain rfl | rfl := hx
    · refine congrArg Host.Outcome.next ((State.inMachineMode_machine hm _).trans ?_)
      dsimp only
      rw [hnone]
    · refine congrArg Host.Outcome.next ((State.inMachineMode_machine hm _).trans ?_)
      dsimp only
      rw [hnone]
  exact ⟨_, hnext, congrArg Hart.ref (hart_modHart s s.inp.hart (fun h => { h with ref := true })), rfl, rfl, rfl⟩

section
variable {ctx c : Nat} {r : Record} (hf : s.faultAtAddr (s.inp.addr &&& (2 ^ 52 - 64)) = some (ctx, c, r)) (hk : r.trap.killed = false)
  (hctx : (s.park.getCore c).ctx = some ctx)
include hf hk hctx

/-- The record of the ring is a ready record of its core again. -/
theorem bfltactResume_resumes (himage : r.trap.image = false) (hasync : r.trap.async = false) (hnew : FreshDeposit (s.park.getCore c))
    (hroom : RoomFor (s.park.getCore c) (r.ofBytes (mbytes s.mem (s.inp.addr &&& (2 ^ 52 - 64)) r.length)).fullLength) :
    let a := s.inp.addr &&& (2 ^ 52 - 64)
    let k := s.park.getCore c
    let r1 := r.ofBytes (mbytes s.mem a r.length)
    ∃ (t : State) (r' : Record), exec .bfltactResume s = .next t ∧ r' ∈ (t.getCore c).records ∧ r'.dseq = k.dseq ∧ r'.ready = true ∧
      r'.pc = r1.pc ∧ r'.regs = r1.regs ∧ r'.trap = r1.trap ∧ r'.convoys = r1.convoys ∧
      ((tget (t.getCore c).order r1.prio).getD []).getLast? = some k.dseq ∧ (tget t.contexts ctx).all (fun x => (tget x.pendingFaults a).isNone) = true := by
  dsimp only
  obtain ⟨x, hx⟩ := State.faultAtAddr_context hf
  obtain ⟨-, -, hpending⟩ := State.serviced_spec hx (s.inp.addr &&& (2 ^ 52 - 64))
  have hcore := State.getCore_serviced hx (s.inp.addr &&& (2 ^ 52 - 64)) c
  generalize hr1 : r.ofBytes (mbytes s.mem (s.inp.addr &&& (2 ^ 52 - 64)) r.length) = r1 at hroom ⊢
  have hnext : exec .bfltactResume s = .next ((s.serviced ctx (s.inp.addr &&& (2 ^ 52 - 64))).onCtxCore ctx c (State.redeposit ctx c r1)) := by
    rw [← hr1]
    refine congrArg Host.Outcome.next ((State.inMachineMode_machine hm _).trans ?_)
    dsimp only
    rw [hf]
    dsimp only
    rw [hk, himage, hasync, if_neg (by simp), if_neg (by decide)]
    rfl
  rw [hnext, State.onCtxCore, if_pos (by rw [hcore]; exact hctx)]
  generalize s.serviced ctx (s.inp.addr &&& (2 ^ 52 - 64)) = u at *
  rw [← hcore] at hnew hroom ⊢
  obtain ⟨r', hmem, hdseq, hready, hpc, hregs, htrap, hconvoys, hlast, hcontexts⟩ := State.redeposit_ready ctx hnew hroom
  unfold State.notPending at hpending
  rw [← hcontexts] at hpending
  exact ⟨_, r', rfl, hmem, hdseq, hready, hpc, hregs, htrap, hconvoys, hlast, hpending⟩
end
end
end Sys2Proof.Machine

namespace Sys2Proof.Machine
open Sys2Proof

/-! What a kill leaves of the fault records that are pending (R59). -/

/-- No fault record comes to be pending. -/
def PendingShrinks (s t : State) : Prop := ∀ ctx a, s.notPending ctx a → t.notPending ctx a

namespace PendingShrinks

theorem refl (s : State) : PendingShrinks s s := fun _ _ h => h

theorem trans {s t u : State} (h : PendingShrinks s t) (g : PendingShrinks t u) : PendingShrinks s u := fun ctx a hs => g ctx a (h ctx a hs)

theorem of_contexts {s t : State} (h : t.contexts = s.contexts) : PendingShrinks s t := by
  intro ctx a hs
  unfold State.notPending at hs ⊢
  rw [h]
  exact hs

theorem foldl {β : Type} {g : State → β → State} (hg : ∀ s x, PendingShrinks s (g s x)) (l : List β) (s : State) :
    PendingShrinks s (l.foldl g s) := by
  induction l generalizing s with
  | nil => exact refl s
  | cons x r ih => exact (hg s x).trans (ih _)

/-- A context changed so that no record of it comes to be pending. -/
theorem modContext (s : State) (n : Nat) {f : Context → Context} (hf : ∀ x a, tget x.pendingFaults a = none → tget (f x).pendingFaults a = none) :
    PendingShrinks s (s.modContext n f) := by
  intro ctx a hs
  unfold State.modContext
  split
  next x hx =>
    unfold State.notPending at hs ⊢
    dsimp only
    by_cases e : ctx = n
    · subst e
      rw [hx, Option.all_some, Option.isNone_iff_eq_none] at hs
      rw [tget_tset_self, Option.all_some, hf x a hs]
      rfl
    · rw [tget_tset_ne _ _ _ _ e]
      exact hs
  · exact hs

theorem setCore (s : State) (c : Nat) (k : Core) : PendingShrinks s (s.setCore c k) := of_contexts (s.setCore_contexts c k)

theorem modCore (s : State) (c : Nat) (f : Core → Core) : PendingShrinks s (s.modCore c f) := setCore s c _

theorem countHeld (s : State) (ctx : Nat) (up : Bool) : PendingShrinks s (s.countHeld ctx up) := by
  unfold State.countHeld
  split <;> exact refl _

theorem putHome (s : State) (pa : Nat) (bs : List Byte) : PendingShrinks s (s.putHome pa bs) := by
  unfold State.putHome
  cases h : s.writePhys pa bs with
  | error c => exact refl s
  | ok t =>
    obtain ⟨-, -, -, hframe⟩ := State.writePhys_ok _ _ _ _ h
    exact of_contexts (congrArg State.contexts hframe :)

theorem merge (s : State) (pa n v : Nat) : PendingShrinks s (s.merge pa n v) := trans (t := s.countRead pa n) (refl s) (putHome _ _ _)

theorem putVirtual (s : State) (asid fuel va : Nat) (bs : List Byte) : PendingShrinks s (s.putVirtual asid fuel va bs) := by
  induction fuel generalizing s va bs with
  | zero => exact refl s
  | succ fuel ih =>
    unfold State.putVirtual
    dsimp only
    split
    · exact refl s
    · refine trans ?_ (ih _ _ _)
      split
      · split
        · exact putHome s _ _
        · exact refl s
      · exact refl s

theorem showSpill (s : State) (k : Core) (r : Record) : PendingShrinks s (s.showSpill k r) := by
  unfold State.showSpill
  split
  · exact refl s
  · exact putVirtual s _ _ _ _

theorem showRecords (s : State) (ctx c : Nat) (old new : Core) (out : Bool) : PendingShrinks s (s.showRecords ctx c old new out) := by
  refine foldl (fun t r => ?_) _ s
  split
  · exact showSpill t _ _
  · split <;> exact refl _

theorem showSaved (s : State) (ctx c : Nat) (old new : Core) : PendingShrinks s (s.showSaved ctx c old new) := by
  have hputs (a : Nat) (u : State) (bs : Mem) (f : Host.Cell → List Byte) :
      PendingShrinks u (bs.foldl (fun s b => s.put (a + 0x1000 + b.1) (f b)) u) := by
    refine foldl (fun v b => ?_) _ _
    exact of_contexts rfl
  unfold State.showSaved
  split
  · exact refl s
  · dsimp only
    split
    · exact (hputs _ _ _ (fun _ => [0])).trans (hputs _ _ _ (fun b => [b.2]))
    · exact ((hputs _ _ _ (fun _ => [0])).trans (hputs _ _ _ (fun b => [b.2]))).trans (refl _)

theorem request (s : State) (node op asid addr : Nat) (data : List Byte) (why : Purpose) :
    PendingShrinks s (s.request node op asid addr data why).2 :=
  of_contexts (congrArg State.contexts (NetOnly.request s node op asid addr data why) :)

theorem modCtxCore (s : State) (ctx c : Nat) (f : Core → Core) : PendingShrinks s (s.modCtxCore ctx c f) := by
  unfold State.modCtxCore
  split
  · exact (modCore s c f).trans (showRecords _ _ _ _ _ _)
  · split
    next k _ =>
      refine trans (trans (modContext s ctx (fun x a h => ?_)) (showRecords _ _ _ _ _ _)) (showSaved _ _ _ _ _)
      exact h
    · exact modCore s c f

theorem relink (s : State) (ps : List (Nat × Nat × Record)) (before : Nat) :
    PendingShrinks s (ps.foldl (fun s p => s.modCtxCore p.1 p.2.1 (·.modRecord p.2.2.dseq (fun x => { x with next := before }))) s) := by
  refine foldl (fun t p => ?_) _ s
  exact modCtxCore t _ _ _

theorem unlinkFut (s : State) (pa ref before : Nat) : PendingShrinks s (s.unlinkFut pa ref before) := by
  unfold State.unlinkFut
  dsimp only
  split
  · exact refl s
  · refine trans ?_ (merge _ _ _ _)
    exact (relink s ((s.waitersAt pa).filter (fun p => decide (p.2.2.next = ref))) before).trans (of_contexts rfl)

theorem unlink (s : State) (ctx c : Nat) (r : Record) : PendingShrinks s (s.unlink ctx c r) := by
  unfold State.unlink
  dsimp only
  split
  · split
    · exact request _ _ _ _ _ _ _
    · split
      · exact unlinkFut s _ _ _
      · exact refl s
  · exact request _ _ _ _ _ _ _
  · exact unlinkFut s _ _ _
  · exact modCtxCore s ctx c _
  · exact modCtxCore s ctx c _
  · exact refl s

theorem dropRecord (s : State) (c : Nat) (r : Record) : PendingShrinks s (s.dropRecord c r) := by
  refine (modCore s c (·.dropRecord r.dseq)).trans ?_
  unfold State.dropRecord State.freeChunks
  split <;> exact refl _

theorem discardRecords (s : State) (ctx c cell : Nat) : PendingShrinks s (s.discardRecords ctx c cell) := by
  refine foldl (fun t r => ?_) _ s
  dsimp only
  split
  · exact ((countHeld t ctx false).trans (dropRecord _ c r)).trans (modCore _ c _)
  · exact (dropRecord t c r).trans (modCore _ c _)

theorem strandGone (s : State) (c cell : Nat) (killed : Bool) : PendingShrinks s (s.strandGone c cell killed) := by
  unfold State.strandGone
  dsimp only
  split
  · exact setCore s c _
  · exact (setCore s c _).trans (of_contexts rfl)

/-- The records of the step that is killed are no longer pending, and no others come to be. -/
theorem forgetFaults (s : State) (ctx c cell : Nat) : PendingShrinks s (s.forgetFaults ctx c cell) := by
  refine modContext s ctx (fun x a h => ?_)
  rw [tget, Option.map_eq_none_iff, List.find?_eq_none] at h ⊢
  exact fun p hp => h p (List.mem_filter.mp hp).1

theorem endKilled (s : State) (ctx c cell : Nat) : PendingShrinks s (s.endKilled ctx c cell) := by
  unfold State.endKilled
  dsimp only
  split
  · exact refl s
  · refine trans ?_ (strandGone _ c cell true)
    refine trans ?_ (modCore _ c _)
    refine trans ?_ (of_contexts rfl)
    refine trans ?_ (modCore _ c _)
    exact ((setCore s c _).trans (discardRecords _ ctx c cell)).trans (forgetFaults _ ctx c cell)

theorem unlinkStep (s : State) (ctx c cell : Nat) : PendingShrinks s (s.unlinkStep ctx c cell) := foldl (fun t r => unlink t ctx c r) _ s

theorem lowerFault {s : State} (h : s.acting = false) (ctx : Nat) : PendingShrinks s (s.lowerFault ctx) := by
  unfold State.lowerFault
  split
  · exact refl s
  · rw [State.park_of_not_acting h]
    exact refl s
end PendingShrinks

/-! What a kill leaves of the step's core (R59, R117, R264). -/

theorem Core.promote_cells {k : Core} {cell : Nat} (h : ∀ p ∈ k.slots, p.2.cell ≠ cell) (b : Bool) : ∀ p ∈ (k.promote b).slots, p.2.cell ≠ cell := by
  unfold Core.promote
  dsimp only
  split
  · exact h
  · split
    · exact h
    next sl st r hmine =>
      intro p hp
      obtain rfl | hp := mem_tset hp
      · exact h (sl, st) (List.mem_filter.mp (hmine ▸ List.mem_cons_self ..)).1
      · exact h p hp

/-- A core without a step's strands. -/
theorem Core.evict_cells (k : Core) (cell : Nat) : ∀ p ∈ (k.evict cell).slots, p.2.cell ≠ cell := by
  refine Core.promote_cells (Core.promote_cells (fun p hp => ?_) _) _
  simpa using (List.mem_filter.mp hp).2

/-- One record of a step that is killed discarded. -/
def State.discardOne (ctx c : Nat) (s : State) (r : Record) : State :=
  let s := if r.held then s.countHeld ctx false else s
  (s.dropRecord c r).modCore c (fun k => { k with awaiting := tdel k.awaiting r.dseq, answers := tdel k.answers r.dseq })

theorem State.discardRecords_eq (s : State) (ctx c cell : Nat) :
    s.discardRecords ctx c cell = ((s.getCore c).records.filter (fun r => r.cell == cell)).foldl (State.discardOne ctx c) s := rfl

theorem State.getCore_discard (ctx c : Nat) (s : State) (r : Record) :
    (State.discardOne ctx c s r).getCore c = { (s.getCore c).dropRecord r.dseq with
      awaiting := tdel (s.getCore c).awaiting r.dseq, answers := tdel (s.getCore c).answers r.dseq } := by
  have hdrop (u : State) : (u.dropRecord c r).getCore c = (u.getCore c).dropRecord r.dseq := by
    unfold State.dropRecord State.modCore
    rw [(OffCores.freeChunks _ c r).getCore, State.getCore_setCore_self]
  have hheld : (if r.held then s.countHeld ctx false else s).getCore c = s.getCore c := by
    split
    · exact (OffCores.countHeld s ctx false).getCore c
    · rfl
  unfold State.discardOne State.modCore
  dsimp only
  rw [State.getCore_setCore_self, hdrop, hheld]
  rfl

/-- A core's records once those of a list are discarded: none has a number of the list. -/
theorem State.foldl_discard (ctx c : Nat) (l : List Record) (s : State) :
    (∀ x ∈ ((l.foldl (State.discardOne ctx c) s).getCore c).records, x ∈ (s.getCore c).records ∧ ∀ r ∈ l, x.dseq ≠ r.dseq) ∧
      ((l.foldl (State.discardOne ctx c) s).getCore c).slots = (s.getCore c).slots ∧
      ((l.foldl (State.discardOne ctx c) s).getCore c).steps = (s.getCore c).steps := by
  induction l generalizing s with
  | nil => exact ⟨fun x hx => ⟨hx, by simp⟩, rfl, rfl⟩
  | cons r l ih =>
    obtain ⟨hrec, hslots, hsteps⟩ := ih (State.discardOne ctx c s r)
    rw [State.getCore_discard] at hrec hslots hsteps
    refine ⟨fun x hx => ?_, hslots, hsteps⟩
    obtain ⟨hmem, hne⟩ := hrec x hx
    obtain ⟨hmem, hr⟩ := List.mem_filter.mp hmem
    refine ⟨hmem, fun y hy => ?_⟩
    obtain rfl | hy := List.mem_cons.mp hy
    · simpa using hr
    · exact hne y hy

/-- The records of a step are gone from its core, and nothing else of it that its strands and steps are. -/
theorem State.discardRecords_core (s : State) (ctx c cell : Nat) :
    (∀ x ∈ ((s.discardRecords ctx c cell).getCore c).records, x.cell ≠ cell) ∧
      ((s.discardRecords ctx c cell).getCore c).slots = (s.getCore c).slots ∧ ((s.discardRecords ctx c cell).getCore c).steps = (s.getCore c).steps := by
  rw [State.discardRecords_eq]
  obtain ⟨hrec, hrest⟩ := State.foldl_discard ctx c ((s.getCore c).records.filter (fun r => r.cell == cell)) s
  refine ⟨fun x hx hcell => ?_, hrest⟩
  obtain ⟨hmem, hne⟩ := hrec x hx
  exact hne x (List.mem_filter.mpr ⟨hmem, by simpa using hcell⟩) rfl

/-- A core with nothing of a step. -/
structure Core.Rid (k : Core) (cell : Nat) : Prop where
  live : (k.step cell).live = false
  slots : ∀ p ∈ k.slots, p.2.cell ≠ cell
  records : ∀ x ∈ k.records, x.cell ≠ cell

theorem Core.settleStep_rid {k : Core} {cell : Nat} (h : k.Rid cell) : (k.settleStep cell).Rid cell := by
  unfold Core.settleStep
  dsimp only
  split
  · exact ⟨by rw [Core.step, tget_tdel_self]; rfl, h.slots, h.records⟩
  · exact h

/-- The last strand of a step gone: with it the step. -/
theorem State.strandGone_rid {s : State} {c cell : Nat} (hone : ((s.getCore c).step cell).strands = 1)
    (hslots : ∀ p ∈ (s.getCore c).slots, p.2.cell ≠ cell) (hrec : ∀ x ∈ (s.getCore c).records, x.cell ≠ cell) (killed : Bool) :
    ((s.strandGone c cell killed).getCore c).Rid cell := by
  unfold State.strandGone
  dsimp only
  rw [hone, if_neg (by decide)]
  have hcore : ((s.setCore c (((s.getCore c).modStep cell (fun st => { st with strands := 0, live := false })).settleStep cell)).getCore c).Rid cell := by
    rw [State.getCore_setCore_self]
    refine Core.settleStep_rid ⟨?_, hslots, hrec⟩
    rw [Core.modStep, Core.step]
    dsimp only
    rw [tget_tset_self]
    rfl
  exact hcore

/-- A live step killed on its core: its strands, its records and itself are gone. -/
theorem State.endKilled_rid {s : State} {c cell : Nat} (ctx : Nat) (hl : ((s.getCore c).step cell).live = true) :
    ((s.endKilled ctx c cell).getCore c).Rid cell := by
  obtain ⟨hrec, hslots, -⟩ := State.discardRecords_core (s.setCore c ((s.getCore c).evict cell)) ctx c cell
  have hforget := (OffCores.modContext ((s.setCore c ((s.getCore c).evict cell)).discardRecords ctx c cell) ctx (fun x => { x with
    pendingFaults := x.pendingFaults.filter (fun p => !(p.2.1 == c && p.2.2.cell == cell && !p.2.2.trap.killed && p.2.2.stepAddr != 0)) })).getCore c
  rw [← hforget] at hrec hslots
  rw [State.getCore_setCore_self] at hslots
  unfold State.endKilled State.forgetFaults
  dsimp only
  rw [hl, if_neg (by decide)]
  generalize State.modContext _ ctx _ = u at *
  refine State.strandGone_rid ?_ ?_ ?_ true
  · rw [State.modCore, State.getCore_setCore_self, Core.modStep, Core.step]
    dsimp only
    rw [tget_tset_self]
    rfl
  · rw [State.modCore, State.getCore_setCore_self, Core.modStep, (OffCores.modLaunch _ _ _ _).getCore, State.modCore,
      State.getCore_setCore_self]
    dsimp only
    rw [hslots]
    exact (s.getCore c).evict_cells cell
  · rw [State.modCore, State.getCore_setCore_self, Core.modStep, (OffCores.modLaunch _ _ _ _).getCore, State.modCore,
      State.getCore_setCore_self]
    exact hrec

/-- A step of a resident core killed while no strand acts (R59, R117). -/
theorem State.killStep_rid {s : State} {ctx c cell : Nat} (ha : s.acting = false) (hctx : (s.getCore c).ctx = some ctx)
    (hl : ((s.getCore c).step cell).live = true) :
    ((s.killStep ctx c cell).getCore c).Rid cell ∧ PendingShrinks s (s.killStep ctx c cell) := by
  have hunlink : CoresKeep (fun _ k => (k.ctx, k.steps)) s (s.unlinkStep ctx c cell) :=
    CoresKeep.foldl (fun t _ r _ => CoresKeep.unlink (fun _ _ _ _ => rfl) t ctx c (fun _ _ _ _ => by
      unfold Core.unlinkLocal
      dsimp only
      split <;> rfl) r)
  obtain ⟨hctx', hsteps⟩ := Prod.mk.inj (hunlink.2 c)
  have hlive : (((s.unlinkStep ctx c cell).getCore c).step cell).live = true := by rw [Core.step, hsteps]; exact hl
  have hact : ((s.unlinkStep ctx c cell).endKilled ctx c cell).acting = false :=
    ((CoresKeep.endKilled (f := fun _ _ => ()) _ ctx c cell).1.acting.trans hunlink.1.acting).trans ha
  rw [State.killStep_eq ha, State.onCtxCore, if_pos (hctx'.trans hctx)]
  refine ⟨?_, ?_⟩
  · rw [(OffCores.lowerFault hact ctx).getCore]
    exact State.endKilled_rid ctx hlive
  · exact ((PendingShrinks.unlinkStep s ctx c cell).trans (PendingShrinks.endKilled _ ctx c cell)).trans (PendingShrinks.lowerFault hact ctx)

/-- BFLTACT KILL of a pending record of a step (R59, R256). -/
theorem bfltactKill_kills {s : State} (hm : (s.hart s.inp.hart).rv.mode = .m) {ctx c : Nat} {r : Record}
    (hf : s.faultAtAddr (s.inp.addr &&& (2 ^ 52 - 64)) = some (ctx, c, r)) (hk : r.trap.killed = false)
    (hctx : (s.park.getCore c).ctx = some ctx) (hstep : r.stepAddr ≠ 0) (hl : ((s.park.getCore c).step r.cell).live = true) :
    ∃ t, exec .bfltactKill s = .next t ∧ ((t.getCore c).step r.cell).live = false ∧ (∀ p ∈ (t.getCore c).slots, p.2.cell ≠ r.cell) ∧
      (∀ x ∈ (t.getCore c).records, x.cell ≠ r.cell) ∧
      (tget t.contexts ctx).all (fun x => (tget x.pendingFaults (s.inp.addr &&& (2 ^ 52 - 64))).isNone) = true := by
  obtain ⟨x, hx⟩ := State.faultAtAddr_context hf
  obtain ⟨hact, -, hpending⟩ := State.serviced_spec hx (s.inp.addr &&& (2 ^ 52 - 64))
  have hcore := State.getCore_serviced hx (s.inp.addr &&& (2 ^ 52 - 64)) c
  have hnext : exec .bfltactKill s = .next (((s.serviced ctx (s.inp.addr &&& (2 ^ 52 - 64))).killStep ctx c r.cell).drainRing ctx 4096) := by
    refine congrArg Host.Outcome.next ((State.inMachineMode_machine hm _).trans ?_)
    dsimp only
    rw [hf]
    dsimp only
    rw [hk, if_neg (by decide), if_neg hstep]
  rw [hnext]
  generalize s.serviced ctx (s.inp.addr &&& (2 ^ 52 - 64)) = u at *
  rw [← hcore] at hctx hl
  obtain ⟨hrid, hshrinks⟩ := State.killStep_rid hact hctx hl
  have hp := hshrinks ctx _ hpending
  obtain ⟨m, hdrain⟩ := (u.killStep ctx c r.cell).drainRing_memoryOnly ctx 4096
  rw [hdrain]
  exact ⟨_, rfl, hrid.live, hrid.slots, hrid.records, hp⟩
end Sys2Proof.Machine

namespace Sys2Proof.Machine
open Sys2Proof

/-! CCMD of a core whose page nothing holds (R68-R71). -/

section
variable {s : State} (hi : (s.park.getCore s.inp.core).invalidating = none)
include hi

/-- An access to a core's page that no TLBINV goes before is made at once. -/
theorem State.pageAccess_made (what : Instr) (f : State → State) : s.pageAccess what f = f s.park := by
  unfold State.pageAccess State.pageHeld
  dsimp only
  rw [s.park_inp, hi, if_neg (by decide)]

theorem ccmdQuiesce_quiesces (hrun : (s.park.getCore s.inp.core).cstate = .running) (hok : s.inp.ok = true)
    (hslots : (s.park.getCore s.inp.core).slots = []) :
    ∃ t, exec .ccmdQuiesce s = .next t ∧ t.getCore s.inp.core = { s.park.getCore s.inp.core with cstate := .quiesced } := by
  refine ⟨_, congrArg Host.Outcome.next ((State.pageAccess_made hi _ _).trans ?_), State.getCore_setCore_self s.park _ _⟩
  dsimp only
  rw [hrun]
  dsimp only
  rw [hok, if_neg (by simp), hslots]

theorem ccmdQuiesce_inReset (hreset : (s.park.getCore s.inp.core).cstate = .inReset) (hok : s.inp.ok = true) :
    ∃ t, exec .ccmdQuiesce s = .next t ∧ t.getCore s.inp.core = { s.park.getCore s.inp.core with cerrBusy := true } := by
  refine ⟨_, congrArg Host.Outcome.next ((State.pageAccess_made hi _ _).trans ?_), State.getCore_setCore_self s.park _ _⟩
  dsimp only
  rw [hreset]
  dsimp only
  rw [hok, if_pos rfl]

theorem ccmdResume_runs (hquiesced : (s.park.getCore s.inp.core).cstate = .quiesced) :
    ∃ t, exec .ccmdResume s = .next t ∧ t.getCore s.inp.core = { s.park.getCore s.inp.core with cstate := .running } := by
  refine ⟨_, congrArg Host.Outcome.next ((State.pageAccess_made hi _ _).trans ?_), State.getCore_setCore_self s.park _ _⟩
  dsimp only
  rw [hquiesced]

theorem ccmdResume_leavesReset (hreset : (s.park.getCore s.inp.core).cstate = .inReset) :
    ∃ t, exec .ccmdResume s = .next t ∧
      t.getCore s.inp.core = { (s.park.getCore s.inp.core).wipe with cstate := .running, lastCtx := none } := by
  refine ⟨_, congrArg Host.Outcome.next ((State.pageAccess_made hi _ _).trans ?_), State.getCore_setCore_self s.park _ _⟩
  dsimp only
  rw [hreset]

theorem ccmdReset_resets (hquiesced : (s.park.getCore s.inp.core).cstate = .quiesced) (hsteps : (s.park.getCore s.inp.core).steps = []) :
    ∃ t, exec .ccmdReset s = .next t ∧
      (t.getCore s.inp.core).cstate = .inReset ∧ (t.getCore s.inp.core).records = [] ∧ (t.getCore s.inp.core).ctx = none := by
  rw [show exec .ccmdReset s = execCcmdReset s from rfl, execCcmdReset]
  dsimp only
  rw [State.pageAccess_made hi]
  rw [hquiesced, if_neg (by decide), hsteps, List.foldl_nil]
  refine ⟨_, rfl, ?_⟩
  rw [State.getCore_setCore_self]
  exact ⟨rfl, rfl, rfl⟩

theorem ccmdReset_busy (hother : (s.park.getCore s.inp.core).cstate ≠ .quiesced) :
    ∃ t, exec .ccmdReset s = .next t ∧ t.getCore s.inp.core = { s.park.getCore s.inp.core with cerrBusy := true } := by
  refine ⟨_, congrArg Host.Outcome.next ((State.pageAccess_made hi _ _).trans ?_), State.getCore_setCore_self s.park _ _⟩
  dsimp only
  rw [if_pos hother]

theorem ccmdTlbinv_invalidates (hcore : s.park.holdsOn s.inp.core (s.park.getCore s.inp.core) s.inp.n = none)
    (hpublish : s.park.publishHolds (fun p => p.core == s.inp.core && p.asid == s.inp.n) = none) :
    ∃ t, exec .ccmdTlbinv s = .next t ∧ t.getCore s.inp.core =
      { s.park.getCore s.inp.core with tlb := (s.park.getCore s.inp.core).tlb.filter (fun x => x.asid != s.inp.n) } := by
  have hnext : exec .ccmdTlbinv s = .next ((s.park.setCore s.inp.core { s.park.getCore s.inp.core with
      tlb := (s.park.getCore s.inp.core).tlb.filter (fun x => x.asid != s.inp.n), invalidating := none }).releasePort s.inp.core) := by
    rw [show exec .ccmdTlbinv s = execCcmdTlbinv s from rfl, execCcmdTlbinv]
    dsimp only
    rw [hi, if_neg (by simp), hcore, hpublish]
    rfl
  refine ⟨_, hnext, (State.getCore_setCore_self s.park _ _).trans ?_⟩
  rw [← hi]

theorem ccmdFlushChainCache_flushes :
    ∃ t, exec .ccmdFlushChainCache s = .next t ∧ (t.getCore s.inp.core).chains = [] ∧
      (t.getCore s.inp.core).tlb = (s.park.getCore s.inp.core).tlb := by
  refine ⟨_, congrArg Host.Outcome.next (State.pageAccess_made hi _ _), ?_⟩
  rw [s.park_inp, State.modCore, State.getCore_setCore_self]
  exact ⟨rfl, rfl⟩
end
end Sys2Proof.Machine

namespace Sys2Proof.Machine
open Sys2Proof

/-- What the queue whose turn it is meets (R64-R66). -/
theorem turnQueue_meets {s : State} {n : Nat} {q : HostQueue} (h : s.park.turnQueue (s.inp.queue % 8) = some (n, q)) :
    tget s.queues n = some q ∧ n % 8 = s.inp.queue % 8 ∧ q.stopped = false ∧ q.deleting = false ∧ s.mbx.swap = false ∧ q.full = false := by
  obtain ⟨hq, hn, hserve⟩ := State.turnQueue_some h
  obtain ⟨hstop, hdel, hswap, hfull⟩ := State.servable_open hserve
  rw [Nat.mod_mod] at hn
  rw [congrArg State.queues s.park_frame] at hq
  rw [congrArg State.mbx s.park_frame] at hswap
  exact ⟨hq, hn, hstop, hdel, hswap, hfull⟩

/-- Settles O37: a lemma per operation (`submissionFetch_starts` and those after it), the operands of the statement in their order. -/
theorem queuesAndRegistersAct : Obligations.QueuesAndRegistersAct := by
  unfold Obligations.QueuesAndRegistersAct
  intro s
  refine ⟨fun n q v what adm ht hf hread hbit => ⟨?_, ?_⟩, fun n q => turnQueue_meets, ?_, ?_, fun q hq => ⟨fun hn => ⟨?_, ?_⟩, ?_⟩,
    admctlBind_binds s, admctlUnbind_unbinds, fun q => adminQueueUnbindDone_done, fun hn => ⟨registerWrite_acts hn, registerWrite_birqen hn⟩,
    fun v => registerWrite_reads, fun hm x => hartOperations_illegal hm, fun hm => ⟨bhmsub_queues hm, bhmsub_refuses hm⟩,
    fun hm hin hlow => ⟨?_, ?_, ?_⟩, fun hm => ⟨fun hnone x => bfltact_refuses hm hnone, fun ctx c r hf hk hctx => ⟨?_, ?_⟩⟩, bwdkick_kicks,
    fun hi => ⟨ccmdQuiesce_quiesces hi, ccmdQuiesce_inReset hi, ccmdResume_runs hi, ?_, ccmdReset_resets hi, ccmdReset_busy hi,
      ccmdTlbinv_invalidates hi, ccmdFlushChainCache_flushes hi⟩⟩
  · exact fun hst hcmd hp hr => submissionFetch_starts ht hf hread hbit hst hcmd hp hr
  · exact submissionFetch_refuses ht hf hread hbit
  · intro q c r
    exact commandCompletion_writes
  · intro hpower hhost hmbx hlen halign hnew hroom
    exact ⟨mailboxWrite_retries hpower hhost hmbx hlen halign hnew hroom, mailboxWrite_queues hpower hhost hmbx hlen halign hnew hroom⟩
  · exact sqdb_moves hq hn
  · exact cqdb_moves hq hn
  · exact fun hn x => doorbells_reject hq hn
  · exact fun hb x => bfresa_logs hm hin hb
  · exact fun hb hst => ⟨bfresaResolve_resolves hm hin hb hst hlow, bfresaFault_faults hm hin hb hst hlow⟩
  · exact fun hb hst x => bfresa_again hm hin hb hst
  · exact bfltactResume_resumes hm hf hk hctx
  · exact bfltactKill_kills hm hf hk hctx
  · intro hreset
    obtain ⟨t, ht, hk⟩ := ccmdResume_leavesReset hi hreset
    exact ⟨t, ht, by rw [hk]; exact ⟨rfl, rfl, rfl, rfl, rfl⟩⟩
end Sys2Proof.Machine

namespace Sys2Proof.Machine
open Sys2Proof

/-! Queues and apertures (R66, R67). -/

theorem tget_tdel_ne {α : Type} (t : Table α) {k j : Nat} (h : j ≠ k) : tget (tdel t k) j = tget t j := by
  rw [tget, tget, tdel, List.find?_filter]
  congr 2
  funext p
  by_cases hp : p.1 = j
  · simp [hp, h]
  · simp [hp]

/-- The command in progress ends, in any state that still has its queue as it was. -/
theorem InProgress.finish_at {s t : State} {q : HostQueue} {c : Started} (h : InProgress s q c) (hqs : tget t.queues s.inp.queue = some q)
    (hi : t.inp = s.inp) (status result : Nat) : t.finish status result = finished q c t status result := by
  have ht : InProgress t q c := by rw [InProgress, hi]; exact ⟨hqs, h.2⟩
  exact ht.finish status result

theorem InProgress.mem {s : State} {q : HostQueue} {c : Started} (h : InProgress s q c) : c ∈ q.started := List.mem_of_find?_eq_some h.2

/-- Two ranges that do not meet lie one behind the other. -/
theorem not_rangesMeet {a n b m : Nat} : ¬ rangesMeet a n b m = true ↔ a + n ≤ b ∨ b + m ≤ a := by
  unfold rangesMeet
  rw [Bool.and_eq_true, decide_eq_true_eq, decide_eq_true_eq]
  omega

section
variable {s : State} {q : HostQueue} {c : Started} (hin : InProgress s q c)
include hin

theorem createQueue_creates (h : s.createQueueOk) :
    exec .createQueue s = .next (finished q c { s with
      queues := tset s.queues (bitsN (s.param 0) 5 0)
        (HostQueue.fresh (s.param 1) (s.param 2) (bitsN (s.param 0) 19 16) (s.param 3) (s.param 4) (w64 (s.param 5))) } 0 0) := by
  obtain ⟨hp, hn, hlow, hhigh, hnone⟩ := h
  rw [show exec .createQueue s = execCreateQueue s from rfl, execCreateQueue]
  dsimp only
  rw [if_neg]
  · refine congrArg _ (hin.finish_at ?_ (by rfl) 0 0)
    have hne : s.inp.queue ≠ bitsN (s.param 0) 5 0 := fun e => by
      rw [← e, hin.1] at hnone
      cases hnone
    exact (tget_tset_ne _ _ _ _ hne).trans hin.1
  · rw [hp, hnone]
    simp
    omega

theorem createQueue_refuses (h : ¬ s.createQueueOk) : exec .createQueue s = .next (finished q c s 2 0) := by
  rw [show exec .createQueue s = execCreateQueue s from rfl, execCreateQueue]
  dsimp only
  rw [if_pos, hin.finish]
  by_contra hfields
  refine h ?_
  simp only [not_or, Bool.not_eq_true, Bool.not_eq_false', Nat.not_lt, Option.isSome_eq_false_iff, Option.isNone_iff_eq_none] at hfields
  exact hfields

section
variable {q' : HostQueue} (hp : s.paramsOk [maskOf 5 0] = true) (hn : s.param 0 ≠ 0) (hq' : tget s.queues (s.param 0) = some q')
include hp hn hq'

/-- A queue with nothing started and nothing to write goes at once; it is not the command's own. -/
theorem deleteQueue_deletes (hstarted : q'.started = []) (hready : q'.ready = []) :
    exec .deleteQueue s = .next (finished q c { s with queues := tdel s.queues (s.param 0) } 0 0) := by
  rw [show exec .deleteQueue s = execDeleteQueue s from rfl, execDeleteQueue]
  dsimp only
  rw [if_neg (by simp [hp, hn]), hq']
  dsimp only
  rw [if_pos (by rw [hstarted, hready]; decide)]
  refine congrArg _ (hin.finish_at ?_ (by rfl) 0 0)
  have hne : s.inp.queue ≠ s.param 0 := fun e => by
    rw [← e, hin.1] at hq'
    obtain rfl := Option.some.inj hq'
    exact List.not_mem_nil (hstarted ▸ hin.mem)
  exact (tget_tdel_ne _ hne).trans hin.1

omit hin in
/-- One with commands started waits for them. -/
theorem deleteQueue_waits (hstarted : q'.started ≠ []) :
    exec .deleteQueue s = .next
      (State.owing { s with queues := tset s.queues (s.param 0) { q' with deleting := true } } .deleteQueue s.inp) := by
  rw [show exec .deleteQueue s = execDeleteQueue s from rfl, execDeleteQueue]
  dsimp only
  rw [if_neg (by simp [hp, hn]), hq']
  dsimp only
  rw [if_neg (by simp [hstarted]), State.modQueue_some hq']
  rfl
end

theorem deleteQueue_refuses (hnone : tget s.queues (s.param 0) = none) : exec .deleteQueue s = .next (finished q c s 2 0) := by
  rw [show exec .deleteQueue s = execDeleteQueue s from rfl, execDeleteQueue]
  dsimp only
  rw [hnone, hin.finish]
  dsimp only
  rw [ite_self]

theorem openAperture_opens (h : s.openApertureOk) :
    exec .openAperture s = .next (finished q c { s with
      apertures := tset s.apertures (bitsN (s.param 0) 3 0)
        { base := s.param 1, len := s.param 2, node := bitsN (s.param 0) 28 16, rw := (s.param 0).testBit 8 } } 0 0) := by
  obtain ⟨hp, hlow, hhigh, hlen, halign, hforbidden, happart⟩ := h
  rw [show exec .openAperture s = execOpenAperture s from rfl, execOpenAperture]
  dsimp only
  rw [if_neg]
  · exact congrArg _ (hin.finish_of (by rfl) (by rfl) 0 0)
  · have hf : forbidden.any (fun r => rangesMeet (s.param 1) (s.param 2) r.1 r.2) = false :=
      List.any_eq_false.mpr (fun r hr => not_rangesMeet.mpr (hforbidden r hr))
    have ha : s.apertures.any (fun a => a.1 != bitsN (s.param 0) 3 0 && rangesMeet (s.param 1) (s.param 2) a.2.base a.2.len) = false := by
      refine List.any_eq_false.mpr (fun a ha hm => ?_)
      obtain ⟨hne, hmeet⟩ := (Bool.and_eq_true _ _).mp hm
      exact not_rangesMeet.mpr (happart a ha (by simpa using hne)) hmeet
    rw [hp, hf, ha]
    simp
    omega

theorem openAperture_refuses (h : ¬ s.openApertureOk) : exec .openAperture s = .next (finished q c s 2 0) := by
  rw [show exec .openAperture s = execOpenAperture s from rfl, execOpenAperture]
  dsimp only
  rw [if_pos, hin.finish]
  by_contra hfields
  simp only [not_or, Bool.not_eq_true, Bool.not_eq_false', Nat.not_lt, Decidable.not_not] at hfields
  obtain ⟨hp, hlow, hhigh, hlen, halign, hforbidden, happart⟩ := hfields
  refine h ⟨hp, hlow, hhigh, hlen, halign, fun r hr => not_rangesMeet.mp (List.any_eq_false.mp hforbidden r hr), fun a ha hne => ?_⟩
  refine not_rangesMeet.mp (fun hmeet => List.any_eq_false.mp happart a ha ((Bool.and_eq_true _ _).mpr ⟨?_, hmeet⟩))
  simpa using hne

theorem closeAperture_closes (hp : s.paramsOk [maskOf 3 0] = true) :
    exec .closeAperture s = .next (finished q c { s with apertures := tdel s.apertures (s.param 0) } 0 0) := by
  rw [show exec .closeAperture s = execCloseAperture s from rfl, execCloseAperture, if_neg (by simp [hp])]
  exact congrArg _ (hin.finish_of (by rfl) (by rfl) 0 0)

/-! CREATE_CONTEXT (R66, R253). -/

theorem createContext_exists (h : tget s.contexts s.inp.slot ≠ none) : exec .createContext s = .next (finished q c s 4 0) := by
  rw [show exec .createContext s = execCreateContext s from rfl, execCreateContext]
  dsimp only
  rw [if_pos (Option.isSome_iff_ne_none.mpr h), hin.finish]

section
variable (hnone : tget s.contexts s.inp.slot = none)
include hnone

theorem createContext_creates (h : s.createContextOk) :
    let size := 64 + 64 * 2 ^ bitsN (s.param 0) 20 16
    ∃ t x, exec .createContext s = .next t ∧ t.contexts = tset s.contexts s.inp.slot x ∧ NewContext s.param x ∧
      t.queues = (finished q c s 0 0).queues ∧ t.cores = s.cores ∧
      ∀ a, mget t.mem a = if s.param 1 ≤ a ∧ a < s.param 1 + size then 0 else mget s.mem a := by
  dsimp only
  obtain ⟨hp, hasid, hlow, hhigh, hvlow, hvhigh, hpart, hgang, hm⟩ := h
  rw [show exec .createContext s = execCreateContext s from rfl, execCreateContext]
  dsimp only
  rw [if_neg (by simp [hnone]), if_neg]
  · rw [hin.finish_of (by rfl) (by rfl)]
    refine ⟨_, _, rfl, rfl, ?_, rfl, rfl, fun a => mget_mclear _ _ _ _⟩
    exact ⟨rfl, rfl, rfl, rfl, rfl, rfl, rfl, rfl, rfl, rfl, rfl⟩
  · rw [hp, hm]
    simp only [Bool.not_true, Bool.false_eq_true, false_or, or_false]
    intro hbad
    rcases hbad with h | h | h | h | h | h | ⟨h, h'⟩
    · exact hasid h
    · omega
    · omega
    · omega
    · omega
    · exact hpart h
    · exact h' (hgang h)

theorem createContext_refuses (h : ¬ s.createContextOk) : exec .createContext s = .next (finished q c s 2 0) := by
  rw [show exec .createContext s = execCreateContext s from rfl, execCreateContext]
  dsimp only
  rw [if_neg (by simp [hnone]), if_pos, hin.finish]
  by_contra hfields
  simp only [not_or, Bool.not_eq_true, Bool.not_eq_false', Nat.not_lt, not_and, Decidable.not_not] at hfields
  exact h hfields
end
end
end Sys2Proof.Machine

namespace Sys2Proof.Machine
open Sys2Proof

theorem State.park_queues (s : State) : s.park.queues = s.queues := (congrArg State.queues s.park_frame :)

/-! DESTROY_CONTEXT (R66). -/

theorem State.modContext_some {s : State} {n : Nat} {x : Context} (h : tget s.contexts n = some x) (f : Context → Context) :
    s.modContext n f = { s with contexts := tset s.contexts n (f x) } := by rw [State.modContext, h]

/-- The summary bits of a context are the harts' alone. -/
theorem State.lowerFault_hartsOnly {s : State} (h : s.acting = false) (ctx : Nat) : ∃ hs, s.lowerFault ctx = { s with harts := hs } := by
  unfold State.lowerFault
  split
  · exact ⟨s.harts, rfl⟩
  · rw [State.park_of_not_acting h]
    exact ⟨_, rfl⟩

/-- Without a core that holds it and with nothing saved, a context has no steps. -/
theorem State.stepsOf_nil {s : State} {n : Nat} {x : Context} (hx : tget s.contexts n = some x) (hsaved : x.saved = [])
    (hcores : s.coresHolding n = []) : s.stepsOf n = [] := by
  unfold State.stepsOf
  rw [hx, Option.map_some, Option.getD_some, hsaved, List.flatMap_nil, List.append_nil, List.flatMap_eq_nil_iff]
  intro p hp
  refine if_neg (fun e => ?_)
  rw [State.coresHolding, List.map_eq_nil_iff, List.filter_eq_nil_iff] at hcores
  exact hcores p hp (decide_eq_true e)

section
variable {s : State} {q : HostQueue} {c : Started} (hin : InProgress s q c)
include hin

/-- A context with no step, no launch and no LAUNCH in progress goes at once. -/
theorem destroyContext_destroys {x : Context} (hp : s.paramsOk [] = true) (hx : tget s.contexts s.inp.slot = some x) (hsaved : x.saved = [])
    (hcores : s.park.coresHolding s.inp.slot = []) (hl : s.park.launches s.inp.slot = false)
    (hidle : ∀ n q', (n, q') ∈ s.queues → ∀ d ∈ q'.started, d.opc = 0x20 → d.ctx ≠ s.inp.slot) :
    ∃ t, exec .destroyContext s = .next t ∧ tget t.contexts s.inp.slot = none ∧
      (∀ n, n ≠ s.inp.slot → tget t.contexts n = tget s.contexts n) ∧ t.queues = (finished q c s 0 0).queues ∧ t.cores = s.park.cores ∧
      t.mem = s.mem := by
  rw [show exec .destroyContext s = execDestroyContext s from rfl, execDestroyContext]
  dsimp only
  have hpark : tget s.park.contexts s.inp.slot = some x := by rw [s.park_contexts]; exact hx
  rw [if_neg (by simp [hp]), State.modContext_some hpark (fun x => { x with destroying := true })]
  generalize hu1 : ({ s.park with contexts := tset s.park.contexts s.inp.slot { x with destroying := true } } : State) = u1
  have hx1 : tget u1.contexts s.inp.slot = some { x with destroying := true } := by rw [← hu1]; exact tget_tset_self _ _ _
  have hcores1 : u1.coresHolding s.inp.slot = [] := by rw [← hu1]; exact hcores
  rw [State.stepsOf_nil hx1 hsaved hcores1, List.foldl_nil, State.modContext_some hx1]
  dsimp only
  generalize hu2 : ({ u1 with
    contexts := tset u1.contexts s.inp.slot { x with destroying := true, saved := [], siglog := [], swapped := [], pendingFaults := [] } } : State) = u2
  have hact : u2.acting = false := by rw [← hu2, ← hu1]; exact s.park_acting
  obtain ⟨hs, hlow⟩ := State.lowerFault_hartsOnly hact s.inp.slot
  rw [hlow]
  have hcores2 : State.coresHolding { u2 with harts := hs } s.inp.slot = [] := by rw [← hu2]; exact hcores1
  have hl2 : State.launches { u2 with harts := hs } s.inp.slot = false := by rw [← hu2, ← hu1]; exact hl
  have hq : u2.queues = s.queues := by rw [← hu2, ← hu1]; exact s.park_queues
  have hqs : u2.queues.any (fun q => q.2.started.any (fun c => c.opc == 0x20 && c.ctx == s.inp.slot)) = false := by
    rw [hq]
    refine List.any_eq_false.mpr (fun p hp' => Bool.not_eq_true _ ▸ List.any_eq_false.mpr (fun d hd hm => ?_))
    obtain ⟨hopc, hctx⟩ := (Bool.and_eq_true _ _).mp hm
    exact hidle p.1 p.2 hp' d hd (eq_of_beq hopc) (eq_of_beq hctx)
  rw [hcores2, hl2, hqs]
  dsimp only [List.findSome?_nil, List.foldl_nil]
  have hi : u2.inp = s.inp := by rw [← hu2, ← hu1]; exact s.park_inp
  rw [if_neg (by decide), hin.finish_of (by exact hq) (by exact hi)]
  refine ⟨_, rfl, tget_tdel_self _ _, fun n hn => (tget_tdel_ne _ hn).trans ?_, ?_, ?_, ?_⟩
  · rw [← hu2, ← hu1, tget_tset_ne _ _ _ _ hn, tget_tset_ne _ _ _ _ hn, s.park_contexts]
  · unfold finished
    dsimp only
    rw [hq, hi]
  · rw [← hu2, ← hu1]
    rfl
  · rw [← hu2, ← hu1]
    exact s.park_mem
end
end Sys2Proof.Machine

namespace Sys2Proof.Machine
open Sys2Proof

/-! SET_HOME_MAP (R66, R173). -/

/-- A change that made twice is the same as made once, made to some cores. -/
theorem State.getCore_modCores_idem {f : Core → Core} (hf : ∀ k, f (f k) = f k) (cs : List Nat) (s : State) (e : Nat) :
    (cs.foldl (fun s c => s.modCore c f) s).getCore e = if e ∈ cs then f (s.getCore e) else s.getCore e := by
  induction cs generalizing s with
  | nil => simp
  | cons c r ih =>
    rw [List.foldl_cons, ih, State.modCore]
    by_cases he : e = c
    · subst he
      simp [hf]
    · simp [he, State.getCore_setCore_ne _ _ _ _ he]

/-- Reads that are counted do not touch the strand in hand. -/
theorem State.park_countRead (s : State) (a n : Nat) : (s.countRead a n).park = s.park.countRead a n := by
  unfold State.park
  rw [apply_ite (fun t : State => t.countRead a n)]
  rfl

section
variable {s : State} {q : HostQueue} {c : Started} (hin : InProgress s q c)
include hin

theorem setHomeMap_sets {x : Context} {v : Nat} (hp : s.paramsOk [maskOf 51 4, maskOf 8 0] = true) (hlow : 1 ≤ s.param 1) (hhigh : s.param 1 ≤ 256)
    (hread : s.readPhys (s.param 0) (16 * s.param 1) = .ok v) (hx : tget s.contexts s.inp.slot = some x) :
    let home := (List.range (s.param 1)).map (fun e => (e, homeEntryOf (v / 2 ^ (128 * e) % 2 ^ 128)))
    ∃ t, exec .setHomeMap s = .next t ∧ tget t.contexts s.inp.slot = some { x with home := home } ∧ t.queues = (finished q c s 0 0).queues ∧
      (∀ k ∈ s.park.coresHolding s.inp.slot, t.getCore k = { s.park.getCore k with home := home }) ∧
      ∀ k, k ∉ s.park.coresHolding s.inp.slot → t.getCore k = s.park.getCore k := by
  dsimp only
  have hpark : tget (s.park.countRead (s.param 0) (16 * s.param 1)).contexts s.inp.slot = some x := by
    rw [← hx]
    exact congrArg (tget · _) s.park_contexts
  rw [show exec .setHomeMap s = execSetHomeMap s from rfl, execSetHomeMap]
  dsimp only
  rw [if_neg (by simp [hp]; omega), (Counted.read s _ _).sameMemory.readPhys,
    show (s.countRead (s.param 0) (16 * s.param 1)).param 0 = s.param 0 from rfl, hread]
  dsimp only
  generalize (List.range (s.param 1)).map (fun e => (e, homeEntryOf (v / 2 ^ (128 * e) % 2 ^ 128))) = home
  rw [State.park_countRead, State.modContext_some hpark]
  generalize hu : ({ s.park.countRead (s.param 0) (16 * s.param 1) with
    contexts := tset (s.park.countRead (s.param 0) (16 * s.param 1)).contexts s.inp.slot { x with home := home } } : State) = u
  have hcores : u.coresHolding s.inp.slot = s.park.coresHolding s.inp.slot := by rw [← hu]; rfl
  have hcore (k : Nat) : u.getCore k = s.park.getCore k := by rw [← hu]; rfl
  have hctx : tget u.contexts s.inp.slot = some { x with home := home } := by rw [← hu]; exact tget_tset_self _ _ _
  have hq : u.queues = s.queues := by rw [← hu]; exact s.park_queues
  have hi : u.inp = s.inp := by rw [← hu]; exact s.park_inp
  rw [hcores]
  have hget := State.getCore_modCores_idem (f := fun k => { k with home := home }) (fun _ => rfl) (s.park.coresHolding s.inp.slot) u
  have hkeep := foldl_keeps State.coreless (fun t c => t.modCore_coreless c (fun k => { k with home := home })) (s.park.coresHolding s.inp.slot) u
  generalize (s.park.coresHolding s.inp.slot).foldl _ u = w at hget hkeep ⊢
  have hwq : w.queues = s.queues := (congrArg State.queues hkeep :).trans hq
  have hwi : w.inp = s.inp := (congrArg State.inp hkeep :).trans hi
  rw [hin.finish_of (by exact hwq) (by exact hwi)]
  refine ⟨_, rfl, ?_, ?_, fun k hk => ?_, fun k hk => ?_⟩
  · exact (congrArg (tget · _) (congrArg State.contexts hkeep :)).trans hctx
  · unfold finished
    dsimp only
    rw [hwq, hwi]
  · refine (hget k).trans ?_
    rw [if_pos hk, hcore]
  · refine (hget k).trans ?_
    rw [if_neg hk, hcore]
end

/-! LAUNCH (R96). -/

theorem State.harbour_modHarbour_ne (s : State) {d e : Nat} (f : Harbour → Harbour) (h : e % 4 ≠ d % 4) :
    (s.modHarbour d f).harbour e = s.harbour e := by
  unfold State.modHarbour State.harbour
  simp [h.symm]

/-- A launch record handed to dies that have room for it: each takes it, and no more changes. -/
theorem State.submitAll (rec : Nat) (ds : List Nat) (hn : ds.Nodup) (hlt : ∀ d ∈ ds, d < 4) (s : State)
    (hroom : ∀ d ∈ ds, (s.harbour d).submit.length < 64) :
    let t := ds.foldl (fun s d => s.submitTo rec d) s
    { t with harbours := s.harbours, work := s.work } = s ∧ t.work = s.work ++ ds.map (fun d => todo .hmTakeRecord { Input.none with die := d }) ∧
      ∀ d, d < 4 → (t.harbour d).submit = (s.harbour d).submit ++ (if d ∈ ds then [(rec, false, some s.inp.n)] else []) := by
  induction ds generalizing s with
  | nil => exact ⟨rfl, by simp, by simp⟩
  | cons d r ih =>
    dsimp only at ih ⊢
    obtain ⟨hd, hr⟩ := List.nodup_cons.mp hn
    obtain ⟨hd4, hr4⟩ := List.forall_mem_cons.mp hlt
    obtain ⟨hdroom, hrroom⟩ := List.forall_mem_cons.mp hroom
    have hone : s.submitTo rec d =
        (s.modHarbour d (fun h => { h with submit := h.submit ++ [(rec, false, some s.inp.n)] })).later .hmTakeRecord { Input.none with die := d } := by
      unfold State.submitTo
      rw [State.submitRecord_room hdroom]
      rfl
    have hself := State.harbour_modHarbour s d (fun h => { h with submit := h.submit ++ [(rec, false, some s.inp.n)] })
    have hother (e : Nat) (he : e < 4) (hne : e ≠ d) := State.harbour_modHarbour_ne s (d := d) (e := e)
      (fun h => { h with submit := h.submit ++ [(rec, false, some s.inp.n)] }) (by omega)
    rw [List.foldl_cons, hone]
    obtain ⟨hframe, hwork, hsub⟩ := ih hr hr4
      ((s.modHarbour d (fun h => { h with submit := h.submit ++ [(rec, false, some s.inp.n)] })).later .hmTakeRecord { Input.none with die := d })
      (fun e he => (congrArg (fun h => h.submit.length) (hother e (hr4 e he) (fun h => hd (h ▸ he)))).trans_lt (hrroom e he))
    refine ⟨?_, ?_, fun e he => ?_⟩
    · exact congrArg (fun t : State => { t with harbours := s.harbours, work := s.work }) hframe
    · rw [hwork]
      simp [State.later, State.modHarbour, todo]
    · rw [hsub e he]
      by_cases hed : e = d
      · subst hed
        rw [if_neg hd, if_pos (List.mem_cons_self ..), List.append_nil]
        exact congrArg Harbour.submit hself
      · rw [if_congr (List.mem_cons.trans (or_iff_right hed)) rfl rfl]
        exact congrArg (fun h => h.submit ++ _) (hother e he hed)

section
variable {s : State} {q : HostQueue} {c : Started} (hin : InProgress s q c) (hp : s.paramsOk [maskOf 51 9, maskOf 3 0] = true)
include hin hp

theorem launch_unread {e : Nat} (hread : s.readPhys (s.param 0 + 10) 2 = .error e) :
    exec .launch s = .next (finished q c (s.countRead (s.param 0) 512) 2 0xFFFF) := by
  rw [show exec .launch s = execLaunch s from rfl, execLaunch]
  dsimp only
  rw [if_neg (by simp [hp]), (Counted.read s _ _).sameMemory.readPhys, hread]
  exact congrArg _ (hin.finish_of (by rfl) (by rfl) _ _)

section
variable {v : Nat} (hread : s.readPhys (s.param 0 + 10) 2 = .ok v)
include hread

theorem launch_disagrees (h : s.param 1 = 0 ∨ v % 256 ≠ s.param 1 ∨ v / 256 ≠ s.inp.slot) :
    exec .launch s = .next (finished q c (s.countRead (s.param 0) 512) 2 0) := by
  rw [show exec .launch s = execLaunch s from rfl, execLaunch]
  dsimp only
  rw [if_neg (by simp [hp]), (Counted.read s _ _).sameMemory.readPhys, hread]
  dsimp only
  rw [if_pos h]
  exact congrArg _ (hin.finish_of (by rfl) (by rfl) _ _)

theorem launch_submits (hmask : s.param 1 ≠ 0) (hagree : v % 256 = s.param 1) (hctx : v / 256 = s.inp.slot)
    (hroom : ∀ d, d < 4 → (s.harbour d).submit.length < 64) (hfirst : ∀ d ∈ q.started, d.uid = s.inp.n → d.resubmit = []) :
    let dies := (List.range 4).filter (fun d => (s.param 1).testBit d)
    ∃ t, exec .launch s = .next t ∧ t.mem = s.mem ∧
      tget t.queues s.inp.queue = some { q with
        started := q.started.map (fun d => if d = c then { c with record := s.param 0, dies := dies } else d) } ∧
      (∀ d, d < 4 → (t.harbour d).submit = (s.harbour d).submit ++ (if d ∈ dies then [(s.param 0, false, some s.inp.n)] else [])) ∧
      t.work = s.work ++ dies.map (fun d => todo .hmTakeRecord { Input.none with die := d }) := by
  intro dies
  rw [show exec .launch s = execLaunch s from rfl, execLaunch]
  dsimp only
  rw [if_neg (by simp [hp]), (Counted.read s _ _).sameMemory.readPhys, hread]
  dsimp only
  rw [if_neg (by simp [hmask, hagree, hctx]), show bitsSet 4 (s.param 1) = dies from rfl]
  have hmod : (s.countRead (s.param 0) 512).modStarted (fun c => { c with record := s.param 0, dies := dies }) =
      { s.countRead (s.param 0) 512 with queues := tset s.queues s.inp.queue { q with
          started := q.started.map (fun d => if d = c then { c with record := s.param 0, dies := dies } else d) } } := by
    unfold State.modStarted
    dsimp only
    rw [show (s.countRead (s.param 0) 512).queues = s.queues from rfl, show (s.countRead (s.param 0) 512).inp = s.inp from rfl, hin.1]
    dsimp only
    rw [hin.2]
    dsimp only
    congr 4
    funext d
    split
    next h => rw [h]
    next h => rfl
  rw [hmod]
  obtain ⟨hframe, hwork, hsub⟩ := State.submitAll (s.param 0) dies (List.nodup_range.filter _)
    (fun d hd => List.mem_range.mp (List.mem_filter.mp hd).1) { s.countRead (s.param 0) 512 with queues := tset s.queues s.inp.queue { q with
          started := q.started.map (fun d => if d = c then { c with record := s.param 0, dies := dies } else d) } }
    (fun d hd => hroom d (List.mem_range.mp (List.mem_filter.mp hd).1))
  generalize dies.foldl _ _ = t at hframe hwork hsub ⊢
  have hq : tget t.queues s.inp.queue = some { q with
      started := q.started.map (fun d => if d = c then { c with record := s.param 0, dies := dies } else d) } :=
    (congrArg (tget · _) (congrArg State.queues hframe :)).trans (tget_tset_self _ _ _)
  rw [hq, Option.any_some, if_neg]
  · exact ⟨t, rfl, (congrArg State.mem hframe :), hq, hsub, hwork⟩
  · rw [List.any_eq_true]
    rintro ⟨d, hd, hwaits⟩
    obtain ⟨hmine, hresub⟩ := (Bool.and_eq_true _ _).mp hwaits
    obtain ⟨e, he, rfl⟩ := List.mem_map.mp hd
    split at hmine
    next hc =>
      rw [if_pos hc] at hresub
      simp [hfirst c hin.mem (eq_of_beq hmine)] at hresub
    next hc =>
      rw [if_neg hc] at hresub
      simp [hfirst e he (eq_of_beq hmine)] at hresub
end
end
end Sys2Proof.Machine

namespace Sys2Proof.Machine
open Sys2Proof

/-! Page tables as MAP and UNMAP write them (R67, R171-R175). -/

/-- Two states that differ only in memory, the pool of tables, the replicas and the append units. -/
def TablesOnly (s t : State) : Prop := { t with mem := s.mem, ptPool := s.ptPool, replicas := s.replicas, units := s.units } = s

namespace TablesOnly

theorem refl (s : State) : TablesOnly s s := rfl

theorem trans {s t u : State} (h : TablesOnly s t) (g : TablesOnly t u) : TablesOnly s u :=
  (congrArg (fun x : State => { x with mem := s.mem, ptPool := s.ptPool, replicas := s.replicas, units := s.units }) g :).trans h

theorem put (s : State) (a : Nat) (bs : List Byte) : TablesOnly s (s.put a bs) := rfl

theorem newTable {s t : State} {size a : Nat} (h : s.newTable size = some (a, t)) : TablesOnly s t := by
  unfold State.newTable at h
  dsimp only at h
  split at h
  · cases h
  · cases h
    rfl

theorem rootTable {s t : State} {asid root : Nat} (h : s.rootTable asid = some (root, t)) : TablesOnly s t := by
  unfold State.rootTable at h
  dsimp only at h
  split at h
  · obtain ⟨-, rfl⟩ := Prod.mk.inj (Option.some.inj h)
    exact refl _
  · obtain ⟨⟨a, u⟩, hu, ht⟩ := Option.map_eq_some_iff.mp h
    cases ht
    exact (newTable hu).trans (put u _ _)

theorem entryPlace {s t : State} {va target l table pa : Nat} (h : s.entryPlace va target l table = some (pa, t)) : TablesOnly s t := by
  induction l generalizing s table with
  | zero =>
    obtain ⟨-, rfl⟩ := Prod.mk.inj (Option.some.inj h)
    exact refl _
  | succ l ih =>
    unfold State.entryPlace at h
    dsimp only at h
    split at h
    · obtain ⟨-, rfl⟩ := Prod.mk.inj (Option.some.inj h)
      exact refl _
    · split at h
      · exact ih h
      · split at h
        · cases h
        next a u hu => exact (newTable hu).trans ((put u _ _).trans (ih h))

theorem ite_mem (p : Prop) [Decidable p] {s t u : State} (ht : TablesOnly s t ∧ t.mem = s.mem) (hu : TablesOnly s u ∧ u.mem = s.mem) :
    TablesOnly s (if p then t else u) ∧ (if p then t else u).mem = s.mem := by
  split
  · exact ht
  · exact hu
end TablesOnly

/-- A leaf written at its place: of memory nothing else changes. -/
theorem State.mapOne_writes {s s1 s2 : State} {asid va level root pa : Nat} (e : BitVec 64) (hroot : s.rootTable asid = some (root, s1))
    (hplace : s1.entryPlace va level 3 root = some (pa, s2)) :
    ∃ u, s.mapOne asid va level e = some u ∧ TablesOnly s u ∧ u.mem = mstore s2.mem pa (bytesOf 8 e.toNat) := by
  have htables := (TablesOnly.rootTable hroot).trans (TablesOnly.entryPlace hplace)
  unfold State.mapOne
  dsimp only
  rw [hroot]
  dsimp only
  rw [hplace]
  dsimp only
  obtain ⟨hold, holdmem⟩ := TablesOnly.ite_mem ((leafV (BitVec.ofNat 64 (s2.peek pa 8)) && leafLeaf (BitVec.ofNat 64 (s2.peek pa 8))) = true)
    (t := s2.dropReplicas (leafAddr (BitVec.ofNat 64 (s2.peek pa 8))) (pageSize level)) (s := s2) ⟨rfl, rfl⟩ ⟨rfl, rfl⟩
  generalize (if (leafV _ && _) = true then s2.dropReplicas _ _ else s2) = u1 at hold holdmem ⊢
  obtain ⟨hnew, hnewmem⟩ := TablesOnly.ite_mem (leafClass e = 3) (s := u1.poke pa 8 e.toNat) (t := u1.poke pa 8 e.toNat)
    (u := (u1.poke pa 8 e.toNat).dropReplicas (leafAddr e) (pageSize level)) ⟨rfl, rfl⟩ ⟨rfl, rfl⟩
  generalize (if leafClass e = 3 then u1.poke pa 8 e.toNat else _) = u2 at hnew hnewmem ⊢
  obtain ⟨hunit, hunitmem⟩ := TablesOnly.ite_mem (leafClass e = 1) (s := u2) (t := u2.openUnits (leafAddr e) (pageSize level)) ⟨rfl, rfl⟩ ⟨rfl, rfl⟩
  refine ⟨_, rfl, htables.trans (hold.trans ((TablesOnly.put u1 pa _).trans (hnew.trans hunit))), hunitmem.trans (hnewmem.trans ?_)⟩
  exact congrArg (fun m => mstore m pa (bytesOf 8 e.toNat)) holdmem

theorem State.mapOne_none {s : State} {asid : Nat} (h : s.rootTable asid = none) (va level : Nat) (e : BitVec 64) :
    s.mapOne asid va level e = none := by
  rw [State.mapOne, h]

theorem State.mapAll_one (s : State) (asid va level : Nat) (e : BitVec 64) : s.mapAll asid va level e 1 = s.mapOne asid va level e :=
  Option.bind_fun_some _

theorem State.slotAt_park (s : State) (asid va level : Nat) : s.park.slotAt asid va level = s.slotAt asid va level := by
  unfold State.slotAt State.peek
  rw [s.park_mem]

/-- Every translation of an ASID gone, and nothing else that the host's commands say changed. -/
theorem State.invalidate_spec (s : State) (asid : Nat) :
    (s.invalidate asid).queues = s.queues ∧ (s.invalidate asid).inp = s.inp ∧ (s.invalidate asid).mem = s.mem ∧
      (s.invalidate asid).units = s.units ∧ ∀ k ∈ (s.invalidate asid).cores, ∀ x ∈ k.2.tlb, x.asid ≠ asid := by
  refine ⟨s.park_queues, s.park_inp, s.park_mem, s.park_units, fun k hk x hx => ?_⟩
  obtain ⟨p, -, rfl⟩ := List.mem_map.mp hk
  simpa using (List.mem_filter.mp hx).2

/-- The command's end after the translations of an ASID are invalidated. -/
theorem InProgress.invalidated {s u : State} {q : HostQueue} {c : Started} (hin : InProgress s q c) (hq : u.queues = s.queues) (hi : u.inp = s.inp)
    (asid : Nat) :
    ∃ t, (u.invalidate asid).finish 0 0 = t ∧ t.queues = (finished q c s 0 0).queues ∧ (∀ k ∈ t.cores, ∀ x ∈ k.2.tlb, x.asid ≠ asid) ∧
      t.mem = u.mem ∧ t.units = u.units := by
  obtain ⟨hq', hi', hmem, hunits, htlb⟩ := u.invalidate_spec asid
  rw [hin.finish_of (hq'.trans hq) (hi'.trans hi)]
  refine ⟨_, rfl, ?_, htlb, hmem, hunits⟩
  unfold finished
  dsimp only
  rw [hq', hi', hq, hi]

/-- A command whose context is gone ends with 0x0002 (R67). -/
theorem inContext_gone {s : State} {q : HostQueue} {c : Started} (hin : InProgress s q c) (h : tget s.contexts s.inp.slot = none) :
    exec .map s = .next (finished q c s 2 0) ∧ exec .unmap s = .next (finished q c s 2 0) ∧ exec .freePage s = .next (finished q c s 2 0) := by
  have hgone (f : State → State) : s.inContext f = finished q c s 2 0 := by
    rw [State.inContext, h, ← hin.finish]
    exact if_pos rfl
  exact ⟨congrArg _ (hgone _), congrArg _ (hgone _), congrArg _ (hgone _)⟩

theorem State.inContext_some {s : State} (h : tget s.contexts s.inp.slot ≠ none) (f : State → State) : s.inContext f = f s :=
  if_neg (by simpa using h)

/-! MAP. -/

/-- The leaf that the parameters of a MAP make (R67, R173). -/
def State.mapLeaf (s : State) : BitVec 64 :=
  w64 (3 + bitsN (s.param 3) 3 2 * 4 + bitsN (s.param 3) 6 4 * 16 + bitsN (s.param 3) 11 8 * 256 + s.param 1 + bitsN (s.param 3) 24 16 * 2 ^ 52)

section
variable {s : State} {q : HostQueue} {c : Started} (hctx : tget s.contexts s.inp.slot ≠ none)
include hctx

/-- A MAP of one page with fields in range, while nothing holds a translation of its address space. -/
theorem map_one (hok : s.mapOk s.mapLeaf) (hslot : s.slotAt s.cmdAsid (s.param 0) (s.param 3 % 4) ≠ .other)
    (hfree : s.park.holdsAny s.cmdAsid = none)
    (hl : s.park.heldByLaunch s.cmdAsid (s.param 0) (pageSize (s.param 3 % 4)) = true →
      s.park.slotAt s.cmdAsid (s.param 0) (s.param 3 % 4) = .empty) :
    exec .map s = .next (((s.park.mapOne s.cmdAsid (s.param 0) (s.param 3 % 4) s.mapLeaf).map
      (fun u => (u.invalidate s.cmdAsid).finish 0 0)).getD (s.park.finish 5 0)) := by
  obtain ⟨hp, hcount, hlevel, hleaf, hclass, halign, hva, hpa, hhost⟩ := hok
  rw [show exec .map s = execMap s from rfl, execMap]
  dsimp only
  rw [State.inContext_some hctx, if_neg, hfree]
  · dsimp only
    rw [if_neg]
    · rw [hcount, State.mapAll_one, show BitVec.ofNat 64 _ = s.mapLeaf from rfl, show sizeLevel (s.param 3 % 4) = s.param 3 % 4 from rfl]
      cases s.park.mapOne s.cmdAsid (s.param 0) (s.param 3 % 4) s.mapLeaf with
      | none => rfl
      | some u => rfl
    · rw [hcount, Nat.one_mul]
      rintro ⟨hheld, hany⟩
      simp [sizeLevel, hl hheld] at hany
  · rw [hcount, Nat.one_mul]
    rintro (h | h | h | h | h | h | h | h | h | h)
    · simp [hp] at h
    · cases h
    · exact hlevel h
    · exact Bool.false_ne_true (hleaf.symm.trans h)
    · exact absurd (hclass h.1) (Nat.not_lt.mpr h.2)
    · exact h halign
    · exact absurd hva (Nat.not_le.mpr h)
    · exact absurd hpa (Nat.not_le.mpr h)
    · simp only [Bool.not_eq_true', decide_eq_false_iff_not] at h
      obtain ⟨hnot, hbad⟩ := h
      obtain ⟨hdiv, hmap⟩ := hhost.resolve_left hnot
      exact hbad.elim (· hdiv) (fun hb => Bool.false_ne_true (hb.symm.trans hmap))
    · simp [sizeLevel, hslot] at h

section
variable (hin : InProgress s q c) (hok : s.mapOk s.mapLeaf) (hslot : s.slotAt s.cmdAsid (s.param 0) (s.param 3 % 4) ≠ .other)
  (hfree : s.park.holdsAny s.cmdAsid = none)
  (hl : s.park.heldByLaunch s.cmdAsid (s.param 0) (pageSize (s.param 3 % 4)) = true →
    s.park.slotAt s.cmdAsid (s.param 0) (s.param 3 % 4) = .empty)
include hin hok hslot hfree hl

theorem map_writes {pa root : Nat} {s1 s2 : State} (hroot : s.park.rootTable s.cmdAsid = some (root, s1))
    (hplace : s1.entryPlace (s.param 0) (s.param 3 % 4) 3 root = some (pa, s2)) :
    ∃ t, exec .map s = .next t ∧ t.mem = mstore s2.mem pa (bytesOf 8 s.mapLeaf.toNat) ∧ t.queues = (finished q c s 0 0).queues ∧
      ∀ k ∈ t.cores, ∀ x ∈ k.2.tlb, x.asid ≠ s.cmdAsid := by
  obtain ⟨u, hu, htables, humem⟩ := State.mapOne_writes s.mapLeaf hroot hplace
  have hq : u.queues = s.queues := (congrArg State.queues htables :).trans s.park_queues
  have hi : u.inp = s.inp := (congrArg State.inp htables :).trans s.park_inp
  obtain ⟨t, ht, hdone, htlb, hmem, -⟩ := hin.invalidated hq hi s.cmdAsid
  rw [map_one hctx hok hslot hfree hl, hu, Option.map_some, Option.getD_some, ht]
  exact ⟨t, rfl, hmem.trans humem, hdone, htlb⟩

/-- Where the pool is used up there is no root for the address space. -/
theorem map_full (hroot : s.park.rootTable s.cmdAsid = none) : exec .map s = .next (finished q c s.park 5 0) := by
  rw [map_one hctx hok hslot hfree hl, State.mapOne_none hroot]
  exact congrArg _ (hin.finish_of s.park_queues s.park_inp 5 0)
end

/-! UNMAP and FREE_PAGE. -/

/-- The leaf of a page of a size gone, where its place holds one, and the replicas of the page with it. -/
def State.unmapSlot (s : State) (size : Nat) : Slot → State
  | .leaf pa e => (s.dropReplicas (leafAddr e) size).poke pa 8 0
  | _ => s

section
variable (hin : InProgress s q c)
include hin

section
variable (hp : s.paramsOk [maskOf 56 16, 0, maskOf 31 0, maskOf 1 0] = true) (hcount : s.param 2 = 1) (hlevel : s.param 3 ≠ 3)
  (halign : s.param 0 % pageSize (s.param 3 % 4) = 0) (hva : s.param 0 + pageSize (s.param 3 % 4) ≤ 2 ^ 57)
include hp hcount hlevel halign hva

omit hp hlevel halign hva in
theorem unmap_other (hother : s.slotAt s.cmdAsid (s.param 0) (s.param 3 % 4) = .other) : exec .unmap s = .next (finished q c s 2 0) := by
  rw [show exec .unmap s = execUnmap s from rfl, execUnmap]
  dsimp only
  rw [State.inContext_some hctx, if_pos, hin.finish]
  rw [hcount]
  simp [sizeLevel, hother]

/-- What a page's place holds is gone, where it is a leaf of the page's size. -/
theorem unmap_clears (hfree : s.park.holdsAny s.cmdAsid = none)
    (hl : s.park.heldByLaunch s.cmdAsid (s.param 0) (pageSize (s.param 3 % 4)) = false)
    (hslot : s.slotAt s.cmdAsid (s.param 0) (s.param 3 % 4) ≠ .other) :
    ∃ t, exec .unmap s = .next t ∧ t.queues = (finished q c s 0 0).queues ∧ (∀ k ∈ t.cores, ∀ x ∈ k.2.tlb, x.asid ≠ s.cmdAsid) ∧
      (s.slotAt s.cmdAsid (s.param 0) (s.param 3 % 4) = .empty → t.mem = s.mem) ∧
      ∀ pa e, s.slotAt s.cmdAsid (s.param 0) (s.param 3 % 4) = .leaf pa e → t.mem = mstore s.mem pa (bytesOf 8 0) := by
  have hnext (sl : Slot) (hs : s.slotAt s.cmdAsid (s.param 0) (s.param 3 % 4) = sl) :
      exec .unmap s = .next (((s.park.unmapSlot (pageSize (s.param 3 % 4)) sl).invalidate s.cmdAsid).finish 0 0) := by
    rw [show exec .unmap s = execUnmap s from rfl, execUnmap]
    dsimp only
    rw [State.inContext_some hctx, if_neg, hfree]
    · dsimp only
      rw [if_neg (by rw [hcount, Nat.one_mul]; exact Bool.eq_false_iff.mp hl), hcount, List.range_one, List.foldl_cons, List.foldl_nil, Nat.zero_mul,
        Nat.add_zero, s.slotAt_park, show sizeLevel (s.param 3 % 4) = s.param 3 % 4 from rfl, hs]
      cases sl <;> rfl
    · rw [hcount, Nat.one_mul]
      simp [sizeLevel, hslot, hp, hlevel, halign]
      exact hva
  cases hs : s.slotAt s.cmdAsid (s.param 0) (s.param 3 % 4) with
  | other => exact absurd hs hslot
  | empty =>
    obtain ⟨t, ht, hdone, htlb, hmem, -⟩ := hin.invalidated (u := s.park.unmapSlot (pageSize (s.param 3 % 4)) .empty) s.park_queues s.park_inp s.cmdAsid
    rw [hnext _ hs, ht]
    exact ⟨t, rfl, hdone, htlb, fun _ => hmem.trans s.park_mem, nofun⟩
  | leaf pa e =>
    obtain ⟨t, ht, hdone, htlb, hmem, -⟩ := hin.invalidated (u := s.park.unmapSlot (pageSize (s.param 3 % 4)) (.leaf pa e))
      s.park_queues s.park_inp s.cmdAsid
    rw [hnext _ hs, ht]
    refine ⟨t, rfl, hdone, htlb, nofun, fun pa' e' h => ?_⟩
    cases h
    exact hmem.trans (congrArg (fun m => mstore m pa (bytesOf 8 0)) s.park_mem)
end

section
variable (hp : s.paramsOk [maskOf 56 16] = true)
include hp

theorem freePage_other (h : ∀ e, s.walk s.cmdAsid (s.param 0) = .leaf 0 e → leafClass e ≠ 1) : exec .freePage s = .next (finished q c s 2 0) := by
  rw [show exec .freePage s = execFreePage s from rfl, execFreePage]
  dsimp only
  rw [State.inContext_some hctx, if_neg (by simp [hp]), ← hin.finish]
  split
  next e he => rw [if_pos (h e he)]
  next => rfl

/-- Every unit of an append page is open again: those of the page without a seal to fault are gone from the table. -/
theorem freePage_opens {e : BitVec 64} (hw : s.walk s.cmdAsid (s.param 0) = .leaf 0 e) (hclass : leafClass e = 1)
    (hfree : s.park.holdsAny s.cmdAsid = none)
    (hfuts : ∀ u ∈ s.units, (decide (leafAddr e ≤ u.1) && decide (u.1 < leafAddr e + 0x10000)) = true → u.2.futs = []) :
    ∃ t, exec .freePage s = .next t ∧
      t.units = s.units.filter (fun u => !(decide (leafAddr e ≤ u.1) && decide (u.1 < leafAddr e + 0x10000))) ∧ t.mem = s.mem ∧
      t.queues = (finished q c s 0 0).queues := by
  rw [show exec .freePage s = execFreePage s from rfl, execFreePage]
  dsimp only
  rw [State.inContext_some hctx, if_neg (by simp [hp])]
  split
  next e' he =>
    obtain ⟨-, rfl⟩ := Walk.leaf.inj (hw.symm.trans he)
    rw [if_neg (by simp [hclass]), hfree]
    dsimp only
    have hfold (l : List (Nat × AppUnit)) (u : State) (hl : ∀ x ∈ l, x.2.futs = []) :
        l.foldl (fun (s : State) (x : Nat × AppUnit) => x.2.futs.foldl (fun s f => s.resolveLoc f.1 none f.2.1 f.2.2.1 f.2.2.2) s) u = u := by
      induction l with
      | nil => rfl
      | cons x r ih =>
        rw [List.foldl_cons, hl x (by simp), List.foldl_nil]
        exact ih (fun y hy => hl y (by simp [hy]))
    rw [hfold _ _ (fun x hx => by
      obtain ⟨hmem, hin⟩ := List.mem_filter.mp hx
      rw [s.park_units] at hmem
      exact hfuts x hmem hin)]
    obtain ⟨t, ht, hdone, -, hmem, hunits⟩ := hin.invalidated (u := (s.park.openUnits (leafAddr e) 0x10000).dropReplicas (leafAddr e) 0x10000)
      s.park_queues s.park_inp s.cmdAsid
    rw [ht]
    refine ⟨t, rfl, hunits.trans ?_, hmem.trans s.park_mem, hdone⟩
    show s.park.units.filter _ = _
    rw [s.park_units]
    refine List.filter_congr (fun u _ => ?_)
    rw [Bool.not_and, ← decide_not, ← decide_not]
    simp
  next hno => exact absurd hw (hno e)
end
end
end

/-! READ_MANIFEST (R92, R93). -/

end Sys2Proof.Machine

namespace Sys2Proof.Machine
open Sys2Proof

/-! READ_MANIFEST (R92, R93). -/

theorem padTo_length_max (n : Nat) (bs : List Byte) : (padTo n bs).length = max n bs.length := by
  unfold padTo
  rw [List.length_append, List.length_replicate]
  omega

/-- The sections of the block fit their places, so that the block is 4 KiB. -/
theorem State.manifest_length (s : State) : s.manifest.length = 4096 := by
  have hbytes (k : Nat) (l : List Nat) : (l.flatMap (bytesOf k)).length = k * l.length :=
    flatMap_bytes_length _ _ k (fun _ _ => bytesOf_length _ _)
  have hcxl : (s.cxl.toList.flatMap (fun c => bytesOf 1 c.code)).length = 1 * s.cxl.toList.length :=
    flatMap_bytes_length _ _ 1 (fun _ _ => bytesOf_length _ _)
  unfold State.manifest
  dsimp only
  simp only [padTo_length_max, List.length_append, bytesOf_length, hbytes, hcxl, Vector.length_toList]
  decide

theorem maskOf_aligned {a : Nat} (h : a = a &&& maskOf 51 12) : a % 16 = 0 := by
  rw [h, show 16 = 2 ^ 4 from rfl, Nat.and_mod_two_pow, show maskOf 51 12 % 2 ^ 4 = 0 by decide, Nat.and_zero]

theorem State.param_of_paramsOk {s : State} {ms : List Nat} (h : s.paramsOk ms = true) {k : Nat} (hk : k < 6) :
    s.param k = s.param k &&& ms.getD k 0 := of_decide_eq_true (List.all_eq_true.mp h k (List.mem_range.mpr hk))

theorem readManifest_writes {s : State} {q : HostQueue} {c : Started} (hin : InProgress s q c) (hp : s.paramsOk [maskOf 51 12] = true)
    (hm : inMemory (s.param 0) 4096 = true) (hport : s.portDown (s.param 0) = false) :
    ∃ t, exec .readManifest s = .next t ∧ t.queues = (finished q c s 0 0).queues ∧ t.cores = s.cores ∧
      ∀ a, mget t.mem a = if s.param 0 ≤ a ∧ a < s.param 0 + 4096 then s.manifest.getD (a - s.param 0) 0 else mget s.mem a := by
  obtain ⟨u, hu⟩ := s.writePhys_aligned (s.param 0) s.manifest (by rw [s.manifest_length]; exact hm) hport
    (maskOf_aligned (State.param_of_paramsOk hp (by decide))) (by rw [s.manifest_length])
  obtain ⟨-, -, hmem, hframe⟩ := State.writePhys_ok _ _ _ _ hu
  have hq : u.queues = s.queues := (congrArg State.queues hframe :)
  have hi : u.inp = s.inp := (congrArg State.inp hframe :)
  rw [show exec .readManifest s = execReadManifest s from rfl, execReadManifest, if_neg (by simp [hp]), hu]
  dsimp only
  rw [hin.finish_of hq hi]
  refine ⟨_, rfl, ?_, (congrArg State.cores hframe :), fun a => ?_⟩
  · unfold finished
    dsimp only
    rw [hq, hi]
  · refine (congrArg (mget · a) hmem).trans ?_
    rw [mget_mstore, s.manifest_length]
end Sys2Proof.Machine

namespace Sys2Proof.Machine
open Sys2Proof

/-! Commands completed together (R65). -/

/-- A queue with the commands of a test complete. -/
def HostQueue.completed (q : HostQueue) (p : Started → Bool) (status : Nat) (result : Started → Nat) : HostQueue :=
  { q with
    started := q.started.filter (fun c => !p c)
    ready := q.ready ++ (q.started.filter p).map (fun c => { cid := c.cid, sqhd := c.sqhd, status := status, result := BitVec.ofNat 64 (result c) }) }

/-- Where no command passes the test the queue is as it was. -/
theorem HostQueue.completed_none {q : HostQueue} {p : Started → Bool} (h : q.started.filter p = []) (status : Nat) (result : Started → Nat) :
    q.completed p status result = q := by
  have hall : q.started.filter (fun c => !p c) = q.started :=
    List.filter_eq_self.mpr (fun c hc => by simpa using List.filter_eq_nil_iff.mp h c hc)
  unfold HostQueue.completed
  rw [h, hall, List.map_nil, List.append_nil]

section
variable (p : Nat → Started → Bool) (status : Nat) (result : Started → Nat)

theorem State.completeOn_self {s : State} {q : Nat × HostQueue} (h : tget s.queues q.1 = some q.2) :
    tget (s.completeOn p status result q).queues q.1 = some (q.2.completed (p q.1) status result) := by
  unfold State.completeOn
  dsimp only
  split
  next hnone => rw [HostQueue.completed_none (List.isEmpty_iff.mp hnone), h]
  next => exact tget_tset_self _ _ _

theorem State.completeOn_ne (s : State) {q : Nat × HostQueue} {n : Nat} (h : n ≠ q.1) :
    tget (s.completeOn p status result q).queues n = tget s.queues n := by
  unfold State.completeOn
  dsimp only
  split
  · rfl
  · exact tget_tset_ne _ _ _ _ h

/-- The queues' own completions, one after the other. -/
theorem State.foldl_completeOn (l : Table HostQueue) (hd : (l.map (·.1)).Nodup) (s : State) {n : Nat} :
    (n ∉ l.map (·.1) → tget (l.foldl (fun s q => s.completeOn p status result q) s).queues n = tget s.queues n) ∧
      ∀ q, (n, q) ∈ l → tget s.queues n = some q →
        tget (l.foldl (fun s q => s.completeOn p status result q) s).queues n = some (q.completed (p n) status result) := by
  induction l generalizing s with
  | nil => exact ⟨fun _ => rfl, nofun⟩
  | cons r l ih =>
    obtain ⟨hr, hl⟩ := List.nodup_cons.mp hd
    obtain ⟨hout, hin⟩ := ih hl (s.completeOn p status result r)
    refine ⟨fun hn => ?_, fun q hq hs => ?_⟩
    · obtain ⟨hne, hn⟩ := List.ne_and_not_mem_of_not_mem_cons hn
      exact (hout hn).trans (State.completeOn_ne p status result s hne)
    · obtain rfl | hq := List.mem_cons.mp hq
      · exact (hout hr).trans (State.completeOn_self p status result hs)
      · have hne : n ≠ r.1 := fun e => hr (List.mem_map.mpr ⟨(n, q), hq, e⟩)
        exact hin q hq ((State.completeOn_ne p status result s hne).trans hs)

theorem State.completeCmds_completes {s : State} (hd : (s.queues.map (·.1)).Nodup) {n : Nat} {q : HostQueue} (h : tget s.queues n = some q) :
    tget (s.completeCmds p status result).queues n = some (q.completed (p n) status result) :=
  (State.foldl_completeOn p status result s.queues hd s).2 q (mem_of_tget h) h
end

/-- A state whose queues are those of another: its commands of an opcode and a context completed are the other's. -/
theorem State.completedAll {s t : State} (hq : t.queues = s.queues) (hd : (s.queues.map (·.1)).Nodup) (opc ctx : Nat) :
    CompletedAll s (t.completeCmds (fun _ c => c.opc == opc && c.ctx == ctx) 0 (fun _ => 0)) opc ctx := by
  intro n q h
  exact ⟨_, State.completeCmds_completes _ 0 _ (by rw [hq]; exact hd) (by rw [hq]; exact h), rfl, rfl⟩

/-! PREEMPT (R267, R253). -/

/-- SAVEBASE as a swap-out leaves it in memory. -/
def State.savedBase (s : State) (n : Nat) (x : Context) : Mem :=
  if mload s.mem (x.fqBase + 16) 8 = 0 then mstore s.mem (x.fqBase + 16) (bytesOf 8 (saveBaseOf n)) else s.mem

theorem State.swapOut_eq {s : State} {n : Nat} {x : Context} (hx : tget s.contexts n = some x) (dies : List Nat) :
    s.swapOut n dies = { s with
      mem := s.savedBase n x
      contexts := tset s.contexts n { x with swapped := dies.foldl ninsert x.swapped }
      work := s.work ++ ((s.coresHolding n).filter (fun c => dies.contains (dieOf c))).map
        (fun c => todo .contextSave { Input.none with core := c, n := n }) } := by
  have hgive : s.giveSave n = { s with mem := s.savedBase n x } := by
    rw [State.giveSave, hx, State.savedBase]
    by_cases h : mload s.mem (x.fqBase + 16) 8 = 0
    · rw [if_pos h]
      exact if_pos h
    · rw [if_neg h]
      exact if_neg h
  unfold State.swapOut
  rw [hgive]
  dsimp only
  rw [State.modContext_some (x := x) (by exact hx), State.foldl_later]
  rfl

section
variable {s : State} {x : Context} (hx : tget s.contexts s.inp.n = some x) (hd : (s.queues.map (·.1)).Nodup) (hok : s.inp.ok = true)
include hx hd hok

theorem preempt_swaps :
    ∃ t, exec .preempt s = .next t ∧
      (∃ sw, tget t.contexts s.inp.n = some { x with floor := s.inp.addr, swapped := sw } ∧ ∀ d, d ∈ sw ↔ d ∈ x.swapped ∨ d < 4) ∧
      t.cores = s.park.cores ∧
      t.mem = (if mload s.mem (x.fqBase + 16) 8 = 0 then mstore s.mem (x.fqBase + 16) (bytesOf 8 (saveBaseOf s.inp.n)) else s.mem) ∧
      (s.park.coresHolding s.inp.n = [] → CompletedAll s t 0x21 s.inp.n) ∧
      (s.park.coresHolding s.inp.n ≠ [] → t.queues = s.queues ∧
        t.work = s.work ++ ((s.park.coresHolding s.inp.n).filter (fun c => decide (dieOf c < 4))).map
          (fun c => todo .contextSave { Input.none with core := c, n := s.inp.n })) := by
  have hpark : tget s.park.contexts s.inp.n = some x := by rw [s.park_contexts]; exact hx
  rw [show exec .preempt s = execPreempt s from rfl, execPreempt]
  dsimp only
  rw [if_neg (by simp [hpark]), if_pos hok, if_pos hok, State.modContext_some hpark, State.swapOut_eq (by exact tget_tset_self _ _ _)]
  dsimp only
  generalize hu : ({ s.park with
    mem := State.savedBase _ _ _, contexts := tset _ _ _, work := _ ++ _ } : State) = u
  have hctx : tget u.contexts s.inp.n = some { x with floor := s.inp.addr, swapped := [0, 1, 2, 3].foldl ninsert x.swapped } := by
    rw [← hu]
    exact tget_tset_self _ _ _
  have hdies (d : Nat) : d ∈ [0, 1, 2, 3] ↔ d < 4 := by
    simp only [List.mem_cons, List.not_mem_nil, or_false]
    omega
  have hsw (d : Nat) : d ∈ [0, 1, 2, 3].foldl ninsert x.swapped ↔ d ∈ x.swapped ∨ d < 4 := by
    rw [mem_foldl_ninsert, hdies, or_comm]
  have hcores : u.cores = s.park.cores := by rw [← hu]
  have hmem : u.mem = s.savedBase s.inp.n x := by
    rw [← hu]
    unfold State.savedBase
    dsimp only
    rw [s.park_mem]
  have hq : u.queues = s.queues := by rw [← hu]; exact s.park_queues
  have hhold : u.coresHolding s.inp.n = s.park.coresHolding s.inp.n := by rw [← hu]; rfl
  have hfour : (fun c => [0, 1, 2, 3].contains (dieOf c)) = (fun c => decide (dieOf c < 4)) := by
    funext c
    rw [Bool.eq_iff_iff, decide_eq_true_eq, List.contains_iff_mem, hdies]
  have hwork : u.work = s.work ++ ((s.park.coresHolding s.inp.n).filter (fun c => decide (dieOf c < 4))).map
      (fun c => todo .contextSave { Input.none with core := c, n := s.inp.n }) := by
    rw [← hu, ← hfour]
    dsimp only
    rw [s.park_work]
    rfl
  clear hu
  unfold State.swapDone
  rw [hhold]
  by_cases hnone : s.park.coresHolding s.inp.n = []
  · rw [hnone, List.isEmpty_nil, if_pos rfl]
    refine ⟨_, rfl, ⟨_, ?_, hsw⟩, ?_, ?_, fun _ => State.completedAll hq hd _ _, fun h => absurd rfl h⟩
    · rw [State.completeCmds_keeps State.contexts (fun _ _ _ => rfl), hctx]
    · rw [State.completeCmds_keeps State.cores (fun _ _ _ => rfl), hcores]
    · rw [State.completeCmds_keeps State.mem (fun _ _ _ => rfl), hmem]
      rfl
  · rw [if_neg (by simpa using hnone)]
    exact ⟨u, rfl, ⟨_, hctx, hsw⟩, hcores, hmem, fun h => absurd h hnone, fun _ => ⟨hq, hwork⟩⟩
end
end Sys2Proof.Machine

namespace Sys2Proof.Machine
open Sys2Proof

/-! RESUME (R269). -/

/-- A saved core as its save area reads back, where it has one. -/
def State.readBack (s : State) (n c : Nat) (k : Core) : Core := ((s.saveArea n c).map (fun a => s.readSave a k)).getD k

theorem State.readBack_granuleWaits (s : State) (n c : Nat) (k : Core) : (s.readBack n c k).granuleWaits = k.granuleWaits := by
  unfold State.readBack
  cases s.saveArea n c with
  | none => rfl
  | some a => rfl

/-- What a restored core does once its save area is read: `restoreCore` after its first line. -/
def State.restoreRead (s : State) (ctx c : Nat) (x : Context) (k : Core) : State :=
  let s := s.setCore c (k.restored (s.getCore c) ctx x.asid x.home)
  let s := ((tget x.siglog c).getD []).foldl (fun s (g : Signal) =>
    s.modCore c (fun k => if k.barOk g.laddr then k.barCredit g.laddr g.credit g.err else k)) s
  let s := s.modContext ctx (fun x => { x with saved := tdel x.saved c, siglog := tdel x.siglog c })
  let k := s.getCore c
  let s := ((k.granuleWaits.map (·.1)).eraseDups).foldl (fun s g => if k.full.contains g then s.releaseGranule c g else s) s
  let d := dieOf c
  (s.harbour d).launches.foldl (fun s p => (List.range p.2.stages.length).foldl (fun s st => s.servePushes d p.1 st 4096) s) s

theorem State.restoreCore_readBack (s : State) (n c : Nat) (x : Context) (k : Core) :
    s.restoreCore n c x k = s.restoreRead n c x (s.readBack n c k) := by
  unfold State.restoreCore State.readBack
  cases s.saveArea n c with
  | none => rfl
  | some a => rfl

/-- A core restored without signals logged for it, waits for granules and launches on its die: it and its context's tables are all that changes. -/
theorem State.restoreRead_eq {s : State} {n c : Nat} {x : Context} {k : Core} (hx : tget s.contexts n = some x) (hlog : tget x.siglog c = none)
    (hwaits : k.granuleWaits = []) (hl : (s.harbour (dieOf c)).launches = []) :
    s.restoreRead n c x k = { s.setCore c (k.restored (s.getCore c) n x.asid x.home) with
      contexts := tset s.contexts n { x with saved := tdel x.saved c, siglog := tdel x.siglog c } } := by
  have hcore := State.getCore_setCore_self s c (k.restored (s.getCore c) n x.asid x.home)
  have hcontexts := State.setCore_contexts s c (k.restored (s.getCore c) n x.asid x.home)
  have hharbours : (s.setCore c (k.restored (s.getCore c) n x.asid x.home)).harbours = s.harbours :=
    (congrArg State.harbours (s.setCore_frame c _) :)
  unfold State.restoreRead
  dsimp only
  rw [hlog, Option.getD_none, List.foldl_nil]
  generalize s.setCore c (k.restored (s.getCore c) n x.asid x.home) = u at *
  rw [State.modContext_some (x := x) (by rw [hcontexts]; exact hx), hcontexts]
  generalize hv : ({ u with contexts := tset s.contexts n { x with saved := tdel x.saved c, siglog := tdel x.siglog c } } : State) = v
  have hvcore : (v.getCore c).granuleWaits = [] := by
    rw [← hv]
    exact (congrArg Core.granuleWaits hcore).trans hwaits
  have hvl : (v.harbour (dieOf c)).launches = [] := by
    rw [← hv, ← hl]
    unfold State.harbour
    dsimp only
    rw [hharbours]
  rw [hvcore, List.map_nil, List.eraseDups_nil, List.foldl_nil, hvl, List.foldl_nil]

theorem Core.restored_spec (k real : Core) (n : Nat) (asid : BitVec 16) (home : Table HomeEntry) :
    (k.restored real n asid home).ctx = some n ∧ (k.restored real n asid home).asid = asid ∧
      (real.lastCtx ≠ some n → (k.restored real n asid home).opMem = k.opMem) ∧ Restored k (k.restored real n asid home) := by
  refine ⟨rfl, rfl, fun hlast => ?_, rfl, rfl, rfl, rfl, rfl, rfl, rfl, rfl⟩
  unfold Core.restored
  dsimp only
  rw [List.filter_eq_nil_iff.mpr (fun b _ => by simp [hlast]), List.foldl_nil]

/-- The context's only saved core is back on a core that is free. -/
theorem resume_restores {s : State} {x : Context} (hx : tget s.contexts s.inp.n = some x) (hd : (s.queues.map (·.1)).Nodup) {c : Nat} {k : Core}
    (hok : s.inp.ok = true) (hsaved : x.saved = [(c, k)]) (hlog : tget x.siglog c = none) (hwaits : k.granuleWaits = [])
    (hl : (s.park.harbour (dieOf c)).launches = []) (hoff : ∀ d ∈ s.park.coresHolding s.inp.n, dieOf d ∉ x.swapped)
    (hslots : (s.park.getCore c).slots = []) (hrec : (s.park.getCore c).records = []) (hsettled : s.park.unsettled c = none)
    (hrun : (s.park.getCore c).cstate = .running) :
    let k := ((s.park.saveArea s.inp.n c).map (fun a => s.park.readSave a k)).getD k
    ∃ t, exec .resume s = .next t ∧ tget t.contexts s.inp.n = some { x with saved := [], siglog := tdel x.siglog c, swapped := [] } ∧
      t.mem = s.mem ∧ CompletedAll s t 0x22 s.inp.n ∧ (t.getCore c).ctx = some s.inp.n ∧ (t.getCore c).asid = x.asid ∧
      ((s.park.getCore c).lastCtx ≠ some s.inp.n → (t.getCore c).opMem = k.opMem) ∧ Restored k (t.getCore c) := by
  intro k'
  have hpark : tget s.park.contexts s.inp.n = some x := by rw [s.park_contexts]; exact hx
  have hresident : s.park.resident c = false := by
    unfold State.resident
    rw [hslots, s.park_acting]
    rfl
  have hfree : (!s.park.resident c && (s.park.getCore c).records.isEmpty && (s.park.unsettled c).isNone &&
      decide ((s.park.getCore c).cstate = .running) && (s.inp.ok || s.park.yields c s.inp.n)) = true := by
    rw [hresident, hrec, hsettled, hrun, hok]
    rfl
  have hone : tdel [(c, k)] c = [] := by simp [tdel]
  have hdies : (s.park.coresHolding s.inp.n).all (fun d => !x.swapped.contains (dieOf d)) = true := by
    rw [List.all_eq_true]
    intro d hd
    simpa using hoff d hd
  rw [show exec .resume s = execResume s from rfl, execResume]
  dsimp only
  rw [hpark]
  dsimp only
  rw [hdies, if_neg (by decide), hsaved, List.foldl_cons, List.foldl_nil]
  rw [if_pos hfree, State.restoreCore_readBack,
    State.restoreRead_eq hpark hlog ((s.park.readBack_granuleWaits _ c k).trans hwaits) hl, hsaved, hone]
  have hcore := State.getCore_setCore_self s.park c (k'.restored (s.park.getCore c) s.inp.n x.asid x.home)
  have hframe := State.setCore_frame s.park c (k'.restored (s.park.getCore c) s.inp.n x.asid x.home)
  rw [show s.park.readBack s.inp.n c k = k' from rfl]
  generalize s.park.setCore c (k'.restored (s.park.getCore c) s.inp.n x.asid x.home) = u at *
  rw [tget_tset_self, Option.all_some, if_pos (by rfl), State.modContext_some (by exact tget_tset_self _ _ _)]
  refine ⟨_, rfl, ?_, ?_, State.completedAll ?_ hd _ _, ?_⟩
  · rw [State.completeCmds_keeps State.contexts (fun _ _ _ => rfl)]
    exact tget_tset_self _ _ _
  · rw [State.completeCmds_keeps State.mem (fun _ _ _ => rfl)]
    exact (congrArg State.mem hframe :).trans s.park_mem
  · exact (congrArg State.queues hframe :).trans s.park_queues
  · rw [State.completeCmds_keeps (State.getCore · c) (fun _ _ _ => rfl)]
    have hspec := k'.restored_spec (s.park.getCore c) s.inp.n x.asid x.home
    rw [← hcore] at hspec
    exact hspec
end Sys2Proof.Machine

namespace Sys2Proof.Machine
open Sys2Proof

/-- Settles O35: a lemma per command (`createQueue_creates` and those after it), in the order of the statement. -/
theorem hostCommandsComplete : Obligations.HostCommandsComplete := by
  unfold Obligations.HostCommandsComplete
  refine ⟨fun s q c hin => ⟨createQueue_creates hin, createQueue_refuses hin, fun q' hp hn hq' => ⟨deleteQueue_deletes hin hp hn hq',
      deleteQueue_waits hp hn hq'⟩, deleteQueue_refuses hin, openAperture_opens hin, openAperture_refuses hin, closeAperture_closes hin,
      ⟨createContext_exists hin, fun hnone => ⟨createContext_creates hin hnone, createContext_refuses hin hnone⟩⟩,
      fun x => destroyContext_destroys hin, fun x v => setHomeMap_sets hin, fun hp => ⟨fun e => launch_unread hin hp, fun v hread =>
        ⟨launch_disagrees hin hp hread, launch_submits hin hp hread⟩⟩, fun pa root s1 s2 hctx hok hslot hfree hl => ⟨?_, ?_⟩,
      fun hctx hp hcount hlevel halign hva hfree hl => ⟨?_, ?_⟩, inContext_gone hin, fun hctx hp => ⟨fun e => freePage_opens hctx hin hp,
        freePage_other hctx hin hp⟩, readManifest_writes hin⟩,
    fun s x hx hd => ⟨preempt_swaps hx hd, fun c k => resume_restores hx hd⟩, mget_mclear⟩
  · exact map_writes hctx hin hok hslot hfree hl
  · exact map_full hctx hin hok hslot hfree hl
  · exact unmap_other hctx hin hcount
  · exact unmap_clears hctx hin hp hcount hlevel halign hva hfree hl
end Sys2Proof.Machine

namespace Sys2Proof.Machine
open Sys2Proof

/-! The walker enters a step where memory takes no write (R17, R107, R110): the place of its queue entry translates to a CXL port that has gone viral
since the launch was taken. -/

/-- The first byte of CXL port 0 (R163). -/
def cxlBase : Nat := 0x1000000000000

/-- Page tables of ASID 1 that map `codeVa` to an ordinary page of CXL port 0 with R, W and X. -/
def cxlTables : Mem := mstore (placeWord [] 0) (0x402000 + 8) (bytesOf 8 (cxlBase + 0x73))

/-- A launch of one step on core 0, its queue area and its parameter block in that page. -/
def cxlLaunch : Launch := { spillingLaunch with
  levels := [{ extent := 1, domain := 1, scope := 4 }]
  loops := [(1, 1, 0)]
  topb := codeVa + 0x8000
  qarea := codeVa
  ovfBase := 0
  ovfSize := 0
  queues := [{ entries := [], placed := 0, stepno := [], waits := [] }]
  chunks := [] }

/-- The launch in slot 0, and the CXL ports viral. -/
def viralWalk : State :=
  { State.reset with
    harbours := Vector.replicate 4 { Harbour.reset with launches := [(0, cxlLaunch)] }
    cxl := Vector.replicate 4 .viral
    mem := cxlTables }

/-- Stage 0's queue of the launch of the operands, and memory, after the walker's step. -/
def walkLeaves (s : State) : Option (List QEntry × Mem) :=
  match exec .walkerStep s with
  | .next t => (tget (t.harbour s.inp.die).launches s.inp.n).map (fun l => ((l.queue 0).entries, t.mem))
  | _ => none

theorem walkLeaves_next {s t : State} {l : Launch} (h : exec .walkerStep s = .next t) (hl : tget (t.harbour s.inp.die).launches s.inp.n = some l) :
    walkLeaves s = some ((l.queue 0).entries, t.mem) := by
  rw [walkLeaves, h]
  dsimp only
  rw [hl, Option.map_some]

/-- The launch has a step left, on this die, and room for it. -/
theorem viralWalk_walks :
    tget (viralWalk.park.harbour viralWalk.inp.die).launches viralWalk.inp.n = some cxlLaunch ∧ cxlLaunch.st = .active ∧
      cxlLaunch.walked < cxlLaunch.total ∧ cxlLaunch.full 0 = false ∧ cxlLaunch.loops.length ≤ 6 ∧ 0 < cxlLaunch.queues.length ∧
      (cxlLaunch.place (cxlLaunch.walked / max cxlLaunch.chunk 1 % max cxlLaunch.ncore 1)).any (fun c => dieOf c == viralWalk.inp.die) = true := by
  decide +kernel

/-- Place 0 of stage 0's queue translates to the port's first byte. -/
theorem viralWalk_place : viralWalk.park.physOf cxlLaunch.asid (cxlLaunch.qbase viralWalk.inp.die 0 + 64 * 0) = some cxlBase := by
  decide +kernel

/-- The step's entry, of place 0, is in the queue, and the port has taken nothing: memory is as before. -/
theorem viralWalk_leaves :
    (cxlLaunch.queue 0).entries = [] ∧ walkLeaves viralWalk = some ([{ place := 0, lcore := 0, since := 0, aged := false }], cxlTables) := by
  decide +kernel

/-- TOPB is not in the descriptor. -/
theorem cxlTables_topb : mload cxlTables (cxlBase + 24) 8 ≠ cxlLaunch.topb % 2 ^ 64 := by
  decide +kernel

/-- Refutes O38: the walker's entry is said to lie in memory wherever its place translates; where that place is on a CXL port that has gone viral, the
write is refused, so that the step is in the queue and its descriptor is not in memory. -/
theorem not_harbourmastersAct : ¬ Obligations.HarbourmastersAct := by
  unfold Obligations.HarbourmastersAct
  intro h
  obtain ⟨_, _, _, hwalk, _⟩ := h viralWalk
  obtain ⟨hl, hactive, hleft, hroom, hloops, hqueue, hon⟩ := viralWalk_walks
  obtain ⟨t, l', ht, hl', _, _, _, hentry⟩ := hwalk cxlLaunch hl hactive hleft hroom hloops hqueue
  obtain ⟨e, hentries, _, hplaced⟩ := hentry hon
  obtain ⟨hempty, hleaves⟩ := viralWalk_leaves
  rw [walkLeaves_next ht hl', hentries, hempty, List.nil_append] at hleaves
  obtain ⟨he, hmem⟩ := Prod.mk.inj (Option.some.inj hleaves)
  rw [(List.cons.inj he).1, hmem] at hplaced
  exact cxlTables_topb (hplaced cxlBase viralWalk_place).2
end Sys2Proof.Machine

namespace Sys2Proof.Machine
open Sys2Proof

/-! A merge of no byte (R14, R15). -/

/-- A module whose first sector of memory is poisoned. -/
def poisonedSector : State := { State.reset with poison := [0] }

/-- No byte of the sector is read, so none is bad, and yet the merge's read counts the sector as uncorrectable. -/
theorem poisonedSector_merge : poisonedSector.bad 1 0 = false ∧ (poisonedSector.merge 1 0 0).hbmue ≠ poisonedSector.hbmue := by decide

/-- Refutes O42: a merge is said to leave the counters of uncorrectable sectors wherever no byte of it is bad; where it merges no byte, at an address
within a poisoned sector, its read counts that sector. -/
theorem not_engineWordsIssue : ¬ Obligations.EngineWordsIssue := by
  unfold Obligations.EngineWordsIssue
  intro h
  obtain ⟨_, _, _, _, hmerge, _⟩ := h
  obtain ⟨hgood, hcounts⟩ := poisonedSector_merge
  obtain ⟨_, hframe⟩ := hmerge poisonedSector 1 0 0 hgood
  exact hcounts (congrArg State.hbmue hframe)

end Sys2Proof.Machine

namespace Sys2Proof.Machine
open Sys2Proof

/-! MSEND.MC (R48, R391). -/

theorem mbytes_eq_map {m : Mem} (h : Memory.wf m) (a n : Nat) : mbytes m a n = (List.range n).map (fun i => mget m (a + i)) := by
  refine List.ext_getElem (by simp [mbytes_length]) (fun i hi _ => ?_)
  have hread := mbytes_getD h a (n := n) (i := i) (by rwa [mbytes_length] at hi)
  rw [List.getD_eq_getElem _ _ hi] at hread
  simp [hread]

theorem ninsert_ne_nil (l : List Nat) (k : Nat) : ninsert l k ≠ [] := by
  unfold ninsert
  split
  · simp
  · split
    · simp
    · split <;> simp

/-- A group of which some member is another node that the first router knows a way to has a branch (R48). -/
theorem Fabric.branches_ne_nil {f : Fabric} {g : Nat} (hne : (tget f.groups g).getD [] ≠ []) (haway : ((tget f.groups g).getD []).contains f.node = false)
    (hreach : ∀ m ∈ (tget f.groups g).getD [], f.reaches m = true) : f.branches g none ≠ [] := by
  have hkeep (ms ls : List Nat) (hls : ls ≠ []) : ms.foldl (fun ls m => match f.route m with
      | some n => if some n = none then ls else ninsert ls n
      | none => ls) ls ≠ [] := by
    induction ms generalizing ls with
    | nil => exact hls
    | cons m ms ih =>
      refine ih _ ?_
      dsimp only
      split
      · exact ninsert_ne_nil _ _
      · exact hls
  have hmem (m : Nat) (hm : m ∈ (tget f.groups g).getD []) : (m != f.node && f.reaches m) = true := by
    rw [hreach m hm, Bool.and_true, bne_iff_ne]
    rintro rfl
    simp [hm] at haway
  unfold Fabric.branches
  rw [List.filter_eq_self.mpr hmem]
  obtain ⟨m, ms, hms⟩ := List.exists_cons_of_ne_nil hne
  obtain ⟨n, hroute⟩ : ∃ n, f.route m = some n := by
    have hway := hreach m (hms ▸ List.mem_cons_self ..)
    rw [Fabric.reaches, Bool.and_eq_true] at hway
    exact Option.isSome_iff_exists.mp hway.2
  rw [hms, List.foldl_cons, hroute]
  exact hkeep ms _ (ninsert_ne_nil _ _)

/-- A copy goes out where the group has a branch. -/
theorem State.emitMc_sent {s : State} {p : Packet} {from_ : Option Nat} (h : s.fabric.branches p.dst from_ ≠ []) :
    (s.emitMc p from_).fabric.sent = s.fabric.sent ++ [p] := by
  unfold State.emitMc
  split
  · contradiction
  · rfl

/-- The packet of a multicast from the strand in hand, under the group's next number. -/
def State.mcPacket (s : State) (g place : Nat) (data : List Byte) : Packet :=
  { Packet.empty with
    dst := g, src := s.fabric.node, op := opMulticast, mc := true, asid := s.core.asid.toNat
    sseq := mcastBase + (tget s.fabric.sseq (0x2000 + g)).getD 0, addr := place, data := data }

/-- The state once a multicast to the members `left` of a group is on its way (R48, R391). -/
def State.multicast (s : State) (g place : Nat) (left : List Nat) (data : List Byte) : State :=
  let p := s.mcPacket g place data
  let m : McastOut := { group := g, sseq := p.sseq, waiting := left, core := s.here, cell := s.strand.cell, pc := s.strand.pc }
  State.emitMc { s with fabric := { s.fabric with
    sseq := tset s.fabric.sseq (0x2000 + g) (p.sseq + 1 - mcastBase)
    mcasts := s.fabric.mcasts ++ [m] } } p none

theorem NetOnly.multicast (s : State) (g place : Nat) (left : List Nat) (data : List Byte) : NetOnly s (s.multicast g place left data) := by
  unfold State.multicast State.emitMc
  dsimp only
  split <;> rfl

/-- The copy goes out once; the strand in hand, its core and memory stay. -/
theorem State.multicast_spec (s : State) {g : Nat} (hne : (tget s.fabric.groups g).getD [] ≠ [])
    (haway : ((tget s.fabric.groups g).getD []).contains s.fabric.node = false)
    (hreach : ∀ m ∈ (tget s.fabric.groups g).getD [], s.fabric.reaches m = true) (place : Nat) (left : List Nat) (data : List Byte) :
    let t := s.multicast g place left data
    t.fabric.sent = s.fabric.sent ++ [s.mcPacket g place data] ∧ t.strand = s.strand ∧ t.core = s.core ∧ t.mem = s.mem := by
  intro t
  have hnet : NetOnly s t := NetOnly.multicast s g place left data
  exact ⟨State.emitMc_sent (Fabric.branches_ne_nil hne haway hreach), (congrArg State.strand hnet :), (congrArg State.core hnet :), hnet.mem⟩

section
variable {s : State} {rs1 rs2 : BitVec 5} {len : BitVec 6} (hh : s.heldHere = false) (ho : s.storesOut = false) (ha : (s.x rs2).toNat % 16 = 0)
  (hr : LocalReadable s (s.x rs2).toNat (16 * (len.toNat + 1))) (hb : s.core.locBad (s.x rs2).toNat (16 * (len.toNat + 1)) = false)
  (hw : (s.x rs1).toNat < 2 ^ 39)
include hh ho ha hr hb hw

theorem msendMc_alone (hnone : (tget s.fabric.groups ((s.x rs1).toNat / 2 ^ 31)).getD [] = []) : exec (.msendMc rs1 rs2 len) s = .next s.next := by
  have hg := twNode_of_lt (w := s.x rs1) (by omega)
  refine congrArg Host.Outcome.next ((State.afterStores_of_none hh ho _).trans ((State.withMessage_read ha hr hb _).trans ?_))
  dsimp only
  rw [if_neg (by rw [twReserved_of_lt (by omega), hg]; simp; omega), hg, hnone]
  rfl

/-- To a group of other modules that can all be reached one copy is on its way, and the strand moves on. -/
theorem msendMc_casts (hne : (tget s.fabric.groups ((s.x rs1).toNat / 2 ^ 31)).getD [] ≠ [])
    (haway : ((tget s.fabric.groups ((s.x rs1).toNat / 2 ^ 31)).getD []).contains s.fabric.node = false)
    (hreach : ∀ m ∈ (tget s.fabric.groups ((s.x rs1).toNat / 2 ^ 31)).getD [], s.fabric.reaches m = true) :
    exec (.msendMc rs1 rs2 len) s = .next (s.multicast ((s.x rs1).toNat / 2 ^ 31) ((s.x rs1).toNat % 2 ^ 31)
      ((tget s.fabric.groups ((s.x rs1).toNat / 2 ^ 31)).getD []) (mbytes s.core.loc (s.x rs2).toNat (16 * (len.toNat + 1)))).next := by
  have hg := twNode_of_lt (w := s.x rs1) (by omega)
  refine congrArg Host.Outcome.next ((State.afterStores_of_none hh ho _).trans ((State.withMessage_read ha hr hb _).trans ?_))
  dsimp only
  rw [if_neg (by rw [twReserved_of_lt (by omega), hg]; simp; omega), hg, twPlace_eq]
  generalize (tget s.fabric.groups ((s.x rs1).toNat / 2 ^ 31)).getD [] = ms at *
  have hothers : ms.filter (· != s.fabric.node) = ms := List.filter_eq_self.mpr (fun m hm => by
    rw [bne_iff_ne]
    rintro rfl
    simp [hm] at haway)
  have hlost : ms.filter (fun n => !s.fabric.reaches n) = [] := List.filter_eq_nil_iff.mpr (fun m hm => by rw [hreach m hm]; decide)
  have hleft : ms.filter (fun n => !([] : List Nat).contains n) = ms := List.filter_eq_self.mpr (fun m hm => by simp)
  rw [haway, if_neg (by simp), hothers, hlost, hleft, if_neg (by simpa using hne), if_neg (by decide)]
  rfl

theorem msendMc_sends (hwf : Memory.wf s.core.loc) (hne : (tget s.fabric.groups ((s.x rs1).toNat / 2 ^ 31)).getD [] ≠ [])
    (haway : ((tget s.fabric.groups ((s.x rs1).toNat / 2 ^ 31)).getD []).contains s.fabric.node = false)
    (hreach : ∀ m ∈ (tget s.fabric.groups ((s.x rs1).toNat / 2 ^ 31)).getD [], s.fabric.reaches m = true) :
    ∃ t p, exec (.msendMc rs1 rs2 len) s = .next t ∧ t.fabric.sent = s.fabric.sent ++ [p] ∧ p.dst = (s.x rs1).toNat / 2 ^ 31 ∧ p.op = 0x06 ∧ p.mc ∧
      p.addr = (s.x rs1).toNat % 2 ^ 31 ∧
      p.data = (List.range (16 * (len.toNat + 1))).map (fun i => mget s.core.loc ((s.x rs2).toNat + i)) ∧
      t.strand = { s.strand with pc := s.strand.pc + 4, waits := none } ∧ t.core = s.core ∧ t.mem = s.mem := by
  obtain ⟨hsent, hstrand, hcore, hmem⟩ := s.multicast_spec hne haway hreach ((s.x rs1).toNat % 2 ^ 31)
    ((tget s.fabric.groups ((s.x rs1).toNat / 2 ^ 31)).getD []) (mbytes s.core.loc (s.x rs2).toNat (16 * (len.toNat + 1)))
  refine ⟨_, _, msendMc_casts hh ho ha hr hb hw hne haway hreach, hsent, rfl, rfl, rfl, rfl, mbytes_eq_map hwf _ _, ?_, hcore, hmem⟩
  rw [State.next, State.setPc, hstrand]
end

end Sys2Proof.Machine

namespace Sys2Proof.Machine
open Sys2Proof

/-! A strand that leaves its slot with a record (R124, R133, R137, R140). -/

/-- The filling strand that takes over leaves the records and local memory, and a slot that is free. -/
theorem Core.promote_records (k : Core) (b : Bool) : (k.promote b).records = k.records := by
  unfold Core.promote
  dsimp only
  split
  · rfl
  · split <;> rfl

theorem Core.promote_loc (k : Core) (b : Bool) : (k.promote b).loc = k.loc := by
  unfold Core.promote
  dsimp only
  split
  · rfl
  · split <;> rfl

theorem Core.promote_free {k : Core} {sl : Nat} (h : tget k.slots sl = none) (b : Bool) : tget (k.promote b).slots sl = none := by
  unfold Core.promote
  dsimp only
  split
  · exact h
  · split
    · exact h
    next n st r hmine =>
      have hmem : (n, st) ∈ k.slots := (List.mem_filter.mp (hmine ▸ List.mem_cons_self ..)).1
      have hne : sl ≠ n := by
        rintro rfl
        have hsome := tget_isSome_of_mem hmem
        rw [h] at hsome
        cases hsome
      rw [tget_tset_ne _ _ _ _ hne, h]

theorem State.getCore_vacate (s : State) : s.vacate.getCore s.here = s.core.promote (slotIsB s.slot) := by
  simp [State.vacate, State.getCore]

theorem State.setCore_acting (s : State) (c : Nat) (k : Core) : (s.setCore c k).acting = s.acting := (congrArg State.acting (s.setCore_frame c k) :)

theorem State.getCore_modCore_self (s : State) (c : Nat) (f : Core → Core) : (s.modCore c f).getCore c = f (s.getCore c) :=
  State.getCore_setCore_self _ _ _

/-- A record as the core in hand takes it in at a block of the mooring area. -/
def State.moored (s : State) (r : Record) (b : Nat) : Record :=
  { r with length := r.fullLength, dseq := s.core.dseq, block := b, spilled := false }

/-- The state once the strand in hand has left with a record that lies in the mooring area. -/
def State.leftWith (s : State) (r : Record) : State :=
  let k := s.core.writtenOver (s.core.moorBase + 0x2000 + 64 * r.block) (64 * ceilDiv r.length 64)
  State.vacate (State.detach { s with core := { k with records := k.records ++ [r], dseq := s.core.dseq + 1 } })

theorem State.leaveWith_moors {s : State} {r : Record} (ha : s.acting = true) (hfit : FitsMooring s r) :
    ∃ b, s.leaveWith r = .ok (s.leftWith (s.moored r b), s.moored r b) := by
  obtain ⟨b, hb⟩ := Option.isSome_iff_exists.mp hfit
  refine ⟨b, ?_⟩
  have hk (u : State) (h : u.acting = true) : u.getCore u.here = u.core := if_pos ⟨h, rfl⟩
  unfold State.leaveWith State.deposit State.depositAs State.modCore State.setCore
  dsimp only
  rw [hk s ha, hb]
  dsimp only
  rw [if_pos ⟨ha, rfl⟩, Option.map_some]
  dsimp only
  rw [if_pos ⟨ha, rfl⟩]
  simp only [State.getCore, ha, and_self, if_true]
  rfl

/-- Its slot is free, its record is the core's last, and local memory stays. -/
theorem State.leftWith_core {s : State} (h : tget s.core.slots s.slot = none) (r : Record) :
    let k := (s.leftWith r).getCore s.here
    tget k.slots s.slot = none ∧ k.records = s.core.records ++ [r] ∧ k.loc = s.core.loc := by
  intro k
  have hk : k = _ := State.getCore_vacate _
  rw [hk, Core.promote_records, Core.promote_loc]
  refine ⟨Core.promote_free ?_ _, rfl, rfl⟩
  exact h

end Sys2Proof.Machine

namespace Sys2Proof.Machine
open Sys2Proof

/-! MRECV.L (R161, R392). -/

theorem Core.localOk_write_iff (s : State) (b n : Nat) : s.core.localOk false b n = true ↔ LocalWritable s b n := by
  simp [Core.localOk, LocalWritable]

/-- Where the entry at HEAD lies. -/
def QHdr.oldest (h : QHdr) : Nat := h.base + h.head % h.nent * h.esize

/-- The buffer holds the oldest entry, HEAD has counted, and the rest of local memory stays. -/
theorem Core.takeMsg_loc {k : Core} (hwf : Memory.wf k.loc) {a d : Nat} {h : QHdr} (hclear : d + h.esize ≤ a + 8 ∨ a + 12 ≤ d) :
    let m := (k.takeMsg a d h).2.loc
    bytesValue m (a + 8) 4 = (h.head + 1) % 2 ^ 32 ∧ (∀ i, i < h.esize → mget m (d + i) = mget k.loc (h.oldest + i)) ∧
      ∀ x, (x < a + 8 ∨ a + 12 ≤ x) → (x < d ∨ d + h.esize ≤ x) → mget m x = mget k.loc x := by
  intro m
  have hm : m = mstore (mstore k.loc d (mbytes k.loc h.oldest h.esize)) (a + 8) (bytesOf 4 (h.head + 1)) := rfl
  have hentry : (mbytes k.loc h.oldest h.esize).length = h.esize := mbytes_length _ _ _
  have hcount : (bytesOf 4 (h.head + 1)).length = 4 := bytesOf_length _ _
  rw [hm]
  refine ⟨?_, fun i hi => ?_, fun x hhead hbuffer => ?_⟩
  · rw [bytesValue_eq_mload (mstore_wf _ _ _ (mstore_wf _ _ _ hwf)), mload_stored]
    rfl
  · rw [mget_mstore_ne _ _ _ _ (by omega), mget_mstore, if_pos (by omega), Nat.add_sub_cancel_left, mbytes_getD hwf _ hi]
  · rw [mget_mstore_ne _ _ _ _ (by omega), mget_mstore_ne _ _ _ _ (by omega)]

/-- The record of a strand that waits for a message (R137, R392). -/
def State.receiver (s : State) (o : LOp) (h : QHdr) : Record :=
  { s.leaveRecord o.ls.toNat (some o.rd) [] 0 (s.strand.pc + 4) with
    on := .msg (s.x o.rs1).toNat (s.x o.rs2).toNat o.rd, waitLocal := true, waitAddr := (s.x o.rs1).toNat, next := bitsN h.wait 47 0 }

/-- A core in which the receiver that `ref` names heads the list of the queue at `a` (R162). -/
def Core.queueOn (k : Core) (a : Nat) (h : QHdr) (ref : Nat) : Core :=
  k.locWrite (a + 16) (bytesOf 8 (futWord 1 (bitsN h.wait 61 48 + 1) ref))

theorem Core.queueOn_loc (k : Core) {a x : Nat} (hx : x < a + 16 ∨ a + 24 ≤ x) (h : QHdr) (ref : Nat) :
    mget (k.queueOn a h ref).loc x = mget k.loc x :=
  mget_mstore_ne _ _ _ _ (by rw [bytesOf_length]; omega)

section
variable {s : State} {o : LOp} (ho : o.hint ≠ 3) (hh : s.heldHere = false) (ha : LocalWritable s (s.x o.rs1).toNat 64)
include ho hh ha

theorem mrecvL_invalid (hq : s.core.qhdr (s.x o.rs1).toNat = none) : exec (.mrecvL o) s = .next (s.trapScalar 0x11 (s.x o.rs1).toNat) := by
  refine congrArg Host.Outcome.next ((if_neg ho).trans ((s.afterHeld_of_none _ hh).trans ?_))
  dsimp only
  rw [(Core.localOk_write_iff s _ _).mpr ha, hq]
  rfl

variable {h : QHdr} (hq : s.core.qhdr (s.x o.rs1).toNat = some h)
include hq

theorem mrecvL_buffer (hd : (s.x o.rs2).toNat % 16 ≠ 0 ∨ ¬ LocalWritable s (s.x o.rs2).toNat h.esize) :
    exec (.mrecvL o) s = .next (s.trapScalar 0x14 (s.x o.rs2).toNat) := by
  rw [← Core.localOk_write_iff, Bool.not_eq_true, ← Bool.not_eq_true'] at hd
  refine congrArg Host.Outcome.next ((if_neg ho).trans ((s.afterHeld_of_none _ hh).trans ?_))
  dsimp only
  rw [(Core.localOk_write_iff s _ _).mpr ha, hq]
  exact (if_neg (by decide)).trans (if_pos hd)

variable (hd : (s.x o.rs2).toNat % 16 = 0) (hr : LocalWritable s (s.x o.rs2).toNat h.esize) (hb : s.core.locBad (s.x o.rs1).toNat 64 = false)
include hd hr hb

/-- A strand whose header and buffer pass takes the oldest entry, or leaves with a record that waits for one. -/
theorem mrecvL_passes : exec (.mrecvL o) s = .next (
    if h.used ≠ 0 then
      if s.core.locBad h.oldest h.esize then s.trapScalar 0x40 h.oldest
      else State.result { s with core := (s.core.takeMsg (s.x o.rs1).toNat (s.x o.rs2).toNat h).2 } o.rd (BitVec.ofNat 64 h.head)
    else
      match s.leaveWith (s.receiver o h) with
      | .error t => t
      | .ok (t, r) => t.modCore s.here (·.queueOn (s.x o.rs1).toNat h (r.ref t.fabric.node s.here))) := by
  refine congrArg Host.Outcome.next ((if_neg ho).trans ((s.afterHeld_of_none _ hh).trans ?_))
  have hplace : ¬ ((s.x o.rs2).toNat % 16 ≠ 0 ∨ (!s.core.localOk false (s.x o.rs2).toNat h.esize) = true) := by
    rw [(Core.localOk_write_iff s _ _).mpr hr]
    simp [hd]
  dsimp only
  rw [(Core.localOk_write_iff s _ _).mpr ha, hq]
  exact (if_neg (by decide)).trans ((if_neg hplace).trans (if_neg (by rw [hb]; decide)))

theorem mrecvL_takes (hwf : Memory.wf s.core.loc) (hused : h.used ≠ 0) (he : s.core.locBad h.oldest h.esize = false)
    (hclear : (s.x o.rs2).toNat + h.esize ≤ (s.x o.rs1).toNat + 8 ∨ (s.x o.rs1).toNat + 12 ≤ (s.x o.rs2).toNat) :
    ∃ t, exec (.mrecvL o) s = .next t ∧ t.x o.rd = (if o.rd = 0 then 0 else w64 h.head) ∧
      (∀ q, q ≠ o.rd → t.x q = s.x q) ∧ t.strand.pc = s.strand.pc + 4 ∧ t.core.full = s.core.full ∧ t.mem = s.mem ∧
      bytesValue t.core.loc ((s.x o.rs1).toNat + 8) 4 = (h.head + 1) % 2 ^ 32 ∧
      (∀ i, i < h.esize → mget t.core.loc ((s.x o.rs2).toNat + i) = mget s.core.loc (h.oldest + i)) ∧
      ∀ x, (x < (s.x o.rs1).toNat + 8 ∨ (s.x o.rs1).toNat + 12 ≤ x) → (x < (s.x o.rs2).toNat ∨ (s.x o.rs2).toNat + h.esize ≤ x) →
        mget t.core.loc x = mget s.core.loc x := by
  have hloc := Core.takeMsg_loc hwf hclear
  refine ⟨_, mrecvL_passes ho hh ha hq hd hr hb, ?_⟩
  rw [if_pos hused, he, if_neg (by decide)]
  refine ⟨State.x_result_self _ _ _, fun q hq => State.x_result_ne _ _ _ _ hq, by rw [State.result_pc], ?_, by rw [State.result_mem], ?_⟩
  · rw [State.result_core]
    rfl
  · rw [State.result_core]
    exact hloc

theorem mrecvL_waits (hused : h.used = 0) (hact : s.acting = true) (hslot : tget s.core.slots s.slot = none)
    (hfit : FitsMooring s (s.leaveRecord o.ls.toNat (some o.rd) [] 0 (s.strand.pc + 4))) :
    ∃ t r, exec (.mrecvL o) s = .next t ∧ Vacated s t ∧ t.mem = s.mem ∧
      r ∈ (t.getCore s.here).records ∧ r.dseq = s.core.dseq ∧ r.ready = false ∧ r.on = .msg (s.x o.rs1).toNat (s.x o.rs2).toNat o.rd ∧ r.waitLocal ∧
      r.waitAddr = (s.x o.rs1).toNat ∧ r.pc = s.strand.pc + 4 ∧ r.next = h.wait % 2 ^ 48 ∧
      ∀ x, x < (s.x o.rs1).toNat + 16 ∨ (s.x o.rs1).toNat + 24 ≤ x → mget (t.getCore s.here).loc x = mget s.core.loc x := by
  obtain ⟨b, hleave⟩ := State.leaveWith_moors (r := s.receiver o h) hact hfit
  have hrun := mrecvL_passes ho hh ha hq hd hr hb
  rw [if_neg (by omega), hleave] at hrun
  generalize hrec : s.moored (s.receiver o h) b = r at hrun
  obtain ⟨hfree, hrecords, hloc⟩ := State.leftWith_core hslot r
  have hcore := State.getCore_modCore_self (s.leftWith r) s.here (·.queueOn (s.x o.rs1).toNat h (r.ref (s.leftWith r).fabric.node s.here))
  refine ⟨_, r, hrun, ⟨State.setCore_acting _ _ _, (congrArg (fun k => tget k.slots s.slot) hcore).trans hfree⟩, State.setCore_mem _ _ _, ?_⟩
  refine ⟨(congrArg Core.records hcore).trans hrecords ▸ List.mem_append_right _ (List.mem_singleton_self _), ?_⟩
  subst hrec
  refine ⟨rfl, rfl, rfl, rfl, rfl, rfl, by simp [State.moored, State.receiver, bitsN], fun x hx => ?_⟩
  exact (congrArg (fun k => mget k.loc x) hcore).trans ((Core.queueOn_loc _ hx _ _).trans (congrArg (mget · x) hloc))
end

end Sys2Proof.Machine

namespace Sys2Proof.Machine
open Sys2Proof

/-! QPUSH.L (R107, R153, R395). -/

theorem State.launchOf_modLaunch {s : State} {st : Step} {l : Launch} (h : s.launchOf st = some l) (f : Launch → Launch) :
    (s.modLaunch st.die st.launch f).launchOf st = some (f l) := by
  unfold State.launchOf at h ⊢
  rw [State.modLaunch, State.harbour_modHarbour, h]
  exact tget_tset_self _ _ _

/-- A launch with the queue of one stage replaced. -/
def Launch.withQueue (l : Launch) (n : Nat) (q : StageQ) : Launch := { l with queues := l.queues.set n q }

theorem Launch.queue_withQueue_self {l : Launch} {n : Nat} (h : n < l.queues.length) (q : StageQ) : (l.withQueue n q).queue n = q := by
  unfold Launch.queue Launch.withQueue
  simp [List.getD_eq_getElem?_getD, h]

theorem Launch.queue_withQueue_ne (l : Launch) {n m : Nat} (h : m ≠ n) (q : StageQ) : (l.withQueue n q).queue m = l.queue m := by
  unfold Launch.queue Launch.withQueue
  simp [List.getD_eq_getElem?_getD, List.getElem?_set_ne (Ne.symm h)]

theorem State.ageing_offCores (s : State) (d slot st : Nat) : OffCores s (s.ageing d slot st) ∧ (s.ageing d slot st).harbours = s.harbours := by
  unfold State.ageing
  split
  · exact ⟨rfl, rfl⟩
  · dsimp only
    split <;> exact ⟨rfl, rfl⟩

theorem State.putHome_harbours (s : State) (pa : Nat) (bs : List Byte) : (s.putHome pa bs).harbours = s.harbours := by
  unfold State.putHome
  cases h : s.writePhys pa bs with
  | error c => rfl
  | ok t =>
    obtain ⟨-, -, -, hframe⟩ := State.writePhys_ok _ _ _ _ h
    exact (congrArg State.harbours hframe :)

theorem State.launchOf_congr {s t : State} (h : t.harbours = s.harbours) (st : Step) : t.launchOf st = s.launchOf st := by
  rw [State.launchOf, State.launchOf, State.harbour, State.harbour, h]

/-- The state once a pushed entry's bytes lie at their place, where that place translates. -/
def State.placed (s : State) (pa : Option Nat) (bs : List Byte) : State :=
  match pa with
  | some pa => s.putHome pa bs
  | none => s

theorem State.placed_spec (s : State) (pa : Option Nat) (bs : List Byte) : OffCores s (s.placed pa bs) ∧ (s.placed pa bs).harbours = s.harbours := by
  cases pa with
  | none => exact ⟨OffCores.refl s, rfl⟩
  | some pa => exact ⟨OffCores.putHome s pa bs, s.putHome_harbours pa bs⟩

/-- A stage's queue with an entry at its end, and one more step of the entry's LCORE. -/
def StageQ.pushed (q : StageQ) (e : QEntry) (after : Nat) : StageQ :=
  { q with entries := q.entries ++ [e], placed := after, stepno := tset q.stepno e.lcore ((tget q.stepno e.lcore).getD 0 + 1) }

/-- A launch whose stage's queue has taken an entry in. -/
def Launch.pushed (l : Launch) (n : Nat) (q : StageQ) (since : Nat) : Launch := { l.withQueue n q with progress := since }

theorem State.pushEntry_eq {s : State} {st : Step} {l : Launch} (h : s.launchOf st = some l) (n : Nat) (payload : List Byte) (lcore : Nat) :
    ∃ pa bs e after, e.lcore = lcore ∧ s.pushEntry st.die st.launch n payload lcore =
      ((s.placed pa bs).modLaunch st.die st.launch (·.pushed n ((l.queue n).pushed e after) (s.placed pa bs).time.toNat)).ageing st.die st.launch n := by
  unfold State.pushEntry
  rw [show tget (s.harbour st.die).launches st.launch = some l from h]
  exact ⟨_, _, { place := _, lcore := lcore, since := _, aged := false }, _, rfl, rfl⟩

/-- A push changes memory, the launch and what is due alone; the stage's queue gains the pushed entry at its end, STEPNO of its LCORE counts, and no other
queue changes. -/
theorem State.pushEntry_spec {s : State} {st : Step} {l : Launch} (h : s.launchOf st = some l) {n : Nat} (hn : n < l.queues.length)
    (payload : List Byte) (lcore : Nat) :
    let t := s.pushEntry st.die st.launch n payload lcore
    OffCores s t ∧ ∃ l' e, t.launchOf st = some l' ∧ (l'.queue n).entries = (l.queue n).entries ++ [e] ∧ e.lcore = lcore ∧
      tget (l'.queue n).stepno lcore = some ((tget (l.queue n).stepno lcore).getD 0 + 1) ∧ ∀ m, m ≠ n → l'.queue m = l.queue m := by
  obtain ⟨pa, bs, e, after, hlcore, heq⟩ := State.pushEntry_eq h n payload lcore
  obtain ⟨hoff, hkeep⟩ := s.placed_spec pa bs
  generalize s.placed pa bs = u at hoff hkeep heq
  obtain ⟨hage, hlook⟩ := State.ageing_offCores (u.modLaunch st.die st.launch (·.pushed n ((l.queue n).pushed e after) u.time.toNat)) st.die st.launch n
  have hlaunch := State.launchOf_modLaunch ((State.launchOf_congr hkeep st).trans h) (·.pushed n ((l.queue n).pushed e after) u.time.toNat)
  have hself : (l.pushed n ((l.queue n).pushed e after) u.time.toNat).queue n = (l.queue n).pushed e after := Launch.queue_withQueue_self hn _
  rw [heq]
  refine ⟨(hoff.trans (OffCores.modLaunch u _ _ _)).trans hage, _, e, (State.launchOf_congr hlook st).trans hlaunch, ?_⟩
  refine ⟨congrArg StageQ.entries hself, hlcore, ?_, fun m hm => Launch.queue_withQueue_ne l hm _⟩
  rw [hself, ← hlcore]
  exact tget_tset_self _ _ _

end Sys2Proof.Machine

namespace Sys2Proof.Machine
open Sys2Proof

/-! The strand of QPUSH.L. -/

/-- The record of a strand that waits to push (R153, R395). -/
def State.pusher (s : State) (o : LOp) (l : Launch) : Record :=
  { s.leaveRecord o.ls.toNat none [] 0 (s.strand.pc + 4) with
    on := .push (s.x o.rs1).toNat, waitAddr := l.qbase s.myStep.die (s.myStep.stage + 1), next := s.lastPusher l (s.myStep.stage + 1) }

/-- A stage's queue on which a record waits behind the others. -/
def StageQ.awaited (q : StageQ) (c dseq : Nat) : StageQ := { q with waits := q.waits ++ [{ core := c, dseq := dseq }] }

section
variable {s : State} {o : LOp} {l : Launch} (ho : o.hint ≠ 3) (hh : s.heldHere = false) (hs : s.storesOut = false)
  (ha : (s.x o.rs1).toNat % 16 = 0) (hr : LocalReadable s (s.x o.rs1).toNat 48) (hl : s.launchOf s.myStep = some l)
include ho hh hs ha hr hl

theorem qpushL_passes : exec (.qpushL o) s = .next (
    if l.stages.length ≤ s.myStep.stage + 1 then s.trapScalar 0x11 (s.x o.rs1).toNat
    else if s.core.locBad (s.x o.rs1).toNat 48 then s.trapScalar 0x40 (s.x o.rs1).toNat
    else if l.full (s.myStep.stage + 1) then
      match s.leaveWith (s.pusher o l) with
      | .error t => t
      | .ok (t, r) => t.modLaunch s.myStep.die s.myStep.launch
          (fun l => l.withQueue (s.myStep.stage + 1) ((l.queue (s.myStep.stage + 1)).awaited s.here r.dseq))
    else (s.pushEntry s.myStep.die s.myStep.launch (s.myStep.stage + 1) (mbytes s.core.loc (s.x o.rs1).toNat 48) s.myStep.lcore).next) := by
  refine congrArg Host.Outcome.next ((if_neg ho).trans ((State.afterStores_of_none hh hs _).trans ?_))
  have hplace : ¬ ((s.x o.rs1).toNat % 16 ≠ 0 ∨ (!s.core.localOk true (s.x o.rs1).toNat 48) = true) := by
    rw [(Core.localOk_read_iff s _ _).mpr hr]
    simp [ha]
  refine (if_neg hplace).trans ?_
  rw [hl]
  rfl

theorem qpushL_lastStage (h : l.stages.length ≤ s.myStep.stage + 1) : exec (.qpushL o) s = .next (s.trapScalar 0x11 (s.x o.rs1).toNat) := by
  rw [qpushL_passes ho hh hs ha hr hl, if_pos h]

variable (hn : s.myStep.stage + 1 < l.stages.length) (hq : s.myStep.stage + 1 < l.queues.length) (hb : s.core.locBad (s.x o.rs1).toNat 48 = false)
include hn hq hb

theorem qpushL_pushes (hf : l.full (s.myStep.stage + 1) = false) :
    ∃ t l' e, exec (.qpushL o) s = .next t ∧ t.strand = { s.strand with pc := s.strand.pc + 4, waits := none } ∧ t.core = s.core ∧
      t.launchOf s.myStep = some l' ∧ (l'.queue (s.myStep.stage + 1)).entries = (l.queue (s.myStep.stage + 1)).entries ++ [e] ∧
      e.lcore = s.myStep.lcore ∧
      tget (l'.queue (s.myStep.stage + 1)).stepno s.myStep.lcore =
        some ((tget (l.queue (s.myStep.stage + 1)).stepno s.myStep.lcore).getD 0 + 1) ∧
      ∀ m, m ≠ s.myStep.stage + 1 → l'.queue m = l.queue m := by
  obtain ⟨hoff, l', e, hlaunch, hqueue⟩ := State.pushEntry_spec hl hq (mbytes s.core.loc (s.x o.rs1).toNat 48) s.myStep.lcore
  refine ⟨_, l', e, qpushL_passes ho hh hs ha hr hl, ?_⟩
  rw [if_neg (by omega), hb, if_neg (by decide), hf, if_neg (by decide)]
  refine ⟨?_, (congrArg State.core hoff :), hlaunch, hqueue⟩
  exact congrArg (fun st : Strand => { st with pc := st.pc + 4, waits := none }) (congrArg State.strand hoff :)

theorem qpushL_waits (hf : l.full (s.myStep.stage + 1) = true) (hact : s.acting = true) (hslot : tget s.core.slots s.slot = none)
    (hfit : FitsMooring s (s.leaveRecord o.ls.toNat none [] 0 (s.strand.pc + 4))) :
    ∃ t l' r, exec (.qpushL o) s = .next t ∧ Vacated s t ∧
      r ∈ (t.getCore s.here).records ∧ r.dseq = s.core.dseq ∧ r.ready = false ∧ r.on = .push (s.x o.rs1).toNat ∧ r.pc = s.strand.pc + 4 ∧
      t.launchOf s.myStep = some l' ∧ (l'.queue (s.myStep.stage + 1)).waits =
        (l.queue (s.myStep.stage + 1)).waits ++ [{ core := s.here, dseq := s.core.dseq }] := by
  obtain ⟨b, hleave⟩ := State.leaveWith_moors (r := s.pusher o l) hact hfit
  have hrun := qpushL_passes ho hh hs ha hr hl
  rw [if_neg (by omega), hb, if_neg (by decide), if_pos hf, hleave] at hrun
  dsimp only at hrun
  generalize hrec : s.moored (s.pusher o l) b = r at hrun
  obtain ⟨hfree, hrecords, -⟩ := State.leftWith_core hslot r
  have hlaunch := State.launchOf_modLaunch (s := s.leftWith r) ((State.launchOf_congr rfl _).trans hl)
    (fun l => l.withQueue (s.myStep.stage + 1) ((l.queue (s.myStep.stage + 1)).awaited s.here r.dseq))
  have hqueue := congrArg StageQ.waits (Launch.queue_withQueue_self hq ((l.queue (s.myStep.stage + 1)).awaited s.here r.dseq))
  have hlast : r ∈ s.core.records ++ [r] := List.mem_append_right _ (List.mem_singleton_self r)
  refine ⟨_, _, r, hrun, ⟨rfl, hfree⟩, hrecords ▸ hlast, ?_, ?_, ?_, ?_, hlaunch, hqueue.trans ?_⟩ <;> rw [← hrec] <;> rfl
end

/-! ANSWER_ARRIVAL (R379). -/

/-- The strand of a slot that waits for a packet's answer is there. -/
theorem Core.waitingSlot_some {k : Core} {w : AnswerWait} {sl : Nat} (h : k.waitingSlot w = some sl) : ∃ st, tget k.slots sl = some st := by
  obtain ⟨p, hp, rfl⟩ := Option.map_eq_some_iff.mp h
  exact Option.isSome_iff_exists.mp (tget_isSome_of_mem (List.mem_of_find?_eq_some hp))

theorem State.getCore_park_self {s : State} (h : s.acting = true) :
    s.park.getCore s.here = { s.core with slots := tset s.core.slots s.slot s.strand } := by
  have hpark : s.park = { s with acting := false, cores := tset s.cores s.here { s.core with slots := tset s.core.slots s.slot s.strand } } := if_pos h
  rw [hpark, State.getCore, if_neg (by simp), tget_tset_self]
  rfl

theorem State.getCore_park_of_not_here {s : State} {c : Nat} (h : ¬ (s.acting = true ∧ s.here = c)) : s.park.getCore c = s.getCore c := by
  rw [State.getCore, State.getCore, if_neg (by simp [State.park_acting]), if_neg h]
  unfold State.park
  split
  next hact => exact congrArg (Option.getD · _) (tget_tset_ne _ _ _ _ (fun hc => h ⟨hact, hc.symm⟩))
  · rfl

theorem State.getCore_park_ctx (s : State) (c : Nat) : (s.park.getCore c).ctx = (s.getCore c).ctx := by
  by_cases h : s.acting = true ∧ s.here = c
  · obtain ⟨hact, rfl⟩ := h
    rw [State.getCore_park_self hact, State.getCore, if_pos ⟨hact, rfl⟩]
  · rw [State.getCore_park_of_not_here h]

/-- The strand in slot `sl` of core `c` in hand, its answer held under its slot and its wait over. -/
def State.answering (s : State) (c sl : Nat) (st : Strand) (a : Answer) : State :=
  { s with
    acting := true, here := c, slot := sl, strand := { st with wait := .none }
    core := { s.getCore c with slots := tdel (s.getCore c).slots sl, answers := tset (s.getCore c).answers (answerKey sl) a } }

theorem answerArrival_answers {s : State} {sl : Nat} {st : Strand} (hctx : (s.getCore s.inp.core).ctx = some s.inp.slot)
    (hw : (s.park.getCore s.inp.core).waitingSlot (.packet s.inp.queue s.inp.n) = some sl)
    (hst : tget (s.park.getCore s.inp.core).slots sl = some st) (hok : s.inp.ok = true) (hbytes : s.inp.bytes = []) :
    exec .answerArrival s = .next (s.park.answering s.inp.core sl st (.value s.inp.data)).park := by
  refine congrArg Host.Outcome.next ?_
  dsimp only
  rw [State.getCore_park_ctx, if_pos hctx, hw, hok, hbytes]
  unfold State.focus
  rw [State.park_park]
  dsimp only
  rw [hst]
  rfl

theorem answerArrival_held {s : State} {sl : Nat} (hctx : (s.getCore s.inp.core).ctx = some s.inp.slot)
    (hw : (s.park.getCore s.inp.core).waitingSlot (.packet s.inp.queue s.inp.n) = some sl) (hok : s.inp.ok = true) (hbytes : s.inp.bytes = []) :
    ∃ t st, exec .answerArrival s = .next t ∧ t.acting = false ∧ tget (t.getCore s.inp.core).slots sl = some st ∧ st.wait = .none ∧
      tget (t.getCore s.inp.core).answers (answerKey sl) = some (.value s.inp.data) ∧ t.mem = s.mem := by
  obtain ⟨st, hst⟩ := Core.waitingSlot_some hw
  have hcore := State.getCore_park_self (s := s.park.answering s.inp.core sl st (.value s.inp.data)) rfl
  refine ⟨_, { st with wait := .none }, answerArrival_answers hctx hw hst hok hbytes, State.park_acting _, ?_, rfl, ?_, ?_⟩
  · exact (congrArg (fun k => tget k.slots sl) hcore).trans (tget_tset_self _ _ _)
  · exact (congrArg (fun k => tget k.answers (answerKey sl)) hcore).trans (tget_tset_self _ _ _)
  · exact (State.park_mem _).trans s.park_mem

/-- Settles O21, by one lemma for each way a word acts or leaves: a multicast sends one packet or moves on; a receiver and a pusher either act on what their
checks leave (`mrecvL_passes`, `qpushL_passes`) or leave with a record that the core takes in last (`State.leftWith_core`). -/
theorem multicastReceiveAndPush : Obligations.MulticastReceiveAndPush := by
  unfold Obligations.MulticastReceiveAndPush
  refine ⟨⟨?multicast, ?receive⟩, ?push, ?answer⟩
  case multicast =>
    intro s rs1 rs2 len w b n ms hh ho ha hr hb hwf hw hreach
    exact ⟨fun hne haway => msendMc_sends hh ho ha hr hb hw hwf hne haway hreach, fun hnone => msendMc_alone hh ho ha hr hb hw hnone⟩
  case receive =>
    intro s o h a d e m ho hh ha
    refine ⟨mrecvL_invalid ho hh ha, fun hq => ⟨mrecvL_buffer ho hh ha hq, fun hd hr hb hwf => ⟨?_, ?_⟩⟩⟩
    · exact fun hused he hclear => mrecvL_takes ho hh ha hq hd hr hb hwf hused he hclear
    · exact fun hused hact _ hslot hfit => mrecvL_waits ho hh ha hq hd hr hb hused hact hslot hfit
  case push =>
    intro s o l a st n ho hh hs ha hr hl
    refine ⟨qpushL_lastStage ho hh hs ha hr hl, fun hn hq hb => qpushL_pushes ho hh hs ha hr hl hn hq hb, ?_⟩
    exact fun hn hq hb hf hact _ hslot hfit => qpushL_waits ho hh hs ha hr hl hn hq hb hf hact hslot hfit
  case answer => exact fun s sl hctx hw hok hbytes => answerArrival_held hctx hw hok hbytes

end Sys2Proof.Machine
